-- ==== Sys2Proof/Word.lean ====
section
/-! DEFINITION. The word types of the Furrixon and their plainest arithmetic. -/

namespace Sys2Proof

/-- A register value. A register is 32 or 64 bits wide (00_scope R7); a 32-bit register keeps its upper half zero. -/
abbrev Word := BitVec 64

/-- The smallest addressable unit. -/
abbrev Byte := BitVec 8

/-- A core instruction is 128 bits (03_instruction_set R68). -/
abbrev Code := BitVec 128

/-- The device id of R23 is 16 bits. -/
abbrev DevId := Nat

/-- Bits `hi` to `lo` of a number, bit 0 the least significant (00_scope R6). -/
abbrev bitsOf (w hi lo : Nat) : Nat := w / 2 ^ lo % 2 ^ (hi + 1 - lo)

/-- One bit of a number. -/
abbrev bitOf (w i : Nat) : Bool := w / 2 ^ i % 2 = 1

end Sys2Proof
end

