-- ==== Sys2Proof/Syntax.lean ====
section
/-! DEFINITION. The commands: one constructor for each row of spec/opcode_table.json, with its operands. Numbers name the unit,
slot, entry or register that a command is of; `cls` and `sub` name the master of a register write (R423). -/

namespace Sys2Proof

/-- What an event of a running core instruction is: its issue, or that the running instruction in a place goes on. -/
inductive Act where
  | issue
  | cont (slot : Nat)
  deriving DecidableEq, Repr

/-- The sideband bus of a transfer (R476, R477): SMBus or I3C, whether its PEC or parity is good, and the message type that it carries in
place of the command's own, if it does. -/
structure Bus where
  smbus : Bool
  good : Bool
  mty : Option Nat
  deriving DecidableEq, Repr

/-- A SETDASA (R476): whether its parity is good, and the dynamic address that the controller sends with it (log 153). -/
structure Dasa where
  good : Bool
  addr : Nat
  deriving DecidableEq, Repr

/-- How a request reaches the security controller (R448, R450, R451): the SEC mailbox by a master, the DOE mailbox of a port, the
sideband, the test access port. -/
inductive Via where
  | mailbox (cls sub : Nat)
  | doe (port : Nat)
  | sideband (bus : Bus)
  | tap
  deriving DecidableEq, Repr

/-- The commands. -/
inductive Instr where
  | registerWrite (cls : Nat) (sub : Nat) (off : Nat) (bytes : List Byte)
  | start (c : Nat)
  | programStart (c : Nat)
  | blockFetch (c : Nat) (x : Bool) (b : Nat)
  | transferCheck (c : Nat)
  | stallTimeout (c : Nat)
  | deferSwitch (c : Nat) (x : Bool)
  | retireComplete (c : Nat)
  | corRetire (cls : Nat) (sub : Nat) (c : Nat) (g : Nat)
  | corHalt (cls : Nat) (sub : Nat) (c : Nat)
  | corResume (cls : Nat) (sub : Nat) (c : Nat)
  | corAbort (cls : Nat) (sub : Nat) (c : Nat)
  | corClearCounts (cls : Nat) (sub : Nat) (c : Nat)
  | arrClearCounts (cls : Nat) (sub : Nat) (c : Nat)
  | load (c : Nat) (d : Bool) (a : Act)
  | store (c : Nat) (d : Bool) (a : Act)
  | copy (c : Nat) (d : Bool) (a : Act)
  | tload (c : Nat) (d : Bool) (a : Act)
  | gather (c : Nat) (d : Bool) (a : Act)
  | scatterAdd (c : Nat) (d : Bool) (a : Act)
  | waitGe (c : Nat) (d : Bool)
  | add (c : Nat) (d : Bool)
  | sub (c : Nat) (d : Bool)
  | setx (c : Nat) (d : Bool)
  | addx (c : Nat) (d : Bool)
  | fence (c : Nat) (d : Bool)
  | phase (c : Nat) (d : Bool)
  | retire (c : Nat) (d : Bool)
  | defer (c : Nat) (d : Bool)
  | nop (c : Nat) (x : Bool) (d : Bool)
  | endContext (c : Nat) (x : Bool) (d : Bool)
  | jump (c : Nat) (x : Bool) (d : Bool)
  | loop (c : Nat) (x : Bool) (d : Bool)
  | mload (c : Nat) (d : Bool) (a : Act)
  | mswap (c : Nat) (d : Bool) (a : Act)
  | mstream (c : Nat) (d : Bool) (a : Act)
  | epi (c : Nat) (d : Bool)
  | expert (c : Nat) (d : Bool) (a : Act)
  | steal (c : Nat) (sub : Nat)
  | crossCoreSteal (thief : Nat) (c : Nat)
  | vadd (c : Nat) (d : Bool) (a : Act)
  | vsub (c : Nat) (d : Bool) (a : Act)
  | vmul (c : Nat) (d : Bool) (a : Act)
  | vfma (c : Nat) (d : Bool) (a : Act)
  | vaxpy (c : Nat) (d : Bool) (a : Act)
  | vmax (c : Nat) (d : Bool) (a : Act)
  | vmin (c : Nat) (d : Bool) (a : Act)
  | vabs (c : Nat) (d : Bool) (a : Act)
  | vneg (c : Nat) (d : Bool) (a : Act)
  | vmov (c : Nat) (d : Bool) (a : Act)
  | vexp (c : Nat) (d : Bool) (a : Act)
  | vrcp (c : Nat) (d : Bool) (a : Act)
  | vrsqrt (c : Nat) (d : Bool) (a : Act)
  | vcmp (c : Nat) (d : Bool) (a : Act)
  | vand (c : Nat) (d : Bool) (a : Act)
  | vor (c : Nat) (d : Bool) (a : Act)
  | vxor (c : Nat) (d : Bool) (a : Act)
  | viadd (c : Nat) (d : Bool) (a : Act)
  | cvt (c : Nat) (d : Bool) (a : Act)
  | compress24 (c : Nat) (d : Bool) (a : Act)
  | update (c : Nat) (d : Bool) (a : Act)
  | reduce (c : Nat) (d : Bool) (a : Act)
  | sqTailDoorbell (port : Nat) (n : Nat) (bytes : List Byte)
  | cqHeadDoorbell (port : Nat) (n : Nat) (bytes : List Byte)
  | descriptorFetch (n : Nat) (host : List Byte)
  | queueEnable (cls : Nat) (sub : Nat) (n : Nat) (v : Nat)
  | queueDisable (cls : Nat) (sub : Nat) (n : Nat) (v : Nat)
  | queueThaw (cls : Nat) (sub : Nat) (n : Nat)
  | functionLevelReset (port : Nat)
  | perst (port : Nat) (low : Bool) (width : Nat) (rate : Nat)
  | privilegeOffer (cls : Nat) (sub : Nat) (on : Bool)
  | privilegeAccept (cls : Nat) (sub : Nat)
  | hostBar4Read (port : Nat) (a : Nat) (n : Nat)
  | hostBar4Write (port : Nat) (a : Nat) (bytes : List Byte)
  | wydakGather (d : Nat)
  | tallyAdd (c : Nat)
  | sample (d : Nat)
  | sampleStart (d : Nat)
  | sampleComplete (d : Nat)
  | topoSwitch (d : Nat)
  | prefetch (d : Nat) (n : Nat)
  | rowCheck (d : Nat) (id : Nat)
  | remoteSampleTimeout (d : Nat) (serial : Nat)
  | drvHalt (cls : Nat) (sub : Nat) (d : Nat)
  | drvResume (cls : Nat) (sub : Nat) (d : Nat)
  | drvAbort (cls : Nat) (sub : Nat) (d : Nat)
  | drvClearCounts (cls : Nat) (sub : Nat) (d : Nat)
  | allReduce (n : Nat)
  | reduceScatter (n : Nat)
  | allGather (n : Nat)
  | allToAll (n : Nat)
  | broadcast (n : Nat)
  | permute (n : Nat)
  | roll (n : Nat)
  | collectiveComplete (n : Nat) (i : Nat)
  | collectiveTimeout (n : Nat) (i : Nat)
  | rollTimeout
  | colHalt (cls : Nat) (sub : Nat) (n : Nat)
  | colResume (cls : Nat) (sub : Nat) (n : Nat)
  | colAbort (cls : Nat) (sub : Nat) (n : Nat)
  | colClearCounts (cls : Nat) (sub : Nat)
  | migrate (n : Nat)
  | reclass (n : Nat)
  | migrationCopyDone (n : Nat) (id : Nat)
  | migrationCommit (n : Nat)
  | copyTimeout (n : Nat) (id : Nat)
  | trhHalt (cls : Nat) (sub : Nat) (n : Nat)
  | trhResume (cls : Nat) (sub : Nat) (n : Nat)
  | trhAbort (cls : Nat) (sub : Nat) (n : Nat)
  | trhClearCounts (cls : Nat) (sub : Nat) (n : Nat)
  | alloc (c : Nat)
  | free (c : Nat)
  | echo (c : Nat)
  | remoteRead (c : Nat) (link : Nat)
  | remoteWrite (c : Nat) (link : Nat)
  | remoteAccessTimeout (i : Nat)
  | delay (c : Nat)
  | delayExpiry (i : Nat)
  | pastureFree (c : Nat)
  | readReq (n : Nat) (i : Nat)
  | writeReq (n : Nat) (i : Nat)
  | tallyAddPacket (n : Nat) (i : Nat)
  | rowReq (n : Nat) (i : Nat)
  | reduceReq (n : Nat) (i : Nat)
  | sampleReq (n : Nat) (i : Nat)
  | gradRecord (n : Nat) (i : Nat)
  | versionRead (n : Nat) (i : Nat)
  | collData (n : Nat) (i : Nat)
  | rollCall (n : Nat) (i : Nat)
  | rollRelease (n : Nat) (i : Nat)
  | notice (n : Nat) (i : Nat)
  | mgmtRead (c : Nat) (n : Nat) (i : Nat)
  | mgmtWrite (c : Nat) (n : Nat) (i : Nat)
  | loadReport (n : Nat) (i : Nat)
  | neighbour (n : Nat) (i : Nat)
  | readResponse (n : Nat) (i : Nat)
  | writeResponse (n : Nat) (i : Nat)
  | tallyAddResponse (n : Nat) (i : Nat)
  | rowResponse (n : Nat) (i : Nat)
  | reduceResponse (n : Nat) (i : Nat)
  | sampleResponse (n : Nat) (i : Nat)
  | gradRecordResponse (n : Nat) (i : Nat)
  | versionReadResponse (n : Nat) (i : Nat)
  | mgmtReadResponse (n : Nat) (i : Nat)
  | mgmtWriteResponse (n : Nat) (i : Nat)
  | replayInject
  | dataBlock (n : Nat) (data : List Byte) (ctl : Nat) (good : Nat) (bad : Nat)
  | nakBlock (n : Nat) (data : List Byte) (ctl : Nat) (good : Nat) (bad : Nat)
  | idleBlock (n : Nat) (data : List Byte) (ctl : Nat) (good : Nat) (bad : Nat)
  | initBlock (n : Nat) (data : List Byte) (ctl : Nat) (good : Nat) (bad : Nat)
  | retryDeadline (n : Nat)
  | linkTrainingDone (n : Nat) (snr0 : Nat) (snr1 : Nat) (prec0 : Nat) (prec1 : Nat)
  | trainingTimeout (n : Nat)
  | alignmentDone (n : Nat)
  | lossOfLock (n : Nat)
  | retrainTimer (n : Nat)
  | lnkRetrain (cls : Nat) (sub : Nat) (n : Nat)
  | lnkClearCounts (cls : Nat) (sub : Nat) (n : Nat)
  | strStage (cls : Nat) (sub : Nat) (a : Nat)
  | stagingDone
  | strCommit (cls : Nat) (sub : Nat) (epoch : Nat)
  | switchTick
  | unitSwitch (c : Nat)
  | strTimeoutExpiry
  | stackTrainingDone (p : Nat) (ok : Bool)
  | refresh (p : Nat)
  | scrub (p : Nat)
  | scrubNow (cls : Nat) (sub : Nat) (p : Nat)
  | memClearCounts (cls : Nat) (sub : Nat) (p : Nat)
  | memMark (cls : Nat) (sub : Nat) (p : Nat) (i : Nat) (v : Nat)
  | sramPatrol (kind : Nat) (inst : Nat) (off : Nat) (double : Bool)
  | sramClearCounts (cls : Nat) (sub : Nat)
  | nsrClearPop (cls : Nat) (sub : Nat) (p : Nat)
  | application (p : Nat)
  | embClearCounts (cls : Nat) (sub : Nat)
  | schPost (c : Nat) (w : Nat)
  | timetableExpiry (f : Nat)
  | dispatch (f : Nat)
  | preempt (f : Nat)
  | schTake (c : Nat)
  | schDone (c : Nat)
  | schYield (c : Nat)
  | schCancel (c : Nat) (w : Nat)
  | schClearCounts (cls : Nat) (sub : Nat) (f : Nat)
  | schFwLoad (cls : Nat) (sub : Nat) (len : Nat)
  | fwVerifyDone
  | kernelReady (c : Nat)
  | schReset (cls : Nat) (sub : Nat)
  | sysRstN (low : Bool)
  | getReport (via : Via) (nonce : List Byte)
  | getCert (via : Via) (idx : Nat)
  | getMeas (via : Via)
  | svnCommit (cls : Nat) (sub : Nat)
  | jtagChallenge (via : Via)
  | jtagResponse (via : Via) (key : List Byte) (sig : List Byte)
  | challengeExpiry
  | securityFault (check : Nat)
  | powerOn
  | railsGood
  | railFault
  | regulatorFault (kind : Nat) (inst : Nat) (fault : Nat)
  | pllLossOfLock (kind : Nat) (inst : Nat)
  | standbyEnter (cls : Nat) (sub : Nat)
  | standbyExit
  | holidayEntry (kind : Nat) (n : Nat)
  | frequencyStep (c : Nat)
  | powerSample (mw : Nat)
  | thermalSample (temps : List Nat)
  | throttleStep (die : Nat)
  | thermalTrip (die : Nat) (sensor : Nat) (temp : Nat)
  | powerFail (rails : Nat)
  | logFlush (cls : Nat) (sub : Nat)
  | flushDone (failed : Bool) (skip : List Nat)
  | logClearCounts (cls : Nat) (sub : Nat)
  | logFreeze (cls : Nat) (sub : Nat) (on : Bool)
  | logCursor (cls : Nat) (sub : Nat) (v : Nat)
  | hmnWinWrite (cls : Nat) (sub : Nat) (c : Nat) (i : Nat)
  | hmnThaw (cls : Nat) (sub : Nat) (c : Nat) (n : Nat) (all : Bool)
  | hmnClearCounts (cls : Nat) (sub : Nat)
  | recAbort (cls : Nat) (sub : Nat)
  | recClearCounts (cls : Nat) (sub : Nat)
  | forceOwner (bus : Bus) (port : Nat)
  | thaw (bus : Bus) (cls : Nat) (sub : Nat) (all : Bool)
  | readReg (bus : Bus) (off : Nat)
  | setEndpointId (bus : Bus) (eid : Nat)
  | getEndpointId (bus : Bus)
  | getMctpVersionSupport (bus : Bus) (ty : Nat)
  | getMessageTypeSupport (bus : Bus)
  | getVendorDefinedMsgSupport (bus : Bus) (sel : Nat)
  | getTid (bus : Bus)
  | getPldmVersion (bus : Bus) (ty : Nat)
  | getPldmTypes (bus : Bus)
  | getPldmCommands (bus : Bus) (ty : Nat)
  | getPdrRepositoryInfo (bus : Bus)
  | getPdr (bus : Bus) (n : Nat)
  | getSensorReading (bus : Bus) (n : Nat)
  | getStateSensorReadings (bus : Bus) (n : Nat)
  | setEventReceiver (bus : Bus) (r : Option Nat)
  | setDasa (dasa : Dasa)
  | entDaa (good : Bool) (a : Nat)
  | smbusAlertResponse (good : Bool)
  | extest
  | samplePreload
  | clamp
  | highz
  | extestPulse
  | extestTrain
  | secAccess
  | bypass
  | idcode
  | holidayWake (kind : Nat) (n : Nat)
  | pcieCompletionTimeout (n : Nat) (code : Nat)
  | doeDiscovery (port : Nat) (idx : Nat)
  | tapReset
  | fuseStepBlown
  deriving DecidableEq, Repr

end Sys2Proof
end

