-- ==== Sys2Proof/WellFormed.lean ====
section
/-! DEFINITION. Which commands are well formed: every number that names a unit, a register offset or a field lies in the range that
the manual gives it. -/

namespace Sys2Proof

/-- Compute cores 0 to 31 (R1). -/
def isCore (n : Nat) : Bool := decide (n < 32)
/-- Drovers and Folds 0 to 3. -/
def isDrover (n : Nat) : Bool := decide (n < 4)
def isFold (n : Nat) : Bool := decide (n < 4)
/-- Host ports, collective engines and Transhumance engines 0 and 1. -/
def isPair (n : Nat) : Bool := decide (n < 2)
/-- Ilbegal links 0 to 95. -/
def isLink (n : Nat) : Bool := decide (n < 96)
/-- Stacks and control cores 0 to 7. -/
def isStack (n : Nat) : Bool := decide (n < 8)
/-- Queue pairs 0 to 16,383. -/
def isQp (n : Nat) : Bool := decide (n < 16384)
/-- Sub-arrays 0 to 3 (R106). -/
def isSub2 (n : Nat) : Bool := decide (n < 4)
/-- Master classes 0 to 138 (R423). -/
def isClass (n : Nat) : Bool := decide (n ≤ 138)
/-- Sub-masters of 14 bits (R423). -/
def isSub (n : Nat) : Bool := decide (n < 2 ^ 14)
/-- Offsets of the register space of 64 MiB (R5). -/
def isOffset (n : Nat) : Bool := decide (n < 0x4000000)
/-- A field of a width. -/
def fitsIn (bits n : Nat) : Bool := decide (n < 2 ^ bits)
/-- Transports of a security request. -/
def isVia : Via → Bool
  | .mailbox cls sub => isClass cls && isSub sub
  | .doe port => isPair port
  | .sideband _ => true
  | .tap => true

/-- Whether a command is well formed. -/
def wellFormed : Instr → Bool
  | .registerWrite cls sub off _ => isClass cls && isSub sub && (isOffset off || decide (cls < 2 ∧ off < 0x4040000))
  | .start c => isCore c
  | .programStart c => isCore c
  | .blockFetch c _ _ => isCore c
  | .transferCheck c => isCore c
  | .stallTimeout c => isCore c
  | .deferSwitch c _ => isCore c
  | .retireComplete c => isCore c
  | .corRetire cls sub c g => isClass cls && isSub sub && isCore c && fitsIn 16 g
  | .corHalt cls sub c => isClass cls && isSub sub && isCore c
  | .corResume cls sub c => isClass cls && isSub sub && isCore c
  | .corAbort cls sub c => isClass cls && isSub sub && isCore c
  | .corClearCounts cls sub c => isClass cls && isSub sub && isCore c
  | .arrClearCounts cls sub c => isClass cls && isSub sub && isCore c
  | .load c _ _ => isCore c
  | .store c _ _ => isCore c
  | .copy c _ _ => isCore c
  | .tload c _ _ => isCore c
  | .gather c _ _ => isCore c
  | .scatterAdd c _ _ => isCore c
  | .waitGe c _ => isCore c
  | .add c _ => isCore c
  | .sub c _ => isCore c
  | .setx c _ => isCore c
  | .addx c _ => isCore c
  | .fence c _ => isCore c
  | .phase c _ => isCore c
  | .retire c _ => isCore c
  | .defer c _ => isCore c
  | .nop c _ _ => isCore c
  | .endContext c _ _ => isCore c
  | .jump c _ _ => isCore c
  | .loop c _ _ => isCore c
  | .mload c _ _ => isCore c
  | .mswap c _ _ => isCore c
  | .mstream c _ _ => isCore c
  | .epi c _ => isCore c
  | .expert c _ _ => isCore c
  | .steal c sub => isCore c && isSub2 sub
  | .crossCoreSteal thief c => isCore thief && isCore c
  | .vadd c _ _ => isCore c
  | .vsub c _ _ => isCore c
  | .vmul c _ _ => isCore c
  | .vfma c _ _ => isCore c
  | .vaxpy c _ _ => isCore c
  | .vmax c _ _ => isCore c
  | .vmin c _ _ => isCore c
  | .vabs c _ _ => isCore c
  | .vneg c _ _ => isCore c
  | .vmov c _ _ => isCore c
  | .vexp c _ _ => isCore c
  | .vrcp c _ _ => isCore c
  | .vrsqrt c _ _ => isCore c
  | .vcmp c _ _ => isCore c
  | .vand c _ _ => isCore c
  | .vor c _ _ => isCore c
  | .vxor c _ _ => isCore c
  | .viadd c _ _ => isCore c
  | .cvt c _ _ => isCore c
  | .compress24 c _ _ => isCore c
  | .update c _ _ => isCore c
  | .reduce c _ _ => isCore c
  | .sqTailDoorbell port n _ => isPair port && isQp n
  | .cqHeadDoorbell port n _ => isPair port && isQp n
  | .descriptorFetch n _ => isQp n
  | .queueEnable cls sub n v => isClass cls && isSub sub && isQp n && fitsIn 32 v
  | .queueDisable cls sub n v => isClass cls && isSub sub && isQp n && fitsIn 32 v
  | .queueThaw cls sub n => isClass cls && isSub sub && isQp n
  | .functionLevelReset port => isPair port
  | .perst port _ width rate => isPair port && fitsIn 8 width && fitsIn 8 rate
  | .privilegeOffer cls sub _ => isClass cls && isSub sub
  | .privilegeAccept cls sub => isClass cls && isSub sub
  | .hostBar4Read port a _ => isPair port && fitsIn 39 a
  | .hostBar4Write port a _ => decide (port < 4) && fitsIn 39 a
  | .wydakGather d => isDrover d
  | .tallyAdd c => isCore c
  | .sample d => isDrover d
  | .sampleStart d => isDrover d
  | .sampleComplete d => isDrover d
  | .topoSwitch d => isDrover d
  | .prefetch d _ => isDrover d
  | .rowCheck d _ => isDrover d
  | .remoteSampleTimeout d _ => isDrover d
  | .drvHalt cls sub d => isClass cls && isSub sub && isDrover d
  | .drvResume cls sub d => isClass cls && isSub sub && isDrover d
  | .drvAbort cls sub d => isClass cls && isSub sub && isDrover d
  | .drvClearCounts cls sub d => isClass cls && isSub sub && isDrover d
  | .allReduce n => isPair n
  | .reduceScatter n => isPair n
  | .allGather n => isPair n
  | .allToAll n => isPair n
  | .broadcast n => isPair n
  | .permute n => isPair n
  | .roll n => isPair n
  | .collectiveComplete n _ => isPair n
  | .collectiveTimeout n _ => isPair n
  | .rollTimeout => true
  | .colHalt cls sub n => isClass cls && isSub sub && isPair n
  | .colResume cls sub n => isClass cls && isSub sub && isPair n
  | .colAbort cls sub n => isClass cls && isSub sub && isPair n
  | .colClearCounts cls sub => isClass cls && isSub sub
  | .migrate n => isPair n
  | .reclass n => isPair n
  | .migrationCopyDone n _ => isPair n
  | .migrationCommit n => isPair n
  | .copyTimeout n _ => isPair n
  | .trhHalt cls sub n => isClass cls && isSub sub && isPair n
  | .trhResume cls sub n => isClass cls && isSub sub && isPair n
  | .trhAbort cls sub n => isClass cls && isSub sub && isPair n
  | .trhClearCounts cls sub n => isClass cls && isSub sub && isPair n
  | .alloc c => isStack c
  | .free c => isStack c
  | .echo c => isStack c
  | .remoteRead c link => isStack c && isLink link
  | .remoteWrite c link => isStack c && isLink link
  | .remoteAccessTimeout _ => true
  | .delay c => isStack c
  | .delayExpiry _ => true
  | .pastureFree c => isStack c
  | .readReq n _ => isLink n
  | .writeReq n _ => isLink n
  | .tallyAddPacket n _ => isLink n
  | .rowReq n _ => isLink n
  | .reduceReq n _ => isLink n
  | .sampleReq n _ => isLink n
  | .gradRecord n _ => isLink n
  | .versionRead n _ => isLink n
  | .collData n _ => isLink n
  | .rollCall n _ => isLink n
  | .rollRelease n _ => isLink n
  | .notice n _ => isLink n
  | .mgmtRead c n _ => isStack c && isLink n
  | .mgmtWrite c n _ => isStack c && isLink n
  | .loadReport n _ => isLink n
  | .neighbour n _ => isLink n
  | .readResponse n _ => isLink n
  | .writeResponse n _ => isLink n
  | .tallyAddResponse n _ => isLink n
  | .rowResponse n _ => isLink n
  | .reduceResponse n _ => isLink n
  | .sampleResponse n _ => isLink n
  | .gradRecordResponse n _ => isLink n
  | .versionReadResponse n _ => isLink n
  | .mgmtReadResponse n _ => isLink n
  | .mgmtWriteResponse n _ => isLink n
  | .replayInject => true
  | .dataBlock n _ ctl _ _ => isLink n && fitsIn 64 ctl
  | .nakBlock n _ ctl _ _ => isLink n && fitsIn 64 ctl
  | .idleBlock n _ ctl _ _ => isLink n && fitsIn 64 ctl
  | .initBlock n _ ctl _ _ => isLink n && fitsIn 64 ctl
  | .retryDeadline n => isLink n
  | .linkTrainingDone n snr0 snr1 prec0 prec1 => isLink n && fitsIn 16 snr0 && fitsIn 16 snr1 && fitsIn 16 prec0 && fitsIn 16 prec1
  | .trainingTimeout n => isLink n
  | .alignmentDone n => isLink n
  | .lossOfLock n => isLink n
  | .retrainTimer n => isLink n
  | .lnkRetrain cls sub n => isClass cls && isSub sub && isLink n
  | .lnkClearCounts cls sub n => isClass cls && isSub sub && isLink n
  | .strStage cls sub a => isClass cls && isSub sub && fitsIn 64 a
  | .stagingDone => true
  | .strCommit cls sub epoch => isClass cls && isSub sub && fitsIn 32 epoch
  | .switchTick => true
  | .unitSwitch c => isCore c
  | .strTimeoutExpiry => true
  | .stackTrainingDone p _ => isStack p
  | .refresh p => isStack p
  | .scrub p => isStack p
  | .scrubNow cls sub p => isClass cls && isSub sub && isStack p
  | .memClearCounts cls sub p => isClass cls && isSub sub && isStack p
  | .memMark cls sub p i v => isClass cls && isSub sub && isStack p && fitsIn 8 i && fitsIn 32 v
  | .sramPatrol _ _ _ _ => true
  | .sramClearCounts cls sub => isClass cls && isSub sub
  | .nsrClearPop cls sub p => isClass cls && isSub sub && isStack p
  | .application p => isStack p
  | .embClearCounts cls sub => isClass cls && isSub sub
  | .schPost c w => isStack c && fitsIn 64 w
  | .timetableExpiry f => isFold f
  | .dispatch f => isFold f
  | .preempt f => isFold f
  | .schTake c => isStack c
  | .schDone c => isStack c
  | .schYield c => isStack c
  | .schCancel c w => isStack c && fitsIn 32 w
  | .schClearCounts cls sub f => isClass cls && isSub sub && isFold f
  | .schFwLoad cls sub len => isClass cls && isSub sub && fitsIn 32 len
  | .fwVerifyDone => true
  | .kernelReady c => isStack c
  | .schReset cls sub => isClass cls && isSub sub
  | .sysRstN _ => true
  | .getReport via _ => isVia via
  | .getCert via idx => isVia via && fitsIn 16 idx
  | .getMeas via => isVia via
  | .svnCommit cls sub => isClass cls && isSub sub
  | .jtagChallenge via => isVia via
  | .jtagResponse via _ _ => isVia via
  | .challengeExpiry => true
  | .securityFault check => fitsIn 32 check
  | .powerOn => true
  | .railsGood => true
  | .railFault => true
  | .regulatorFault _ _ _ => true
  | .pllLossOfLock _ _ => true
  | .standbyEnter cls sub => isClass cls && isSub sub
  | .standbyExit => true
  | .holidayEntry _ _ => true
  | .frequencyStep c => isCore c
  | .powerSample mw => fitsIn 32 mw
  | .thermalSample _ => true
  | .throttleStep _ => true
  | .thermalTrip _ _ _ => true
  | .powerFail rails => fitsIn 32 rails
  | .logFlush cls sub => isClass cls && isSub sub
  | .flushDone _ _ => true
  | .logClearCounts cls sub => isClass cls && isSub sub
  | .logFreeze cls sub _ => isClass cls && isSub sub
  | .logCursor cls sub v => isClass cls && isSub sub && fitsIn 64 v
  | .hmnWinWrite cls sub c i => isClass cls && isSub sub && fitsIn 8 c && fitsIn 8 i
  | .hmnThaw cls sub c n _ => isClass cls && isSub sub && fitsIn 8 c && isSub n
  | .hmnClearCounts cls sub => isClass cls && isSub sub
  | .recAbort cls sub => isClass cls && isSub sub
  | .recClearCounts cls sub => isClass cls && isSub sub
  | .forceOwner _ port => fitsIn 8 port
  | .thaw _ cls sub _ => isClass cls && isSub sub
  | .readReg _ off => fitsIn 32 off
  | .setEndpointId _ eid => fitsIn 8 eid
  | .getEndpointId _ => true
  | .getMctpVersionSupport _ ty => fitsIn 8 ty
  | .getMessageTypeSupport _ => true
  | .getVendorDefinedMsgSupport _ sel => fitsIn 8 sel
  | .getTid _ => true
  | .getPldmVersion _ ty => fitsIn 8 ty
  | .getPldmTypes _ => true
  | .getPldmCommands _ ty => fitsIn 8 ty
  | .getPdrRepositoryInfo _ => true
  | .getPdr _ n => fitsIn 32 n
  | .getSensorReading _ n => fitsIn 16 n
  | .getStateSensorReadings _ n => fitsIn 16 n
  | .setEventReceiver _ _ => true
  | .setDasa _ => true
  | .entDaa _ a => fitsIn 8 a
  | .smbusAlertResponse _ => true
  | .extest => true
  | .samplePreload => true
  | .clamp => true
  | .highz => true
  | .extestPulse => true
  | .extestTrain => true
  | .secAccess => true
  | .bypass => true
  | .idcode => true
  | .holidayWake _ _ => true
  | .pcieCompletionTimeout n code => isQp n && fitsIn 8 code
  | .doeDiscovery port idx => isPair port && fitsIn 8 idx
  | .tapReset => true
  | .fuseStepBlown => true

end Sys2Proof
end

