-- ==== Sys2Proof/Decode.lean ====
section
/-! DEFINITION. The commands that a word spells by the bits of spec/opcode_table.json. No row of the table gives bits: a command
reaches the device as a register write, a descriptor, a packet, a block or an event, and no word spells one. -/

namespace Sys2Proof

/-- The command that `nbits` bits of a word spell by the table's bits: none, because no row gives bits. -/
def decodeTableWord (_nbits _w : Nat) : Option Instr := none

end Sys2Proof
end

