-- ==== Sys2Proof/Machine/Bits.lean ====
section
/-! DEFINITION. Bit fields, byte order and small list helpers. Multi-byte fields are little-endian (00_scope R6). -/

namespace Sys2Proof.Machine

/-- A bit field `hi:lo` of a register (00_scope R7). -/
structure Fld where
  hi : Nat
  lo : Nat
  deriving DecidableEq, Repr

/-- The width of a field. -/
def Fld.width (f : Fld) : Nat := f.hi + 1 - f.lo

/-- The value of a field. -/
def fget (f : Fld) (w : Word) : Nat := bitsOf w.toNat f.hi f.lo

/-- A word with one field replaced; the value is taken modulo the field's width. -/
def fset (f : Fld) (v : Nat) (w : Word) : Word :=
  let m : Nat := 2 ^ f.width - 1
  (w &&& ~~~ (BitVec.ofNat 64 (m * 2 ^ f.lo))) ||| BitVec.ofNat 64 ((v % 2 ^ f.width) * 2 ^ f.lo)

/-- A one-bit field as a truth value. -/
def fbit (f : Fld) (w : Word) : Bool := fget f w % 2 = 1

/-- The bytes of a number, little-endian. -/
def leBytes : Nat → Nat → List Byte
  | 0, _ => []
  | n + 1, v => BitVec.ofNat 8 v :: leBytes n (v / 256)

/-- The number that bytes spell, little-endian. -/
def leNat : List Byte → Nat
  | [] => 0
  | b :: t => b.toNat + 256 * leNat t

/-- Bytes `off` to `off + n − 1` of a list as a number; absent bytes are zero. -/
def fieldAt (bs : List Byte) (off n : Nat) : Nat := leNat ((bs.drop off).take n)

/-- A list brought to length `n`, filled with `d`. -/
def padTo {α : Type} (n : Nat) (d : α) (l : List α) : List α := l.take n ++ List.replicate (n - l.length) d

/-- Pieces of `n` elements; the last may be shorter. Structural on the fuel. -/
def chunks {α : Type} (n : Nat) : Nat → List α → List (List α)
  | 0, _ => []
  | fuel + 1, l => match l with
    | [] => []
    | _ => l.take n :: chunks n fuel (l.drop n)

/-- All pieces of `n` elements of a list. -/
def chunksOf {α : Type} (n : Nat) (l : List α) : List (List α) := chunks n l.length l

/-- Element `i` replaced. -/
def listSet {α : Type} : List α → Nat → α → List α
  | [], _, _ => []
  | _ :: t, 0, v => v :: t
  | a :: t, i + 1, v => a :: listSet t i v

/-- Element `i` of a list brought to reach it. -/
def listPut {α : Type} (d : α) (l : List α) (i : Nat) (v : α) : List α :=
  listSet (padTo (max l.length (i + 1)) d l) i v

/-- The numbers `a` to `a + n − 1`. -/
def rangeFrom : Nat → Nat → List Nat
  | _, 0 => []
  | a, n + 1 => a :: rangeFrom (a + 1) n

/-- Signed difference `a − b` of two modular counters of `w` bits (00_scope, counters). -/
def modDiff (w a b : Nat) : Int :=
  let d := (a + 2 ^ w - b % 2 ^ w) % 2 ^ w
  if d < 2 ^ (w - 1) then (d : Int) else (d : Int) - (2 ^ w : Nat)

/-- A two's complement field of `w` bits as an integer. -/
def signedOf (w v : Nat) : Int := if v % 2 ^ w < 2 ^ (w - 1) then ((v % 2 ^ w : Nat) : Int) else ((v % 2 ^ w : Nat) : Int) - (2 ^ w : Nat)

/-- An integer modulo `2^w`. -/
def wrapInt (w : Nat) (i : Int) : Nat := (i % ((2 ^ w : Nat) : Int)).toNat

/-- Floor of the binary logarithm; 0 at 0. -/
def log2 (n : Nat) : Nat := Nat.log2 n

/-- A 0/1 number of a truth value. -/
def b2n (b : Bool) : Nat := if b then 1 else 0

/-- The lowest index at which a test holds. -/
def firstIdx {α : Type} (p : α → Bool) : List α → Option Nat
  | [] => none
  | a :: t => if p a then some 0 else (firstIdx p t).map (· + 1)

/-- The text's length is no part of any value here: an ASCII string as bytes. -/
def asciiBytes (s : String) : List Byte := s.toList.map (fun c => BitVec.ofNat 8 c.toNat)

end Sys2Proof.Machine
end

