-- ==== Sys2Proof/Machine/BurstCode.lean ====
section
/-! DEFINITION. The burst code of pasture atoms (10_memory_system R283, R284): a Reed-Solomon code over GF(2^8) whose message is four
address symbols and the 64 data symbols of an atom, with eight check symbols on the check pins. -/

namespace Sys2Proof.Machine

/-- Multiplication by α in the field of the primitive polynomial x^8 + x^4 + x^3 + x^2 + 1. -/
def gfTwice (a : Nat) : Nat := if a < 128 then 2 * a else Nat.xor (2 * a) 0x11D

/-- Multiplication in GF(2^8), by the bits of the second factor; structural on the number of bits. -/
def gfMulGo : Nat → Nat → Nat → Nat → Nat
  | 0, _, _, acc => acc
  | n + 1, a, b, acc => gfMulGo n (gfTwice a) (b / 2) (if b % 2 = 1 then Nat.xor acc a else acc)

/-- Multiplication in GF(2^8). -/
def gfMul (a b : Nat) : Nat := gfMulGo 8 a b 0

/-- Sum of two polynomials of one length. -/
def gfAdd (p q : List Nat) : List Nat := List.zipWith Nat.xor p q

/-- The generator polynomial (x − α^0)…(x − α^7), from the highest coefficient; structural on the number of factors. -/
def rsGenerator : Nat → Nat → List Nat → List Nat
  | 0, _, p => p
  | n + 1, r, p => rsGenerator n (gfTwice r) (gfAdd (p ++ [0]) (0 :: p.map (gfMul r)))

/-- The coefficients of the generator below its leading one. -/
def rsTail : List Nat := (rsGenerator 8 1 [1]).drop 1

/-- Division of the message by the generator, symbol by symbol: the remainder is the check symbols. -/
def rsRemainder : List Nat → List Nat → List Nat
  | [], r => r
  | m :: t, r => rsRemainder t (gfAdd (r.drop 1 ++ [0]) (rsTail.map (gfMul (Nat.xor m (r.headD 0)))))

/-- The four address symbols: bytes 3 to 0 of the offset's bits 35:6, zero-extended to 32 bits. -/
def addressSymbols (atom : Nat) : List Nat := ((leBytes 4 (atom % 2 ^ 30)).map (·.toNat)).reverse

/-- The eight check symbols of an atom. -/
def checkSymbols (atom : Nat) (data : List Byte) : List Nat :=
  rsRemainder (addressSymbols atom ++ data.map (·.toNat)) (List.replicate 8 0)

/-- The pin that carries a symbol (R284): data pins 0 to 31, check pins 32 to 35. -/
def pinOf (sym : Nat) : Nat := if sym < 64 then sym % 32 else 32 + sym % 4

/-- The value that a pattern of symbol errors adds to a symbol: one byte for each of the 72 symbols of a burst. -/
def symError (errs i : Nat) : Nat := bitsOf errs (8 * i + 7) (8 * i)

/-- The symbols that a pattern puts in error. -/
def symsOf (errs : Nat) : List Nat := (rangeFrom 0 72).filter (fun i => decide (symError errs i ≠ 0))

/-- The 72 symbols that the stack holds for an atom whose data and symbol errors are given: data symbols, then check symbols. -/
def burstOf (atom : Nat) (data : List Byte) (errs : Nat) : List Nat :=
  gfAdd (data.map (·.toNat) ++ checkSymbols atom data) ((rangeFrom 0 72).map (symError errs))

end Sys2Proof.Machine
end

