-- ==== Sys2Proof/Machine/Check.lean ====
section
/-! DEFINITION. Check values (R42, R303, R404, R420) and the random draws of Philox4x32-10 (R167). -/

namespace Sys2Proof.Machine

/-- One bit step of a reflected CRC with polynomial `poly` (already reflected). -/
def crcBit (poly : Nat) (c : Nat) : Nat := if c % 2 = 1 then Nat.xor (c / 2) poly else c / 2

/-- One byte step of a reflected CRC. -/
def crcByte (poly : Nat) (c : Nat) (b : Byte) : Nat :=
  let x := Nat.xor c b.toNat
  crcBit poly (crcBit poly (crcBit poly (crcBit poly (crcBit poly (crcBit poly (crcBit poly (crcBit poly x)))))))

/-- The bytes of a message through a reflected CRC, each step evaluated before the next. -/
def crcFold (poly : Nat) : List Byte → Nat → Nat
  | [], c => c
  | b :: t, c => match crcByte poly c b with
    | 0 => crcFold poly t 0
    | n + 1 => crcFold poly t (n + 1)

/-- CRC-32C: polynomial 0x1EDC_6F41 reflected, initial value and final XOR 0xFFFF_FFFF (R42). -/
def crc32c (bs : List Byte) : Nat := Nat.xor (crcFold 0x82F63B78 bs 0xFFFFFFFF) 0xFFFFFFFF

/-- CRC-64 of ECMA-182, reflected, initial value and final XOR all ones (R420). -/
def crc64 (bs : List Byte) : Nat :=
  Nat.xor (crcFold 0xC96C5795D7870F42 bs 0xFFFFFFFFFFFFFFFF) 0xFFFFFFFFFFFFFFFF

/-- One bit step of CRC-16 with polynomial 0x8BB7, most significant bit first. -/
def crc16Bit (c : Nat) : Nat := if c / 0x8000 % 2 = 1 then Nat.xor (c * 2 % 0x10000) 0x8BB7 else c * 2 % 0x10000

/-- CRC-16 of a link block: polynomial 0x8BB7, initial value 0 (R303). The manual does not say which bit enters first;
the model takes the most significant bit of each byte first, as the polynomial's name is usually used (log 21). -/
def crc16 (bs : List Byte) : Nat :=
  bs.foldl (fun c b =>
    let x := Nat.xor c (b.toNat * 256)
    crc16Bit (crc16Bit (crc16Bit (crc16Bit (crc16Bit (crc16Bit (crc16Bit (crc16Bit x)))))))) 0

/-- The 16-byte prefix of a program block or header: local address and generation (R42). -/
def blockPrefix (addr gen : Nat) : List Byte := leBytes 8 addr ++ leBytes 2 gen ++ leBytes 6 0

/-- The check value of a program block or of a header's first bytes (R42, R66). -/
def blockCheck (addr gen : Nat) (bs : List Byte) : Nat := crc32c (blockPrefix addr gen ++ bs)

/-- The check value of a transfer: CRC-32C up to 65,536 bytes, else CRC-64, over a prefix of target address and
sequence number and the data (R420). -/
def transferCheck (addr seq : Nat) (bs : List Byte) : Nat :=
  let p := leBytes 8 addr ++ leBytes 4 seq ++ leBytes 4 0
  if bs.length ≤ 65536 then crc32c (p ++ bs) else crc64 (p ++ bs)

/-- Whether a computed check value meets the expected one: bits 31:0 are compared for CRC-32C (R422). -/
def checkMeets (n actual expected : Nat) : Bool :=
  if n ≤ 65536 then actual == expected % 2 ^ 32 else actual == expected % 2 ^ 64

/-- One round of Philox4x32 (R167). -/
def philoxRound (k0 k1 : Nat) (x : Nat × Nat × Nat × Nat) : Nat × Nat × Nat × Nat :=
  let (x0, x1, x2, x3) := x
  let p0 := 0xD2511F53 * x0
  let p1 := 0xCD9E8D57 * x2
  (Nat.xor (Nat.xor (p1 / 2 ^ 32) x1) k0, p1 % 2 ^ 32, Nat.xor (Nat.xor (p0 / 2 ^ 32) x3) k1, p0 % 2 ^ 32)

/-- Rounds of Philox4x32 with the key advancing between them. -/
def philoxRounds : Nat → Nat → Nat → Nat × Nat × Nat × Nat → Nat × Nat × Nat × Nat
  | 0, _, _, x => x
  | n + 1, k0, k1, x =>
    philoxRounds n ((k0 + 0x9E3779B9) % 2 ^ 32) ((k1 + 0xBB67AE85) % 2 ^ 32) (philoxRound k0 k1 x)

/-- The 32-bit draw of R167: a pure function of seed, step, tensor id, element and seq. -/
def philox (seed step tensor element seq : Nat) : Nat :=
  (philoxRounds 10 (seed % 2 ^ 32) (seed / 2 ^ 32 % 2 ^ 32)
    (step % 2 ^ 32, tensor % 2 ^ 32, element % 2 ^ 32, seq % 2 ^ 32)).1

/-- The draw of an element index of up to 64 bits: bits 31:0 in element and 63:32 in seq (R168). -/
def drawAt (seed step tensor i : Nat) : Nat := philox seed step tensor (i % 2 ^ 32) (i / 2 ^ 32 % 2 ^ 32)

end Sys2Proof.Machine
end

