-- ==== Sys2Proof/Config.lean ====
section
/-! DEFINITION. The free values: what the manual leaves open, as constants without a body. No proof can see a value
of one, so a statement that mentions one holds for every value. Each is named in the assumption log. -/

namespace Sys2Proof.Config

/-- A value the manual calls undefined, or does not state, drawn with the model's counter of draws (log 3). -/
opaque freeWord : Nat → Word

/-- A free truth value drawn with the model's counter of draws (log 3). -/
opaque freeBool : Nat → Bool

/-- What a byte of memory holds where the manual says that it is undefined: by draw and address (log 3). -/
opaque freeByte : Nat → Nat → Byte

/-- Which of the results within the manual's error bound an approximation gives: a function of the operation and its
operands only, because results are deterministic (R94, R122; log 8). -/
opaque pickUlp : Nat → Nat → Nat → Nat

/-- The output of the array in Wydak numerics mode outside what that mode admits (R118): a function of the plane, the input
row and the value it starts at, as an FP32 code (log 113). -/
opaque wydakOpen : List (List (List Byte)) → List Nat → Nat

/-- The metadata entry that COMPRESS24 pushes for a group of three or four non-zeros of a dense-marked tile: a function of the
group's four codes (R97, R127, R188; log 33). -/
opaque openMeta : List Nat → Nat

/-- SHAKE256 with 64 bytes of output (FIPS 202), which the manual names and does not define (18_security; log 30). -/
opaque shake256 : List Byte → BitVec 512

/-- Whether an ML-DSA-65 signature (FIPS 204) over a message verifies under a key: key, message, signature (log 30). -/
opaque verifies : List Byte → List Byte → List Byte → Bool

/-- The device's ML-DSA-65 signature over a message in the hedged variant, by draw: 3,309 bytes (R445, R447; log 30). -/
opaque sign : Nat → List Byte → BitVec 26472

/-- The random bytes of a challenge, by draw (R451; log 30). -/
opaque challenge : Nat → BitVec 256

/-- The boot ROM that M0 measures (R446; log 30). -/
opaque bootRom : List Byte

/-- The fuses that the manufacture sets: SHAKE256 of the root key and of the debug authority key, the serial number, and
the certificates in MRAM (R441, R445; log 30). -/
opaque rootHash : BitVec 512

/-- As `rootHash`. -/
opaque debugHash : BitVec 512

/-- As `rootHash`. -/
opaque serial : BitVec 128

/-- As `rootHash`: certificate 0, 1 or 2. -/
opaque certificate : Nat → List Byte

/-- What a packet payload of a given type says, where the manual gives the payload no layout: a list of numbers
(log 20). -/
opaque parsePayload : Nat → List Byte → List Nat

/-- The bytes of a payload of a given type that says the given numbers, where the manual gives no layout (log 20). -/
opaque formPayload : Nat → List Nat → List Byte

/-- The bytes that a payload carries beside what it says, where the manual gives it no layout (log 20). -/
opaque payloadData : Nat → List Byte → List Byte

/-- What a structure in memory says whose fields the manual names without giving their places: by kind (log 22). -/
opaque parseEntry : Nat → List Byte → List Nat

/-- The Barvos Vendor ID, which the manual names without a number (R450). -/
opaque vendorId : BitVec 16

/-- The body of an MCTP control or PLDM answer, whose form the standards that the manual names give: the command by the model's
number, and the values that the manual states for it (log 64). -/
opaque sidebandBody : Nat → List Nat → List Byte

end Sys2Proof.Config
end

