-- ==== Sys2Proof/Machine/Formats.lean ====
section
/-! DEFINITION. Number formats and conversion (05_number_formats): encodings, exact values, rounding, comparison,
block scales. A value is decoded to an exact dyadic number, computed exactly, and narrowed once. -/

namespace Sys2Proof.Machine

/-- A decoded value: `num neg m e` is (−1)^neg × m × 2^e, and m = 0 is a signed zero. -/
inductive FVal where
  | nan
  | inf (neg : Bool)
  | num (neg : Bool) (m : Nat) (e : Int)
  deriving DecidableEq, Repr, Inhabited

/-- The floating-point formats of R138 and R140. -/
inductive FFmt where
  | p4 | e4m3 | e5m2 | fp16 | bf16 | fp32 | fp64
  deriving DecidableEq, Repr, Inhabited

/-- Exponent bits (R140). -/
def FFmt.eb : FFmt → Nat
  | .p4 => 2 | .e4m3 => 4 | .e5m2 => 5 | .fp16 => 5 | .bf16 => 8 | .fp32 => 8 | .fp64 => 11

/-- Mantissa bits (R140). -/
def FFmt.mb : FFmt → Nat
  | .p4 => 1 | .e4m3 => 3 | .e5m2 => 2 | .fp16 => 10 | .bf16 => 7 | .fp32 => 23 | .fp64 => 52

/-- Exponent bias (R140). -/
def FFmt.bias : FFmt → Nat
  | .p4 => 1 | .e4m3 => 7 | .e5m2 => 15 | .fp16 => 15 | .bf16 => 127 | .fp32 => 127 | .fp64 => 1023

/-- Element bits. -/
def FFmt.bits (f : FFmt) : Nat := 1 + f.eb + f.mb

/-- The default NaN (R142). -/
def FFmt.nan : FFmt → Nat
  | .p4 => 0x8 | .e4m3 => 0x7F | .e5m2 => 0x7E | .fp16 => 0x7E00 | .bf16 => 0x7FC0 | .fp32 => 0x7FC00000
  | .fp64 => 0x7FF8000000000000

/-- Magnitude code of the largest finite value (R140, R141). -/
def FFmt.maxFin : FFmt → Nat
  | .p4 => 7 | .e4m3 => 0x7E | .e5m2 => 0x7B | .fp16 => 0x7BFF | .bf16 => 0x7F7F | .fp32 => 0x7F7FFFFF
  | .fp64 => 0x7FEFFFFFFFFFFFFF

/-- Whether the format has infinities (R140). -/
def FFmt.hasInf : FFmt → Bool
  | .p4 => false | .e4m3 => false | _ => true

/-- The sign bit's weight. -/
def FFmt.signBit (f : FFmt) : Nat := 2 ^ (f.eb + f.mb)

/-- Magnitude of a magnitude code as mantissa and exponent (R140). -/
def magOf (f : FFmt) (c : Nat) : Nat × Int :=
  let e := c / 2 ^ f.mb
  let m := c % 2 ^ f.mb
  if e = 0 then (m, 1 - (f.bias : Int) - f.mb) else (2 ^ f.mb + m, (e : Int) - f.bias - f.mb)

/-- The value of a code (R140, R141). -/
def decodeF (f : FFmt) (code : Nat) : FVal :=
  let c := code % f.signBit
  let s := decide (code / f.signBit % 2 = 1)
  match f with
  | .p4 => if s && c == 0 then .nan else .num s (magOf f c).1 (magOf f c).2
  | .e4m3 => if c = 0x7F then .nan else .num s (magOf f c).1 (magOf f c).2
  | _ =>
    if c / 2 ^ f.mb = 2 ^ f.eb - 1 then (if c % 2 ^ f.mb = 0 then .inf s else .nan)
    else .num s (magOf f c).1 (magOf f c).2

/-- Whether a value is zero. -/
def FVal.isZero : FVal → Bool
  | .num _ 0 _ => true
  | _ => false

/-- Whether a value is a NaN. -/
def FVal.isNan : FVal → Bool
  | .nan => true
  | _ => false

/-- Whether a value is neither NaN nor infinite. -/
def FVal.finite : FVal → Bool
  | .num _ _ _ => true
  | _ => false

/-- The sign. -/
def FVal.neg? : FVal → Bool
  | .nan => false
  | .inf s => s
  | .num s _ _ => s

/-- +0. -/
def FVal.zero : FVal := .num false 0 0

/-- 1. -/
def FVal.one : FVal := .num false 1 0

/-- The value with its sign replaced. -/
def FVal.withSign (s : Bool) : FVal → FVal
  | .nan => .nan
  | .inf _ => .inf s
  | .num _ m e => .num s m e

/-- The magnitude. -/
def FVal.abs (v : FVal) : FVal := v.withSign false

/-- The negation. -/
def FVal.negate (v : FVal) : FVal := v.withSign (!v.neg?)

/-- A signed dyadic number as an integer at a common exponent `q ≤ e`. -/
def alignAt (neg : Bool) (m : Nat) (e q : Int) : Int :=
  let a : Int := (m * 2 ^ (e - q).toNat : Nat)
  if neg then -a else a

/-- A signed integer at an exponent as a value; `zneg` is the sign of a zero. -/
def ofInt (zneg : Bool) (i : Int) (q : Int) : FVal :=
  if i = 0 then .num zneg 0 0 else .num (decide (i < 0)) i.natAbs q

/-- Exact sum, with the zero signs of IEEE 754-2019 under round-to-nearest (R146, R156). -/
def addV : FVal → FVal → FVal
  | .nan, _ => .nan
  | _, .nan => .nan
  | .inf s, .inf t => if s = t then .inf s else .nan
  | .inf s, _ => .inf s
  | _, .inf t => .inf t
  | .num s m e, .num t n f =>
    let q := min e f
    ofInt (s && t) (alignAt s m e q + alignAt t n f q) q

/-- Exact difference. -/
def subV (a b : FVal) : FVal := match b with
  | .nan => .nan
  | _ => addV a b.negate

/-- Exact product. A zero times an infinity is a NaN. -/
def mulV : FVal → FVal → FVal
  | .nan, _ => .nan
  | _, .nan => .nan
  | .inf s, .inf t => .inf (s != t)
  | .inf s, .num t n _ => if n = 0 then .nan else .inf (s != t)
  | .num s m _, .inf t => if m = 0 then .nan else .inf (s != t)
  | .num s m e, .num t n f => .num (s != t) (m * n) (e + f)

/-- Exact fused multiply-add `a × b + c` (R94). -/
def fmaV (a b c : FVal) : FVal := addV (mulV a b) c

/-- Exact comparison of two ordered values: `a < b`, taking −0 and +0 as equal (R148). -/
def ltV : FVal → FVal → Bool
  | .nan, _ => false
  | _, .nan => false
  | .inf s, .inf t => s && !t
  | .inf s, _ => s
  | _, .inf t => !t
  | .num s m e, .num t n f =>
    let q := min e f
    decide (alignAt s m e q < alignAt t n f q)

/-- Exact equality of two ordered values, −0 equal to +0. -/
def eqV (a b : FVal) : Bool := !a.isNan && !b.isNan && !ltV a b && !ltV b a

/-- `a < b` with −0.0 below +0.0 (R147). -/
def ltTotal (a b : FVal) : Bool := ltV a b || (eqV a b && a.isZero && a.neg? && !b.neg?)

/-- maximum of IEEE 754-2019 clause 9.6 (R147). -/
def maxV (a b : FVal) : FVal := if a.isNan || b.isNan then .nan else if ltTotal a b then b else a

/-- minimum of IEEE 754-2019 clause 9.6 (R147). -/
def minV (a b : FVal) : FVal := if a.isNan || b.isNan then .nan else if ltTotal b a then b else a

/-- Exact sum of a list; an exact zero is +0.0, a NaN or infinities of both signs give NaN (R116). -/
def sumExact (l : List FVal) : FVal :=
  match l.foldl addV FVal.zero with
  | .num _ 0 _ => FVal.zero
  | v => v

/-- The rounding modes of R150 and the upward rounding of R154. -/
inductive Rnd where
  | rne | rtz | sr | up
  deriving DecidableEq, Repr, Inhabited

/-- Floor and remainder of m × 2^e in units of 2^q: (n, r, d) with value = (n + r/d) × 2^q. -/
def scaleDiv (m : Nat) (e q : Int) : Nat × Nat × Nat :=
  if e ≥ q then (m * 2 ^ (e - q).toNat, 0, 1) else
    let d := 2 ^ (q - e).toNat
    (m / d, m % d, d)

/-- The magnitude code next below or at a positive magnitude, with the remainder of R151: codes are contiguous in
magnitude, so the next code is the next representable magnitude. -/
def magCode (f : FFmt) (m : Nat) (e : Int) : Nat × Nat × Nat :=
  let emin : Int := 1 - (f.bias : Int)
  let ex : Int := max ((log2 m : Int) + e) emin
  let q := ex - f.mb
  let (n, r, d) := scaleDiv m e q
  ((ex - emin).toNat * 2 ^ f.mb + n, r, d)

/-- Rounding of a positive magnitude to a magnitude code, unbounded above (R150, R151). -/
def roundMag (f : FFmt) (rm : Rnd) (draw : Nat) (m : Nat) (e : Int) : Nat :=
  let (c, r, d) := magCode f m e
  match rm with
  | .rtz => c
  | .up => if r = 0 then c else c + 1
  | .rne => if 2 * r > d ∨ (2 * r = d ∧ c % 2 = 1) then c + 1 else c
  | .sr => if draw % 2 ^ 32 < r * 2 ^ 32 / d then c + 1 else c

/-- m × 2^e < n × 2^f. -/
def magLt (m : Nat) (e : Int) (n : Nat) (f : Int) : Bool :=
  let q := min e f
  decide (m * 2 ^ (e - q).toNat < n * 2 ^ (f - q).toNat)

/-- Whether a magnitude overflows a format under a mode: at the largest finite value plus half the step below it for
nearest and stochastic rounding, beyond the largest finite value for rounding toward zero (R152). -/
def overflows (f : FFmt) (rm : Rnd) (m : Nat) (e : Int) : Bool :=
  let (mm, me) := magOf f f.maxFin
  match rm with
  | .rtz => magLt mm me m e
  | .up => magLt mm me m e
  | _ => !magLt m e (2 * mm + 1) (me - 1)

/-- Conversion of an exact value to a floating-point format (R150 to R152). `sat` is the overflow rule of R152 for
E4M3 and E5M2, and is taken for block-scaled destinations. A value beyond the largest finite value rounds as to
nearest under SR. -/
def convF (f : FFmt) (rm : Rnd) (sat : Bool) (draw : Nat) (v : FVal) : Nat :=
  let signed (s : Bool) (c : Nat) : Nat := if s then (if f = .p4 ∧ c = 0 then 0 else f.signBit + c) else c
  let infCode : Nat := (2 ^ f.eb - 1) * 2 ^ f.mb
  let beyond (s : Bool) (finite : Bool) : Nat :=
    match f with
    | .p4 => signed s f.maxFin
    | .e4m3 => if sat || (finite && rm == .rtz) then signed s f.maxFin else f.nan
    | .e5m2 => if sat || (finite && rm == .rtz) then signed s f.maxFin else signed s infCode
    | _ => if finite && rm == .rtz then signed s f.maxFin else signed s infCode
  match v with
  | .nan => f.nan
  | .inf s => beyond s false
  | .num s 0 _ => signed s 0
  | .num s m e =>
    let (mm, me) := magOf f f.maxFin
    let rm' := if rm = .sr ∧ magLt mm me m e = true then .rne else rm
    if overflows f rm' m e then beyond s true else signed s (min f.maxFin (roundMag f rm' draw m e))

/-- Rounding to nearest-even into a format with infinities, the rule of vector arithmetic (R156). -/
def rneF (f : FFmt) (v : FVal) : Nat := convF f .rne false 0 v

/-- A value rounded to FP32 and read back. -/
def r32 (v : FVal) : FVal := decodeF .fp32 (rneF .fp32 v)

/-- A value rounded to FP64 and read back. -/
def r64 (v : FVal) : FVal := decodeF .fp64 (rneF .fp64 v)

/-- A value rounded toward zero to FP32 and read back (R187). -/
def r32tz (v : FVal) : FVal := decodeF .fp32 (convF .fp32 .rtz false 0 v)

/-- FP32 value of a 32-bit pattern. -/
def f32 (c : Nat) : FVal := decodeF .fp32 c

/-- The element format codes of R138. -/
inductive Elem where
  | flt (f : FFmt) (blockScaled : Bool)
  | e8 | u8 | i32 | u32
  deriving DecidableEq, Repr, Inhabited

/-- The format of a code (R138); every code not listed is reserved. -/
def elemOf : Nat → Option Elem
  | 0x01 => some (.flt .p4 false) | 0x02 => some (.flt .e4m3 false) | 0x03 => some (.flt .e5m2 false)
  | 0x04 => some (.flt .fp16 false) | 0x05 => some (.flt .bf16 false) | 0x06 => some (.flt .fp32 false)
  | 0x07 => some (.flt .fp64 false) | 0x08 => some .e8 | 0x10 => some .u8 | 0x11 => some .i32 | 0x12 => some .u32
  | 0x81 => some (.flt .p4 true) | 0x82 => some (.flt .e4m3 true) | 0x83 => some (.flt .e5m2 true)
  | _ => none

/-- Element bits (R138). -/
def Elem.bits : Elem → Nat
  | .flt f _ => f.bits
  | .e8 => 8 | .u8 => 8 | .i32 => 32 | .u32 => 32

/-- The elements of a row, packed in ascending order from byte 0; two P4 elements share a byte (R143). -/
def rowElems (bits : Nat) (row : List Byte) : List Nat :=
  if bits = 4 then row.flatMap (fun b => [b.toNat % 16, b.toNat / 16])
  else (chunksOf (bits / 8) row).map leNat

/-- The bytes of a row of elements (R143). -/
def rowBytes (bits : Nat) (es : List Nat) : List Byte :=
  if bits = 4 then (chunksOf 2 es).map (fun p => BitVec.ofNat 8 (p.getD 0 0 % 16 + 16 * (p.getD 1 0 % 16)))
  else es.flatMap (leBytes (bits / 8))

/-- The exact value of an E8 scale (R144). -/
def decodeE8 (c : Nat) : FVal := if c % 256 = 255 then .nan else .num false 1 ((c % 256 : Nat) - 127)

/-- The exact value of an element of any format; integers are exact (R153). -/
def decodeElem (el : Elem) (c : Nat) : FVal :=
  match el with
  | .flt f _ => decodeF f c
  | .e8 => decodeE8 c
  | .u8 => .num false (c % 256) 0
  | .u32 => .num false (c % 2 ^ 32) 0
  | .i32 => ofInt false (signedOf 32 c) 0

/-- Rounding of an exact value to an integer: nearest-even or toward zero; SR is taken as nearest-even (R153). -/
def roundInt (rm : Rnd) (s : Bool) (m : Nat) (e : Int) : Int :=
  let (n, r, d) := scaleDiv m e 0
  let a := if rm = .rtz then n else if 2 * r > d ∨ (2 * r = d ∧ n % 2 = 1) then n + 1 else n
  if s then -(a : Int) else a

/-- Conversion to an integer format with the limits of R152. -/
def convInt (lo hi : Int) (rm : Rnd) (v : FVal) : Int :=
  match v with
  | .nan => 0
  | .inf s => if s then lo else hi
  | .num s m e => max lo (min hi (roundInt rm s m e))

/-- Conversion of an exact value to any destination of CVT (R150 to R153). -/
def convElem (el : Elem) (rm : Rnd) (sat : Bool) (draw : Nat) (v : FVal) : Nat :=
  match el with
  | .flt f bs => convF f rm (sat || bs) draw v
  | .e8 => 0
  | .u8 => (convInt 0 255 rm v).toNat
  | .u32 => (convInt 0 (2 ^ 32 - 1 : Nat) rm v).toNat
  | .i32 => wrapInt 32 (convInt (-(2 ^ 31 : Nat)) (2 ^ 31 - 1 : Nat) rm v)

/-- The largest magnitude among the finite elements of a block (R154); zero when there is none. -/
def amaxOf (l : List FVal) : FVal :=
  l.foldl (fun a v => if v.finite && ltV a v.abs then v.abs else a) FVal.zero

/-- `emax` of R154 and R183. -/
def FFmt.emax : FFmt → Nat
  | .p4 => 2 | .e4m3 => 8 | .e5m2 => 15 | _ => 14

/-- The E8 scale that R154 chooses for an `amax`, with the exponent clamped to −127 to 127. -/
def chooseE8 (emax : Nat) (amax : FVal) : Nat :=
  match amax with
  | .num _ m e => if m = 0 then 127 else
      ((max (-127) (min 127 ((log2 m : Int) + e - emax))) + 127).toNat
  | _ => 127

/-- An exact quotient m·2^e / n·2^f rounded up to FP16, at most 65,504 (R154). -/
def quotUpFp16 (m : Nat) (e : Int) (n : Nat) (f : Int) : Nat :=
  let sh : Nat := 64
  let k := m * 2 ^ sh / n
  let sticky := if m * 2 ^ sh % n = 0 then 0 else 1
  min FFmt.fp16.maxFin (roundMag .fp16 .up 0 (2 * k + sticky) (e - f - sh - 1))

/-- The FP16 scale that R154 chooses. -/
def chooseFp16 (base : FFmt) (amax : FVal) : Nat :=
  match amax with
  | .num _ m e => if m = 0 then 0x3C00 else
      let (mm, me) := magOf base base.maxFin
      quotUpFp16 m e mm me
  | _ => 0x3C00

/-- x / scale rounded once into the base format of a block-scaled destination. The scale is a finite positive value;
the quotient is kept to 128 further bits with a sticky bit, which no rounding of these formats can tell from the
exact quotient except a stochastic draw at the 2^-32 grid, for which the floor of R151 is the same. -/
def divV (x scale : FVal) : FVal :=
  match x, scale with
  | .num s m e, .num _ n f =>
    if n = 0 then .nan else
      let k := m * 2 ^ 128 / n
      let sticky := if m * 2 ^ 128 % n = 0 then 0 else 1
      .num s (2 * k + sticky) (e - f - 129)
  | .inf s, .num _ _ _ => .inf s
  | _, _ => .nan

/-- The 64-bit integer square root by bits, structural on the fuel. -/
def isqrtAux : Nat → Nat → Nat → Nat
  | 0, _, r => r
  | k + 1, n, r => let c := r + 2 ^ k; isqrtAux k n (if c * c ≤ n then c else r)

/-- Floor of the square root. -/
def isqrt (n : Nat) : Nat := isqrtAux (log2 n / 2 + 1) n 0

/-- The value of code `c + k` of a format on the magnitude line, where `k` may be negative; beyond the largest finite
value the code is the infinity's. -/
def stepMag (f : FFmt) (c : Nat) (k : Int) : Nat := min ((2 ^ f.eb - 1) * 2 ^ f.mb) ((c : Int) + k).toNat

/-- A result within `ulps` of the exact magnitude m·2^e (with `inexact` set when the exact value lies above it within
the last place kept): the free choice of log 8 among the codes the bound allows. -/
def pickNear (f : FFmt) (ulps : Nat) (choice : Nat) (m : Nat) (e : Int) (inexact : Bool) : Nat :=
  if m = 0 then stepMag f 0 (choice % (ulps + 1) : Nat) else
    let (c, r, _) := magCode f m e
    if c > f.maxFin then stepMag f (f.maxFin + 1) 0
    else if r = 0 && !inexact then stepMag f c ((choice % (2 * ulps + 1) : Nat) - (ulps : Int))
    else stepMag f c ((choice % (2 * ulps) : Nat) - (ulps : Int) + 1)

/-- ln 2 in units of 2^-320, rounded down. -/
def ln2Fix : Nat :=
  0xB17217F7D1CF79ABC9E3B39803F2F6AF40F343267298B62D8A0D175B8BAAFA2BE7B876206DEBAC98

/-- Horner evaluation of the Taylor series of e^r for 0 ≤ r < 1 in units of 2^-320, from term `k` down; structural on
the number of terms. -/
def expTaylor : Nat → Nat → Nat → Nat → Nat
  | 0, _, _, acc => acc
  | n + 1, r, k, acc => expTaylor n r (k - 1) (2 ^ 320 + r * acc / (k * 2 ^ 320))

/-- e^x for a finite x as a magnitude: mantissa in units and exponent; the exponent is bounded for huge arguments. -/
def expMag (neg : Bool) (m : Nat) (e : Int) : Nat × Int :=
  -- x in units of 2^-320, saturated at ±2^13, beyond which every format overflows or underflows
  let big := 2 ^ 13 * 2 ^ 320
  let fx : Nat := if e + 320 ≥ 0 then (if (log2 m : Int) + e > 13 then big else m * 2 ^ (e + 320).toNat) else m / 2 ^ (-(e + 320)).toNat
  let fx := min fx big
  let xi : Int := if neg then -(fx : Int) else fx
  let k : Int := xi / (ln2Fix : Int)
  let r : Nat := (xi - k * ln2Fix).toNat
  (expTaylor 90 r 90 (2 ^ 320), k - 320)

end Sys2Proof.Machine
end

