-- ==== Sys2Proof/Machine/Regs.lean ====
section
/-! DEFINITION. The register map: offsets in BAR0, widths, fields, access types and reset values, from the register
tables of every chapter (R7, R8, R64, R137, R222, R244, R272, R273, R300, R301, R321, R341, R361, R384, R385, R401, R418,
R439, R440, R453, R468, R482). A register of an array takes its index after its unit's number. -/

namespace Sys2Proof.Machine

/-- The access types of R8. -/
inductive Acc where
  | ro | rw | w1c | wo | rwl
  deriving DecidableEq, Repr

/-- A field as its table gives it: bits, access and reset. -/
structure FDesc where
  hi : Nat
  lo : Nat
  acc : Acc
  reset : Nat
  deriving DecidableEq, Repr

/-- A register or an array of registers of a block: offset in the block, stride and count, width in bits, fields. -/
structure RDesc where
  off : Nat
  stride : Nat
  count : Nat
  width : Nat
  flds : List FDesc
  deriving DecidableEq, Repr

/-- The register blocks. -/
inductive Blk where
  | glb | hmn | log | str | que | cor | drv | mem | sram | lnk | lnkd | col | eng | rcd | trh | emb | schf | schd
  | schc | pwr | clk | thm | sec | mgt
  deriving DecidableEq, Repr

/-- Base in BAR0, stride and count of instances of a block. -/
def Blk.place : Blk → Nat × Nat × Nat
  | .glb => (0x0, 0x10000, 1)
  | .hmn => (0x100000, 0x10000, 1)
  | .log => (0x200000, 0x20000, 1)
  | .str => (0x400000, 0x10000, 1)
  | .que => (0x800000, 0x40, 16384)
  | .cor => (0x1000000, 0x40000, 32)
  | .drv => (0x1800000, 0x40000, 4)
  | .mem => (0x1C00000, 0x20000, 8)
  | .sram => (0x1F00000, 0x1000, 1)
  | .lnk => (0x2000000, 0x4000, 96)
  | .lnkd => (0x2200000, 0x4000, 1)
  | .col => (0x2400000, 0x1000, 1)
  | .eng => (0x2410000, 0x10000, 2)
  | .rcd => (0x2500000, 0x1000, 1)
  | .trh => (0x2600000, 0x40000, 2)
  | .emb => (0x2700000, 0x1000, 1)
  | .schf => (0x2800000, 0x10000, 4)
  | .schd => (0x2840000, 0x100, 1)
  | .schc => (0x2840100, 0x40, 8)
  | .pwr => (0x3000000, 0x1000, 1)
  | .clk => (0x3010000, 0x1000, 1)
  | .thm => (0x3020000, 0x1000, 1)
  | .sec => (0x3400000, 0x4000, 1)
  | .mgt => (0x3800000, 0x1000, 1)

/-- All blocks. -/
def allBlks : List Blk :=
  [.glb, .hmn, .log, .str, .que, .cor, .drv, .mem, .sram, .lnk, .lnkd, .col, .eng, .rcd, .trh, .emb, .schf, .schd, .schc, .pwr, .clk, .thm, .sec, .mgt]

/-- 02 R64. -/
abbrev COR_ID (n : Nat) : Nat := 0x1000000 + n * 0x40000
abbrev COR_ID_present : Fld := ⟨31, 31⟩
abbrev COR_ID_fold : Fld := ⟨9, 8⟩
abbrev COR_ID_core : Fld := ⟨4, 0⟩
/-- 02 R64. -/
abbrev COR_CTRL (n : Nat) : Nat := 0x1000008 + n * 0x40000
abbrev COR_CTRL_clear_counts : Fld := ⟨3, 3⟩
abbrev COR_CTRL_abort : Fld := ⟨2, 2⟩
abbrev COR_CTRL_resume : Fld := ⟨1, 1⟩
abbrev COR_CTRL_halt : Fld := ⟨0, 0⟩
/-- 02 R64. -/
abbrev COR_STATUS (n : Nat) : Nat := 0x1000010 + n * 0x40000
abbrev COR_STATUS_stop_status : Fld := ⟨39, 32⟩
abbrev COR_STATUS_deferred_entries : Fld := ⟨22, 16⟩
abbrev COR_STATUS_x_deferred : Fld := ⟨15, 15⟩
abbrev COR_STATUS_x_state : Fld := ⟨14, 12⟩
abbrev COR_STATUS_a_deferred : Fld := ⟨11, 11⟩
abbrev COR_STATUS_a_state : Fld := ⟨10, 8⟩
abbrev COR_STATUS_core_state : Fld := ⟨2, 0⟩
/-- 02 R64. -/
abbrev COR_MODE (n : Nat) : Nat := 0x1000018 + n * 0x40000
abbrev COR_MODE_service : Fld := ⟨0, 0⟩
/-- 02 R64. -/
abbrev COR_PROG_BASE (n : Nat) : Nat := 0x1000020 + n * 0x40000
abbrev COR_PROG_BASE_header : Fld := ⟨47, 0⟩
/-- 02 R64. -/
abbrev COR_PROG_GEN (n : Nat) : Nat := 0x1000028 + n * 0x40000
abbrev COR_PROG_GEN_generation : Fld := ⟨15, 0⟩
/-- 02 R64. -/
abbrev COR_STOP_A (n : Nat) : Nat := 0x1000030 + n * 0x40000
abbrev COR_STOP_A_address : Fld := ⟨47, 4⟩
/-- 02 R64. -/
abbrev COR_STOP_X (n : Nat) : Nat := 0x1000038 + n * 0x40000
abbrev COR_STOP_X_address : Fld := ⟨47, 4⟩
/-- 02 R64. -/
abbrev COR_ERR (n : Nat) : Nat := 0x1000040 + n * 0x40000
abbrev COR_ERR_busy_write : Fld := ⟨6, 6⟩
abbrev COR_ERR_nan_trap : Fld := ⟨5, 5⟩
abbrev COR_ERR_stall_timeout : Fld := ⟨4, 4⟩
abbrev COR_ERR_queue_type : Fld := ⟨3, 3⟩
abbrev COR_ERR_tally_limit : Fld := ⟨2, 2⟩
abbrev COR_ERR_cvu_transfer : Fld := ⟨1, 1⟩
abbrev COR_ERR_cvu_block : Fld := ⟨0, 0⟩
/-- 02 R64. -/
abbrev COR_STALL_LIMIT (n : Nat) : Nat := 0x1000048 + n * 0x40000
abbrev COR_STALL_LIMIT_cycles : Fld := ⟨31, 0⟩
/-- 02 R64. -/
abbrev COR_RETIRE (n : Nat) : Nat := 0x1000050 + n * 0x40000
abbrev COR_RETIRE_generation : Fld := ⟨15, 0⟩
/-- 02 R64. -/
abbrev COR_RETIRE_STATUS (n : Nat) : Nat := 0x1000058 + n * 0x40000
abbrev COR_RETIRE_STATUS_busy : Fld := ⟨17, 17⟩
abbrev COR_RETIRE_STATUS_done : Fld := ⟨16, 16⟩
abbrev COR_RETIRE_STATUS_last_generation : Fld := ⟨15, 0⟩
/-- 02 R64. -/
abbrev COR_NAN_CTRL (n : Nat) : Nat := 0x1000060 + n * 0x40000
abbrev COR_NAN_CTRL_halt_other : Fld := ⟨2, 2⟩
abbrev COR_NAN_CTRL_halt_class_c : Fld := ⟨1, 1⟩
abbrev COR_NAN_CTRL_halt_class_g : Fld := ⟨0, 0⟩
/-- 02 R64. -/
abbrev COR_NAN_FIRST (n : Nat) : Nat := 0x1000068 + n * 0x40000
abbrev COR_NAN_FIRST_valid : Fld := ⟨63, 63⟩
abbrev COR_NAN_FIRST_stream : Fld := ⟨62, 62⟩
abbrev COR_NAN_FIRST_deferred : Fld := ⟨61, 61⟩
abbrev COR_NAN_FIRST_core : Fld := ⟨60, 56⟩
abbrev COR_NAN_FIRST_generation : Fld := ⟨55, 40⟩
abbrev COR_NAN_FIRST_element : Fld := ⟨31, 0⟩
/-- 02 R64. -/
abbrev COR_NAN_FIRST_ADDR (n : Nat) : Nat := 0x1000070 + n * 0x40000
abbrev COR_NAN_FIRST_ADDR_address : Fld := ⟨47, 0⟩
/-- 02 R64. -/
abbrev COR_SPARSE_OVERFULL (n : Nat) : Nat := 0x1000078 + n * 0x40000
abbrev COR_SPARSE_OVERFULL_saturated : Fld := ⟨63, 63⟩
abbrev COR_SPARSE_OVERFULL_count : Fld := ⟨47, 0⟩
/-- 02 R64. -/
abbrev COR_SPARSE_PRUNED (n : Nat) : Nat := 0x1000080 + n * 0x40000
abbrev COR_SPARSE_PRUNED_saturated : Fld := ⟨63, 63⟩
abbrev COR_SPARSE_PRUNED_count : Fld := ⟨47, 0⟩
/-- 02 R64. -/
abbrev COR_INDEX_DROPPED (n : Nat) : Nat := 0x1000088 + n * 0x40000
abbrev COR_INDEX_DROPPED_saturated : Fld := ⟨63, 63⟩
abbrev COR_INDEX_DROPPED_count : Fld := ⟨47, 0⟩
/-- 02 R64. -/
abbrev COR_FETCH_BLOCKS (n : Nat) : Nat := 0x1000090 + n * 0x40000
abbrev COR_FETCH_BLOCKS_blocks : Fld := ⟨63, 0⟩
/-- 02 R64. -/
abbrev COR_CVU_MISMATCH_ADDR (n : Nat) : Nat := 0x1000098 + n * 0x40000
abbrev COR_CVU_MISMATCH_ADDR_address : Fld := ⟨47, 0⟩
/-- 02 R64. -/
abbrev COR_CVU_EXPECTED (n : Nat) : Nat := 0x10000A0 + n * 0x40000
abbrev COR_CVU_EXPECTED_value : Fld := ⟨63, 0⟩
/-- 02 R64. -/
abbrev COR_CVU_ACTUAL (n : Nat) : Nat := 0x10000A8 + n * 0x40000
abbrev COR_CVU_ACTUAL_value : Fld := ⟨63, 0⟩
/-- 02 R64. -/
abbrev COR_CVU_STATUS (n : Nat) : Nat := 0x10000B0 + n * 0x40000
abbrev COR_CVU_STATUS_waiting : Fld := ⟨11, 8⟩
abbrev COR_CVU_STATUS_stream_busy : Fld := ⟨4, 4⟩
abbrev COR_CVU_STATUS_block_busy : Fld := ⟨0, 0⟩
/-- 02 R64. -/
abbrev COR_DEFER_CTRL (n : Nat) : Nat := 0x10000B8 + n * 0x40000
abbrev COR_DEFER_CTRL_stall_threshold : Fld := ⟨15, 0⟩
/-- 02 R64. -/
abbrev COR_TALLY (n : Nat) (i : Nat) : Nat := 0x1000100 + n * 0x40000 + i * 8
abbrev COR_TALLY_limit : Fld := ⟨63, 32⟩
abbrev COR_TALLY_count : Fld := ⟨31, 0⟩
/-- 02 R64. -/
abbrev COR_QUEUE (n : Nat) (i : Nat) : Nat := 0x1000300 + n * 0x40000 + i * 8
abbrev COR_QUEUE_occupancy : Fld := ⟨44, 32⟩
abbrev COR_QUEUE_consumer : Fld := ⟨31, 28⟩
abbrev COR_QUEUE_producer : Fld := ⟨27, 24⟩
abbrev COR_QUEUE_row_units : Fld := ⟨17, 8⟩
abbrev COR_QUEUE_format : Fld := ⟨7, 0⟩
/-- 04 R137. -/
abbrev COR_ARR_CFG (n : Nat) : Nat := 0x1010000 + n * 0x40000
abbrev COR_ARR_CFG_wydak : Fld := ⟨2, 2⟩
abbrev COR_ARR_CFG_split : Fld := ⟨1, 0⟩
/-- 04 R137. -/
abbrev COR_ARR_SEL (n : Nat) : Nat := 0x1010008 + n * 0x40000
abbrev COR_ARR_SEL_be_16 : Fld := ⟨31, 24⟩
abbrev COR_ARR_SEL_be_8 : Fld := ⟨23, 16⟩
abbrev COR_ARR_SEL_be_4 : Fld := ⟨15, 8⟩
abbrev COR_ARR_SEL_policy : Fld := ⟨0, 0⟩
/-- 04 R137. -/
abbrev COR_ARR_STEAL (n : Nat) : Nat := 0x1010010 + n * 0x40000
abbrev COR_ARR_STEAL_min_rows : Fld := ⟨27, 16⟩
abbrev COR_ARR_STEAL_cross_core : Fld := ⟨1, 1⟩
abbrev COR_ARR_STEAL_enable : Fld := ⟨0, 0⟩
/-- 04 R137. -/
abbrev COR_ARR_CTRL (n : Nat) : Nat := 0x1010018 + n * 0x40000
abbrev COR_ARR_CTRL_clear_counts : Fld := ⟨0, 0⟩
/-- 04 R137. -/
abbrev COR_ARR_STATUS (n : Nat) : Nat := 0x1010020 + n * 0x40000
abbrev COR_ARR_STATUS_lane3 : Fld := ⟨31, 24⟩
abbrev COR_ARR_STATUS_lane2 : Fld := ⟨23, 16⟩
abbrev COR_ARR_STATUS_lane1 : Fld := ⟨15, 8⟩
abbrev COR_ARR_STATUS_lane0_shadow_full : Fld := ⟨7, 7⟩
abbrev COR_ARR_STATUS_lane0_fill_busy : Fld := ⟨6, 6⟩
abbrev COR_ARR_STATUS_lane0_state : Fld := ⟨2, 0⟩
/-- 04 R137. -/
abbrev COR_ARR_TILES_SPARSE (n : Nat) : Nat := 0x1010028 + n * 0x40000
abbrev COR_ARR_TILES_SPARSE_saturated : Fld := ⟨63, 63⟩
abbrev COR_ARR_TILES_SPARSE_count : Fld := ⟨47, 0⟩
/-- 04 R137. -/
abbrev COR_ARR_TILES_DENSE (n : Nat) : Nat := 0x1010030 + n * 0x40000
abbrev COR_ARR_TILES_DENSE_saturated : Fld := ⟨63, 63⟩
abbrev COR_ARR_TILES_DENSE_count : Fld := ⟨47, 0⟩
/-- 04 R137. -/
abbrev COR_ARR_ROWS_MASKED (n : Nat) : Nat := 0x1010038 + n * 0x40000
abbrev COR_ARR_ROWS_MASKED_saturated : Fld := ⟨63, 63⟩
abbrev COR_ARR_ROWS_MASKED_count : Fld := ⟨47, 0⟩
/-- 04 R137. -/
abbrev COR_ARR_STEAL_CHUNKS (n : Nat) : Nat := 0x1010040 + n * 0x40000
abbrev COR_ARR_STEAL_CHUNKS_saturated : Fld := ⟨63, 63⟩
abbrev COR_ARR_STEAL_CHUNKS_count : Fld := ⟨47, 0⟩
/-- 04 R137. -/
abbrev COR_ARR_ACTIVE_CYCLES (n : Nat) : Nat := 0x1010048 + n * 0x40000
abbrev COR_ARR_ACTIVE_CYCLES_cycles : Fld := ⟨63, 0⟩
/-- 04 R137. -/
abbrev COR_ARR_EPI (n : Nat) (i : Nat) : Nat := 0x1010100 + n * 0x40000 + i * 8
abbrev COR_ARR_EPI_value : Fld := ⟨63, 0⟩
/-- 07 R222. -/
abbrev DRV_ID (n : Nat) : Nat := 0x1800000 + n * 0x40000
abbrev DRV_ID_present : Fld := ⟨31, 31⟩
abbrev DRV_ID_folds : Fld := ⟨11, 8⟩
abbrev DRV_ID_drover : Fld := ⟨1, 0⟩
/-- 07 R222. -/
abbrev DRV_CTRL (n : Nat) : Nat := 0x1800008 + n * 0x40000
abbrev DRV_CTRL_clear_counts : Fld := ⟨3, 3⟩
abbrev DRV_CTRL_abort : Fld := ⟨2, 2⟩
abbrev DRV_CTRL_resume : Fld := ⟨1, 1⟩
abbrev DRV_CTRL_halt : Fld := ⟨0, 0⟩
/-- 07 R222. -/
abbrev DRV_STATUS (n : Nat) : Nat := 0x1800010 + n * 0x40000
abbrev DRV_STATUS_step_low : Fld := ⟨63, 32⟩
abbrev DRV_STATUS_held : Fld := ⟨23, 16⟩
abbrev DRV_STATUS_lanes_busy : Fld := ⟨15, 8⟩
abbrev DRV_STATUS_state : Fld := ⟨2, 0⟩
/-- 07 R222. -/
abbrev DRV_SPEC_CFG (n : Nat) : Nat := 0x1800018 + n * 0x40000
abbrev DRV_SPEC_CFG_depth : Fld := ⟨1, 0⟩
/-- 07 R222. -/
abbrev DRV_SHARE_CFG (n : Nat) : Nat := 0x1800020 + n * 0x40000
abbrev DRV_SHARE_CFG_shared : Fld := ⟨7, 7⟩
abbrev DRV_SHARE_CFG_lanes_own : Fld := ⟨6, 0⟩
/-- 07 R222. -/
abbrev DRV_STAGING_CFG (n : Nat) : Nat := 0x1800028 + n * 0x40000
abbrev DRV_STAGING_CFG_slot_units : Fld := ⟨24, 16⟩
abbrev DRV_STAGING_CFG_hash_units : Fld := ⟨8, 0⟩
/-- 07 R222. -/
abbrev DRV_REMOTE_TIMEOUT (n : Nat) : Nat := 0x1800030 + n * 0x40000
abbrev DRV_REMOTE_TIMEOUT_us : Fld := ⟨15, 0⟩
/-- 07 R222. -/
abbrev DRV_ERR (n : Nat) : Nat := 0x1800038 + n * 0x40000
abbrev DRV_ERR_busy_write : Fld := ⟨4, 4⟩
abbrev DRV_ERR_topo_refused : Fld := ⟨3, 3⟩
abbrev DRV_ERR_remote_timeout : Fld := ⟨2, 2⟩
abbrev DRV_ERR_staging_limit : Fld := ⟨1, 1⟩
abbrev DRV_ERR_adjacency : Fld := ⟨0, 0⟩
/-- 07 R222. -/
abbrev DRV_ROAD_STEP (n : Nat) (i : Nat) : Nat := 0x1800040 + n * 0x40000 + i * 8
abbrev DRV_ROAD_STEP_step : Fld := ⟨63, 0⟩
/-- 07 R222. -/
abbrev DRV_ADJ_BASE (n : Nat) : Nat := 0x1800070 + n * 0x40000
abbrev DRV_ADJ_BASE_descriptor : Fld := ⟨47, 0⟩
/-- 07 R222. -/
abbrev DRV_TOPO (n : Nat) : Nat := 0x1800078 + n * 0x40000
abbrev DRV_TOPO_pending : Fld := ⟨63, 63⟩
abbrev DRV_TOPO_version : Fld := ⟨31, 0⟩
/-- 07 R222. -/
abbrev DRV_EDGES_SAMPLED (n : Nat) : Nat := 0x1800080 + n * 0x40000
abbrev DRV_EDGES_SAMPLED_count : Fld := ⟨63, 0⟩
/-- 07 R222. -/
abbrev DRV_ROWS_PREFETCHED (n : Nat) : Nat := 0x1800088 + n * 0x40000
abbrev DRV_ROWS_PREFETCHED_count : Fld := ⟨63, 0⟩
/-- 07 R222. -/
abbrev DRV_REMOTE_SERVED (n : Nat) : Nat := 0x1800090 + n * 0x40000
abbrev DRV_REMOTE_SERVED_count : Fld := ⟨63, 0⟩
/-- 07 R222. -/
abbrev DRV_ROWS_DISCARDED (n : Nat) : Nat := 0x1800098 + n * 0x40000
abbrev DRV_ROWS_DISCARDED_saturated : Fld := ⟨63, 63⟩
abbrev DRV_ROWS_DISCARDED_count : Fld := ⟨47, 0⟩
/-- 07 R222. -/
abbrev DRV_INDEX_DROPPED (n : Nat) : Nat := 0x18000A0 + n * 0x40000
abbrev DRV_INDEX_DROPPED_saturated : Fld := ⟨63, 63⟩
abbrev DRV_INDEX_DROPPED_count : Fld := ⟨47, 0⟩
/-- 07 R222. -/
abbrev DRV_PREFETCH_SKIPPED (n : Nat) : Nat := 0x18000A8 + n * 0x40000
abbrev DRV_PREFETCH_SKIPPED_saturated : Fld := ⟨63, 63⟩
abbrev DRV_PREFETCH_SKIPPED_count : Fld := ⟨47, 0⟩
/-- 08 R244. -/
abbrev NSR_ID (n : Nat) : Nat := 0x1C10000 + n * 0x20000
abbrev NSR_ID_present : Fld := ⟨31, 31⟩
abbrev NSR_ID_stack : Fld := ⟨2, 0⟩
/-- 08 R244. -/
abbrev NSR_CTRL (n : Nat) : Nat := 0x1C10008 + n * 0x20000
abbrev NSR_CTRL_clear_pop : Fld := ⟨0, 0⟩
/-- 08 R244. -/
abbrev NSR_CFG (n : Nat) : Nat := 0x1C10010 + n * 0x20000
abbrev NSR_CFG_pop_enable : Fld := ⟨2, 2⟩
abbrev NSR_CFG_mode : Fld := ⟨1, 0⟩
/-- 08 R244. -/
abbrev NSR_STATUS (n : Nat) : Nat := 0x1C10018 + n * 0x20000
abbrev NSR_STATUS_inflight : Fld := ⟨47, 32⟩
abbrev NSR_STATUS_state : Fld := ⟨1, 0⟩
/-- 08 R244. -/
abbrev NSR_ERR (n : Nat) : Nat := 0x1C10020 + n * 0x20000
abbrev NSR_ERR_request_addr : Fld := ⟨0, 0⟩
/-- 08 R244. -/
abbrev NSR_ERR_ADDR (n : Nat) : Nat := 0x1C10028 + n * 0x20000
abbrev NSR_ERR_ADDR_address : Fld := ⟨47, 0⟩
/-- 08 R244. -/
abbrev NSR_ATOMS_READ (n : Nat) : Nat := 0x1C10030 + n * 0x20000
abbrev NSR_ATOMS_READ_count : Fld := ⟨63, 0⟩
/-- 08 R244. -/
abbrev NSR_REDUCE_REQS (n : Nat) : Nat := 0x1C10038 + n * 0x20000
abbrev NSR_REDUCE_REQS_count : Fld := ⟨63, 0⟩
/-- 08 R244. -/
abbrev NSR_PARTIALS (n : Nat) : Nat := 0x1C10040 + n * 0x20000
abbrev NSR_PARTIALS_count : Fld := ⟨63, 0⟩
/-- 08 R244. -/
abbrev NSR_RAW_ROWS (n : Nat) : Nat := 0x1C10048 + n * 0x20000
abbrev NSR_RAW_ROWS_count : Fld := ⟨63, 0⟩
/-- 08 R244. -/
abbrev NSR_BYTES_OUT (n : Nat) : Nat := 0x1C10050 + n * 0x20000
abbrev NSR_BYTES_OUT_count : Fld := ⟨63, 0⟩
/-- 08 R244. -/
abbrev NSR_POP_STEP (n : Nat) : Nat := 0x1C10058 + n * 0x20000
abbrev NSR_POP_STEP_step : Fld := ⟨63, 0⟩
/-- 08 R244. -/
abbrev NSR_POP_STATUS (n : Nat) : Nat := 0x1C10060 + n * 0x20000
abbrev NSR_POP_STATUS_saturated : Fld := ⟨31, 31⟩
abbrev NSR_POP_STATUS_entries : Fld := ⟨10, 0⟩
/-- 08 R244. -/
abbrev NSR_POP_ADDR (n : Nat) (i : Nat) : Nat := 0x1C18000 + n * 0x20000 + i * 32
abbrev NSR_POP_ADDR_valid : Fld := ⟨63, 63⟩
abbrev NSR_POP_ADDR_address : Fld := ⟨47, 6⟩
/-- 08 R244. -/
abbrev NSR_POP_COUNT (n : Nat) (i : Nat) : Nat := 0x1C18008 + n * 0x20000 + i * 32
abbrev NSR_POP_COUNT_value : Fld := ⟨47, 0⟩
/-- 08 R244. -/
abbrev NSR_POP_FLOOR (n : Nat) (i : Nat) : Nat := 0x1C18010 + n * 0x20000 + i * 32
abbrev NSR_POP_FLOOR_floor : Fld := ⟨47, 0⟩
/-- 09 R272. -/
abbrev EMB_CTRL : Nat := 0x2700000
abbrev EMB_CTRL_clear_counts : Fld := ⟨0, 0⟩
/-- 09 R272. -/
abbrev EMB_ERR : Nat := 0x2700008
abbrev EMB_ERR_columns : Fld := ⟨4, 4⟩
abbrev EMB_ERR_descriptor : Fld := ⟨3, 3⟩
abbrev EMB_ERR_busy_write : Fld := ⟨2, 2⟩
abbrev EMB_ERR_record_refused : Fld := ⟨1, 1⟩
abbrev EMB_ERR_rec_full : Fld := ⟨0, 0⟩
/-- 09 R272. -/
abbrev EMB_TABLE_REG : Nat := 0x2700010
abbrev EMB_TABLE_REG_registry : Fld := ⟨47, 0⟩
/-- 09 R272. -/
abbrev EMB_SKIPPED_STEPS : Nat := 0x2700018
abbrev EMB_SKIPPED_STEPS_steps : Fld := ⟨63, 0⟩
/-- 09 R272. -/
abbrev EMB_REC (i : Nat) : Nat := 0x2700100 + i * 64
abbrev EMB_REC_size_mib : Fld := ⟨63, 48⟩
abbrev EMB_REC_base : Fld := ⟨47, 20⟩
/-- 09 R272. -/
abbrev EMB_STATUS (i : Nat) : Nat := 0x2700108 + i * 64
abbrev EMB_STATUS_used_odd : Fld := ⟨63, 33⟩
abbrev EMB_STATUS_used_even : Fld := ⟨32, 2⟩
abbrev EMB_STATUS_state : Fld := ⟨1, 0⟩
/-- 09 R272. -/
abbrev EMB_RECORDS (i : Nat) : Nat := 0x2700110 + i * 64
abbrev EMB_RECORDS_count : Fld := ⟨63, 0⟩
/-- 09 R272. -/
abbrev EMB_ROWS_APPLIED (i : Nat) : Nat := 0x2700118 + i * 64
abbrev EMB_ROWS_APPLIED_count : Fld := ⟨63, 0⟩
/-- 09 R272. -/
abbrev EMB_FORWARDED (i : Nat) : Nat := 0x2700120 + i * 64
abbrev EMB_FORWARDED_saturated : Fld := ⟨63, 63⟩
abbrev EMB_FORWARDED_count : Fld := ⟨47, 0⟩
/-- 09 R272. -/
abbrev EMB_LOAD_STEP (i : Nat) : Nat := 0x2700128 + i * 64
abbrev EMB_LOAD_STEP_count : Fld := ⟨63, 0⟩
/-- 09 R272. -/
abbrev EMB_BAD_RECORDS (i : Nat) : Nat := 0x2700130 + i * 64
abbrev EMB_BAD_RECORDS_saturated : Fld := ⟨63, 63⟩
abbrev EMB_BAD_RECORDS_count : Fld := ⟨47, 0⟩
/-- 09 R273. -/
abbrev TRH_ID (n : Nat) : Nat := 0x2600000 + n * 0x40000
abbrev TRH_ID_present : Fld := ⟨31, 31⟩
abbrev TRH_ID_engine : Fld := ⟨0, 0⟩
/-- 09 R273. -/
abbrev TRH_CTRL (n : Nat) : Nat := 0x2600008 + n * 0x40000
abbrev TRH_CTRL_clear_counts : Fld := ⟨3, 3⟩
abbrev TRH_CTRL_abort : Fld := ⟨2, 2⟩
abbrev TRH_CTRL_resume : Fld := ⟨1, 1⟩
abbrev TRH_CTRL_halt : Fld := ⟨0, 0⟩
/-- 09 R273. -/
abbrev TRH_STATUS (n : Nat) : Nat := 0x2600010 + n * 0x40000
abbrev TRH_STATUS_stubs : Fld := ⟨47, 32⟩
abbrev TRH_STATUS_migrating : Fld := ⟨31, 16⟩
abbrev TRH_STATUS_state : Fld := ⟨2, 0⟩
/-- 09 R273. -/
abbrev TRH_POLICY (n : Nat) : Nat := 0x2600018 + n * 0x40000
abbrev TRH_POLICY_imbalance : Fld := ⟨13, 8⟩
abbrev TRH_POLICY_auto_class : Fld := ⟨2, 2⟩
abbrev TRH_POLICY_cross_device : Fld := ⟨1, 1⟩
abbrev TRH_POLICY_auto_move : Fld := ⟨0, 0⟩
/-- 09 R273. -/
abbrev TRH_LIMITS (n : Nat) : Nat := 0x2600020 + n * 0x40000
abbrev TRH_LIMITS_min_count : Fld := ⟨31, 16⟩
abbrev TRH_LIMITS_max_rows : Fld := ⟨12, 0⟩
/-- 09 R273. -/
abbrev TRH_CLASS_THRESH (n : Nat) : Nat := 0x2600028 + n * 0x40000
abbrev TRH_CLASS_THRESH_promote : Fld := ⟨31, 0⟩
/-- 09 R273. -/
abbrev TRH_RECLASS_STEP (n : Nat) : Nat := 0x2600030 + n * 0x40000
abbrev TRH_RECLASS_STEP_step : Fld := ⟨63, 0⟩
/-- 09 R273. -/
abbrev TRH_ERR (n : Nat) : Nat := 0x2600038 + n * 0x40000
abbrev TRH_ERR_busy_write : Fld := ⟨2, 2⟩
abbrev TRH_ERR_stub_full : Fld := ⟨1, 1⟩
abbrev TRH_ERR_abandoned : Fld := ⟨0, 0⟩
/-- 09 R273. -/
abbrev TRH_ROWS_COMMITTED (n : Nat) : Nat := 0x2600040 + n * 0x40000
abbrev TRH_ROWS_COMMITTED_count : Fld := ⟨63, 0⟩
/-- 09 R273. -/
abbrev TRH_ROWS_RECOPIED (n : Nat) : Nat := 0x2600048 + n * 0x40000
abbrev TRH_ROWS_RECOPIED_count : Fld := ⟨63, 0⟩
/-- 09 R273. -/
abbrev TRH_COMMITS_DEFERRED (n : Nat) : Nat := 0x2600050 + n * 0x40000
abbrev TRH_COMMITS_DEFERRED_saturated : Fld := ⟨63, 63⟩
abbrev TRH_COMMITS_DEFERRED_count : Fld := ⟨47, 0⟩
/-- 09 R273. -/
abbrev TRH_COPY_TIMEOUT (n : Nat) : Nat := 0x2600058 + n * 0x40000
abbrev TRH_COPY_TIMEOUT_us : Fld := ⟨15, 0⟩
/-- 09 R273. -/
abbrev TRH_PARTNER (n : Nat) (i : Nat) : Nat := 0x2600100 + n * 0x40000 + i * 8
abbrev TRH_PARTNER_valid : Fld := ⟨31, 31⟩
abbrev TRH_PARTNER_device : Fld := ⟨15, 0⟩
/-- 10 R300. -/
abbrev MEM_ID (n : Nat) : Nat := 0x1C00000 + n * 0x20000
abbrev MEM_ID_present : Fld := ⟨31, 31⟩
abbrev MEM_ID_stack : Fld := ⟨2, 0⟩
/-- 10 R300. -/
abbrev MEM_CTRL (n : Nat) : Nat := 0x1C00008 + n * 0x20000
abbrev MEM_CTRL_clear_counts : Fld := ⟨1, 1⟩
abbrev MEM_CTRL_scrub_now : Fld := ⟨0, 0⟩
/-- 10 R300. -/
abbrev MEM_STATUS (n : Nat) : Nat := 0x1C00010 + n * 0x20000
abbrev MEM_STATUS_temp : Fld := ⟨47, 40⟩
abbrev MEM_STATUS_queue_max : Fld := ⟨30, 24⟩
abbrev MEM_STATUS_refresh_x2 : Fld := ⟨2, 2⟩
abbrev MEM_STATUS_state : Fld := ⟨1, 0⟩
/-- 10 R300. -/
abbrev MEM_CFG (n : Nat) : Nat := 0x1C00018 + n * 0x20000
abbrev MEM_CFG_age_limit : Fld := ⟨31, 16⟩
abbrev MEM_CFG_mark_threshold : Fld := ⟨15, 8⟩
abbrev MEM_CFG_auto_mark : Fld := ⟨0, 0⟩
/-- 10 R300. -/
abbrev MEM_SCRUB (n : Nat) : Nat := 0x1C00020 + n * 0x20000
abbrev MEM_SCRUB_period_hours : Fld := ⟨15, 0⟩
/-- 10 R300. -/
abbrev MEM_SCRUB_POS (n : Nat) : Nat := 0x1C00028 + n * 0x20000
abbrev MEM_SCRUB_POS_position : Fld := ⟨35, 6⟩
/-- 10 R300. -/
abbrev MEM_ERR (n : Nat) : Nat := 0x1C00030 + n * 0x20000
abbrev MEM_ERR_training : Fld := ⟨5, 5⟩
abbrev MEM_ERR_ca_retry : Fld := ⟨4, 4⟩
abbrev MEM_ERR_mark_set : Fld := ⟨3, 3⟩
abbrev MEM_ERR_ue_scrub : Fld := ⟨2, 2⟩
abbrev MEM_ERR_ue_read : Fld := ⟨1, 1⟩
abbrev MEM_ERR_ce : Fld := ⟨0, 0⟩
/-- 10 R300. -/
abbrev MEM_UE_ADDR (n : Nat) : Nat := 0x1C00038 + n * 0x20000
abbrev MEM_UE_ADDR_address : Fld := ⟨47, 0⟩
/-- 10 R300. -/
abbrev MEM_CE_COUNT (n : Nat) : Nat := 0x1C00040 + n * 0x20000
abbrev MEM_CE_COUNT_saturated : Fld := ⟨63, 63⟩
abbrev MEM_CE_COUNT_count : Fld := ⟨47, 0⟩
/-- 10 R300. -/
abbrev MEM_UE_COUNT (n : Nat) : Nat := 0x1C00048 + n * 0x20000
abbrev MEM_UE_COUNT_saturated : Fld := ⟨63, 63⟩
abbrev MEM_UE_COUNT_count : Fld := ⟨47, 0⟩
/-- 10 R300. -/
abbrev MEM_BYTES_READ (n : Nat) : Nat := 0x1C00050 + n * 0x20000
abbrev MEM_BYTES_READ_count : Fld := ⟨63, 0⟩
/-- 10 R300. -/
abbrev MEM_BYTES_WRITTEN (n : Nat) : Nat := 0x1C00058 + n * 0x20000
abbrev MEM_BYTES_WRITTEN_count : Fld := ⟨63, 0⟩
/-- 10 R300. -/
abbrev MEM_REGION_BASE (n : Nat) : Nat := 0x1C00060 + n * 0x20000
abbrev MEM_REGION_BASE_entries : Fld := ⟨60, 48⟩
abbrev MEM_REGION_BASE_address : Fld := ⟨47, 0⟩
/-- 10 R300. -/
abbrev MEM_MARK (n : Nat) (i : Nat) : Nat := 0x1C00100 + n * 0x20000 + i * 8
abbrev MEM_MARK_valid : Fld := ⟨31, 31⟩
abbrev MEM_MARK_source : Fld := ⟨30, 30⟩
abbrev MEM_MARK_pin : Fld := ⟨5, 0⟩
/-- 10 R301. -/
abbrev MEM_SRAM_CTRL : Nat := 0x1F00000
abbrev MEM_SRAM_CTRL_clear_counts : Fld := ⟨0, 0⟩
/-- 10 R301. -/
abbrev MEM_SRAM_ERR : Nat := 0x1F00008
abbrev MEM_SRAM_ERR_ue_other : Fld := ⟨2, 2⟩
abbrev MEM_SRAM_ERR_ue_data : Fld := ⟨1, 1⟩
abbrev MEM_SRAM_ERR_ce : Fld := ⟨0, 0⟩
/-- 10 R301. -/
abbrev MEM_SRAM_UE_LOC : Nat := 0x1F00010
abbrev MEM_SRAM_UE_LOC_kind : Fld := ⟨63, 56⟩
abbrev MEM_SRAM_UE_LOC_instance : Fld := ⟨55, 48⟩
abbrev MEM_SRAM_UE_LOC_offset : Fld := ⟨47, 0⟩
/-- 10 R301. -/
abbrev MEM_SRAM_CE_COUNT : Nat := 0x1F00018
abbrev MEM_SRAM_CE_COUNT_saturated : Fld := ⟨63, 63⟩
abbrev MEM_SRAM_CE_COUNT_count : Fld := ⟨47, 0⟩
/-- 10 R301. -/
abbrev MEM_SRAM_UE_COUNT : Nat := 0x1F00020
abbrev MEM_SRAM_UE_COUNT_saturated : Fld := ⟨63, 63⟩
abbrev MEM_SRAM_UE_COUNT_count : Fld := ⟨47, 0⟩
/-- 11 R321. -/
abbrev LNK_ID (n : Nat) : Nat := 0x2000000 + n * 0x4000
abbrev LNK_ID_present : Fld := ⟨31, 31⟩
abbrev LNK_ID_link : Fld := ⟨6, 0⟩
/-- 11 R321. -/
abbrev LNK_CTRL (n : Nat) : Nat := 0x2000008 + n * 0x4000
abbrev LNK_CTRL_clear_counts : Fld := ⟨1, 1⟩
abbrev LNK_CTRL_retrain : Fld := ⟨0, 0⟩
/-- 11 R321. -/
abbrev LNK_STATUS (n : Nat) : Nat := 0x2000010 + n * 0x4000
abbrev LNK_STATUS_retry_used : Fld := ⟨47, 32⟩
abbrev LNK_STATUS_in_port : Fld := ⟨7, 7⟩
abbrev LNK_STATUS_state : Fld := ⟨2, 0⟩
/-- 11 R321. -/
abbrev LNK_CFG (n : Nat) : Nat := 0x2000018 + n * 0x4000
abbrev LNK_CFG_enable : Fld := ⟨31, 31⟩
abbrev LNK_CFG_port : Fld := ⟨6, 0⟩
/-- 11 R321. -/
abbrev LNK_RETRY_CFG (n : Nat) : Nat := 0x2000020 + n * 0x4000
abbrev LNK_RETRY_CFG_auto_retrain : Fld := ⟨31, 31⟩
abbrev LNK_RETRY_CFG_max_retries : Fld := ⟨23, 16⟩
abbrev LNK_RETRY_CFG_deadline_ns : Fld := ⟨15, 0⟩
/-- 11 R321. -/
abbrev LNK_ERR (n : Nat) : Nat := 0x2000028 + n * 0x4000
abbrev LNK_ERR_buffer_ue : Fld := ⟨4, 4⟩
abbrev LNK_ERR_neighbour : Fld := ⟨3, 3⟩
abbrev LNK_ERR_packet : Fld := ⟨2, 2⟩
abbrev LNK_ERR_down : Fld := ⟨1, 1⟩
abbrev LNK_ERR_training : Fld := ⟨0, 0⟩
/-- 11 R321. -/
abbrev LNK_NEIGHBOUR (n : Nat) : Nat := 0x2000030 + n * 0x4000
abbrev LNK_NEIGHBOUR_valid : Fld := ⟨63, 63⟩
abbrev LNK_NEIGHBOUR_port : Fld := ⟨38, 32⟩
abbrev LNK_NEIGHBOUR_link : Fld := ⟨22, 16⟩
abbrev LNK_NEIGHBOUR_device : Fld := ⟨15, 0⟩
/-- 11 R321. -/
abbrev LNK_SEQ (n : Nat) : Nat := 0x2000038 + n * 0x4000
abbrev LNK_SEQ_tx_next : Fld := ⟨63, 48⟩
abbrev LNK_SEQ_tx_acked : Fld := ⟨47, 32⟩
abbrev LNK_SEQ_rx_expected : Fld := ⟨15, 0⟩
/-- 11 R321. -/
abbrev LNK_TX_BLOCKS (n : Nat) : Nat := 0x2000040 + n * 0x4000
abbrev LNK_TX_BLOCKS_count : Fld := ⟨63, 0⟩
/-- 11 R321. -/
abbrev LNK_RX_BLOCKS (n : Nat) : Nat := 0x2000048 + n * 0x4000
abbrev LNK_RX_BLOCKS_count : Fld := ⟨63, 0⟩
/-- 11 R321. -/
abbrev LNK_TX_PAYLOAD (n : Nat) : Nat := 0x2000050 + n * 0x4000
abbrev LNK_TX_PAYLOAD_count : Fld := ⟨63, 0⟩
/-- 11 R321. -/
abbrev LNK_RX_PAYLOAD (n : Nat) : Nat := 0x2000058 + n * 0x4000
abbrev LNK_RX_PAYLOAD_count : Fld := ⟨63, 0⟩
/-- 11 R321. -/
abbrev LNK_FEC_CORRECTED (n : Nat) : Nat := 0x2000060 + n * 0x4000
abbrev LNK_FEC_CORRECTED_saturated : Fld := ⟨63, 63⟩
abbrev LNK_FEC_CORRECTED_count : Fld := ⟨47, 0⟩
/-- 11 R321. -/
abbrev LNK_FEC_UNCORRECTABLE (n : Nat) : Nat := 0x2000068 + n * 0x4000
abbrev LNK_FEC_UNCORRECTABLE_saturated : Fld := ⟨63, 63⟩
abbrev LNK_FEC_UNCORRECTABLE_count : Fld := ⟨47, 0⟩
/-- 11 R321. -/
abbrev LNK_CRC_ERRORS (n : Nat) : Nat := 0x2000070 + n * 0x4000
abbrev LNK_CRC_ERRORS_saturated : Fld := ⟨63, 63⟩
abbrev LNK_CRC_ERRORS_count : Fld := ⟨47, 0⟩
/-- 11 R321. -/
abbrev LNK_RETRIES (n : Nat) : Nat := 0x2000078 + n * 0x4000
abbrev LNK_RETRIES_saturated : Fld := ⟨63, 63⟩
abbrev LNK_RETRIES_count : Fld := ⟨47, 0⟩
/-- 11 R321. -/
abbrev LNK_DISCARDS (n : Nat) : Nat := 0x2000080 + n * 0x4000
abbrev LNK_DISCARDS_saturated : Fld := ⟨63, 63⟩
abbrev LNK_DISCARDS_count : Fld := ⟨47, 0⟩
/-- 11 R321. -/
abbrev LNK_LANE (n : Nat) (i : Nat) : Nat := 0x2000100 + n * 0x4000 + i * 8
abbrev LNK_LANE_snr : Fld := ⟨47, 32⟩
abbrev LNK_LANE_precoding : Fld := ⟨8, 8⟩
abbrev LNK_LANE_train_state : Fld := ⟨3, 0⟩
/-- 11 R321. -/
abbrev LNK_DEVICE_ID : Nat := 0x2200000
abbrev LNK_DEVICE_ID_device : Fld := ⟨15, 0⟩
/-- 11 R321. -/
abbrev LNK_VC_WEIGHT : Nat := 0x2200008
abbrev LNK_VC_WEIGHT_request : Fld := ⟨23, 16⟩
abbrev LNK_VC_WEIGHT_collective : Fld := ⟨15, 8⟩
abbrev LNK_VC_WEIGHT_response : Fld := ⟨7, 0⟩
/-- 11 R321. -/
abbrev LNK_GROUP_ROUTE (i : Nat) : Nat := 0x2201000 + i * 8
abbrev LNK_GROUP_ROUTE_valid : Fld := ⟨31, 31⟩
abbrev LNK_GROUP_ROUTE_dateline : Fld := ⟨30, 30⟩
abbrev LNK_GROUP_ROUTE_global : Fld := ⟨29, 29⟩
abbrev LNK_GROUP_ROUTE_alt_valid : Fld := ⟨22, 22⟩
abbrev LNK_GROUP_ROUTE_alt_port : Fld := ⟨21, 15⟩
abbrev LNK_GROUP_ROUTE_port : Fld := ⟨6, 0⟩
/-- 11 R321. -/
abbrev LNK_MEMBER_ROUTE (i : Nat) : Nat := 0x2202000 + i * 8
abbrev LNK_MEMBER_ROUTE_valid : Fld := ⟨31, 31⟩
abbrev LNK_MEMBER_ROUTE_dateline : Fld := ⟨30, 30⟩
abbrev LNK_MEMBER_ROUTE_global : Fld := ⟨29, 29⟩
abbrev LNK_MEMBER_ROUTE_alt_valid : Fld := ⟨22, 22⟩
abbrev LNK_MEMBER_ROUTE_alt_port : Fld := ⟨21, 15⟩
abbrev LNK_MEMBER_ROUTE_port : Fld := ⟨6, 0⟩
/-- 12 R341. -/
abbrev COL_SEED : Nat := 0x2400000
abbrev COL_SEED_seed : Fld := ⟨63, 0⟩
/-- 12 R341. -/
abbrev COL_STEP : Nat := 0x2400008
abbrev COL_STEP_step : Fld := ⟨63, 0⟩
/-- 12 R341. -/
abbrev COL_STEP_FLAGS : Nat := 0x2400010
abbrev COL_STEP_FLAGS_delivered : Fld := ⟨1, 1⟩
abbrev COL_STEP_FLAGS_nonfinite : Fld := ⟨0, 0⟩
/-- 12 R341. -/
abbrev COL_ROLL_CFG : Nat := 0x2400018
abbrev COL_ROLL_CFG_children : Fld := ⟨23, 16⟩
abbrev COL_ROLL_CFG_parent : Fld := ⟨15, 0⟩
/-- 12 R341. -/
abbrev COL_ROLL_STATUS : Nat := 0x2400020
abbrev COL_ROLL_STATUS_count_odd : Fld := ⟨57, 49⟩
abbrev COL_ROLL_STATUS_count_even : Fld := ⟨48, 40⟩
abbrev COL_ROLL_STATUS_released : Fld := ⟨31, 16⟩
abbrev COL_ROLL_STATUS_round_next : Fld := ⟨15, 0⟩
/-- 12 R341. -/
abbrev COL_TIMEOUT : Nat := 0x2400028
abbrev COL_TIMEOUT_us : Fld := ⟨31, 0⟩
/-- 12 R341. -/
abbrev COL_GROUP_BASE : Nat := 0x2400030
abbrev COL_GROUP_BASE_address : Fld := ⟨47, 0⟩
/-- 12 R341. -/
abbrev COL_ERR : Nat := 0x2400038
abbrev COL_ERR_busy_write : Fld := ⟨4, 4⟩
abbrev COL_ERR_fence_mismatch : Fld := ⟨3, 3⟩
abbrev COL_ERR_mismatch : Fld := ⟨2, 2⟩
abbrev COL_ERR_round_ahead : Fld := ⟨1, 1⟩
abbrev COL_ERR_timeout : Fld := ⟨0, 0⟩
/-- 12 R341. -/
abbrev COL_FENCES : Nat := 0x2400040
abbrev COL_FENCES_count : Fld := ⟨63, 0⟩
/-- 12 R341. -/
abbrev COL_ROLL_DISCARDS : Nat := 0x2400048
abbrev COL_ROLL_DISCARDS_saturated : Fld := ⟨63, 63⟩
abbrev COL_ROLL_DISCARDS_count : Fld := ⟨47, 0⟩
/-- 12 R341. -/
abbrev COL_CTRL : Nat := 0x2400050
abbrev COL_CTRL_clear_counts : Fld := ⟨0, 0⟩
/-- 12 R341. -/
abbrev COL_PHASE (i : Nat) : Nat := 0x2400100 + i * 16
abbrev COL_PHASE_valid : Fld := ⟨63, 63⟩
abbrev COL_PHASE_translate : Fld := ⟨62, 62⟩
abbrev COL_PHASE_table : Fld := ⟨47, 0⟩
/-- 12 R341. -/
abbrev COL_PHASE_SIZE (i : Nat) : Nat := 0x2400108 + i * 16
abbrev COL_PHASE_SIZE_group : Fld := ⟨31, 20⟩
abbrev COL_PHASE_SIZE_ranks : Fld := ⟨16, 0⟩
/-- 12 R341. -/
abbrev COL_ENG_ID (n : Nat) : Nat := 0x2410000 + n * 0x10000
abbrev COL_ENG_ID_present : Fld := ⟨31, 31⟩
abbrev COL_ENG_ID_engine : Fld := ⟨0, 0⟩
/-- 12 R341. -/
abbrev COL_ENG_CTRL (n : Nat) : Nat := 0x2410008 + n * 0x10000
abbrev COL_ENG_CTRL_abort : Fld := ⟨2, 2⟩
abbrev COL_ENG_CTRL_resume : Fld := ⟨1, 1⟩
abbrev COL_ENG_CTRL_halt : Fld := ⟨0, 0⟩
/-- 12 R341. -/
abbrev COL_ENG_STATUS (n : Nat) : Nat := 0x2410010 + n * 0x10000
abbrev COL_ENG_STATUS_active : Fld := ⟨31, 16⟩
abbrev COL_ENG_STATUS_state : Fld := ⟨2, 0⟩
/-- 12 R341. -/
abbrev COL_ENG_BYTES_SENT (n : Nat) : Nat := 0x2410018 + n * 0x10000
abbrev COL_ENG_BYTES_SENT_count : Fld := ⟨63, 0⟩
/-- 12 R341. -/
abbrev COL_ENG_BYTES_RECEIVED (n : Nat) : Nat := 0x2410020 + n * 0x10000
abbrev COL_ENG_BYTES_RECEIVED_count : Fld := ⟨63, 0⟩
/-- 13 R361. -/
abbrev STR_STAGE : Nat := 0x400000
abbrev STR_STAGE_address : Fld := ⟨47, 0⟩
/-- 13 R361. -/
abbrev STR_COMMIT : Nat := 0x400008
abbrev STR_COMMIT_epoch : Fld := ⟨31, 0⟩
/-- 13 R361. -/
abbrev STR_STATUS : Nat := 0x400010
abbrev STR_STATUS_commit_status : Fld := ⟨63, 56⟩
abbrev STR_STATUS_stage_status : Fld := ⟨55, 48⟩
abbrev STR_STATUS_stage_section : Fld := ⟨47, 40⟩
abbrev STR_STATUS_unit_kind : Fld := ⟨31, 24⟩
abbrev STR_STATUS_unit_number : Fld := ⟨23, 16⟩
abbrev STR_STATUS_mixed : Fld := ⟨2, 2⟩
abbrev STR_STATUS_staged : Fld := ⟨1, 1⟩
abbrev STR_STATUS_staging : Fld := ⟨0, 0⟩
/-- 13 R361. -/
abbrev STR_EPOCH : Nat := 0x400018
abbrev STR_EPOCH_current : Fld := ⟨31, 0⟩
/-- 13 R361. -/
abbrev STR_ERR : Nat := 0x400020
abbrev STR_ERR_rwl_locked : Fld := ⟨4, 4⟩
abbrev STR_ERR_busy_write : Fld := ⟨3, 3⟩
abbrev STR_ERR_timeout : Fld := ⟨2, 2⟩
abbrev STR_ERR_commit_failed : Fld := ⟨1, 1⟩
abbrev STR_ERR_stage_failed : Fld := ⟨0, 0⟩
/-- 13 R361. -/
abbrev STR_TIMEOUT : Nat := 0x400028
abbrev STR_TIMEOUT_us : Fld := ⟨31, 0⟩
/-- 13 R361. -/
abbrev STR_PENDING_CORES : Nat := 0x400030
abbrev STR_PENDING_CORES_cores : Fld := ⟨31, 0⟩
/-- 13 R361. -/
abbrev STR_PENDING_UNITS : Nat := 0x400038
abbrev STR_PENDING_UNITS_links : Fld := ⟨19, 19⟩
abbrev STR_PENDING_UNITS_control : Fld := ⟨18, 18⟩
abbrev STR_PENDING_UNITS_power : Fld := ⟨17, 17⟩
abbrev STR_PENDING_UNITS_hall : Fld := ⟨16, 16⟩
abbrev STR_PENDING_UNITS_stacks : Fld := ⟨15, 8⟩
abbrev STR_PENDING_UNITS_collective : Fld := ⟨7, 6⟩
abbrev STR_PENDING_UNITS_transhumance : Fld := ⟨5, 4⟩
abbrev STR_PENDING_UNITS_drovers : Fld := ⟨3, 0⟩
/-- 13 R361. -/
abbrev STR_COMMITS : Nat := 0x400040
abbrev STR_COMMITS_count : Fld := ⟨63, 0⟩
/-- 14 R384. -/
abbrev GLB_ID : Nat := 0x0
abbrev GLB_ID_device : Fld := ⟨31, 16⟩
abbrev GLB_ID_stepping : Fld := ⟨15, 8⟩
abbrev GLB_ID_grade : Fld := ⟨7, 0⟩
/-- 14 R384. -/
abbrev GLB_INVENTORY_CORE : Nat := 0x8
abbrev GLB_INVENTORY_CORE_units : Fld := ⟨31, 0⟩
/-- 14 R384. -/
abbrev GLB_INVENTORY_STACK : Nat := 0x10
abbrev GLB_INVENTORY_STACK_units : Fld := ⟨31, 0⟩
/-- 14 R384. -/
abbrev GLB_INVENTORY_ENGINE : Nat := 0x18
abbrev GLB_INVENTORY_ENGINE_units : Fld := ⟨31, 0⟩
/-- 14 R384. -/
abbrev GLB_INVENTORY_LINK_LO : Nat := 0x20
abbrev GLB_INVENTORY_LINK_LO_units : Fld := ⟨31, 0⟩
/-- 14 R384. -/
abbrev GLB_INVENTORY_LINK_MID : Nat := 0x28
abbrev GLB_INVENTORY_LINK_MID_units : Fld := ⟨31, 0⟩
/-- 14 R384. -/
abbrev GLB_INVENTORY_LINK_HI : Nat := 0x30
abbrev GLB_INVENTORY_LINK_HI_units : Fld := ⟨31, 0⟩
/-- 14 R384. -/
abbrev GLB_PRIVILEGE_OWNER : Nat := 0x40
abbrev GLB_PRIVILEGE_OWNER_port : Fld := ⟨0, 0⟩
/-- 14 R384. -/
abbrev GLB_PRIV_OFFER : Nat := 0x48
abbrev GLB_PRIV_OFFER_refused : Fld := ⟨1, 1⟩
abbrev GLB_PRIV_OFFER_offer : Fld := ⟨0, 0⟩
/-- 14 R384. -/
abbrev GLB_PRIV_ACCEPT : Nat := 0x50
abbrev GLB_PRIV_ACCEPT_accept : Fld := ⟨0, 0⟩
/-- 14 R384. -/
abbrev GLB_PORT_STATUS : Nat := 0x58
abbrev GLB_PORT_STATUS_width1 : Fld := ⟨15, 12⟩
abbrev GLB_PORT_STATUS_rate1 : Fld := ⟨11, 8⟩
abbrev GLB_PORT_STATUS_width0 : Fld := ⟨7, 4⟩
abbrev GLB_PORT_STATUS_rate0 : Fld := ⟨3, 0⟩
/-- 14 R385. -/
abbrev QUE_SQ_BASE (n : Nat) : Nat := 0x800000 + n * 0x40
abbrev QUE_SQ_BASE_address : Fld := ⟨63, 12⟩
/-- 14 R385. -/
abbrev QUE_CQ_BASE (n : Nat) : Nat := 0x800008 + n * 0x40
abbrev QUE_CQ_BASE_address : Fld := ⟨63, 12⟩
/-- 14 R385. -/
abbrev QUE_CFG (n : Nat) : Nat := 0x800010 + n * 0x40
abbrev QUE_CFG_enable : Fld := ⟨31, 31⟩
abbrev QUE_CFG_wydak : Fld := ⟨30, 30⟩
abbrev QUE_CFG_epoch_check : Fld := ⟨29, 29⟩
abbrev QUE_CFG_irq_en : Fld := ⟨28, 28⟩
abbrev QUE_CFG_cq_loc : Fld := ⟨27, 27⟩
abbrev QUE_CFG_sq_loc : Fld := ⟨26, 26⟩
abbrev QUE_CFG_cq_size : Fld := ⟨25, 22⟩
abbrev QUE_CFG_sq_size : Fld := ⟨21, 18⟩
abbrev QUE_CFG_vector : Fld := ⟨10, 0⟩
/-- 14 R385. -/
abbrev QUE_INDEX (n : Nat) : Nat := 0x800018 + n * 0x40
abbrev QUE_INDEX_sq_tail : Fld := ⟨63, 48⟩
abbrev QUE_INDEX_sq_head : Fld := ⟨47, 32⟩
abbrev QUE_INDEX_cq_tail : Fld := ⟨31, 16⟩
abbrev QUE_INDEX_cq_head : Fld := ⟨15, 0⟩
/-- 14 R385. -/
abbrev QUE_STATUS (n : Nat) : Nat := 0x800020 + n * 0x40
abbrev QUE_STATUS_frozen : Fld := ⟨31, 31⟩
abbrev QUE_STATUS_phase : Fld := ⟨30, 30⟩
abbrev QUE_STATUS_port : Fld := ⟨23, 23⟩
abbrev QUE_STATUS_class : Fld := ⟨22, 20⟩
abbrev QUE_STATUS_instance : Fld := ⟨19, 15⟩
abbrev QUE_STATUS_flr_lost : Fld := ⟨2, 2⟩
abbrev QUE_STATUS_cfg_err : Fld := ⟨1, 1⟩
abbrev QUE_STATUS_doorbell_err : Fld := ⟨0, 0⟩
/-- 14 R385. -/
abbrev QUE_WYDAK_BASE (n : Nat) : Nat := 0x800028 + n * 0x40
abbrev QUE_WYDAK_BASE_base : Fld := ⟨47, 26⟩
/-- 14 R385. -/
abbrev QUE_CTRL (n : Nat) : Nat := 0x800030 + n * 0x40
abbrev QUE_CTRL_thaw : Fld := ⟨0, 0⟩
/-- 14 R385. -/
abbrev QUE_COMMANDS (n : Nat) : Nat := 0x800038 + n * 0x40
abbrev QUE_COMMANDS_count : Fld := ⟨63, 0⟩
/-- 15 R401. -/
abbrev SCH_ID (n : Nat) : Nat := 0x2800000 + n * 0x10000
abbrev SCH_ID_present : Fld := ⟨31, 31⟩
abbrev SCH_ID_fold : Fld := ⟨1, 0⟩
/-- 15 R401. -/
abbrev SCH_CFG (n : Nat) : Nat := 0x2800008 + n * 0x10000
abbrev SCH_CFG_preempt_min : Fld := ⟨20, 16⟩
abbrev SCH_CFG_preempt_en : Fld := ⟨0, 0⟩
/-- 15 R401. -/
abbrev SCH_STATUS (n : Nat) : Nat := 0x2800010 + n * 0x10000
abbrev SCH_STATUS_pool_used : Fld := ⟨45, 32⟩
abbrev SCH_STATUS_tt_used : Fld := ⟨28, 16⟩
abbrev SCH_STATUS_core1 : Fld := ⟨7, 4⟩
abbrev SCH_STATUS_core0 : Fld := ⟨3, 0⟩
/-- 15 R401. -/
abbrev SCH_ERR (n : Nat) : Nat := 0x2800018 + n * 0x10000
abbrev SCH_ERR_fw_write : Fld := ⟨2, 2⟩
abbrev SCH_ERR_stall : Fld := ⟨1, 1⟩
abbrev SCH_ERR_ack_state : Fld := ⟨0, 0⟩
/-- 15 R401. -/
abbrev SCH_DISPATCHES (n : Nat) : Nat := 0x2800020 + n * 0x10000
abbrev SCH_DISPATCHES_count : Fld := ⟨63, 0⟩
/-- 15 R401. -/
abbrev SCH_STALLS (n : Nat) : Nat := 0x2800028 + n * 0x10000
abbrev SCH_STALLS_saturated : Fld := ⟨63, 63⟩
abbrev SCH_STALLS_count : Fld := ⟨47, 0⟩
/-- 15 R401. -/
abbrev SCH_PREEMPTS (n : Nat) : Nat := 0x2800030 + n * 0x10000
abbrev SCH_PREEMPTS_count : Fld := ⟨63, 0⟩
/-- 15 R401. -/
abbrev SCH_CTRL (n : Nat) : Nat := 0x2800038 + n * 0x10000
abbrev SCH_CTRL_clear_counts : Fld := ⟨0, 0⟩
/-- 15 R401. -/
abbrev SCH_SRC (n : Nat) (i : Nat) : Nat := 0x2800100 + n * 0x10000 + i * 8
abbrev SCH_SRC_enable : Fld := ⟨31, 31⟩
abbrev SCH_SRC_level : Fld := ⟨30, 26⟩
abbrev SCH_SRC_flock_en : Fld := ⟨25, 25⟩
abbrev SCH_SRC_flock : Fld := ⟨24, 13⟩
abbrev SCH_SRC_thread : Fld := ⟨9, 0⟩
/-- 15 R401. -/
abbrev SCH_TICK : Nat := 0x2840000
abbrev SCH_TICK_tick : Fld := ⟨63, 0⟩
/-- 15 R401. -/
abbrev SCH_FW_LOAD : Nat := 0x2840008
abbrev SCH_FW_LOAD_length : Fld := ⟨31, 0⟩
/-- 15 R401. -/
abbrev SCH_FW_STATUS : Nat := 0x2840010
abbrev SCH_FW_STATUS_last_status : Fld := ⟨31, 24⟩
abbrev SCH_FW_STATUS_attempts : Fld := ⟨23, 16⟩
abbrev SCH_FW_STATUS_last_reason : Fld := ⟨15, 12⟩
abbrev SCH_FW_STATUS_kernel_ready : Fld := ⟨8, 8⟩
abbrev SCH_FW_STATUS_state : Fld := ⟨1, 0⟩
/-- 15 R401. -/
abbrev SCH_RESET : Nat := 0x2840018
abbrev SCH_RESET_key : Fld := ⟨31, 0⟩
/-- 15 R401. -/
abbrev SCH_POST_ARG (n : Nat) : Nat := 0x2840100 + n * 0x40
abbrev SCH_POST_ARG_arg : Fld := ⟨63, 0⟩
/-- 15 R401. -/
abbrev SCH_POST (n : Nat) : Nat := 0x2840108 + n * 0x40
abbrev SCH_POST_fold : Fld := ⟨62, 61⟩
abbrev SCH_POST_level : Fld := ⟨60, 56⟩
abbrev SCH_POST_flock_en : Fld := ⟨55, 55⟩
abbrev SCH_POST_flock : Fld := ⟨54, 43⟩
abbrev SCH_POST_thread : Fld := ⟨42, 33⟩
abbrev SCH_POST_delay : Fld := ⟨31, 0⟩
/-- 15 R401. -/
abbrev SCH_POST_STATUS (n : Nat) : Nat := 0x2840110 + n * 0x40
abbrev SCH_POST_STATUS_cancel : Fld := ⟨17, 16⟩
abbrev SCH_POST_STATUS_timetable : Fld := ⟨15, 15⟩
abbrev SCH_POST_STATUS_fold : Fld := ⟨14, 13⟩
abbrev SCH_POST_STATUS_handle : Fld := ⟨12, 0⟩
/-- 15 R401. -/
abbrev SCH_DISPATCH (n : Nat) : Nat := 0x2840118 + n * 0x40
abbrev SCH_DISPATCH_valid : Fld := ⟨63, 63⟩
abbrev SCH_DISPATCH_taken : Fld := ⟨62, 62⟩
abbrev SCH_DISPATCH_preempt : Fld := ⟨61, 61⟩
abbrev SCH_DISPATCH_level : Fld := ⟨60, 56⟩
abbrev SCH_DISPATCH_flock_en : Fld := ⟨55, 55⟩
abbrev SCH_DISPATCH_flock : Fld := ⟨54, 43⟩
abbrev SCH_DISPATCH_thread : Fld := ⟨42, 33⟩
abbrev SCH_DISPATCH_resumed : Fld := ⟨32, 32⟩
abbrev SCH_DISPATCH_handle : Fld := ⟨12, 0⟩
/-- 15 R401. -/
abbrev SCH_DISPATCH_ARG (n : Nat) : Nat := 0x2840120 + n * 0x40
abbrev SCH_DISPATCH_ARG_arg : Fld := ⟨63, 0⟩
/-- 15 R401. -/
abbrev SCH_ACK (n : Nat) : Nat := 0x2840128 + n * 0x40
abbrev SCH_ACK_action : Fld := ⟨1, 0⟩
/-- 15 R401. -/
abbrev SCH_CANCEL (n : Nat) : Nat := 0x2840130 + n * 0x40
abbrev SCH_CANCEL_fold : Fld := ⟨13, 12⟩
abbrev SCH_CANCEL_handle : Fld := ⟨11, 0⟩
/-- 16 R418. -/
abbrev REC_CTRL : Nat := 0x2500000
abbrev REC_CTRL_clear_counts : Fld := ⟨1, 1⟩
abbrev REC_CTRL_abort : Fld := ⟨0, 0⟩
/-- 16 R418. -/
abbrev REC_CFG : Nat := 0x2500008
abbrev REC_CFG_group : Fld := ⟨13, 2⟩
abbrev REC_CFG_mode : Fld := ⟨1, 0⟩
/-- 16 R418. -/
abbrev REC_BASE : Nat := 0x2500010
abbrev REC_BASE_size_gib : Fld := ⟨53, 48⟩
abbrev REC_BASE_address : Fld := ⟨47, 6⟩
/-- 16 R418. -/
abbrev REC_STEP : Nat := 0x2500018
abbrev REC_STEP_step : Fld := ⟨63, 0⟩
/-- 16 R418. -/
abbrev REC_STATUS : Nat := 0x2500020
abbrev REC_STATUS_used : Fld := ⟨63, 2⟩
abbrev REC_STATUS_state : Fld := ⟨1, 0⟩
/-- 16 R418. -/
abbrev REC_ERR : Nat := 0x2500028
abbrev REC_ERR_busy_write : Fld := ⟨2, 2⟩
abbrev REC_ERR_diverged : Fld := ⟨1, 1⟩
abbrev REC_ERR_overflow : Fld := ⟨0, 0⟩
/-- 16 R418. -/
abbrev REC_SUPPRESSED : Nat := 0x2500030
abbrev REC_SUPPRESSED_count : Fld := ⟨63, 0⟩
/-- 16 R418. -/
abbrev REC_UNMATCHED : Nat := 0x2500038
abbrev REC_UNMATCHED_saturated : Fld := ⟨63, 63⟩
abbrev REC_UNMATCHED_count : Fld := ⟨47, 0⟩
/-- 17 R439. -/
abbrev HMN_CTRL : Nat := 0x100000
abbrev HMN_CTRL_clear_counts : Fld := ⟨0, 0⟩
/-- 17 R439. -/
abbrev HMN_VIOL : Nat := 0x100008
abbrev HMN_VIOL_code : Fld := ⟨63, 48⟩
abbrev HMN_VIOL_kind : Fld := ⟨39, 36⟩
abbrev HMN_VIOL_sub : Fld := ⟨29, 16⟩
abbrev HMN_VIOL_class : Fld := ⟨7, 0⟩
/-- 17 R439. -/
abbrev HMN_VIOL_ADDR : Nat := 0x100010
abbrev HMN_VIOL_ADDR_address : Fld := ⟨63, 0⟩
/-- 17 R439. -/
abbrev HMN_VIOLATIONS : Nat := 0x100018
abbrev HMN_VIOLATIONS_saturated : Fld := ⟨63, 63⟩
abbrev HMN_VIOLATIONS_count : Fld := ⟨47, 0⟩
/-- 17 R439. -/
abbrev HMN_THAW : Nat := 0x100020
abbrev HMN_THAW_all : Fld := ⟨31, 31⟩
abbrev HMN_THAW_sub : Fld := ⟨29, 16⟩
abbrev HMN_THAW_class : Fld := ⟨7, 0⟩
/-- 17 R439. -/
abbrev HMN_FROZEN (i : Nat) : Nat := 0x100028 + i * 8
abbrev HMN_FROZEN_classes : Fld := ⟨63, 0⟩
/-- 17 R439. -/
abbrev HMN_WIN_STAGE (i : Nat) : Nat := 0x100100 + i * 8
abbrev HMN_WIN_STAGE_word : Fld := ⟨63, 0⟩
/-- 17 R439. -/
abbrev HMN_WIN_WRITE : Nat := 0x100120
abbrev HMN_WIN_WRITE_index : Fld := ⟨15, 8⟩
abbrev HMN_WIN_WRITE_class : Fld := ⟨7, 0⟩
/-- 17 R439. -/
abbrev HMN_WIN_SEL : Nat := 0x100128
abbrev HMN_WIN_SEL_index : Fld := ⟨15, 8⟩
abbrev HMN_WIN_SEL_class : Fld := ⟨7, 0⟩
/-- 17 R439. -/
abbrev HMN_WIN_VIEW (i : Nat) : Nat := 0x100130 + i * 8
abbrev HMN_WIN_VIEW_word : Fld := ⟨63, 0⟩
/-- 17 R440. -/
abbrev LOG_CTRL : Nat := 0x200000
abbrev LOG_CTRL_clear_counts : Fld := ⟨1, 1⟩
abbrev LOG_CTRL_flush : Fld := ⟨0, 0⟩
/-- 17 R440. -/
abbrev LOG_FREEZE : Nat := 0x200008
abbrev LOG_FREEZE_frozen : Fld := ⟨0, 0⟩
/-- 17 R440. -/
abbrev LOG_CURSOR : Nat := 0x200010
abbrev LOG_CURSOR_store : Fld := ⟨63, 63⟩
abbrev LOG_CURSOR_slot : Fld := ⟨17, 0⟩
/-- 17 R440. -/
abbrev LOG_STATUS : Nat := 0x200018
abbrev LOG_STATUS_last_flush : Fld := ⟨7, 4⟩
abbrev LOG_STATUS_mram_fail : Fld := ⟨1, 1⟩
abbrev LOG_STATUS_flushing : Fld := ⟨0, 0⟩
/-- 17 R440. -/
abbrev LOG_SRAM_HEAD : Nat := 0x200020
abbrev LOG_SRAM_HEAD_count : Fld := ⟨63, 0⟩
/-- 17 R440. -/
abbrev LOG_SRAM_FLUSHED : Nat := 0x200028
abbrev LOG_SRAM_FLUSHED_count : Fld := ⟨63, 0⟩
/-- 17 R440. -/
abbrev LOG_MRAM_HEAD : Nat := 0x200030
abbrev LOG_MRAM_HEAD_count : Fld := ⟨63, 0⟩
/-- 17 R440. -/
abbrev LOG_LOST : Nat := 0x200038
abbrev LOG_LOST_saturated : Fld := ⟨63, 63⟩
abbrev LOG_LOST_count : Fld := ⟨47, 0⟩
/-- 17 R440. -/
abbrev LOG_DROPPED : Nat := 0x200040
abbrev LOG_DROPPED_saturated : Fld := ⟨63, 63⟩
abbrev LOG_DROPPED_count : Fld := ⟨47, 0⟩
/-- 17 R440. -/
abbrev LOG_POWER_CYCLES : Nat := 0x200048
abbrev LOG_POWER_CYCLES_count : Fld := ⟨63, 0⟩
/-- 17 R440. -/
abbrev LOG_HOURS : Nat := 0x200050
abbrev LOG_HOURS_count : Fld := ⟨63, 0⟩
/-- 17 R440. -/
abbrev LOG_MS : Nat := 0x200058
abbrev LOG_MS_ms : Fld := ⟨21, 0⟩
/-- 17 R440. -/
abbrev LOG_TRIG (i : Nat) : Nat := 0x200100 + i * 8
abbrev LOG_TRIG_valid : Fld := ⟨63, 63⟩
abbrev LOG_TRIG_count : Fld := ⟨52, 48⟩
abbrev LOG_TRIG_mask : Fld := ⟨31, 16⟩
abbrev LOG_TRIG_code : Fld := ⟨15, 0⟩
/-- 17 R440. -/
abbrev LOG_TRIG_REG (i : Nat) : Nat := 0x201000 + i * 8
abbrev LOG_TRIG_REG_offset : Fld := ⟨25, 0⟩
/-- 18 R453. -/
abbrev SEC_ID : Nat := 0x3400000
abbrev SEC_ID_present : Fld := ⟨31, 31⟩
/-- 18 R453. -/
abbrev SEC_CMD : Nat := 0x3400008
abbrev SEC_CMD_arg : Fld := ⟨23, 8⟩
abbrev SEC_CMD_code : Fld := ⟨7, 0⟩
/-- 18 R453. -/
abbrev SEC_STATUS : Nat := 0x3400010
abbrev SEC_STATUS_length : Fld := ⟨31, 16⟩
abbrev SEC_STATUS_status : Fld := ⟨15, 8⟩
abbrev SEC_STATUS_unlocked : Fld := ⟨2, 2⟩
abbrev SEC_STATUS_challenge : Fld := ⟨1, 1⟩
abbrev SEC_STATUS_busy : Fld := ⟨0, 0⟩
/-- 18 R453. -/
abbrev SEC_FUSE : Nat := 0x3400018
abbrev SEC_FUSE_svn_floor : Fld := ⟨7, 0⟩
/-- 18 R453. -/
abbrev SEC_MEAS_COUNT : Nat := 0x3400020
abbrev SEC_MEAS_COUNT_m3 : Fld := ⟨63, 32⟩
abbrev SEC_MEAS_COUNT_m2 : Fld := ⟨31, 0⟩
/-- 18 R453. -/
abbrev SEC_ERR : Nat := 0x3400028
abbrev SEC_ERR_jtag_refused : Fld := ⟨1, 1⟩
abbrev SEC_ERR_busy_write : Fld := ⟨0, 0⟩
/-- 19 R468. -/
abbrev PWR_CTRL : Nat := 0x3000000
abbrev PWR_CTRL_standby : Fld := ⟨0, 0⟩
/-- 19 R468. -/
abbrev PWR_STATUS : Nat := 0x3000008
abbrev PWR_STATUS_cap_w : Fld := ⟨47, 32⟩
abbrev PWR_STATUS_cap_limit : Fld := ⟨23, 16⟩
abbrev PWR_STATUS_cap_floor : Fld := ⟨3, 3⟩
abbrev PWR_STATUS_limiting : Fld := ⟨2, 2⟩
abbrev PWR_STATUS_standby : Fld := ⟨1, 1⟩
abbrev PWR_STATUS_rails_good : Fld := ⟨0, 0⟩
/-- 19 R468. -/
abbrev PWR_IDLE : Nat := 0x3000010
abbrev PWR_IDLE_engine_us : Fld := ⟨31, 16⟩
abbrev PWR_IDLE_core_us : Fld := ⟨15, 0⟩
/-- 19 R468. -/
abbrev PWR_POWER : Nat := 0x3000018
abbrev PWR_POWER_mw : Fld := ⟨31, 0⟩
/-- 19 R468. -/
abbrev PWR_ERR : Nat := 0x3000020
abbrev PWR_ERR_busy_write : Fld := ⟨0, 0⟩
/-- 19 R468. -/
abbrev CLK_STATUS : Nat := 0x3010000
abbrev CLK_STATUS_link_ref : Fld := ⟨36, 36⟩
abbrev CLK_STATUS_pcie_ref : Fld := ⟨35, 35⟩
abbrev CLK_STATUS_control : Fld := ⟨34, 34⟩
abbrev CLK_STATUS_fabric : Fld := ⟨33, 33⟩
abbrev CLK_STATUS_core : Fld := ⟨31, 0⟩
/-- 19 R468. -/
abbrev CLK_CORE (i : Nat) : Nat := 0x3010100 + i * 8
abbrev CLK_CORE_current : Fld := ⟨23, 16⟩
abbrev CLK_CORE_thermal : Fld := ⟨12, 8⟩
abbrev CLK_CORE_max : Fld := ⟨4, 0⟩
/-- 19 R468. -/
abbrev THM_CFG : Nat := 0x3020000
abbrev THM_CFG_alert : Fld := ⟨23, 16⟩
abbrev THM_CFG_hyst : Fld := ⟨11, 8⟩
abbrev THM_CFG_throttle : Fld := ⟨7, 0⟩
/-- 19 R468. -/
abbrev THM_STATUS : Nat := 0x3020008
abbrev THM_STATUS_hottest_t : Fld := ⟨47, 38⟩
abbrev THM_STATUS_hottest : Fld := ⟨37, 32⟩
abbrev THM_STATUS_tripped : Fld := ⟨3, 3⟩
abbrev THM_STATUS_alert : Fld := ⟨2, 2⟩
abbrev THM_STATUS_throttle_1 : Fld := ⟨1, 1⟩
abbrev THM_STATUS_throttle_0 : Fld := ⟨0, 0⟩
/-- 19 R468. -/
abbrev THM_SENSOR (i : Nat) : Nat := 0x3020100 + i * 8
abbrev THM_SENSOR_valid : Fld := ⟨31, 31⟩
abbrev THM_SENSOR_temp : Fld := ⟨9, 0⟩
/-- 20 R482. -/
abbrev MGT_ID : Nat := 0x3800000
abbrev MGT_ID_present : Fld := ⟨31, 31⟩
/-- 20 R482. -/
abbrev MGT_CFG : Nat := 0x3800008
abbrev MGT_CFG_sb_control : Fld := ⟨0, 0⟩
/-- 20 R482. -/
abbrev MGT_STATUS : Nat := 0x3800010
abbrev MGT_STATUS_eid : Fld := ⟨31, 24⟩
abbrev MGT_STATUS_dyn_addr : Fld := ⟨16, 10⟩
abbrev MGT_STATUS_static_addr : Fld := ⟨9, 3⟩
abbrev MGT_STATUS_mode : Fld := ⟨1, 0⟩
/-- 20 R482. -/
abbrev MGT_ERR : Nat := 0x3800018
abbrev MGT_ERR_refused : Fld := ⟨2, 2⟩
abbrev MGT_ERR_malformed : Fld := ⟨1, 1⟩
abbrev MGT_ERR_pec : Fld := ⟨0, 0⟩
/-- 20 R482. -/
abbrev MGT_MESSAGES : Nat := 0x3800020
abbrev MGT_MESSAGES_count : Fld := ⟨63, 0⟩

/-- Registers of the GLB block, part 0. -/
def regs_glb_0 : List RDesc := [
  ⟨0x0, 0, 1, 32, [⟨31, 16, .ro, 18008⟩, ⟨15, 8, .ro, 176⟩, ⟨7, 0, .ro, 0⟩]⟩,
  ⟨0x8, 0, 1, 32, [⟨31, 0, .ro, 0⟩]⟩,
  ⟨0x10, 0, 1, 32, [⟨31, 0, .ro, 0⟩]⟩,
  ⟨0x18, 0, 1, 32, [⟨31, 0, .ro, 0⟩]⟩,
  ⟨0x20, 0, 1, 32, [⟨31, 0, .ro, 0⟩]⟩,
  ⟨0x28, 0, 1, 32, [⟨31, 0, .ro, 0⟩]⟩,
  ⟨0x30, 0, 1, 32, [⟨31, 0, .ro, 0⟩]⟩,
  ⟨0x40, 0, 1, 32, [⟨0, 0, .ro, 0⟩]⟩,
  ⟨0x48, 0, 1, 32, [⟨1, 1, .w1c, 0⟩, ⟨0, 0, .rw, 0⟩]⟩,
  ⟨0x50, 0, 1, 32, [⟨0, 0, .wo, 0⟩]⟩,
  ⟨0x58, 0, 1, 32, [⟨15, 12, .ro, 0⟩, ⟨11, 8, .ro, 0⟩, ⟨7, 4, .ro, 0⟩, ⟨3, 0, .ro, 0⟩]⟩]

/-- Registers of the HMN block, part 0. -/
def regs_hmn_0 : List RDesc := [
  ⟨0x0, 0, 1, 32, [⟨0, 0, .wo, 0⟩]⟩,
  ⟨0x8, 0, 1, 64, [⟨63, 48, .ro, 0⟩, ⟨39, 36, .ro, 0⟩, ⟨29, 16, .ro, 0⟩, ⟨7, 0, .ro, 0⟩]⟩,
  ⟨0x10, 0, 1, 64, [⟨63, 0, .ro, 0⟩]⟩,
  ⟨0x18, 0, 1, 64, [⟨63, 63, .w1c, 0⟩, ⟨47, 0, .ro, 0⟩]⟩,
  ⟨0x20, 0, 1, 32, [⟨31, 31, .wo, 0⟩, ⟨29, 16, .wo, 0⟩, ⟨7, 0, .wo, 0⟩]⟩,
  ⟨0x28, 8, 3, 64, [⟨63, 0, .ro, 0⟩]⟩,
  ⟨0x100, 8, 4, 64, [⟨63, 0, .rw, 0⟩]⟩,
  ⟨0x120, 0, 1, 32, [⟨15, 8, .wo, 0⟩, ⟨7, 0, .wo, 0⟩]⟩,
  ⟨0x128, 0, 1, 32, [⟨15, 8, .rw, 0⟩, ⟨7, 0, .rw, 0⟩]⟩,
  ⟨0x130, 8, 4, 64, [⟨63, 0, .ro, 0⟩]⟩]

/-- Registers of the LOG block, part 0. -/
def regs_log_0 : List RDesc := [
  ⟨0x0, 0, 1, 32, [⟨1, 1, .wo, 0⟩, ⟨0, 0, .wo, 0⟩]⟩,
  ⟨0x8, 0, 1, 32, [⟨0, 0, .rw, 0⟩]⟩,
  ⟨0x10, 0, 1, 64, [⟨63, 63, .rw, 0⟩, ⟨17, 0, .rw, 0⟩]⟩,
  ⟨0x18, 0, 1, 32, [⟨7, 4, .ro, 0⟩, ⟨1, 1, .w1c, 0⟩, ⟨0, 0, .ro, 0⟩]⟩,
  ⟨0x20, 0, 1, 64, [⟨63, 0, .ro, 0⟩]⟩,
  ⟨0x28, 0, 1, 64, [⟨63, 0, .ro, 0⟩]⟩,
  ⟨0x30, 0, 1, 64, [⟨63, 0, .ro, 0⟩]⟩,
  ⟨0x38, 0, 1, 64, [⟨63, 63, .w1c, 0⟩, ⟨47, 0, .ro, 0⟩]⟩,
  ⟨0x40, 0, 1, 64, [⟨63, 63, .w1c, 0⟩, ⟨47, 0, .ro, 0⟩]⟩,
  ⟨0x48, 0, 1, 64, [⟨63, 0, .ro, 0⟩]⟩,
  ⟨0x50, 0, 1, 64, [⟨63, 0, .ro, 0⟩]⟩,
  ⟨0x58, 0, 1, 32, [⟨21, 0, .ro, 0⟩]⟩]

/-- Registers of the LOG block, part 1. -/
def regs_log_1 : List RDesc := [
  ⟨0x100, 8, 32, 64, [⟨63, 63, .rw, 0⟩, ⟨52, 48, .rw, 0⟩, ⟨31, 16, .rw, 0⟩, ⟨15, 0, .rw, 0⟩]⟩,
  ⟨0x1000, 8, 512, 32, [⟨25, 0, .rw, 0⟩]⟩]

/-- Registers of the STR block, part 0. -/
def regs_str_0 : List RDesc := [
  ⟨0x0, 0, 1, 64, [⟨47, 0, .wo, 0⟩]⟩,
  ⟨0x8, 0, 1, 32, [⟨31, 0, .wo, 0⟩]⟩,
  ⟨0x10, 0, 1, 64, [⟨63, 56, .ro, 0⟩, ⟨55, 48, .ro, 0⟩, ⟨47, 40, .ro, 0⟩, ⟨31, 24, .ro, 0⟩, ⟨23, 16, .ro, 0⟩, ⟨2, 2, .ro, 0⟩, ⟨1, 1, .ro, 0⟩, ⟨0, 0, .ro, 0⟩]⟩,
  ⟨0x18, 0, 1, 32, [⟨31, 0, .ro, 0⟩]⟩,
  ⟨0x20, 0, 1, 32, [⟨4, 4, .w1c, 0⟩, ⟨3, 3, .w1c, 0⟩, ⟨2, 2, .w1c, 0⟩, ⟨1, 1, .w1c, 0⟩, ⟨0, 0, .w1c, 0⟩]⟩,
  ⟨0x28, 0, 1, 32, [⟨31, 0, .rw, 0x186a0⟩]⟩,
  ⟨0x30, 0, 1, 32, [⟨31, 0, .ro, 0⟩]⟩,
  ⟨0x38, 0, 1, 64, [⟨19, 19, .ro, 0⟩, ⟨18, 18, .ro, 0⟩, ⟨17, 17, .ro, 0⟩, ⟨16, 16, .ro, 0⟩, ⟨15, 8, .ro, 0⟩, ⟨7, 6, .ro, 0⟩, ⟨5, 4, .ro, 0⟩, ⟨3, 0, .ro, 0⟩]⟩,
  ⟨0x40, 0, 1, 64, [⟨63, 0, .ro, 0⟩]⟩]

/-- Registers of the QUE block, part 0. -/
def regs_que_0 : List RDesc := [
  ⟨0x0, 0, 1, 64, [⟨63, 12, .rw, 0⟩]⟩,
  ⟨0x8, 0, 1, 64, [⟨63, 12, .rw, 0⟩]⟩,
  ⟨0x10, 0, 1, 32, [⟨31, 31, .rw, 0⟩, ⟨30, 30, .rw, 0⟩, ⟨29, 29, .rw, 0⟩, ⟨28, 28, .rw, 0⟩, ⟨27, 27, .rw, 0⟩, ⟨26, 26, .rw, 0⟩, ⟨25, 22, .rw, 4⟩, ⟨21, 18, .rw, 4⟩, ⟨10, 0, .rw, 0⟩]⟩,
  ⟨0x18, 0, 1, 64, [⟨63, 48, .ro, 0⟩, ⟨47, 32, .ro, 0⟩, ⟨31, 16, .ro, 0⟩, ⟨15, 0, .ro, 0⟩]⟩,
  ⟨0x20, 0, 1, 32, [⟨31, 31, .ro, 0⟩, ⟨30, 30, .ro, 1⟩, ⟨23, 23, .ro, 0⟩, ⟨22, 20, .ro, 0⟩, ⟨19, 15, .ro, 0⟩, ⟨2, 2, .w1c, 0⟩, ⟨1, 1, .w1c, 0⟩, ⟨0, 0, .w1c, 0⟩]⟩,
  ⟨0x28, 0, 1, 64, [⟨47, 26, .rw, 0⟩]⟩,
  ⟨0x30, 0, 1, 32, [⟨0, 0, .wo, 0⟩]⟩,
  ⟨0x38, 0, 1, 64, [⟨63, 0, .ro, 0⟩]⟩]

/-- Registers of the COR block, part 0. -/
def regs_cor_0 : List RDesc := [
  ⟨0x0, 0, 1, 32, [⟨31, 31, .ro, 1⟩, ⟨9, 8, .ro, 0⟩, ⟨4, 0, .ro, 0⟩]⟩,
  ⟨0x8, 0, 1, 32, [⟨3, 3, .wo, 0⟩, ⟨2, 2, .wo, 0⟩, ⟨1, 1, .wo, 0⟩, ⟨0, 0, .wo, 0⟩]⟩,
  ⟨0x10, 0, 1, 64, [⟨39, 32, .ro, 0⟩, ⟨22, 16, .ro, 0⟩, ⟨15, 15, .ro, 0⟩, ⟨14, 12, .ro, 0⟩, ⟨11, 11, .ro, 0⟩, ⟨10, 8, .ro, 0⟩, ⟨2, 0, .ro, 0⟩]⟩,
  ⟨0x18, 0, 1, 32, [⟨0, 0, .rw, 1⟩]⟩,
  ⟨0x20, 0, 1, 64, [⟨47, 0, .ro, 0⟩]⟩,
  ⟨0x28, 0, 1, 32, [⟨15, 0, .ro, 0⟩]⟩,
  ⟨0x30, 0, 1, 64, [⟨47, 4, .ro, 0⟩]⟩,
  ⟨0x38, 0, 1, 64, [⟨47, 4, .ro, 0⟩]⟩,
  ⟨0x40, 0, 1, 32, [⟨6, 6, .w1c, 0⟩, ⟨5, 5, .w1c, 0⟩, ⟨4, 4, .w1c, 0⟩, ⟨3, 3, .w1c, 0⟩, ⟨2, 2, .w1c, 0⟩, ⟨1, 1, .w1c, 0⟩, ⟨0, 0, .w1c, 0⟩]⟩,
  ⟨0x48, 0, 1, 32, [⟨31, 0, .rw, 0x10000000⟩]⟩,
  ⟨0x50, 0, 1, 32, [⟨15, 0, .wo, 0⟩]⟩,
  ⟨0x58, 0, 1, 32, [⟨17, 17, .ro, 0⟩, ⟨16, 16, .ro, 0⟩, ⟨15, 0, .ro, 0⟩]⟩]

/-- Registers of the COR block, part 1. -/
def regs_cor_1 : List RDesc := [
  ⟨0x60, 0, 1, 32, [⟨2, 2, .rw, 1⟩, ⟨1, 1, .rw, 1⟩, ⟨0, 0, .rw, 0⟩]⟩,
  ⟨0x68, 0, 1, 64, [⟨63, 63, .w1c, 0⟩, ⟨62, 62, .ro, 0⟩, ⟨61, 61, .ro, 0⟩, ⟨60, 56, .ro, 0⟩, ⟨55, 40, .ro, 0⟩, ⟨31, 0, .ro, 0⟩]⟩,
  ⟨0x70, 0, 1, 64, [⟨47, 0, .ro, 0⟩]⟩,
  ⟨0x78, 0, 1, 64, [⟨63, 63, .w1c, 0⟩, ⟨47, 0, .ro, 0⟩]⟩,
  ⟨0x80, 0, 1, 64, [⟨63, 63, .w1c, 0⟩, ⟨47, 0, .ro, 0⟩]⟩,
  ⟨0x88, 0, 1, 64, [⟨63, 63, .w1c, 0⟩, ⟨47, 0, .ro, 0⟩]⟩,
  ⟨0x90, 0, 1, 64, [⟨63, 0, .ro, 0⟩]⟩,
  ⟨0x98, 0, 1, 64, [⟨47, 0, .ro, 0⟩]⟩,
  ⟨0xA0, 0, 1, 64, [⟨63, 0, .ro, 0⟩]⟩,
  ⟨0xA8, 0, 1, 64, [⟨63, 0, .ro, 0⟩]⟩,
  ⟨0xB0, 0, 1, 32, [⟨11, 8, .ro, 0⟩, ⟨4, 4, .ro, 0⟩, ⟨0, 0, .ro, 0⟩]⟩,
  ⟨0xB8, 0, 1, 32, [⟨15, 0, .rw, 32⟩]⟩]

/-- Registers of the COR block, part 2. -/
def regs_cor_2 : List RDesc := [
  ⟨0x100, 8, 48, 64, [⟨63, 32, .rw, 0⟩, ⟨31, 0, .ro, 0⟩]⟩,
  ⟨0x300, 8, 32, 64, [⟨44, 32, .ro, 0⟩, ⟨31, 28, .ro, 0⟩, ⟨27, 24, .ro, 0⟩, ⟨17, 8, .ro, 0⟩, ⟨7, 0, .ro, 0⟩]⟩,
  ⟨0x10000, 0, 1, 32, [⟨2, 2, .ro, 0⟩, ⟨1, 0, .ro, 0⟩]⟩,
  ⟨0x10008, 0, 1, 32, [⟨31, 24, .rw, 97⟩, ⟨23, 16, .rw, 95⟩, ⟨15, 8, .rw, 101⟩, ⟨0, 0, .rw, 0⟩]⟩,
  ⟨0x10010, 0, 1, 32, [⟨27, 16, .rw, 384⟩, ⟨1, 1, .rw, 0⟩, ⟨0, 0, .rw, 1⟩]⟩,
  ⟨0x10018, 0, 1, 32, [⟨0, 0, .wo, 0⟩]⟩,
  ⟨0x10020, 0, 1, 64, [⟨31, 24, .ro, 0⟩, ⟨23, 16, .ro, 0⟩, ⟨15, 8, .ro, 0⟩, ⟨7, 7, .ro, 0⟩, ⟨6, 6, .ro, 0⟩, ⟨2, 0, .ro, 0⟩]⟩,
  ⟨0x10028, 0, 1, 64, [⟨63, 63, .w1c, 0⟩, ⟨47, 0, .ro, 0⟩]⟩,
  ⟨0x10030, 0, 1, 64, [⟨63, 63, .w1c, 0⟩, ⟨47, 0, .ro, 0⟩]⟩,
  ⟨0x10038, 0, 1, 64, [⟨63, 63, .w1c, 0⟩, ⟨47, 0, .ro, 0⟩]⟩,
  ⟨0x10040, 0, 1, 64, [⟨63, 63, .w1c, 0⟩, ⟨47, 0, .ro, 0⟩]⟩,
  ⟨0x10048, 0, 1, 64, [⟨63, 0, .ro, 0⟩]⟩]

/-- Registers of the COR block, part 3. -/
def regs_cor_3 : List RDesc := [
  ⟨0x10100, 8, 16, 64, [⟨63, 0, .ro, 0⟩]⟩]

/-- Registers of the DRV block, part 0. -/
def regs_drv_0 : List RDesc := [
  ⟨0x0, 0, 1, 32, [⟨31, 31, .ro, 1⟩, ⟨11, 8, .ro, 0⟩, ⟨1, 0, .ro, 0⟩]⟩,
  ⟨0x8, 0, 1, 32, [⟨3, 3, .wo, 0⟩, ⟨2, 2, .wo, 0⟩, ⟨1, 1, .wo, 0⟩, ⟨0, 0, .wo, 0⟩]⟩,
  ⟨0x10, 0, 1, 64, [⟨63, 32, .ro, 0⟩, ⟨23, 16, .ro, 0⟩, ⟨15, 8, .ro, 0⟩, ⟨2, 0, .ro, 0⟩]⟩,
  ⟨0x18, 0, 1, 32, [⟨1, 0, .rw, 0⟩]⟩,
  ⟨0x20, 0, 1, 32, [⟨7, 7, .ro, 0⟩, ⟨6, 0, .rw, 0⟩]⟩,
  ⟨0x28, 0, 1, 32, [⟨24, 16, .rw, 64⟩, ⟨8, 0, .rw, 32⟩]⟩,
  ⟨0x30, 0, 1, 32, [⟨15, 0, .rw, 100⟩]⟩,
  ⟨0x38, 0, 1, 32, [⟨4, 4, .w1c, 0⟩, ⟨3, 3, .w1c, 0⟩, ⟨2, 2, .w1c, 0⟩, ⟨1, 1, .w1c, 0⟩, ⟨0, 0, .w1c, 0⟩]⟩,
  ⟨0x40, 8, 6, 64, [⟨63, 0, .ro, 0xffffffffffffffff⟩]⟩,
  ⟨0x70, 0, 1, 64, [⟨47, 0, .rw, 0⟩]⟩,
  ⟨0x78, 0, 1, 64, [⟨63, 63, .ro, 0⟩, ⟨31, 0, .ro, 0⟩]⟩,
  ⟨0x80, 0, 1, 64, [⟨63, 0, .ro, 0⟩]⟩]

/-- Registers of the DRV block, part 1. -/
def regs_drv_1 : List RDesc := [
  ⟨0x88, 0, 1, 64, [⟨63, 0, .ro, 0⟩]⟩,
  ⟨0x90, 0, 1, 64, [⟨63, 0, .ro, 0⟩]⟩,
  ⟨0x98, 0, 1, 64, [⟨63, 63, .w1c, 0⟩, ⟨47, 0, .ro, 0⟩]⟩,
  ⟨0xA0, 0, 1, 64, [⟨63, 63, .w1c, 0⟩, ⟨47, 0, .ro, 0⟩]⟩,
  ⟨0xA8, 0, 1, 64, [⟨63, 63, .w1c, 0⟩, ⟨47, 0, .ro, 0⟩]⟩]

/-- Registers of the MEM block, part 0. -/
def regs_mem_0 : List RDesc := [
  ⟨0x10000, 0, 1, 32, [⟨31, 31, .ro, 1⟩, ⟨2, 0, .ro, 0⟩]⟩,
  ⟨0x10008, 0, 1, 32, [⟨0, 0, .wo, 0⟩]⟩,
  ⟨0x10010, 0, 1, 32, [⟨2, 2, .rw, 1⟩, ⟨1, 0, .rw, 0⟩]⟩,
  ⟨0x10018, 0, 1, 64, [⟨47, 32, .ro, 0⟩, ⟨1, 0, .ro, 0⟩]⟩,
  ⟨0x10020, 0, 1, 32, [⟨0, 0, .w1c, 0⟩]⟩,
  ⟨0x10028, 0, 1, 64, [⟨47, 0, .ro, 0⟩]⟩,
  ⟨0x10030, 0, 1, 64, [⟨63, 0, .ro, 0⟩]⟩,
  ⟨0x10038, 0, 1, 64, [⟨63, 0, .ro, 0⟩]⟩,
  ⟨0x10040, 0, 1, 64, [⟨63, 0, .ro, 0⟩]⟩,
  ⟨0x10048, 0, 1, 64, [⟨63, 0, .ro, 0⟩]⟩,
  ⟨0x10050, 0, 1, 64, [⟨63, 0, .ro, 0⟩]⟩,
  ⟨0x10058, 0, 1, 64, [⟨63, 0, .ro, 0xffffffffffffffff⟩]⟩]

/-- Registers of the MEM block, part 1. -/
def regs_mem_1 : List RDesc := [
  ⟨0x10060, 0, 1, 32, [⟨31, 31, .w1c, 0⟩, ⟨10, 0, .ro, 0⟩]⟩,
  ⟨0x18000, 32, 1024, 64, [⟨63, 63, .ro, 0⟩, ⟨47, 6, .ro, 0⟩]⟩,
  ⟨0x18008, 32, 1024, 64, [⟨47, 0, .ro, 0⟩]⟩,
  ⟨0x18010, 32, 1024, 64, [⟨47, 0, .ro, 0⟩]⟩,
  ⟨0x0, 0, 1, 32, [⟨31, 31, .ro, 1⟩, ⟨2, 0, .ro, 0⟩]⟩,
  ⟨0x8, 0, 1, 32, [⟨1, 1, .wo, 0⟩, ⟨0, 0, .wo, 0⟩]⟩,
  ⟨0x10, 0, 1, 64, [⟨47, 40, .ro, 0⟩, ⟨30, 24, .ro, 0⟩, ⟨2, 2, .ro, 0⟩, ⟨1, 0, .ro, 0⟩]⟩,
  ⟨0x18, 0, 1, 32, [⟨31, 16, .rw, 125⟩, ⟨15, 8, .rw, 16⟩, ⟨0, 0, .rw, 1⟩]⟩,
  ⟨0x20, 0, 1, 32, [⟨15, 0, .rw, 24⟩]⟩,
  ⟨0x28, 0, 1, 64, [⟨35, 6, .ro, 0⟩]⟩,
  ⟨0x30, 0, 1, 32, [⟨5, 5, .w1c, 0⟩, ⟨4, 4, .w1c, 0⟩, ⟨3, 3, .w1c, 0⟩, ⟨2, 2, .w1c, 0⟩, ⟨1, 1, .w1c, 0⟩, ⟨0, 0, .w1c, 0⟩]⟩,
  ⟨0x38, 0, 1, 64, [⟨47, 0, .ro, 0⟩]⟩]

/-- Registers of the MEM block, part 2. -/
def regs_mem_2 : List RDesc := [
  ⟨0x40, 0, 1, 64, [⟨63, 63, .w1c, 0⟩, ⟨47, 0, .ro, 0⟩]⟩,
  ⟨0x48, 0, 1, 64, [⟨63, 63, .w1c, 0⟩, ⟨47, 0, .ro, 0⟩]⟩,
  ⟨0x50, 0, 1, 64, [⟨63, 0, .ro, 0⟩]⟩,
  ⟨0x58, 0, 1, 64, [⟨63, 0, .ro, 0⟩]⟩,
  ⟨0x60, 0, 1, 64, [⟨60, 48, .rw, 0⟩, ⟨47, 0, .rw, 0⟩]⟩,
  ⟨0x100, 8, 64, 32, [⟨31, 31, .rw, 0⟩, ⟨30, 30, .ro, 0⟩, ⟨5, 0, .rw, 0⟩]⟩]

/-- Registers of the SRAM block, part 0. -/
def regs_sram_0 : List RDesc := [
  ⟨0x0, 0, 1, 32, [⟨0, 0, .wo, 0⟩]⟩,
  ⟨0x8, 0, 1, 32, [⟨2, 2, .w1c, 0⟩, ⟨1, 1, .w1c, 0⟩, ⟨0, 0, .w1c, 0⟩]⟩,
  ⟨0x10, 0, 1, 64, [⟨63, 56, .ro, 0⟩, ⟨55, 48, .ro, 0⟩, ⟨47, 0, .ro, 0⟩]⟩,
  ⟨0x18, 0, 1, 64, [⟨63, 63, .w1c, 0⟩, ⟨47, 0, .ro, 0⟩]⟩,
  ⟨0x20, 0, 1, 64, [⟨63, 63, .w1c, 0⟩, ⟨47, 0, .ro, 0⟩]⟩]

/-- Registers of the LNK block, part 0. -/
def regs_lnk_0 : List RDesc := [
  ⟨0x0, 0, 1, 32, [⟨31, 31, .ro, 1⟩, ⟨6, 0, .ro, 0⟩]⟩,
  ⟨0x8, 0, 1, 32, [⟨1, 1, .wo, 0⟩, ⟨0, 0, .wo, 0⟩]⟩,
  ⟨0x10, 0, 1, 64, [⟨47, 32, .ro, 0⟩, ⟨7, 7, .ro, 0⟩, ⟨2, 0, .ro, 0⟩]⟩,
  ⟨0x18, 0, 1, 32, [⟨31, 31, .rwl, 1⟩, ⟨6, 0, .rwl, 0⟩]⟩,
  ⟨0x20, 0, 1, 32, [⟨31, 31, .rw, 1⟩, ⟨23, 16, .rw, 16⟩, ⟨15, 0, .rw, 1000⟩]⟩,
  ⟨0x28, 0, 1, 32, [⟨4, 4, .w1c, 0⟩, ⟨3, 3, .w1c, 0⟩, ⟨2, 2, .w1c, 0⟩, ⟨1, 1, .w1c, 0⟩, ⟨0, 0, .w1c, 0⟩]⟩,
  ⟨0x30, 0, 1, 64, [⟨63, 63, .ro, 0⟩, ⟨38, 32, .ro, 0⟩, ⟨22, 16, .ro, 0⟩, ⟨15, 0, .ro, 0⟩]⟩,
  ⟨0x38, 0, 1, 64, [⟨63, 48, .ro, 0⟩, ⟨47, 32, .ro, 65535⟩, ⟨15, 0, .ro, 0⟩]⟩,
  ⟨0x40, 0, 1, 64, [⟨63, 0, .ro, 0⟩]⟩,
  ⟨0x48, 0, 1, 64, [⟨63, 0, .ro, 0⟩]⟩,
  ⟨0x50, 0, 1, 64, [⟨63, 0, .ro, 0⟩]⟩,
  ⟨0x58, 0, 1, 64, [⟨63, 0, .ro, 0⟩]⟩]

/-- Registers of the LNK block, part 1. -/
def regs_lnk_1 : List RDesc := [
  ⟨0x60, 0, 1, 64, [⟨63, 63, .w1c, 0⟩, ⟨47, 0, .ro, 0⟩]⟩,
  ⟨0x68, 0, 1, 64, [⟨63, 63, .w1c, 0⟩, ⟨47, 0, .ro, 0⟩]⟩,
  ⟨0x70, 0, 1, 64, [⟨63, 63, .w1c, 0⟩, ⟨47, 0, .ro, 0⟩]⟩,
  ⟨0x78, 0, 1, 64, [⟨63, 63, .w1c, 0⟩, ⟨47, 0, .ro, 0⟩]⟩,
  ⟨0x80, 0, 1, 64, [⟨63, 63, .w1c, 0⟩, ⟨47, 0, .ro, 0⟩]⟩,
  ⟨0x100, 8, 2, 64, [⟨47, 32, .ro, 0⟩, ⟨8, 8, .ro, 0⟩, ⟨3, 0, .ro, 0⟩]⟩]

/-- Registers of the LNKD block, part 0. -/
def regs_lnkd_0 : List RDesc := [
  ⟨0x0, 0, 1, 32, [⟨15, 0, .rwl, 0⟩]⟩,
  ⟨0x8, 0, 1, 32, [⟨23, 16, .rw, 2⟩, ⟨15, 8, .rw, 2⟩, ⟨7, 0, .rw, 4⟩]⟩,
  ⟨0x1000, 8, 256, 32, [⟨31, 31, .rwl, 0⟩, ⟨30, 30, .rwl, 0⟩, ⟨29, 29, .rwl, 0⟩, ⟨22, 22, .rwl, 0⟩, ⟨21, 15, .rwl, 0⟩, ⟨6, 0, .rwl, 0⟩]⟩,
  ⟨0x2000, 8, 256, 32, [⟨31, 31, .rwl, 0⟩, ⟨30, 30, .rwl, 0⟩, ⟨29, 29, .rwl, 0⟩, ⟨22, 22, .rwl, 0⟩, ⟨21, 15, .rwl, 0⟩, ⟨6, 0, .rwl, 0⟩]⟩]

/-- Registers of the COL block, part 0. -/
def regs_col_0 : List RDesc := [
  ⟨0x0, 0, 1, 64, [⟨63, 0, .rw, 0⟩]⟩,
  ⟨0x8, 0, 1, 64, [⟨63, 0, .rw, 0⟩]⟩,
  ⟨0x10, 0, 1, 32, [⟨1, 1, .ro, 0⟩, ⟨0, 0, .ro, 0⟩]⟩,
  ⟨0x18, 0, 1, 32, [⟨23, 16, .rwl, 0⟩, ⟨15, 0, .rwl, 0⟩]⟩,
  ⟨0x20, 0, 1, 64, [⟨57, 49, .ro, 0⟩, ⟨48, 40, .ro, 0⟩, ⟨31, 16, .ro, 65535⟩, ⟨15, 0, .ro, 0⟩]⟩,
  ⟨0x28, 0, 1, 32, [⟨31, 0, .rw, 0x186a0⟩]⟩,
  ⟨0x30, 0, 1, 64, [⟨47, 0, .rwl, 0⟩]⟩,
  ⟨0x38, 0, 1, 32, [⟨4, 4, .w1c, 0⟩, ⟨3, 3, .w1c, 0⟩, ⟨2, 2, .w1c, 0⟩, ⟨1, 1, .w1c, 0⟩, ⟨0, 0, .w1c, 0⟩]⟩,
  ⟨0x40, 0, 1, 64, [⟨63, 0, .ro, 0⟩]⟩,
  ⟨0x48, 0, 1, 64, [⟨63, 63, .w1c, 0⟩, ⟨47, 0, .ro, 0⟩]⟩,
  ⟨0x50, 0, 1, 32, [⟨0, 0, .wo, 0⟩]⟩,
  ⟨0x100, 16, 8, 64, [⟨63, 63, .rwl, 0⟩, ⟨62, 62, .rwl, 0⟩, ⟨47, 0, .rwl, 0⟩]⟩]

/-- Registers of the COL block, part 1. -/
def regs_col_1 : List RDesc := [
  ⟨0x108, 16, 8, 32, [⟨31, 20, .rwl, 0⟩, ⟨16, 0, .rwl, 0⟩]⟩]

/-- Registers of the ENG block, part 0. -/
def regs_eng_0 : List RDesc := [
  ⟨0x0, 0, 1, 32, [⟨31, 31, .ro, 1⟩, ⟨0, 0, .ro, 0⟩]⟩,
  ⟨0x8, 0, 1, 32, [⟨2, 2, .wo, 0⟩, ⟨1, 1, .wo, 0⟩, ⟨0, 0, .wo, 0⟩]⟩,
  ⟨0x10, 0, 1, 64, [⟨31, 16, .ro, 0⟩, ⟨2, 0, .ro, 0⟩]⟩,
  ⟨0x18, 0, 1, 64, [⟨63, 0, .ro, 0⟩]⟩,
  ⟨0x20, 0, 1, 64, [⟨63, 0, .ro, 0⟩]⟩]

/-- Registers of the REC block, part 0. -/
def regs_rcd_0 : List RDesc := [
  ⟨0x0, 0, 1, 32, [⟨1, 1, .wo, 0⟩, ⟨0, 0, .wo, 0⟩]⟩,
  ⟨0x8, 0, 1, 32, [⟨13, 2, .rw, 0⟩, ⟨1, 0, .rw, 0⟩]⟩,
  ⟨0x10, 0, 1, 64, [⟨53, 48, .rw, 0⟩, ⟨47, 6, .rw, 0⟩]⟩,
  ⟨0x18, 0, 1, 64, [⟨63, 0, .rw, 0xffffffffffffffff⟩]⟩,
  ⟨0x20, 0, 1, 64, [⟨63, 2, .ro, 0⟩, ⟨1, 0, .ro, 0⟩]⟩,
  ⟨0x28, 0, 1, 32, [⟨2, 2, .w1c, 0⟩, ⟨1, 1, .w1c, 0⟩, ⟨0, 0, .w1c, 0⟩]⟩,
  ⟨0x30, 0, 1, 64, [⟨63, 0, .ro, 0⟩]⟩,
  ⟨0x38, 0, 1, 64, [⟨63, 63, .w1c, 0⟩, ⟨47, 0, .ro, 0⟩]⟩]

/-- Registers of the TRH block, part 0. -/
def regs_trh_0 : List RDesc := [
  ⟨0x0, 0, 1, 32, [⟨31, 31, .ro, 1⟩, ⟨0, 0, .ro, 0⟩]⟩,
  ⟨0x8, 0, 1, 32, [⟨3, 3, .wo, 0⟩, ⟨2, 2, .wo, 0⟩, ⟨1, 1, .wo, 0⟩, ⟨0, 0, .wo, 0⟩]⟩,
  ⟨0x10, 0, 1, 64, [⟨47, 32, .ro, 0⟩, ⟨31, 16, .ro, 0⟩, ⟨2, 0, .ro, 0⟩]⟩,
  ⟨0x18, 0, 1, 32, [⟨13, 8, .rw, 16⟩, ⟨2, 2, .rw, 0⟩, ⟨1, 1, .rw, 0⟩, ⟨0, 0, .rw, 1⟩]⟩,
  ⟨0x20, 0, 1, 32, [⟨31, 16, .rw, 64⟩, ⟨12, 0, .rw, 1024⟩]⟩,
  ⟨0x28, 0, 1, 32, [⟨31, 0, .rw, 0xffffffff⟩]⟩,
  ⟨0x30, 0, 1, 64, [⟨63, 0, .rw, 0xffffffffffffffff⟩]⟩,
  ⟨0x38, 0, 1, 32, [⟨2, 2, .w1c, 0⟩, ⟨1, 1, .w1c, 0⟩, ⟨0, 0, .w1c, 0⟩]⟩,
  ⟨0x40, 0, 1, 64, [⟨63, 0, .ro, 0⟩]⟩,
  ⟨0x48, 0, 1, 64, [⟨63, 0, .ro, 0⟩]⟩,
  ⟨0x50, 0, 1, 64, [⟨63, 63, .w1c, 0⟩, ⟨47, 0, .ro, 0⟩]⟩,
  ⟨0x58, 0, 1, 32, [⟨15, 0, .rw, 100⟩]⟩]

/-- Registers of the TRH block, part 1. -/
def regs_trh_1 : List RDesc := [
  ⟨0x100, 8, 16, 32, [⟨31, 31, .rw, 0⟩, ⟨15, 0, .rw, 0⟩]⟩]

/-- Registers of the EMB block, part 0. -/
def regs_emb_0 : List RDesc := [
  ⟨0x0, 0, 1, 32, [⟨0, 0, .wo, 0⟩]⟩,
  ⟨0x8, 0, 1, 32, [⟨4, 4, .w1c, 0⟩, ⟨3, 3, .w1c, 0⟩, ⟨2, 2, .w1c, 0⟩, ⟨1, 1, .w1c, 0⟩, ⟨0, 0, .w1c, 0⟩]⟩,
  ⟨0x10, 0, 1, 64, [⟨47, 0, .rw, 0⟩]⟩,
  ⟨0x18, 0, 1, 64, [⟨63, 0, .ro, 0⟩]⟩,
  ⟨0x100, 64, 8, 64, [⟨63, 48, .rw, 0⟩, ⟨47, 20, .rw, 0⟩]⟩,
  ⟨0x108, 64, 8, 64, [⟨63, 33, .ro, 0⟩, ⟨32, 2, .ro, 0⟩, ⟨1, 0, .ro, 0⟩]⟩,
  ⟨0x110, 64, 8, 64, [⟨63, 0, .ro, 0⟩]⟩,
  ⟨0x118, 64, 8, 64, [⟨63, 0, .ro, 0⟩]⟩,
  ⟨0x120, 64, 8, 64, [⟨63, 63, .w1c, 0⟩, ⟨47, 0, .ro, 0⟩]⟩,
  ⟨0x128, 64, 8, 64, [⟨63, 0, .ro, 0⟩]⟩,
  ⟨0x130, 64, 8, 64, [⟨63, 63, .w1c, 0⟩, ⟨47, 0, .ro, 0⟩]⟩]

/-- Registers of the SCHF block, part 0. -/
def regs_schf_0 : List RDesc := [
  ⟨0x0, 0, 1, 32, [⟨31, 31, .ro, 1⟩, ⟨1, 0, .ro, 0⟩]⟩,
  ⟨0x8, 0, 1, 32, [⟨20, 16, .rw, 16⟩, ⟨0, 0, .rw, 1⟩]⟩,
  ⟨0x10, 0, 1, 64, [⟨45, 32, .ro, 0⟩, ⟨28, 16, .ro, 0⟩, ⟨7, 4, .ro, 0⟩, ⟨3, 0, .ro, 0⟩]⟩,
  ⟨0x18, 0, 1, 32, [⟨2, 2, .w1c, 0⟩, ⟨1, 1, .w1c, 0⟩, ⟨0, 0, .w1c, 0⟩]⟩,
  ⟨0x20, 0, 1, 64, [⟨63, 0, .ro, 0⟩]⟩,
  ⟨0x28, 0, 1, 64, [⟨63, 63, .w1c, 0⟩, ⟨47, 0, .ro, 0⟩]⟩,
  ⟨0x30, 0, 1, 64, [⟨63, 0, .ro, 0⟩]⟩,
  ⟨0x38, 0, 1, 32, [⟨0, 0, .wo, 0⟩]⟩,
  ⟨0x100, 8, 16, 32, [⟨31, 31, .rw, 0⟩, ⟨30, 26, .rw, 0⟩, ⟨25, 25, .rw, 0⟩, ⟨24, 13, .rw, 0⟩, ⟨9, 0, .rw, 0⟩]⟩]

/-- Registers of the SCHD block, part 0. -/
def regs_schd_0 : List RDesc := [
  ⟨0x0, 0, 1, 64, [⟨63, 0, .ro, 0⟩]⟩,
  ⟨0x8, 0, 1, 32, [⟨31, 0, .wo, 0⟩]⟩,
  ⟨0x10, 0, 1, 32, [⟨31, 24, .ro, 0⟩, ⟨23, 16, .ro, 0⟩, ⟨15, 12, .ro, 0⟩, ⟨8, 8, .rw, 0⟩, ⟨1, 0, .ro, 0⟩]⟩,
  ⟨0x18, 0, 1, 32, [⟨31, 0, .wo, 0⟩]⟩]

/-- Registers of the SCHC block, part 0. -/
def regs_schc_0 : List RDesc := [
  ⟨0x0, 0, 1, 64, [⟨63, 0, .rw, 0⟩]⟩,
  ⟨0x8, 0, 1, 64, [⟨62, 61, .wo, 0⟩, ⟨60, 56, .wo, 0⟩, ⟨55, 55, .wo, 0⟩, ⟨54, 43, .wo, 0⟩, ⟨42, 33, .wo, 0⟩, ⟨31, 0, .wo, 0⟩]⟩,
  ⟨0x10, 0, 1, 64, [⟨17, 16, .ro, 0⟩, ⟨15, 15, .ro, 0⟩, ⟨14, 13, .ro, 0⟩, ⟨12, 0, .ro, 0⟩]⟩,
  ⟨0x18, 0, 1, 64, [⟨63, 63, .ro, 0⟩, ⟨62, 62, .ro, 0⟩, ⟨61, 61, .ro, 0⟩, ⟨60, 56, .ro, 0⟩, ⟨55, 55, .ro, 0⟩, ⟨54, 43, .ro, 0⟩, ⟨42, 33, .ro, 0⟩, ⟨32, 32, .ro, 0⟩, ⟨12, 0, .ro, 0⟩]⟩,
  ⟨0x20, 0, 1, 64, [⟨63, 0, .ro, 0⟩]⟩,
  ⟨0x28, 0, 1, 32, [⟨1, 0, .wo, 0⟩]⟩,
  ⟨0x30, 0, 1, 32, [⟨13, 12, .wo, 0⟩, ⟨11, 0, .wo, 0⟩]⟩]

/-- Registers of the PWR block, part 0. -/
def regs_pwr_0 : List RDesc := [
  ⟨0x0, 0, 1, 32, [⟨0, 0, .rw, 0⟩]⟩,
  ⟨0x8, 0, 1, 64, [⟨47, 32, .ro, 1400⟩, ⟨23, 16, .ro, 21⟩, ⟨3, 3, .ro, 0⟩, ⟨2, 2, .ro, 0⟩, ⟨1, 1, .ro, 0⟩, ⟨0, 0, .ro, 0⟩]⟩,
  ⟨0x10, 0, 1, 32, [⟨31, 16, .rw, 1000⟩, ⟨15, 0, .rw, 1000⟩]⟩,
  ⟨0x18, 0, 1, 32, [⟨31, 0, .ro, 0⟩]⟩,
  ⟨0x20, 0, 1, 32, [⟨0, 0, .w1c, 0⟩]⟩]

/-- Registers of the CLK block, part 0. -/
def regs_clk_0 : List RDesc := [
  ⟨0x0, 0, 1, 64, [⟨36, 36, .ro, 0⟩, ⟨35, 35, .ro, 0⟩, ⟨34, 34, .ro, 0⟩, ⟨33, 33, .ro, 0⟩, ⟨31, 0, .ro, 0⟩]⟩,
  ⟨0x100, 8, 32, 32, [⟨23, 16, .ro, 21⟩, ⟨12, 8, .ro, 21⟩, ⟨4, 0, .rw, 21⟩]⟩]

/-- Registers of the THM block, part 0. -/
def regs_thm_0 : List RDesc := [
  ⟨0x0, 0, 1, 32, [⟨23, 16, .rw, 90⟩, ⟨11, 8, .rw, 2⟩, ⟨7, 0, .rw, 95⟩]⟩,
  ⟨0x8, 0, 1, 64, [⟨47, 38, .ro, 0⟩, ⟨37, 32, .ro, 0⟩, ⟨3, 3, .ro, 0⟩, ⟨2, 2, .w1c, 0⟩, ⟨1, 1, .ro, 0⟩, ⟨0, 0, .ro, 0⟩]⟩,
  ⟨0x100, 8, 64, 32, [⟨31, 31, .ro, 0⟩, ⟨9, 0, .ro, 0⟩]⟩]

/-- Registers of the SEC block, part 0. -/
def regs_sec_0 : List RDesc := [
  ⟨0x0, 0, 1, 32, [⟨31, 31, .ro, 1⟩]⟩,
  ⟨0x8, 0, 1, 32, [⟨23, 8, .wo, 0⟩, ⟨7, 0, .wo, 0⟩]⟩,
  ⟨0x10, 0, 1, 32, [⟨31, 16, .ro, 0⟩, ⟨15, 8, .ro, 0⟩, ⟨2, 2, .ro, 0⟩, ⟨1, 1, .ro, 0⟩, ⟨0, 0, .ro, 0⟩]⟩,
  ⟨0x18, 0, 1, 64, [⟨7, 0, .ro, 0⟩]⟩,
  ⟨0x20, 0, 1, 64, [⟨63, 32, .ro, 0⟩, ⟨31, 0, .ro, 0⟩]⟩,
  ⟨0x28, 0, 1, 32, [⟨1, 1, .w1c, 0⟩, ⟨0, 0, .w1c, 0⟩]⟩]

/-- Registers of the MGT block, part 0. -/
def regs_mgt_0 : List RDesc := [
  ⟨0x0, 0, 1, 32, [⟨31, 31, .ro, 1⟩]⟩,
  ⟨0x8, 0, 1, 32, [⟨0, 0, .rw, 1⟩]⟩,
  ⟨0x10, 0, 1, 32, [⟨31, 24, .ro, 0⟩, ⟨16, 10, .ro, 0⟩, ⟨9, 3, .ro, 0⟩, ⟨1, 0, .ro, 0⟩]⟩,
  ⟨0x18, 0, 1, 32, [⟨2, 2, .w1c, 0⟩, ⟨1, 1, .w1c, 0⟩, ⟨0, 0, .w1c, 0⟩]⟩,
  ⟨0x20, 0, 1, 64, [⟨63, 0, .ro, 0⟩]⟩]

/-- The registers of a block. -/
def Blk.regs : Blk → List RDesc
  | .glb => regs_glb_0
  | .hmn => regs_hmn_0
  | .log => regs_log_0 ++ regs_log_1
  | .str => regs_str_0
  | .que => regs_que_0
  | .cor => regs_cor_0 ++ regs_cor_1 ++ regs_cor_2 ++ regs_cor_3
  | .drv => regs_drv_0 ++ regs_drv_1
  | .mem => regs_mem_0 ++ regs_mem_1 ++ regs_mem_2
  | .sram => regs_sram_0
  | .lnk => regs_lnk_0 ++ regs_lnk_1
  | .lnkd => regs_lnkd_0
  | .col => regs_col_0 ++ regs_col_1
  | .eng => regs_eng_0
  | .rcd => regs_rcd_0
  | .trh => regs_trh_0 ++ regs_trh_1
  | .emb => regs_emb_0
  | .schf => regs_schf_0
  | .schd => regs_schd_0
  | .schc => regs_schc_0
  | .pwr => regs_pwr_0
  | .clk => regs_clk_0
  | .thm => regs_thm_0
  | .sec => regs_sec_0
  | .mgt => regs_mgt_0

/-- A register found by its address: its block, the unit's number, the index in its array, and its description. -/
structure RegAt where
  blk : Blk
  unit : Nat
  idx : Nat
  desc : RDesc
  deriving DecidableEq, Repr

/-- The register of a block list at an offset within its unit. -/
def findReg (b : Blk) (u : Nat) (rel : Nat) : List RDesc → Option RegAt
  | [] => none
  | d :: t =>
    if d.count = 1 then (if rel = d.off then some ⟨b, u, 0, d⟩ else findReg b u rel t)
    else if d.off ≤ rel ∧ (rel - d.off) % d.stride = 0 ∧ (rel - d.off) / d.stride < d.count then
      some ⟨b, u, (rel - d.off) / d.stride, d⟩
    else findReg b u rel t

/-- The block and unit that hold a BAR0 offset. -/
def findBlk (off : Nat) : List Blk → Option (Blk × Nat × Nat)
  | [] => none
  | b :: t =>
    let (base, stride, count) := b.place
    if base ≤ off ∧ off < base + stride * count then some (b, (off - base) / stride, (off - base) % stride)
    else findBlk off t

/-- The register whose own address is a BAR0 offset (R7). -/
def regAt (off : Nat) : Option RegAt :=
  match findBlk off allBlks with
  | none => none
  | some (b, u, rel) => findReg b u rel b.regs

end Sys2Proof.Machine
end

