-- ==== Sys2Proof/Machine/Sparse.lean ====
section
/-! DEFINITION. Sparse stores in one canonical form: keys strictly rising, and no entry equal to what an unlisted key
reads as. Registers, memory and the numbered units are held this way. -/

namespace Sys2Proof.Machine

/-- A sparse store: key and value pairs. -/
abbrev Sparse (α : Type) := List (Nat × α)

/-- The value at a key: the listed one, else the default of the key. -/
def spGet {α : Type} (d : Nat → α) : Sparse α → Nat → α
  | [], k => d k
  | (j, v) :: t, k => if j = k then v else spGet d t k

/-- The store without a key. -/
def spErase {α : Type} : Sparse α → Nat → Sparse α
  | [], _ => []
  | (j, v) :: t, k => if j = k then spErase t k else (j, v) :: spErase t k

/-- Insertion before the first larger key. -/
def spInsert {α : Type} (k : Nat) (v : α) : Sparse α → Sparse α
  | [] => [(k, v)]
  | (j, w) :: t => if k < j then (k, v) :: (j, w) :: t else (j, w) :: spInsert k v t

/-- A write. Writing the default of the key removes the entry, so equal stores are equal lists. -/
def spSet {α : Type} [DecidableEq α] (d : Nat → α) (m : Sparse α) (k : Nat) (v : α) : Sparse α :=
  if v = d k then spErase m k else spInsert k v (spErase m k)

/-- The canonical form. -/
def spWf {α : Type} [DecidableEq α] (d : Nat → α) : Sparse α → Bool
  | [] => true
  | (k, v) :: t => decide (v ≠ d k) && t.all (fun p => decide (k < p.1)) && spWf d t

end Sys2Proof.Machine
end

