-- ==== Sys2Proof/Machine/CoreTypes.lean ====
section
/-! DEFINITION. The data types of the compute core (02_compute_core to 06_training_numerics), of commands and of
packets: plain data that State is made of. -/

namespace Sys2Proof.Machine

/-- A master in the sense of the Hall monitor: class and sub-master (R423). -/
structure Mst where
  cls : Nat
  sub : Nat
  deriving DecidableEq, Repr, Inhabited

/-- A queue command as its record names it: queue pair, command id, and the count of enables of the queue pair at
acceptance, by which a function level reset disowns it (R372, R379). -/
structure CmdRef where
  qp : Nat
  id : Nat
  gen : Nat
  deriving DecidableEq, Repr, Inhabited

/-- A command that an engine has been passed: its reference, its code and its descriptor (R371, R372). `seq` is a collective's number
in its group's sequence (R332). -/
structure Cmd where
  ref : CmdRef
  code : Nat
  desc : List Byte
  seq : Nat := 0
  deriving DecidableEq, Repr, Inhabited

/-- A command in execution with what R13 needs at its completion: a skipped update, a forwarded part, the first
failure that did not stop the unit and its Logbook code. -/
structure CmdSt where
  ref : CmdRef
  skipped : Bool := false
  forwarded : Bool := false
  failed : Nat := 0
  detail : Nat := 0
  deriving DecidableEq, Repr, Inhabited

/-- A packet: the header of R304 and its content. `args` says what the payload says where the manual gives it no
layout, and `data` holds payload bytes (log 20). `place` is its slot in the ingress buffers of the link that brought it: channel × 64 +
class × 16 + slot (R308, R310). A packet that is forwarded keeps its header and payload as received in `raw`, and in `via` the ingress
link and the place that it holds until it is sent (R308, R309). -/
structure Packet where
  ty : Nat
  vc : Nat := 0
  cls : Nat := 0
  dst : Nat := 0
  src : Nat := 0
  addr : Nat := 0
  epoch : Nat := 0
  tag : Nat := 0
  stepLo : Nat := 0
  hops : Nat := 0
  status : Nat := 0
  args : List Nat := []
  data : List Byte := []
  place : Nat := 0
  raw : List Byte := []
  via : Option (Nat × Nat) := none
  deriving DecidableEq, Repr, Inhabited

/-- A data queue (R31 to R33): element format, row size in 16-byte units, producer and consumer ends by the codes of
COR_QUEUE_q, its rows, oldest first, and how many counts of its head row MSTREAMs have taken (R135). -/
structure DQueue where
  fmt : Nat := 0
  units : Nat := 0
  prod : Nat := 0
  cons : Nat := 0
  rows : List (List Byte) := []
  cntPos : Nat := 0
  deriving DecidableEq, Repr, Inhabited

/-- What the structure image gives a data queue (R346): engine ends, engine number and class default. -/
structure QBind where
  prod : Nat := 0
  cons : Nat := 0
  inst : Nat := 0
  cls : Nat := 3
  deriving DecidableEq, Repr, Inhabited

/-- An entry of a loop stack (R86): first and last instruction address of the body and passes left. -/
structure LoopEnt where
  first : Nat
  last : Nat
  left : Nat
  deriving DecidableEq, Repr, Inhabited

/-- The life of a context: not started, issuing, after END while its instructions complete, ended. -/
inductive Life where
  | idle | live | ending | ended
  deriving DecidableEq, Repr, Inhabited

/-- A context of a stream (R72, R73): its life, the local address of its next instruction, its address registers
(A-stream), its loop stack, and why it is stalled (the codes of COR_STATUS.a_state; 1 is issuing, 8 that instructions it
issued must end or free their unit first, 9 a full check lane, which COR_STATUS shows as 6). -/
structure Ctx where
  life : Life := .idle
  pos : Nat := 0
  ax : List Word := []
  loops : List LoopEnt := []
  stall : Nat := 0
  deriving DecidableEq, Repr, Inhabited

/-- A staged program block (R43, R45): local address, generation, whether it passed its check, its instructions, the expected
and computed check values, whether its fetch met an uncorrectable error (R286), and its words with errors that nothing has met
yet, as place in the block and whether two bits are in error (R297, R298). -/
structure Staged where
  addr : Nat
  gen : Nat
  ok : Bool
  code : List Code
  expected : Nat := 0
  actual : Nat := 0
  ue : Bool := false
  upsets : List (Nat × Bool) := []
  deriving DecidableEq, Repr, Inhabited

/-- An entry of the deferred queue (R59): start addresses, generation and completion tally. -/
structure DeferEnt where
  a : Nat
  x : Nat
  gen : Nat
  tally : Nat
  deriving DecidableEq, Repr, Inhabited

/-- A stalled WAIT_GE or SUB (R53). -/
structure Waiter where
  tally : Nat
  n : Nat
  isSub : Bool
  deferred : Bool
  deriving DecidableEq, Repr, Inhabited

/-- The state of a row segment (R163, R171): class 0 classless, 1 G, 2 C, 3 unclassed; additions since the last
overwrite; segment number; level-two record. -/
structure Seg where
  cls : Nat := 0
  count : Nat := 0
  segNo : Nat := 0
  spilled : Nat := 0
  l2 : Option Nat := none
  deriving DecidableEq, Repr, Inhabited

/-- A stationary plane (R106, R126): format code of its values, format code of its scales (0: none, all 1.0), whether
it is a 2:4 tile and sparse-capable, whether the tile is in dense service over both planes, and its value, scale and
metadata rows, the MLOAD that filled it, and whether an MSTREAM has popped its rows against it since it became active
(R131). A plane without value rows holds +0 in every position (R485). One that nothing has loaded since reset has the format FP32,
which gives its rate class (R105, log 161). -/
structure Plane where
  fmt : Nat := 0x06
  scaleFmt : Nat := 0
  tile24 : Bool := false
  sparseKind : Bool := false
  dense : Bool := false
  vals : List (List Byte) := []
  scales : List (List Byte) := []
  meta24 : List (List Byte) := []
  feed : Option Code := none
  used : Bool := false
  deriving DecidableEq, Repr, Inhabited

/-- A sub-array (R106, R108): its two planes, whether the shadow holds a filled tile. -/
structure SubArr where
  active : Plane := {}
  shadow : Plane := {}
  filled : Bool := false
  deriving DecidableEq, Repr, Inhabited

/-- What a column of an aggregation has gathered (R228, R229, R235): for sums a special code (0 finite, 1 NaN, 2 +∞, 3 −∞)
and the exact sum in units of 2^−149; for maxima and minima the FP32 code and the winner's record. -/
structure Col where
  special : Nat := 0
  sum : Int := 0
  code : Nat := 0
  winner : Nat := 0xFFFFFFFF
  deriving DecidableEq, Repr, Inhabited

/-- A source of a reduce request (R233): slot, class, record and the FP32 code of its weight. -/
structure Src where
  slot : Nat
  cls : Nat
  num : Nat
  weight : Nat
  deriving DecidableEq, Repr, Inhabited

/-- A source that a gather has resolved and not yet asked for: device, row, and what the request says of it. -/
structure Asked where
  dev : Nat
  row : Nat
  src : Src
  deriving DecidableEq, Repr, Inhabited

/-- A running instruction. `unit` is 0 for an access instruction, 1 to 4 for the stream lane of sub-array 0 to 3,
5 to 8 for its fill lane, 9 for the vector engine (R83, R85, R107). `row` counts the rows done, `stage` the steps within
the instruction; `bases` are the addresses formed at issue, `nums` values latched at issue, `vals` running values,
`outRows` source rows of a TLOAD, `hand` rows popped for the row in
hand, `outs` rows formed and not yet pushed with their queues, `taken` bytes delivered for a transfer check, `part` bytes of a row in hand, `await` the tag of a remote
request that it waits for, `resp` the answer, `ue` an uncorrectable error met, `nan` the place of a NaN
that halts, `srcs` the sources of a gather's segment that are still to be asked for, `cols` the columns of the destination in
hand, `wcode` why it waits: 1 memory or another unit, 7 step fence or row check, 32 + q a row of queue q, 64 + q room in queue q, `passed` that
its request was accepted and is held (R427, log 150). -/
structure Run where
  rid : Nat
  unit : Nat
  deferred : Bool
  word : Code
  addr : Nat
  row : Nat := 0
  stage : Nat := 0
  bases : List Nat := []
  nums : List Nat := []
  vals : List (List Nat) := []
  outRows : List (List Byte) := []
  hand : List (List Byte) := []
  outs : List (Nat × List Byte) := []
  taken : List Byte := []
  part : List Byte := []
  await : Option Nat := none
  resp : Option (Nat × List Nat × List Byte) := none
  ue : Bool := false
  nan : Option Nat := none
  srcs : List Asked := []
  cols : List Col := []
  wcode : Nat := 0
  passed : Bool := false
  deriving DecidableEq, Repr, Inhabited

/-- What a running instruction waits for: a row of a queue, or room in it (R33). -/
abbrev wRow (q : Nat) : Nat := 32 + q
abbrev wRoom (q : Nat) : Nat := 64 + q

/-- Whether a running instruction is stalled on a queue. -/
def Run.onQueue (r : Run) : Bool := decide (32 ≤ r.wcode)

/-- Whether a running instruction is stalled on a queue, a step fence or a row check (R34, R55). -/
def Run.idles (r : Run) : Bool := r.onQueue || decide (r.wcode = 7)

/-- What an instruction waited for has come: it may go on. -/
def Run.freed (w : Nat) (r : Run) : Run := if r.wcode = w then { r with wcode := 0 } else r

/-- Whether a running instruction is an MSTREAM (opcode 0x82) that has popped its last input row: its lane is free (R110).
Numbers 0 and 1 are its count taken and its count. -/
def Run.streamed (r : Run) : Bool :=
  decide (r.word.toNat / 2 ^ 120 = 0x82) && decide (r.nums.getD 0 0 ≠ 0) && decide (r.nums.getD 1 0 ≤ r.row) && r.hand.isEmpty

/-- A steal (R132, R134): the core and lane of the thief, whether it is across cores, the victim's MSTREAM by its number, the
copy of the victim's plane, the rows of the chunk in hand, and of its rows those that the partial buffer
holds, as FP32 codes; none for a masked row. A chunk of no rows is no chunk. -/
structure Steal where
  thief : Nat
  lane : Nat
  cross : Bool
  rid : Nat
  plane : Plane := {}
  first : Nat := 0
  limit : Nat := 0
  buf : List (Option (List Nat)) := []
  deriving DecidableEq, Repr, Inhabited

/-- A transfer check waiting in the stream lane (R56, R420): the transfer's place in the order of issue, issuing context,
instruction address, slot, target address and bytes. -/
structure XferCheck where
  rid : Nat
  deferred : Bool
  addr : Nat
  slot : Nat
  target : Nat
  bytes : List Byte
  deriving DecidableEq, Repr, Inhabited

/-- The running program's header fields (R66). -/
structure Prog where
  header : Nat := 0
  gen : Nat := 0
  base : Nat := 0
  aFirst : Nat := 0
  aBlocks : Nat := 0
  xFirst : Nat := 0
  xBlocks : Nat := 0
  checkTable : Nat := 0
  xferTable : Nat := 0
  wydak : Bool := false
  l2Off : Nat := 0
  l2Size : Nat := 0
  deriving DecidableEq, Repr, Inhabited

/-- Core states by the codes of R63. -/
inductive CoreState where
  | idle | running | halted | stopped | recess | holiday
  deriving DecidableEq, Repr, Inhabited

/-- The code of a core state (R63). -/
def CoreState.code : CoreState → Nat
  | .idle => 0 | .running => 1 | .halted => 2 | .stopped => 3 | .recess => 4 | .holiday => 5

/-- A compute core, beyond its registers. Queues, segments and sub-arrays are sparse by number; segment keys are
bank × 8192 + row × 4 + sub-array. `maps` holds the phase maps that the core still uses while it has not switched to a
commit and `holdA` that its A-stream issues no access instruction until it switches (R354); `lastStart` is the header and generation of its last
program start (R446); `slept` the state that a holiday interrupted, and `cut` whether the core's regulator has cut its domain
(R456). `starting` is a START that has been taken and whose program has not started: header address and
generation. `adds` are the TALLY_ADDs that await an answer, with the context that sent each. `stopDetail` is what the record of a stop
names beside its status, `lost` are the instructions that a stop abandoned (R45), and `steals` the steals from its MSTREAMs. `badWord` says that a word of
its SRAMs which an instruction has just read was uncorrectable (R298). `flag` is the step's
delivered non-finite flag (R100), `step` the latched step (R167). -/
structure Core where
  state : CoreState := .idle
  slept : CoreState := .idle
  cut : Bool := false
  stopStatus : Nat := 0
  stopDetail : Nat := 0
  haltReq : Bool := false
  inService : Bool := true
  prog : Prog := {}
  cmd : Option CmdSt := none
  starting : Option (Nat × Nat) := none
  inbox : List Cmd := []
  am : Ctx := {}
  ad : Ctx := {}
  xm : Ctx := {}
  xd : Ctx := {}
  aDef : Bool := false
  xDef : Bool := false
  queues : Sparse DQueue := []
  binds : Sparse QBind := []
  stagedA : List Staged := []
  stagedX : List Staged := []
  deferQ : List DeferEnt := []
  waiters : List Waiter := []
  retiring : Option Nat := none
  runs : List Run := []
  nextRid : Nat := 0
  segs : Sparse Seg := []
  subs : Sparse SubArr := []
  step : Nat := 0
  flag : Option Bool := none
  phase : Nat := 0
  maps : Option (List (Word × Word)) := none
  holdA : Bool := false
  lastStart : Option (Nat × Nat) := none
  adds : List (Nat × Bool) := []
  checks : List XferCheck := []
  lost : List Run := []
  steals : List Steal := []
  badWord : Bool := false
  deriving DecidableEq, Repr, Inhabited

end Sys2Proof.Machine
end

