-- ==== Sys2Proof/Machine/UnitTypes.lean ====
section
/-! DEFINITION. The data types of the units beyond the cores: near-stack reducers, row appliers, Drovers, Transhumance
engines, collective engines and Roll call. Plain data that State is made of. -/

namespace Sys2Proof.Machine

/-- A word of on-die SRAM with an error that nothing has met yet (R297, R298): the kind of SRAM as in MEM_SRAM_UE_LOC, the instance, a
place in the word, and whether two bits are in error. -/
structure Upset where
  kind : Nat
  inst : Nat
  off : Nat
  double : Bool
  deriving DecidableEq, Repr, Inhabited

/-- An entry of a popularity table (R240): local address of the row's first atom, count and floor. -/
structure Pop where
  addr : Nat
  count : Nat
  floor : Nat
  deriving DecidableEq, Repr, Inhabited

/-- A stub (R266): local address and class of slot a, the new entry, the engine that made it, the row, the fences since
its commit. -/
structure Stub where
  slot : Nat
  entry : Nat
  eng : Nat
  table : Nat
  row : Nat
  age : Nat := 0
  deriving DecidableEq, Repr, Inhabited

/-- A near-stack reducer (R240, R241, R262, R266): live popularity table, snapshot, stubs, and the atoms read for row and
reduce requests in this step. -/
structure Nsr where
  live : List Pop := []
  snap : List Pop := []
  stubs : List Stub := []
  load : Nat := 0
  deriving DecidableEq, Repr, Inhabited

/-- A row applier (R255, R256): the delivered flag that it has not applied yet, and whether each half refuses the rest of
its step. -/
structure Applier where
  flag : Option Bool := none
  refE : Bool := false
  refO : Bool := false
  deriving DecidableEq, Repr, Inhabited

/-- A selected edge (R206, R211): neighbour, relation, FP16 weight, edge id and eligible number. -/
structure Edge where
  nbr : Nat
  rel : Nat
  weight : Nat
  edge : Nat
  num : Nat
  deriving DecidableEq, Repr, Inhabited

/-- A SAMPLE in a Drover (R197 to R212): its command, the Fold it serves, its plan's bytes, target step, epoch, base index
and count; whether it has started; the adjacency descriptor in force; the seed list; the selections of the hops that are
done, per frontier node; of the hop in hand the frontier, which nodes were asked of another device, and the selections known
so far; whether the road is built; the edges that have come of nodes whose selection has not come whole; the speculation depth when the command was taken (R217); and the 64 bytes of the adjacency
descriptor and, when they have come, of the feature table's (R216, R247). -/
structure Smp where
  serial : Nat
  ref : CmdRef
  fold : Nat
  plan : List Byte
  step : Nat
  epoch : Nat
  i0 : Nat
  count : Nat
  started : Bool := false
  topo : Nat := 0
  seeds : List Nat := []
  hops : List (List (List Edge)) := []
  cur : List (Nat × Bool × Option (List Edge)) := []
  built : Bool := false
  parts : List (Nat × List Edge) := []
  depth : Nat := 0
  adj : List Byte := []
  feat : List Byte := []
  deriving DecidableEq, Repr, Inhabited

/-- A prefetch in progress (R218): its SAMPLE's number, target step, Fold, topology version, table descriptor's 64 bytes, none while
another device has not sent them, its global address, sub-row, rows still to take as keys, and the keys of a table that is keyed by
index; of the row in hand its entry, whether its version is known, the step in which its version was asked for, whether an answer is
awaited, the answer. -/
structure Feed where
  serial : Nat
  step : Nat
  fold : Nat
  topo : Nat
  table : List Byte
  desc : Nat
  col0 : Nat
  ncols : Nat
  keys : List Nat
  byIndex : List Nat := []
  entry : Option Nat := none
  known : Bool := false
  asked : Nat := 0
  await : Bool := false
  resp : Option (Nat × List Nat × List Byte) := none
  deriving DecidableEq, Repr, Inhabited

/-- A prefetched row (R218, R219): target step, Fold, descriptor with its 64 bytes, key, sub-row, version and topology tags, directory
entry and packed pieces, and its check: 0 not due, 1 due, 2 asked, 3 passed. -/
structure PfRow where
  id : Nat
  step : Nat
  fold : Nat
  topo : Nat
  desc : Nat
  table : List Byte
  key : Nat
  col0 : Nat
  ncols : Nat
  entry : Nat
  elems : Nat
  bytes : List Byte
  check : Nat := 0
  deriving DecidableEq, Repr, Inhabited

/-- A Drover beyond its registers: waiting commands with the Fold whose queue carried them, SAMPLEs in order of acceptance,
prefetches, prefetched rows, accepted topology switches (first step and descriptor), the highest step for which a SAMPLE
has been accepted, and whether it is halted. -/
structure Drover where
  inbox : List (Nat × Cmd) := []
  halted : Bool := false
  samples : List Smp := []
  feeds : List Feed := []
  rows : List PfRow := []
  topos : List (Nat × Nat) := []
  top : Option Nat := none
  serial : Nat := 0
  rest : Nat := 0
  deriving DecidableEq, Repr, Inhabited

/-- A migration (R265): row, slot a and its class, destination and its class, state (0 COPY, 1 CLEAN, 2 DIRTY), dirty KiB of
the slot, copies to another device not yet acknowledged, whether any have been sent, whether it is a reclassification, whether its
commit waits for a later fence, the 64 bytes of the table's descriptor, and TRH_COPY_TIMEOUT when its latest copies were sent (R273). -/
structure Mig where
  id : Nat
  table : Nat
  row : Nat
  desc : Nat
  slotA : Nat
  clsA : Nat
  ver : Nat
  dev : Nat
  slotB : Nat
  clsB : Nat
  state : Nat := 0
  dirty : List Nat := []
  acks : Nat := 0
  sent : Bool := false
  reclass : Bool := false
  late : Bool := false
  tbl : List Byte := []
  timeout : Nat := 0
  deriving DecidableEq, Repr, Inhabited

/-- A Transhumance engine (R262 to R271): waiting commands, migrations, rows queued for reclassification (table, row, new
class), rows that committed at the two latest fences (table, row, fences since), partners' loads, migrations started in
this step. -/
structure Trh where
  inbox : List Cmd := []
  halted : Bool := false
  migs : List Mig := []
  queue : List (Nat × Nat × Nat) := []
  recent : List (Nat × Nat × Nat) := []
  loads : List (Nat × Nat) := []
  begun : Nat := 0
  serial : Nat := 0
  rest : Nat := 0
  deriving DecidableEq, Repr, Inhabited

/-- A COLL_DATA message as received (R332, R336): group, sequence number, sending rank, what its member was commanded
(command, tensor id, elements, format, operator, scaling), its step non-finite flag, round of a PERMUTE and the rounds of
that member, place of the bytes, total bytes of this message, block scales, and the bytes. -/
structure CollMsg where
  group : Nat
  seq : Nat
  rank : Nat
  params : List Nat
  flag : Bool
  round : Nat
  rounds : Nat
  off : Nat
  total : Nat
  data : List Byte
  deriving DecidableEq, Repr, Inhabited

/-- An entry of a move list (R340). -/
structure Move where
  src : Nat
  rank : Nat
  dst : Nat
  len : Nat
  deriving DecidableEq, Repr, Inhabited

/-- An active collective (R331 to R336, R340): its command, the group's sequence number, device ids in rank order, this
device's rank, the round of a PERMUTE, this member's rounds and what it moves in each. -/
structure Coll where
  cmd : Cmd
  group : Nat
  seq : Nat
  ranks : List Nat
  me : Nat
  round : Nat := 0
  rounds : Nat := 1
  moves : List (List Move) := []
  deriving DecidableEq, Repr, Inhabited

/-- A member's arrival in the Roll call of a round of a PERMUTE (R340): group, sequence number, round, rank. -/
structure MemberCall where
  group : Nat
  seq : Nat
  round : Nat
  rank : Nat
  deriving DecidableEq, Repr, Inhabited

/-- A collective engine: waiting commands and active collectives. -/
structure CollEng where
  inbox : List Cmd := []
  halted : Bool := false
  active : List Coll := []
  rest : Nat := 0
  deriving DecidableEq, Repr, Inhabited

/-- What one parity of Roll call has gathered: the fence flags by OR and by AND, the children that arrived (R327, R329), and
COL_ROLL_CFG as it stood when the device's ROLL was taken (R354). -/
structure Arrived where
  anyFence : Bool := false
  allFence : Bool := true
  children : List Nat := []
  cfg : Option Word := none
  deriving DecidableEq, Repr, Inhabited

/-- Roll call on this device (R326 to R330): ROLL commands not yet complete with their rounds and fence flags, rounds whose
own arrival is held for the step's work with their fence flags, and what both parities have gathered. -/
structure Roll where
  waiting : List (CmdRef × Nat × Bool) := []
  held : List (Nat × Bool) := []
  even : Arrived := {}
  odd : Arrived := {}
  deriving DecidableEq, Repr, Inhabited

/-- An ADD of a core that has switched, held at a core of this device that has not (R356): the issuing core and context, the tag by
which that context waits for it, the target and its tally, and how much it adds. -/
structure HeldAdd where
  core : Nat
  deferred : Bool
  tag : Nat
  target : Nat
  tally : Nat
  n : Nat
  deriving DecidableEq, Repr, Inhabited

/-- The structure unit beyond its registers (R351 to R356): the address that is being staged, the staged copy of a checked
image with the local addresses of its rank tables' copies by map, the epoch and image of a commit that awaits its tick, the image
that units switch to, the tick of the switch, whether its deadline has been reported, the cores that waited, the epoch before the
latest commit, and the ADDs that wait for a core to switch. -/
structure StrSt where
  staging : Option Nat := none
  image : Option (List Byte × List Nat) := none
  next : Option (Nat × List Byte × List Nat) := none
  force : Option (List Byte × List Nat) := none
  since : Nat := 0
  late : Bool := false
  waited : Nat := 0
  prev : Nat := 0
  heldAdds : List HeldAdd := []
  deriving DecidableEq, Repr, Inhabited

/-- The replay recorder beyond its registers and its region (R416): how many recorded requests have been injected, the
offsets of response entries that are used up, and those that a request has matched and that are not injected yet, with the
request's tag. -/
structure RecSt where
  next : Nat := 0
  used : List Nat := []
  due : List (Nat × Nat) := []
  deriving DecidableEq, Repr, Inhabited

end Sys2Proof.Machine
end

