-- ==== Sys2Proof/Machine/State.lean ====
section
/-! DEFINITION. The state of one Furrixon device as plain data: every register, memory, queue, unit and pin that the manual names,
the commands that wait, and the state after reset. -/

namespace Sys2Proof.Machine

/-- A frozen sub-master (R428), and whether its first refused command has been recorded. -/
structure Frz where
  mst : Mst
  reported : Bool := false
  deriving DecidableEq, Repr, Inhabited

/-- An item of the hardware scheduler (R389): handle, level, Flock, thread, argument, whether it was yielded before and
whether it is in service. -/
structure Item where
  handle : Nat
  level : Nat
  flock : Option Nat := none
  thread : Nat
  arg : Nat := 0
  resumed : Bool := false
  serving : Bool := false
  deriving DecidableEq, Repr, Inhabited

/-- An entry of a Timetable (R394): index, due tick and the item's content. -/
structure TtEnt where
  idx : Nat
  due : Nat
  item : Item
  deriving DecidableEq, Repr, Inhabited

/-- What a control core has been given (R391, R392): the item, whether it was taken, whether pre-emption is asserted,
and a serial number of the take. -/
structure Slot where
  item : Item
  taken : Bool := false
  preempt : Bool := false
  serial : Nat := 0
  deriving DecidableEq, Repr, Inhabited

/-- A control kernel command that waits for or is in service (R371, R388): its Fold, ring index, command, the tick of its
acceptance, and whether it waits (0), awaits another device's answer (1) or a tick (2). -/
structure Svc where
  fold : Nat
  ring : Nat
  cmd : Cmd
  tick : Nat
  phase : Nat := 0
  deriving DecidableEq, Repr, Inhabited

/-- A Fold's scheduler (R389 to R397): the items on the ready lists in list order, the slots of its two control cores,
its Timetable in posting order, the events that its sources hold, in order, the takes made so far, whether a regulator has cut the
Fold's control complex (R456), and the control cores whose post is held by a full list (R397). -/
structure Sched where
  ready : List Item := []
  slot0 : Option Slot := none
  slot1 : Option Slot := none
  tt : List TtEnt := []
  held : List (Nat × Nat) := []
  takes : Nat := 0
  cut : Bool := false
  stalled : List Nat := []
  deriving DecidableEq, Repr, Inhabited

/-- A block kept in the retry buffer (R315): sequence number, data field, and the credits of the packets that end in it, by channel and
class. -/
structure RetryEnt where
  seq : Nat
  data : List Byte
  ends : List Nat
  deriving DecidableEq, Repr, Inhabited

/-- A packet that a link has begun to send (R303, R308): its bytes still to be sent, its credit by channel and class, the ingress link and
place that it holds, and whether part of it has been sent. -/
structure Sending where
  bytes : List Byte
  credit : Nat
  via : Option (Nat × Nat) := none
  cut : Bool := false
  deriving DecidableEq, Repr, Inhabited

/-- A link beyond its registers (R308 to R316): packets awaiting transmission, packets that have begun, the retry buffer, ingress slots in use at
the neighbour per channel and class, weights left of the round robin, consecutive resends, bytes of a packet partly
received, packets in the ingress buffers, the expected number for which a NAK was sent, whether INIT was received, and
slots freed whose credit is not yet returned per channel and class. -/
structure Lnk where
  tx : List Packet := []
  out : List Sending := []
  retry : List RetryEnt := []
  used : List Nat := []
  wrr : List Nat := []
  resends : Nat := 0
  rxBuf : List Byte := []
  slots : List Packet := []
  nakFor : Option Nat := none
  gotInit : Bool := false
  owedCredit : List Nat := []
  deriving DecidableEq, Repr, Inhabited

/-- A completion record that waits for its ring's pasture (R299, R375): its master, address, bytes, and vector with its port. -/
structure HeldRec where
  mst : Mst
  addr : Nat
  data : List Byte
  irq : Option (Nat × Nat)
  deriving DecidableEq, Repr, Inhabited

/-- A host port's configuration as far as the model has it (R362, R363, R366): the size of BAR4 as a power of two, 0 for the largest
offered, the masked vectors of its MSI-X table, the errors reported through AER, oldest first, with the first-error pointer and the header
log of that error (log 5), and whether PERSTn_N holds the port in fundamental reset (R475). -/
structure PortCfg where
  bar4 : Nat := 0
  masked : List Nat := []
  aer : List Nat := []
  first : Option Nat := none
  header : List Word := []
  low : Bool := false
  deriving DecidableEq, Repr, Inhabited

/-- A queue pair beyond its registers (R371, R379): how often a reset has disowned its records, and the records owed. -/
structure Qp where
  gen : Nat := 0
  owed : Nat := 0
  deriving DecidableEq, Repr, Inhabited

/-- Who waits for the answer to a request of this device: a running instruction, a TALLY_ADD of a core's context, a
Drover's version check, its prefetch, the table descriptor of a SAMPLE or its sample, a migration's copy, a kernel service of a Fold. -/
inductive ReqOwner where
  | run (core rid : Nat)
  | add (core : Nat) (deferred : Bool)
  | check (drover id : Nat)
  | feed (drover serial : Nat)
  | feature (drover serial : Nat)
  | sample (drover serial : Nat)
  | copy (engine id : Nat)
  | service (fold serial : Nat)
  | other
  deriving DecidableEq, Repr, Inhabited

/-- A request of this device that awaits its answer: tag, destination, who waits, and what a recorder keys it by: address,
payload CRC, payload length and type (R304, R415); the packets of its answer that have come (R206), and, of the answer to a row or reduce
request, their places and bytes and whether one met an uncorrectable atom (R304). -/
structure Req where
  tag : Nat
  dst : Nat
  owner : ReqOwner
  addr : Nat := 0
  crc : Nat := 0
  len : Nat := 0
  ty : Nat := 0
  got : Nat := 0
  pieces : List (Nat × List Byte) := []
  lost : Bool := false
  deriving DecidableEq, Repr, Inhabited

/-- The security controller beyond its registers (R443, R444, R451, R453): the svn of the running image, an unused challenge,
the floor that a commit still has to reach, the class whose reset waits for the step being blown, and the words of the data
window. -/
structure SecSt where
  fwSvn : Option Nat := none
  challenge : Option (BitVec 256) := none
  blow : Option Nat := none
  heldReset : Option Nat := none
  window : Sparse Word := []
  deriving DecidableEq, Repr, Inhabited

/-- The power manager beyond its registers (R462): the last samples in mW, newest first, and the run of samples below 97 % of
the cap. -/
structure PwrSt where
  samples : List Nat := []
  below : Nat := 0
  deriving DecidableEq, Repr, Inhabited

/-- The management controller and the test access port beyond their registers (R476, R478, R481): the event receiver, the
platform events sent (1 alert with its sensor, 2 trip, 3 power failure), the packets in which the latest MCTP message left (R477), the
TAP's instruction, and what its boundary register holds. -/
structure MgtSt where
  receiver : Option Nat := none
  sent : List (Nat × Nat) := []
  packets : List (List Byte) := []
  tap : Nat := 1
  boundary : Word := 0
  deriving DecidableEq, Repr, Inhabited

/-- The device. `grade` is a code of GLB_ID.grade. `regs` holds the registers that differ from their reset value, `mem` the
bytes of local memory, `atomErrs` the symbol errors of pasture atoms, `bursts` and `pinHits` the windows of R287 with the pins whose record has been made,
`caErrs` the parity errors that a stack's next commands will meet, `upsets` the words of on-die SRAM with an error not yet met, `loaders` the TLOADs that have reached each stack's transposing loader, as
cores and the numbers of their runs, `windows` the words of the Hall monitor's windows,
`frozen` the frozen sub-masters, `ports` the configuration of the host ports. `msix` lists the vectors raised per port, each with whether
its mask held it back; `hostOut` and `lineOut` list what has left the device: writes to host memory, blocks per link; `answer` is what it answered last to a read from outside. `reqs` are its requests that await
an answer, `heldRecs` the completion records that wait for a pasture. `sram` and `mram` are the Logbook's stores, `flush` the flush that runs with its cause and the slot it reaches,
`flushes` the causes that wait. `released`, `powerFailed` and `sysRst` say whether the units have left power-on reset, whether
PWR_FAIL_N was asserted, and whether SYS_RST_N is low; `thermTrip` whether THERMTRIP_N is asserted, `vioDown` whether VIO has fallen,
`fabricCut` the dies (0, 1 compute, 2, 3 IO) whose fabric a regulator has cut, `untrained` the stacks whose training standby broke off. `meas` holds M0 to M3, `pastures` the PASTURE section in force,
`collIn` and `calls` are the collective messages and the arrivals of a PERMUTE's members that have come, `collSeq` counts each
group's collectives, `jobRanks` the devices of the group of the last closing collective. `committed` says that a commit has been made since reset.
`stamp` and `free` are the model's own: which undefined contents the lowest 64 MiB hold, and the free values drawn so far.
`pending` are the commands that wait, first in, first out. -/
structure State where
  grade : Nat := 1
  regs : Sparse Word := []
  mem : Sparse Byte := []
  stamp : Nat := 0
  atomErrs : Sparse Nat := []
  bursts : Sparse Nat := []
  pinHits : Sparse (Nat × Bool) := []
  caErrs : Sparse Nat := []
  upsets : List Upset := []
  loaders : Sparse (List (Nat × Nat)) := []
  svcs : List Svc := []
  pastures : Option (List Byte) := none
  cores : Sparse Core := []
  windows : Sparse Word := []
  frozen : List Frz := []
  qps : Sparse Qp := []
  ports : Sparse PortCfg := []
  msix : List (Nat × Nat × Bool) := []
  hostOut : List (Nat × Nat × List Byte) := []
  heldRecs : List HeldRec := []
  links : Sparse Lnk := []
  nsrs : Sparse Nsr := []
  appliers : Sparse Applier := []
  drovers : Sparse Drover := []
  trhs : Sparse Trh := []
  engines : Sparse CollEng := []
  collIn : List CollMsg := []
  collSeq : Sparse Nat := []
  calls : List MemberCall := []
  roll : Roll := {}
  rcd : RecSt := {}
  jobRanks : List Nat := []
  lineOut : List (Nat × List Byte × Nat) := []
  reqs : List Req := []
  nextTag : Nat := 0
  scheds : Sparse Sched := []
  sram : Sparse (BitVec 256) := []
  mram : Sparse (BitVec 256) := []
  logClosed : Bool := false
  flush : Option (Nat × Nat) := none
  flushes : List Nat := []
  str : StrSt := {}
  meas : List (BitVec 512) := []
  committed : Bool := false
  sec : SecSt := {}
  pwr : PwrSt := {}
  mgt : MgtSt := {}
  released : Bool := false
  powerFailed : Bool := false
  sysRst : Bool := false
  thermTrip : Bool := false
  vioDown : Bool := false
  fabricCut : List Nat := []
  untrained : List Nat := []
  answer : List Byte := []
  free : Nat := 0
  pending : List Instr := []
  deriving DecidableEq, Repr

/-- Faults. No command of this device ends in one: what the manual leaves open is a free value or a marked choice. -/
inductive Fault where
  deriving DecidableEq, Repr

/-- Refusals. -/
inductive Refusal where
  /-- A command without a meaning in the model; raised by the dispatcher's arm of that command alone. Safe. -/
  | notModelled (mnemonic : String)
  deriving DecidableEq, Repr

/-- An extension of a measurement: SHAKE256 of the register and the data (R446). -/
def extendOf (m : BitVec 512) (d : List Byte) : BitVec 512 := Config.shake256 (leBytes 64 m.toNat ++ d)

/-- The measurements right after a reset: M0 extended with the hash of the boot ROM, the others zero (R446). -/
def measReset : List (BitVec 512) :=
  [extendOf 0 (leBytes 64 (Config.shake256 Config.bootRom).toNat), 0, 0, 0]

/-- MGT_STATUS with the static address that the straps give (R476, R482); the pull-ups give 7 (log 53). -/
def mgtStrapped : Word := BitVec.ofNat 64 ((0x60 + 7) * 2 ^ 3)

/-- A device of a grade at power-on reset. -/
def State.fresh (g : Nat) : State :=
  { grade := g, regs := [(MGT_STATUS, mgtStrapped)], meas := measReset }

/-- The machine right after reset: a PFX-3296 in power-on reset, before its rails are good (R455, log 54). -/
def State.reset : State := State.fresh 1

end Sys2Proof.Machine
end

