-- ==== Sys2Proof/Machine/Access.lean ====
section
/-! DEFINITION. Presence of units (R1), register resets, reading and writing fields of the register store, and the
numbered units of State. -/

namespace Sys2Proof.Machine

/-- Kinds of units that a grade may lack (R1, R2). -/
inductive UKind where
  | core | drover | stack | link | coll | trh
  deriving DecidableEq, Repr

/-- The three grades of R1, by the codes of GLB_ID.grade: 1 PFX-3296, 2 PFX-2464, 3 PFX-1632. -/
def coreMask (g : Nat) : Nat := if g = 1 then 0xFFFFFFFF else if g = 2 then 0x3F3F3F3F else 0x0F0F0F0F

/-- GLB_INVENTORY_STACK per grade (R384). -/
def stackMask (g : Nat) : Nat := if g = 1 then 0xFF else if g = 2 then 0x77 else 0x33

/-- GLB_INVENTORY_ENGINE per grade (R384). -/
def engineMask (g : Nat) : Nat := if g = 3 then 0xA045 else 0xE4FF

/-- GLB_INVENTORY_LINK_LO, _MID and _HI per grade as one number (R384). -/
def linkMask (g : Nat) : Nat :=
  if g = 1 then 0xFFFFFFFFFFFFFFFFFFFFFFFF else if g = 2 then 0x0000FFFFFFFF0000FFFFFFFF
  else 0x00000000FFFF00000000FFFF

/-- Whether a unit is present in a grade (R1, R2). -/
def unitIn (g : Nat) (k : UKind) (n : Nat) : Bool :=
  match k with
  | .core => decide (n < 32) && bitOf (coreMask g) n
  | .stack => decide (n < 8) && bitOf (stackMask g) n
  | .drover => decide (n < 4) && bitOf (engineMask g) n
  | .trh => decide (n < 2) && bitOf (engineMask g) (4 + n)
  | .coll => decide (n < 2) && bitOf (engineMask g) (6 + n)
  | .link => decide (n < 96) && bitOf (linkMask g) n

/-- Whether a unit of the device is present. -/
def State.has (s : State) (k : UKind) (n : Nat) : Bool := unitIn s.grade k n

/-- The Drover that serves a Fold (R2: GLB_INVENTORY_ENGINE bits 15:8). -/
def droverOf (g f : Nat) : Nat := bitsOf (engineMask g) (9 + 2 * f) (8 + 2 * f)

/-- The Folds that a Drover serves, as a bit mask. -/
def foldsOf (g d : Nat) : Nat :=
  ((rangeFrom 0 4).filter (fun f => droverOf g f = d)).foldl (fun a f => a + 2 ^ f) 0

/-- Whether the unit that a register belongs to is present (R3). -/
def blkPresent (g : Nat) (r : RegAt) : Bool :=
  match r.blk with
  | .cor => unitIn g .core r.unit
  | .drv => unitIn g .drover r.unit
  | .mem => unitIn g .stack r.unit
  | .lnk => unitIn g .link r.unit
  | .eng => unitIn g .coll r.unit
  | .trh => unitIn g .trh r.unit
  | .emb => if r.desc.off ≥ 0x100 then unitIn g .stack r.idx else true
  | .clk => if r.desc.off ≥ 0x100 then unitIn g .core r.idx else true
  | _ => true

/-- Reset value of a register description, field by field. -/
def descReset (d : RDesc) : Word :=
  BitVec.ofNat 64 (d.flds.foldl (fun a f => a + f.reset % 2 ^ (f.hi + 1 - f.lo) * 2 ^ f.lo) 0)

/-- The reset value that the tables give per unit or per grade, over those that are one number. -/
def resetOf (g : Nat) (r : RegAt) : Word :=
  let w := descReset r.desc
  match r.blk, r.desc.off with
  | .glb, 0x0 => fset GLB_ID_grade g w
  | .glb, 0x8 => BitVec.ofNat 64 (coreMask g)
  | .glb, 0x10 => BitVec.ofNat 64 (stackMask g)
  | .glb, 0x18 => BitVec.ofNat 64 (engineMask g)
  | .glb, 0x20 => BitVec.ofNat 64 (linkMask g % 2 ^ 32)
  | .glb, 0x28 => BitVec.ofNat 64 (linkMask g / 2 ^ 32 % 2 ^ 32)
  | .glb, 0x30 => BitVec.ofNat 64 (linkMask g / 2 ^ 64)
  | .cor, 0x0 => fset COR_ID_fold (r.unit / 8) (fset COR_ID_core r.unit w)
  | .drv, 0x0 => fset DRV_ID_folds (foldsOf g r.unit) (fset DRV_ID_drover r.unit w)
  | .drv, 0x20 =>
    let sh := decide (g = 3)
    fset DRV_SHARE_CFG_shared (b2n sh) (fset DRV_SHARE_CFG_lanes_own (if sh then 32 else 64) w)
  | .mem, 0x0 => fset MEM_ID_stack r.unit w
  | .mem, 0x10000 => fset NSR_ID_stack r.unit w
  | .trh, 0x0 => fset TRH_ID_engine r.unit w
  | .lnk, 0x0 => fset LNK_ID_link r.unit w
  | .lnk, 0x18 => fset LNK_CFG_port r.unit w
  | .eng, 0x0 => fset COL_ENG_ID_engine r.unit w
  | .schf, 0x0 => fset SCH_ID_fold r.unit w
  | _, _ => w

/-- What an unlisted register reads as: its reset value; zero where there is no register or the unit is absent
(R3, R64). -/
def regReset (g : Nat) (off : Nat) : Word :=
  match regAt off with
  | none => 0
  | some r => if blkPresent g r then resetOf g r else 0

/-- The stored value of a register. -/
def State.reg (s : State) (off : Nat) : Word := spGet (regReset s.grade) s.regs off

/-- Store a register value. -/
def State.setReg (s : State) (off : Nat) (w : Word) : State :=
  { s with regs := spSet (regReset s.grade) s.regs off w }

/-- A field of a stored register. -/
def State.fld (s : State) (off : Nat) (f : Fld) : Nat := fget f (s.reg off)

/-- A one-bit field of a stored register. -/
def State.bit (s : State) (off : Nat) (f : Fld) : Bool := fbit f (s.reg off)

/-- Store a field. -/
def State.setFld (s : State) (off : Nat) (f : Fld) (v : Nat) : State := s.setReg off (fset f v (s.reg off))

/-- A core. -/
def State.core (s : State) (c : Nat) : Core := spGet (fun _ => ({} : Core)) s.cores c

/-- Replace a core. -/
def State.setCore (s : State) (c : Nat) (x : Core) : State :=
  { s with cores := spSet (fun _ => ({} : Core)) s.cores c x }

/-- Change a core. -/
def State.onCore (s : State) (c : Nat) (f : Core → Core) : State := s.setCore c (f (s.core c))

/-- A data queue of a core. -/
def Core.queue (k : Core) (q : Nat) : DQueue := spGet (fun _ => ({} : DQueue)) k.queues q

/-- Replace a data queue. -/
def Core.setQueue (k : Core) (q : Nat) (x : DQueue) : Core :=
  { k with queues := spSet (fun _ => ({} : DQueue)) k.queues q x }

/-- What the structure image gives a data queue. -/
def Core.bind (k : Core) (q : Nat) : QBind := spGet (fun _ => ({} : QBind)) k.binds q

/-- The key of a row segment. -/
def segKey (bank row sub : Nat) : Nat := bank * 8192 + row * 4 + sub

/-- A row segment. -/
def Core.seg (k : Core) (bank row sub : Nat) : Seg := spGet (fun _ => ({} : Seg)) k.segs (segKey bank row sub)

/-- Replace a row segment. -/
def Core.setSeg (k : Core) (bank row sub : Nat) (x : Seg) : Core :=
  { k with segs := spSet (fun _ => ({} : Seg)) k.segs (segKey bank row sub) x }

/-- A sub-array. -/
def Core.sub (k : Core) (i : Nat) : SubArr := spGet (fun _ => ({} : SubArr)) k.subs i

/-- Replace a sub-array. -/
def Core.setSub (k : Core) (i : Nat) (x : SubArr) : Core :=
  { k with subs := spSet (fun _ => ({} : SubArr)) k.subs i x }

/-- A queue pair. -/
def State.qp (s : State) (n : Nat) : Qp := spGet (fun _ => ({} : Qp)) s.qps n

/-- Replace a queue pair. -/
def State.setQp (s : State) (n : Nat) (x : Qp) : State := { s with qps := spSet (fun _ => ({} : Qp)) s.qps n x }

/-- A Fold's scheduler. -/
def State.sched (s : State) (f : Nat) : Sched := spGet (fun _ => ({} : Sched)) s.scheds f

/-- Replace a Fold's scheduler. -/
def State.setSched (s : State) (f : Nat) (x : Sched) : State :=
  { s with scheds := spSet (fun _ => ({} : Sched)) s.scheds f x }

/-- A host port's configuration. -/
def State.port (s : State) (n : Nat) : PortCfg := spGet (fun _ => ({} : PortCfg)) s.ports n

/-- Replace a host port's configuration. -/
def State.setPortCfg (s : State) (n : Nat) (x : PortCfg) : State := { s with ports := spSet (fun _ => ({} : PortCfg)) s.ports n x }

/-- A link. -/
def State.lnk (s : State) (n : Nat) : Lnk := spGet (fun _ => ({} : Lnk)) s.links n

/-- Replace a link. -/
def State.setLnk (s : State) (n : Nat) (x : Lnk) : State := { s with links := spSet (fun _ => ({} : Lnk)) s.links n x }

/-- A near-stack reducer. -/
def State.nsr (s : State) (n : Nat) : Nsr := spGet (fun _ => ({} : Nsr)) s.nsrs n

/-- Replace a near-stack reducer. -/
def State.setNsr (s : State) (n : Nat) (x : Nsr) : State := { s with nsrs := spSet (fun _ => ({} : Nsr)) s.nsrs n x }

/-- A row applier. -/
def State.applier (s : State) (n : Nat) : Applier := spGet (fun _ => ({} : Applier)) s.appliers n

/-- Replace a row applier. -/
def State.setApplier (s : State) (n : Nat) (x : Applier) : State :=
  { s with appliers := spSet (fun _ => ({} : Applier)) s.appliers n x }

/-- A Drover. -/
def State.drover (s : State) (n : Nat) : Drover := spGet (fun _ => ({} : Drover)) s.drovers n

/-- Replace a Drover. -/
def State.setDrover (s : State) (n : Nat) (x : Drover) : State :=
  { s with drovers := spSet (fun _ => ({} : Drover)) s.drovers n x }

/-- A Transhumance engine. -/
def State.trh (s : State) (n : Nat) : Trh := spGet (fun _ => ({} : Trh)) s.trhs n

/-- Replace a Transhumance engine. -/
def State.setTrh (s : State) (n : Nat) (x : Trh) : State := { s with trhs := spSet (fun _ => ({} : Trh)) s.trhs n x }

/-- A collective engine. -/
def State.engine (s : State) (n : Nat) : CollEng := spGet (fun _ => ({} : CollEng)) s.engines n

/-- Replace a collective engine. -/
def State.setEngine (s : State) (n : Nat) (x : CollEng) : State :=
  { s with engines := spSet (fun _ => ({} : CollEng)) s.engines n x }

/-- The device's own id (R26, R314): LNK_DEVICE_ID.device once a commit has been made, 0x0000 until then. -/
def State.devId (s : State) : Nat := if s.committed then s.fld LNK_DEVICE_ID LNK_DEVICE_ID_device else 0

/-- A free truth value; the draw advances. -/
def State.drawBool (s : State) : Bool × State := (Config.freeBool s.free, { s with free := s.free + 1 })

/-- A free word; the draw advances. -/
def State.drawWord (s : State) : Word × State := (Config.freeWord s.free, { s with free := s.free + 1 })

end Sys2Proof.Machine
end

