-- ==== Sys2Proof/Machine/Flags.lean ====
section
/-! DEFINITION. Sticky flags (R8, R9), counters by their kinds (R438), and the write of a register field by field. -/

namespace Sys2Proof.Machine

/-- Set a sticky W1C flag. -/
def State.flag (s : State) (off : Nat) (f : Fld) : State := s.setFld off f 1

/-- The count field of a saturating 48-bit counter. -/
abbrev cntFld : Fld := ⟨47, 0⟩

/-- The sticky flag of a saturating 48-bit counter. -/
abbrev satFld : Fld := ⟨63, 63⟩

/-- The value of a saturating counter register after `n` more events: it stops at 0xFFFF_FFFF_FFFF and sets its
sticky flag there (R438). -/
def satWord (n : Nat) (w : Word) : Word :=
  let v := fget cntFld w + n
  if v ≥ 2 ^ 48 - 1 ∧ n > 0 then fset satFld 1 (fset cntFld (2 ^ 48 - 1) w) else fset cntFld v w

/-- Count `n` events in a saturating counter (R438). -/
def State.count (s : State) (off n : Nat) : State := s.setReg off (satWord n (s.reg off))

/-- Clear the count and the flag of a saturating counter, the action of clear_counts (R438). -/
def State.clearCount (s : State) (off : Nat) : State :=
  s.setReg off (fset satFld 0 (fset cntFld 0 (s.reg off)))

/-- Count in a wide 64-bit counter (R438). -/
def State.wide (s : State) (off n : Nat) : State := s.setReg off (s.reg off + BitVec.ofNat 64 n)

/-- One field of a write by its access type (R8): RW takes the written value, W1C clears where a 1 is written, RWL
takes the value while `open_` holds, RO and WO keep what they hold. -/
def writeField (open_ : Bool) (v : Word) (old : Word) (f : FDesc) : Word :=
  let fl : Fld := ⟨f.hi, f.lo⟩
  match f.acc with
  | .rw => fset fl (fget fl v) old
  | .rwl => if open_ then fset fl (fget fl v) old else old
  | .w1c => fset fl (fget fl (old &&& ~~~ v)) old
  | .ro => old
  | .wo => old

/-- A write of a whole register by the access types of its fields (R8). -/
def writeFields (open_ : Bool) (v : Word) (d : RDesc) (old : Word) : Word :=
  d.flds.foldl (fun a f => writeField open_ v a f) old

/-- Whether a register holds an RWL field. -/
def RDesc.hasRwl (d : RDesc) : Bool := d.flds.any (fun f => decide (f.acc = .rwl))

end Sys2Proof.Machine
end

