-- ==== Sys2Proof/Machine/Views.lean ====
section
/-! DEFINITION. Reading a register (R7, R10): the stored value, or the view of a register that shows state held
elsewhere. Reading changes nothing. -/

namespace Sys2Proof.Machine

/-- The state code of a stream for COR_STATUS (R64): idle, issuing or why it is stalled, stopped. A context that waits for
its own running instructions shows what the oldest of them waits for. -/
def streamCode (k : Core) (x d : Bool) (v : Ctx) : Nat :=
  let run := k.runs.find? (fun r => decide (decide (r.unit ≠ 0) = x) && decide (r.deferred = d))
  let code := match run with | some r => if r.onQueue then 2 else max 1 r.wcode | none => 1
  if k.state = .stopped then 4 else
    match v.life with
    | .idle => 0
    | .ended => 0
    | .ending => code
    | .live => if v.stall = 8 then code else if v.stall = 9 then 6 else max 1 v.stall

/-- COR_STATUS (R64). -/
def viewCorStatus (k : Core) : Word :=
  fset COR_STATUS_stop_status k.stopStatus <|
  fset COR_STATUS_deferred_entries k.deferQ.length <|
  fset COR_STATUS_x_deferred (b2n k.xDef) <|
  fset COR_STATUS_x_state (streamCode k true k.xDef (if k.xDef then k.xd else k.xm)) <|
  fset COR_STATUS_a_deferred (b2n k.aDef) <|
  fset COR_STATUS_a_state (streamCode k false k.aDef (if k.aDef then k.ad else k.am)) <|
  fset COR_STATUS_core_state k.state.code 0

/-- COR_QUEUE_q (R64): type, ends and occupancy. An engine end shows as the structure image binds it (R32). -/
def viewQueue (k : Core) (q : Nat) : Word :=
  let x := k.queue q
  let b := k.bind q
  fset COR_QUEUE_occupancy x.rows.length <|
  fset COR_QUEUE_consumer (if b.cons = 0 then x.cons else b.cons) <|
  fset COR_QUEUE_producer (if b.prod = 0 then x.prod else b.prod) <|
  fset COR_QUEUE_row_units x.units <| fset COR_QUEUE_format x.fmt 0

/-- Sub-arrays of a split mode: 1, 2 or 4 (R106). -/
def nSubs (split : Nat) : Nat := if split = 2 then 4 else if split = 1 then 2 else 1

/-- Transfers with an expected value that have a place in the stream lane (R56): those that run and those that wait. -/
def Core.laneUsed (k : Core) : Nat :=
  k.checks.length +
    (k.runs.filter (fun r => decide (r.unit = 0) && decide (r.word.toNat / 2 ^ 118 % 2 = 1))).length

/-- COR_CVU_STATUS (R56, R64): the stream lane is busy while it holds a transfer. A block is fetched and checked by one
command, so the block lane shows idle (log 125). -/
def viewCvu (k : Core) : Word :=
  fset COR_CVU_STATUS_waiting k.laneUsed <| fset COR_CVU_STATUS_stream_busy (b2n (decide (0 < k.laneUsed))) 0

/-- Whether a lane steals within its core (R132): its victim's MSTREAM runs. -/
def Core.stealsBy (k : Core) (i : Nat) : Bool :=
  k.steals.any (fun z => !z.cross && decide (z.lane = i) && k.runs.any (fun r => decide (r.rid = z.rid)))

/-- Whether a core's array works on a chunk that it has taken from another core of its Fold (R134). -/
def State.stealsAcross (s : State) (thief : Nat) : Bool :=
  (rangeFrom (thief / 8 * 8) 8).any (fun c => (s.core c).steals.any (fun z =>
    z.cross && decide (z.thief = thief) && (s.core c).runs.any (fun r => decide (r.rid = z.rid))))

/-- One lane of COR_ARR_STATUS (R137); `away` says that the core steals from another, which its lane 0 shows (log 145). A stream lane's instruction shows in `stage` what it waits for: 3 for its fill,
4 on the interlock, 5 while it fills K-block 1; 0 while it streams. -/
def viewLane (k : Core) (away : Bool) (i : Nat) : Nat :=
  let sh := k.sub i
  let fill := k.runs.any (fun r => decide (r.unit = 5 + i))
  let st := match k.runs.find? (fun r => decide (r.unit = 1 + i) && !r.streamed) with
    | none => if k.stealsBy i || (away && i == 0) then 2 else 0
    | some r => if r.stage = 0 then 1 else r.stage
  b2n sh.filled * 128 + b2n (fill || sh.filled) * 64 + st

/-- COR_ARR_STATUS (R137). A lane that does not exist in the split mode reads 0. -/
def viewArrStatus (k : Core) (away : Bool) (split : Nat) : Word :=
  BitVec.ofNat 64 ((rangeFrom 0 (nSubs split)).foldl (fun a i => a + viewLane k away i * 2 ^ (8 * i)) 0)

/-- Whether a sub-master is frozen. -/
def State.isFrozen (s : State) (m : Mst) : Bool := s.frozen.any (fun z => decide (z.mst = m))

/-- HMN_FROZEN_i (R439): a bit per class with a frozen sub-master. -/
def viewFrozen (s : State) (i : Nat) : Word :=
  BitVec.ofNat 64 ((rangeFrom 0 64).foldl
    (fun a b => if s.frozen.any (fun z => decide (z.mst.cls = 64 * i + b)) then a + 2 ^ b else a) 0)

/-- The words of a window at reset (R426): window 0 of every class covers everything with all four permissions. -/
def winReset (key : Nat) : Word :=
  if key / 4 % 256 = 0 ∧ key % 4 = 2 then BitVec.ofNat 64 (2 ^ 40 + 15 * 2 ^ 32 + 0xFFFF * 2 ^ 16) else 0

/-- A word of a Hall monitor window (R424). -/
def State.win (s : State) (cls idx k : Nat) : Word := spGet winReset s.windows (cls * 1024 + idx * 4 + k)

/-- Replace a word of a window. -/
def State.setWin (s : State) (cls idx k : Nat) (w : Word) : State :=
  { s with windows := spSet winReset s.windows (cls * 1024 + idx * 4 + k) w }

/-- A slot of a Logbook store. -/
def logSlot (m : Sparse (BitVec 256)) (i : Nat) : BitVec 256 := spGet (fun _ => 0) m i

/-- An 8-byte word of the Logbook window (R435): 128 slots from the cursor, wrapping within the store's ring. -/
def viewLogWindow (s : State) (rel : Nat) : Word :=
  let first := s.fld LOG_CURSOR LOG_CURSOR_slot
  let slot := first + rel / 32
  let v := if s.bit LOG_CURSOR LOG_CURSOR_store then logSlot s.mram (slot % 262144) else logSlot s.sram (slot % 32768)
  (v >>> (8 * (rel % 32 / 8 * 8))).setWidth 64

/-- Items that use a pool entry: on a list, offered or in service (R389). -/
def Sched.used (x : Sched) : Nat := x.ready.length + b2n x.slot0.isSome + b2n x.slot1.isSome

/-- The state code of a control core's slot (R401): a Fold's complex is in recess when both of its cores wait for work, and in standby
(R386, R459). -/
def slotCode (inReset rest : Bool) (o : Option Slot) : Nat :=
  if inReset then 5 else if rest then 4 else match o with
    | none => 0
    | some z => if z.preempt then 3 else if z.taken then 2 else 1

/-- SCH_STATUS (R401). -/
def viewSchStatus (s : State) (f : Nat) : Word :=
  let x := s.sched f
  let rst := decide (s.fld SCH_FW_STATUS SCH_FW_STATUS_state ≠ 3)
  let both := (x.slot0.isNone && x.slot1.isNone) || s.bit PWR_STATUS PWR_STATUS_standby
  fset SCH_STATUS_pool_used x.used <| fset SCH_STATUS_tt_used x.tt.length <|
  fset SCH_STATUS_core1 (slotCode rst both x.slot1) <| fset SCH_STATUS_core0 (slotCode rst both x.slot0) 0

/-- The slot of a control core. -/
def State.slot (s : State) (cc : Nat) : Option Slot :=
  if cc % 2 = 0 then (s.sched (cc / 2)).slot0 else (s.sched (cc / 2)).slot1

/-- SCH_DISPATCH_c (R401). -/
def viewDispatch (o : Option Slot) : Word :=
  match o with
  | none => 0
  | some z =>
    fset SCH_DISPATCH_valid 1 <| fset SCH_DISPATCH_taken (b2n z.taken) <| fset SCH_DISPATCH_preempt (b2n z.preempt) <|
    fset SCH_DISPATCH_level z.item.level <| fset SCH_DISPATCH_flock_en (b2n z.item.flock.isSome) <|
    fset SCH_DISPATCH_flock (z.item.flock.getD 0) <| fset SCH_DISPATCH_thread z.item.thread <|
    fset SCH_DISPATCH_resumed (b2n z.item.resumed) <| fset SCH_DISPATCH_handle z.item.handle 0

/-- Whether a queue pair is frozen (R377): its sub-master is, in either port's class. -/
def State.qpFrozen (s : State) (n : Nat) : Bool := s.isFrozen ⟨0, n⟩ || s.isFrozen ⟨1, n⟩

/-- State code of an engine: 0 to 4 idle, at work, halted, recess, holiday (R273, R341). -/
def engineCode (halted : Bool) (rest : Nat) (work : Bool) : Nat :=
  if 2 ≤ rest then 4 else if halted then 2 else if rest = 1 then 3 else b2n work

/-- State code of a Drover: idle, sampling, prefetching or checking, halted, recess, holiday (R222). -/
def droverCode (k : Drover) : Nat :=
  if 2 ≤ k.rest then 5 else if k.halted then 3 else if k.rest = 1 then 4
  else if k.samples.any (·.started) then 1
  else if k.feeds ≠ [] ∨ k.rows.any (fun r => decide (r.check = 1 ∨ r.check = 2)) then 2 else 0

/-- DRV_STATUS (R222): walker lanes are busy only within a step, so none shows (log 55). -/
def viewDrvStatus (s : State) (d : Nat) : Word :=
  let k := s.drover d
  fset DRV_STATUS_held (k.samples.filter (fun x => !x.started)).length <|
  fset DRV_STATUS_state (droverCode k) (s.reg (DRV_STATUS d))

/-- NSR_POP_ADDR_i, _COUNT_i and _FLOOR_i: entry i of the snapshot (R241, R244). -/
def viewPop (s : State) (p i k : Nat) : Word :=
  match (s.nsr p).snap[i]? with
  | none => 0
  | some e =>
    if k = 0 then fset NSR_POP_ADDR_valid 1 (BitVec.ofNat 64 e.addr) else BitVec.ofNat 64 (if k = 1 then e.count else e.floor)

/-- TRH_STATUS (R273): the stubs that the engine has made, its migrations in progress. -/
def viewTrhStatus (s : State) (n : Nat) : Word :=
  let k := s.trh n
  let stubs := ((rangeFrom 0 8).map (fun p => ((s.nsr p).stubs.filter (fun b => decide (b.eng = n))).length)).foldl (· + ·) 0
  fset TRH_STATUS_stubs stubs <| fset TRH_STATUS_migrating k.migs.length <|
  fset TRH_STATUS_state (engineCode k.halted k.rest (decide (k.migs ≠ []))) 0

/-- Whether a link is in the training that follows a reset: enabled, with no event of it yet (R312, log 139). -/
def firstTraining (s : State) (n : Nat) : Bool :=
  s.has .link n && s.released && decide (s.fld (LNK_STATUS n) LNK_STATUS_state = 0) && s.bit (LNK_CFG n) LNK_CFG_enable

/-- LNK_STATUS (R321). -/
def viewLnkStatus (s : State) (n : Nat) : Word :=
  let w := fset LNK_STATUS_retry_used (s.lnk n).retry.length (s.reg (LNK_STATUS n))
  if firstTraining s n then fset LNK_STATUS_state 1 w else w

/-- COL_ENG_STATUS (R341). -/
def viewEngStatus (s : State) (n : Nat) : Word :=
  let k := s.engine n
  fset COL_ENG_STATUS_active (k.active.length + k.inbox.length) <| fset COL_ENG_STATUS_state (engineCode k.halted k.rest (decide (k.active ≠ []))) 0

/-- The registers that show state held elsewhere. -/
def viewReg (s : State) (r : RegAt) : Option Word :=
  match r.blk, r.desc.off with
  | .cor, 0x10 => some (viewCorStatus (s.core r.unit))
  | .cor, 0x20 => some (BitVec.ofNat 64 (s.core r.unit).prog.header)
  | .cor, 0x28 => some (BitVec.ofNat 64 (s.core r.unit).prog.gen)
  | .cor, 0xB0 => some (viewCvu (s.core r.unit))
  | .cor, 0x300 => some (viewQueue (s.core r.unit) r.idx)
  | .cor, 0x10020 => some (viewArrStatus (s.core r.unit) (s.stealsAcross r.unit) (s.fld (COR_ARR_CFG r.unit) COR_ARR_CFG_split))
  | .hmn, 0x28 => some (viewFrozen s r.idx)
  | .hmn, 0x130 =>
    some (s.win (s.fld HMN_WIN_SEL HMN_WIN_SEL_class) (s.fld HMN_WIN_SEL HMN_WIN_SEL_index) r.idx)
  | .que, 0x20 => some (fset QUE_STATUS_frozen (b2n (s.qpFrozen r.unit)) (s.reg (QUE_STATUS r.unit)))
  | .drv, 0x10 => some (viewDrvStatus s r.unit)
  | .mem, 0x18000 => some (viewPop s r.unit r.idx 0)
  | .mem, 0x18008 => some (viewPop s r.unit r.idx 1)
  | .mem, 0x18010 => some (viewPop s r.unit r.idx 2)
  | .trh, 0x10 => some (viewTrhStatus s r.unit)
  | .eng, 0x10 => some (viewEngStatus s r.unit)
  | .lnkd, 0x0 => some (fset LNK_DEVICE_ID_device s.devId (s.reg LNK_DEVICE_ID))
  | .lnk, 0x10 => some (viewLnkStatus s r.unit)
  | .lnk, 0x100 => some (if firstTraining s r.unit then fset LNK_LANE_train_state 1 (s.reg (LNK_LANE r.unit r.idx)) else s.reg (LNK_LANE r.unit r.idx))
  | .schf, 0x10 => some (viewSchStatus s r.unit)
  | .schc, 0x18 => some (viewDispatch (s.slot r.unit))
  | .schc, 0x20 => some (BitVec.ofNat 64 (((s.slot r.unit).map (·.item.arg)).getD 0))
  | _, _ => none

/-- Whether an offset is a word of the SEC mailbox's data window (R453). -/
def inSecWindow (off : Nat) : Bool := decide (0x3402000 ≤ off) && decide (off < 0x3404000) && decide (off % 8 = 0)

/-- A word of the SEC mailbox's data window. -/
def State.secWord (s : State) (i : Nat) : Word := spGet (fun _ => 0) s.sec.window i

/-- Replace a word of the SEC mailbox's data window. -/
def State.setSecWord (s : State) (i : Nat) (w : Word) : State :=
  { s with sec := { s.sec with window := spSet (fun _ => 0) s.sec.window i w } }

/-- The value a register reads as at its own address: write-only fields read zero (R8), an absent unit's registers read
zero (R3), and an offset that is no register reads zero. -/
def readReg (s : State) (off : Nat) : Word :=
  match regAt off with
  | none =>
    if 0x210000 ≤ off ∧ off < 0x211000 ∧ off % 8 = 0 then viewLogWindow s (off - 0x210000)
    else if inSecWindow off then s.secWord ((off - 0x3402000) / 8) else 0
  | some r =>
    if !blkPresent s.grade r then 0 else
      match viewReg s r with
      | some w => w
      | none => r.desc.flds.foldl (fun a f => if f.acc = .wo then fset ⟨f.hi, f.lo⟩ 0 a else a) (s.reg off)

/-- Width in bytes of the register whose own address is an offset; the Logbook window reads as 8-byte words. -/
def regBytes (off : Nat) : Nat :=
  match regAt off with
  | some r => r.desc.width / 8
  | none => if (0x210000 ≤ off ∧ off < 0x211000 ∧ off % 8 = 0) ∨ inSecWindow off then 8 else 0

/-- The register that holds a byte of the register space. -/
def regHolding (off : Nat) : Option RegAt :=
  match regAt (off / 4 * 4) with
  | some r => some r
  | none => match regAt (off / 8 * 8) with
    | some r => if r.desc.width = 64 then some r else none
    | none => none

/-- One byte of the register space: the byte of the register that holds it, zero where none does (R7). -/
def readRegByte (s : State) (off : Nat) : Byte :=
  let a8 := off / 8 * 8
  let a4 := off / 4 * 4
  if regBytes a4 = 4 then ((readReg s a4) >>> (8 * (off - a4))).setWidth 8
  else if regBytes a8 = 8 then ((readReg s a8) >>> (8 * (off - a8))).setWidth 8
  else 0

/-- A read of `n` bytes of the register space (R7): narrower reads give the addressed bytes, wider reads each byte of
the registers they cover and zero elsewhere. -/
def readRegs (s : State) (off n : Nat) : List Byte := (rangeFrom off n).map (readRegByte s)

end Sys2Proof.Machine
end

