-- ==== Sys2Proof/Machine/Ops.lean ====
section
/-! DEFINITION. The named operations that every unit shares: MSI-X, the Logbook, the scheduler's sources, the Hall
monitor, local memory, completion records, packets to other devices. -/

namespace Sys2Proof.Machine

/-- What a step answers. -/
abbrev Out := Host.Outcome State Fault Refusal

/-- Whether the device's units run: released from power-on reset, not tripped, no power failure, and SYS_RST_N high (R455,
R465, R466, R475). -/
def State.live (s : State) : Bool :=
  s.released && !s.bit THM_STATUS THM_STATUS_tripped && !s.powerFailed && !s.sysRst

/-- A command of a unit whose clocks may be stopped: without effect while the units do not run. -/
def whileLive (f : State → State) (s : State) : Out := .next (if s.live then f s else s)

/-- Whether a host port is cut off: PERSTn_N holds it in fundamental reset (R475), or the fabric of its IO die is cut (R456, log 57). -/
def portOff (s : State) (port : Nat) : Bool := (s.port port).low || s.fabricCut.contains (2 + port)

/-- Whether a commit is mixed: no engine takes a command and no program starts (R355). -/
def State.mixed (s : State) : Bool := s.bit STR_STATUS STR_STATUS_mixed

/-- Raise an MSI-X vector on one port, whose own table may mask it (R366), as a port in reset does (R379, R475). -/
def State.msixOn (s : State) (port v : Nat) : State :=
  { s with msix := s.msix ++ [(port, v, (s.port port).masked.contains v || portOff s port)] }

/-- Raise vectors 0 to 3 on both ports (R366). -/
def State.msixBoth (s : State) (v : Nat) : State := (s.msixOn 0 v).msixOn 1 v

/-- The lowest pool index that no item of a scheduler uses (R389). -/
def Sched.freeHandle (x : Sched) : Nat :=
  let used := x.ready.map (·.handle) ++ (x.slot0.toList ++ x.slot1.toList).map (·.item.handle)
  ((rangeFrom 0 (used.length + 1)).find? (fun h => !used.contains h)).getD 0

/-- An item of a source (R396). -/
def srcItem (s : State) (f src arg : Nat) (x : Sched) : Item :=
  let r := s.reg (SCH_SRC f src)
  let fl := if src = 0 then some (arg % 2 ^ 14 % 4096) else if fbit SCH_SRC_flock_en r then some (fget SCH_SRC_flock r) else none
  { handle := x.freeHandle, level := fget SCH_SRC_level r, flock := fl, thread := fget SCH_SRC_thread r, arg := arg }

/-- Whether a source may enter an item now: enabled, with the last 64 pool entries kept back (R397). -/
def srcOpen (s : State) (f src : Nat) : Bool :=
  s.bit (SCH_SRC f src) SCH_SRC_enable && decide ((s.sched f).used < 8128)

/-- A hardware event at a source of a Fold's scheduler: an item at the tail of its level's list, or held in order;
each hold that begins counts once (R396, R397). -/
def State.event (s : State) (f src arg : Nat) : State :=
  let x := s.sched f
  if srcOpen s f src && !x.held.any (fun h => decide (h.1 = src)) then
    s.setSched f { x with ready := x.ready ++ [srcItem s f src arg x] }
  else
    let s1 := s.setSched f { x with held := x.held ++ [(src, arg)] }
    if x.held.any (fun h => decide (h.1 = src)) then s1
    else (s1.count (SCH_STALLS f) 1).flag (SCH_ERR f) SCH_ERR_stall

/-- An event of sources 2 to 7 reaches the scheduler of every Fold (log 17). -/
def State.eventAll (s : State) (src arg : Nat) : State :=
  [0, 1, 2, 3].foldl (fun t f => t.event f src arg) s

/-! ### The Logbook (R430 to R437) -/

/-- The fixed part of a record as a 256-bit slot (R430). -/
def logFixed (s : State) (code n kind inst p0 p1 p2 p3 : Nat) : BitVec 256 :=
  BitVec.ofNat 256 (code % 2 ^ 16 + (n * 2 ^ 11 + kind * 2 ^ 8 + inst % 2 ^ 8) * 2 ^ 16
    + (s.reg LOG_POWER_CYCLES).toNat % 2 ^ 32 * 2 ^ 32 + (s.reg LOG_HOURS).toNat % 2 ^ 32 * 2 ^ 64
    + s.fld LOG_MS LOG_MS_ms * 2 ^ 96 + p0 % 2 ^ 32 * 2 ^ 128 + p1 % 2 ^ 32 * 2 ^ 160 + p2 % 2 ^ 32 * 2 ^ 192
    + p3 % 2 ^ 32 * 2 ^ 224)

/-- The lowest valid trigger that matches a code: code and mask together equal the trigger's code and mask (R432). -/
def logTrigger (s : State) (code : Nat) : Option Nat :=
  (rangeFrom 0 32).find? (fun t =>
    s.bit (LOG_TRIG t) LOG_TRIG_valid &&
      (Nat.land code (s.fld (LOG_TRIG t) LOG_TRIG_mask) == Nat.land (s.fld (LOG_TRIG t) LOG_TRIG_code) (s.fld (LOG_TRIG t) LOG_TRIG_mask)))

/-- The snapshot entries of a trigger: 16 bytes each, offset and value (R432). -/
def logEntries (s : State) (t : Nat) : List Nat :=
  (rangeFrom 0 (min 16 (s.fld (LOG_TRIG t) LOG_TRIG_count))).map (fun k =>
    let off := s.fld (LOG_TRIG_REG (16 * t + k)) LOG_TRIG_REG_offset
    off + (readReg s off).toNat * 2 ^ 64)

/-- Pairs of 16-byte entries as slots. -/
def packSlots : List Nat → List (BitVec 256)
  | [] => []
  | [a] => [BitVec.ofNat 256 a]
  | a :: b :: t => BitVec.ofNat 256 (a + b * 2 ^ 128) :: packSlots t

/-- Write slots to the ring of the always-on SRAM (R433). -/
def putSlots (m : Sparse (BitVec 256)) (head : Nat) : List (BitVec 256) → Sparse (BitVec 256)
  | [] => m
  | w :: t => putSlots (spSet (fun _ => 0) m (head % 32768) w) (head + 1) t

/-- The slots of a record: its fixed part, and the snapshot of the lowest trigger that matches, for units whose kind
is neither 0 nor 4 (R432). -/
def recordSlots (s : State) (code kind inst p0 p1 p2 p3 : Nat) : List (BitVec 256) :=
  let es := if kind = 0 ∨ kind = 4 then [] else match logTrigger s code with
    | some t => logEntries s t
    | none => []
  logFixed s code es.length kind inst p0 p1 p2 p3 :: packSlots es

/-- A record of the Logbook: counted as lost while frozen (R434), not accepted after PWR_FAIL_N (R436), dropped and
counted when the ring has no room (R433), else written whole; above half full, vector 2 and source 3 are raised. -/
def State.log (s : State) (code kind inst p0 p1 p2 p3 : Nat) : State :=
  if s.logClosed then s
  else if s.bit LOG_FREEZE LOG_FREEZE_frozen then s.count LOG_LOST 1
  else
    let slots := recordSlots s code kind inst p0 p1 p2 p3
    let head := (s.reg LOG_SRAM_HEAD).toNat
    let un := head - (s.reg LOG_SRAM_FLUSHED).toNat
    if un + slots.length > 32768 then s.count LOG_DROPPED 1
    else
      let s1 := ({ s with sram := putSlots s.sram head slots } : State).wide LOG_SRAM_HEAD slots.length
      if un + slots.length > 16384 ∧ un ≤ 16384 then (s1.msixBoth 2).eventAll 3 code else s1

/-- A record whose parameters the manual does not state: they are free values (log 3). -/
def State.logFree (s : State) (code kind inst : Nat) : State :=
  let p (i : Nat) : Nat := (Config.freeWord (s.free + i)).toNat
  ({ s with free := s.free + 4 } : State).log code kind inst (p 0) (p 1) (p 2) (p 3)

/-! ### The Hall monitor (R423 to R429) -/

/-- Request kinds, as permission bit numbers (R424). -/
abbrev kRead : Nat := 0
abbrev kWrite : Nat := 1
abbrev kTally : Nat := 2
abbrev kMmio : Nat := 3

/-- Whether a window permits a request of `n` bytes at a local address of a device id (R424, R425). -/
def winPermits (s : State) (cls idx dev a n kind : Nat) : Bool :=
  let w2 := (s.win cls idx 2).toNat
  let base := (s.win cls idx 0).toNat % 2 ^ 48
  let e := (s.win cls idx 1).toNat % 2 ^ 48
  let e := if e = 0 then 2 ^ 48 else e
  bitOf w2 40 && decide (base ≤ a) && decide (a + n ≤ e) && bitOf w2 (32 + kind) &&
    (if bitOf w2 41 then decide (dev = s.devId) else decide (bitsOf w2 15 0 ≤ dev) && decide (dev ≤ bitsOf w2 31 16))

/-- Whether any window of a class permits a request (R425). -/
def permitted (s : State) (cls dev a n kind : Nat) : Bool :=
  (rangeFrom 0 256).any (fun i => winPermits s cls i dev a n kind)

/-- Parameter 0 of the Hall monitor's records: class and sub-master (R428). -/
def mstParam (m : Mst) : Nat := m.cls + m.sub * 2 ^ 16

/-- A violation (R428): the sub-master is frozen, HMN_VIOL, HMN_VIOL_ADDR and HMN_VIOLATIONS record it, the Logbook
takes a record, vector 1 is raised, and source 2 carries the event (R396). -/
def State.violate (s : State) (m : Mst) (code kind gaddr p1 p2 p3 : Nat) : State :=
  let s1 : State := if s.isFrozen m then s else { s with frozen := s.frozen ++ [{ mst := m }] }
  let v := fset HMN_VIOL_code code <| fset HMN_VIOL_kind kind <| fset HMN_VIOL_sub m.sub <| fset HMN_VIOL_class m.cls 0
  let s2 := ((s1.setReg HMN_VIOL v).setReg HMN_VIOL_ADDR (BitVec.ofNat 64 gaddr)).count HMN_VIOLATIONS 1
  ((s2.log code 0 2 (mstParam m) p1 p2 p3).msixBoth 1).eventAll 2 (code + m.cls * 2 ^ 32)

/-- A violation by an address: 0x1001, 0x1002, 0x1005 or 0x1006 with the parameters of 0x1001 (R428). -/
def State.violateAddr (s : State) (m : Mst) (code kind gaddr : Nat) : State :=
  s.violate m code kind gaddr (gaddr % 2 ^ 32) (gaddr / 2 ^ 32 % 2 ^ 32) kind

/-- A command of a frozen sub-master completes FROZEN: counted, and recorded as 0x1007 for the first of each freeze
(R428). -/
def State.frozenCommand (s : State) (m : Mst) (status : Nat) : State :=
  let first := s.frozen.any (fun z => decide (z.mst = m) && !z.reported)
  let s1 := s.count HMN_VIOLATIONS 1
  if first then
    ({ s1 with frozen := s1.frozen.map (fun z => if z.mst = m then { z with reported := true } else z) } : State).log
      0x1007 0 2 (mstParam m) status 0 0
  else s1

/-- A thaw of a sub-master, or of every sub-master of a class (R429). A thaw that releases nothing changes nothing and
makes no record. -/
def State.thaw (s : State) (all : Bool) (cls sub by_ : Nat) : State :=
  let hit (z : Frz) : Bool := decide (z.mst.cls = cls) && (all || decide (z.mst.sub = sub))
  let n := (s.frozen.filter hit).length
  if n = 0 then s
  else ({ s with frozen := s.frozen.filter (fun z => !hit z) } : State).log 0x1008 0 2
    (mstParam ⟨cls, if all then 0 else sub⟩) by_ n 0

/-! ### Local addresses (R21, R22) -/

/-- The pasture of a local address below 2^39. -/
def pastureOf (a : Nat) : Nat := a / 0x1000000000

/-- Bases of the regions of R21. -/
abbrev scratchBase : Nat := 0x8000000000
abbrev accBase : Nat := 0x9000000000
abbrev stagingBase : Nat := 0xA000000000
abbrev collBase : Nat := 0xA800000000
abbrev ctrlBase : Nat := 0xB000000000
abbrev mmioBase : Nat := 0xF000000000

/-- Whether an address lies in a pasture. -/
def inPasture (a : Nat) : Bool := decide (a < 0x8000000000)

/-- Whether an address lies in the MMIO mirror. -/
def inMmio (a : Nat) : Bool := decide (mmioBase ≤ a) && decide (a < mmioBase + 0x4000000)

/-- Whether one local address is mapped (R21, R22); a stack that failed training is unmapped (R299). -/
def mappedAt (s : State) (a : Nat) : Bool :=
  if a < 0x8000000000 then
    s.has .stack (pastureOf a) && decide (s.fld (MEM_STATUS (pastureOf a)) MEM_STATUS_state ≠ 2)
  else if scratchBase ≤ a ∧ a < scratchBase + 32 * 0x2000000 then
    s.has .core ((a - scratchBase) / 0x2000000) && decide ((a - scratchBase) % 0x2000000 < 0x1000000)
  else if accBase ≤ a ∧ a < accBase + 32 * 0x1000000 then
    s.has .core ((a - accBase) / 0x1000000) && decide ((a - accBase) % 0x1000000 < 0x800000)
  else if stagingBase ≤ a ∧ a < stagingBase + 4 * 0x2000000 then s.has .drover ((a - stagingBase) / 0x2000000)
  else if collBase ≤ a ∧ a < collBase + 2 * 0x1000000 then s.has .coll ((a - collBase) / 0x1000000)
  else if ctrlBase ≤ a ∧ a < ctrlBase + 8 * 0x40000 then true
  else inMmio a

/-- Whether every byte of a request is mapped: every mapped part of the map begins and ends on 8 MiB or at the end of a request's own
part, so its first byte, its last and each 8 MiB between tell. -/
def mapped (s : State) (a n : Nat) : Bool :=
  mappedAt s a && (decide (n ≤ 1) || (mappedAt s (a + n - 1) &&
    (rangeFrom (a / 0x800000 + 1) ((a + n - 1) / 0x800000 - a / 0x800000)).all (fun k => mappedAt s (k * 0x800000))))

/-- The units whose memory can be asleep: a core, a Drover, a collective engine. -/
inductive Sleeper where
  | core (n : Nat)
  | drover (n : Nat)
  | engine (n : Nat)
  deriving DecidableEq, Repr

/-- The unit whose memory holds an address beyond the pastures, if it can be asleep (R21). -/
def sleeperAt (a : Nat) : Option Sleeper :=
  if scratchBase ≤ a ∧ a < scratchBase + 32 * 0x2000000 then some (.core ((a - scratchBase) / 0x2000000))
  else if accBase ≤ a ∧ a < accBase + 32 * 0x1000000 then some (.core ((a - accBase) / 0x1000000))
  else if stagingBase ≤ a ∧ a < stagingBase + 4 * 0x2000000 then some (.drover ((a - stagingBase) / 0x2000000))
  else if collBase ≤ a ∧ a < collBase + 2 * 0x1000000 then some (.engine ((a - collBase) / 0x1000000))
  else none

/-- Whether a unit is in holiday: a request to it is held until it has woken (R19). -/
def asleep (s : State) : Sleeper → Bool
  | .core n => decide ((s.core n).state = .holiday)
  | .drover n => decide ((s.drover n).rest = 2)
  | .engine n => decide ((s.engine n).rest = 2)

/-- A wake event takes a core out of recess (R19, R55, R63). A core in holiday wakes 20 µs later, at HOLIDAY_WAKE; until
then its registers keep their contents and the event's effect stands. -/
def wakeCore (k : Core) : Core := if k.state = .recess then { k with state := .running } else k

/-- The state in which a core comes out of holiday: running where it was in recess, else as it was (R63, R457). -/
def wakeState (k : Core) : CoreState := if k.slept = .recess ∨ k.slept = .holiday then .running else k.slept

/-- A core that a register access addresses is awake after it: out of recess, and out of holiday with the wake's 20 µs passed (R19,
log 142). -/
def rouseCore (k : Core) : Core := if k.state = .holiday then { k with state := wakeState k } else wakeCore k

/-- The rest of a Drover or an engine that is awake: recess and holiday end, a cut domain stays cut. -/
def rouseRest (r : Nat) : Nat := if r = 1 ∨ r = 2 then 0 else r

/-- Whether the unit of a register is in recess or holiday (R19). -/
def atRest (r : RegAt) (s : State) : Bool :=
  match r.blk with
  | .cor => decide ((s.core r.unit).state = .recess) || decide ((s.core r.unit).state = .holiday)
  | .drv => decide ((s.drover r.unit).rest = 1) || decide ((s.drover r.unit).rest = 2)
  | .eng => decide ((s.engine r.unit).rest = 1) || decide ((s.engine r.unit).rest = 2)
  | .trh => decide ((s.trh r.unit).rest = 1) || decide ((s.trh r.unit).rest = 2)
  | _ => false

/-- An access of a register wakes its unit, but in standby (R19, R459, log 142). -/
def rouseReg (r : RegAt) (s : State) : State :=
  if !atRest r s || s.bit PWR_STATUS PWR_STATUS_standby then s
  else match r.blk with
    | .cor => s.onCore r.unit rouseCore
    | .drv => s.setDrover r.unit { s.drover r.unit with rest := rouseRest (s.drover r.unit).rest }
    | .eng => s.setEngine r.unit { s.engine r.unit with rest := rouseRest (s.engine r.unit).rest }
    | _ => s.setTrh r.unit { s.trh r.unit with rest := rouseRest (s.trh r.unit).rest }

/-- A read of `n` bytes of the register space: what the registers held as it came, and the units that it addressed, awake (R7, R19,
log 142). -/
def rouseRead (s : State) (off n : Nat) : State :=
  (rangeFrom (off / 4) ((off + n + 3) / 4 - off / 4)).foldl (fun s k =>
    match regHolding (4 * k) with
    | some r => if blkPresent s.grade r then rouseReg r s else s
    | none => s) s

/-- A request wakes the unit that it is addressed to from recess (R19). -/
def wakeUnit (s : State) : Sleeper → State
  | .core n => if (s.core n).state = .recess then s.onCore n wakeCore else s
  | .drover n => if (s.drover n).rest = 1 then s.setDrover n { s.drover n with rest := 0 } else s
  | .engine n => if (s.engine n).rest = 1 then s.setEngine n { s.engine n with rest := 0 } else s

/-- A request at an address wakes the unit whose memory holds it (R19). -/
def wakeAt (s : State) (a : Nat) : State :=
  match sleeperAt a with
  | some u => wakeUnit s u
  | none => s

/-- The epoch that a core stamps: a core that has not switched stamps the epoch before the commit (R356). -/
def coreEpoch (s : State) (c : Nat) : Nat :=
  if bitOf (s.fld STR_PENDING_CORES STR_PENDING_CORES_cores) c then s.str.prev else s.fld STR_EPOCH STR_EPOCH_current

/-- The epoch that a master of the device stamps on its requests (R356). Only cores switch later than at the tick. -/
def mstEpoch (s : State) (m : Mst) : Nat :=
  if 2 ≤ m.cls ∧ m.cls < 34 then coreEpoch s (m.cls - 2) else s.fld STR_EPOCH STR_EPOCH_current

/-- Whether a request at an address, stamped with an epoch, is held: the memory is that of a core with an older epoch (R356). -/
def stampHeld (s : State) (epoch a : Nat) : Bool :=
  match sleeperAt a with
  | some (.core c) => decide (0 < modDiff 32 epoch (coreEpoch s c))
  | _ => false

/-- Whether a request of a master of the device is held for its epoch (R356). A request that an ingress link passes on carries the
stamp of its packet, which the packet's own service judges. -/
def epochHeld (s : State) (m : Mst) (a : Nat) : Bool :=
  !(decide (42 ≤ m.cls) && decide (m.cls < 138)) && stampHeld s (mstEpoch s m) a

/-- Whether a request must wait: its pasture is in training or in self-refresh (R299, R19) or beyond a die fabric that is cut (R456, log
57), or its unit is in holiday (R19). -/
def waits (s : State) (a : Nat) : Bool :=
  if inPasture a then
    s.has .stack (pastureOf a) &&
      (let st := s.fld (MEM_STATUS (pastureOf a)) MEM_STATUS_state
       decide (st = 0 ∨ st = 3) || s.fabricCut.contains (pastureOf a / 4))
  else match sleeperAt a with
    | some u => asleep s u
    | none => false

/-- Whether a request of `n` bytes must wait, by its first byte and its last: no request spans more than two parts that wait apart. -/
def waitsFor (s : State) (a n : Nat) : Bool := waits s a || waits s (a + n - 1)

/-- The end of the firmware load area at the bottom of pasture 0 (R398). -/
abbrev loadEnd : Nat := 0x2000000

/-- SCH_FW_STATUS.state. -/
def fwState (s : State) : Nat := s.fld SCH_FW_STATUS SCH_FW_STATUS_state

/-- Whether the load area takes no write of a unit's own: an image is awaited from the privileged port, or is being verified (R398, R399,
log 18). -/
def loadShut (s : State) (a : Nat) : Bool := decide (a < loadEnd) && (decide (fwState s = 1) || decide (fwState s = 2))

/-! ### Local memory -/

/-- What an unlisted byte of memory reads as: zero (log 2), but undefined in the lowest 64 MiB of pasture 0 after a
device reset (R294, R400). -/
def memDefault (stamp : Nat) (a : Nat) : Byte :=
  if stamp ≠ 0 ∧ a < 0x4000000 then Config.freeByte stamp a else 0

/-- One byte of local memory. -/
def State.byte (s : State) (a : Nat) : Byte := spGet (memDefault s.stamp) s.mem a

/-- Store one byte of local memory. -/
def State.setByte (s : State) (a : Nat) (b : Byte) : State := { s with mem := spSet (memDefault s.stamp) s.mem a b }

/-- Bytes `a` to `a + n − 1`. -/
def State.bytes (s : State) (a n : Nat) : List Byte := (rangeFrom a n).map s.byte

/-- Store bytes from `a` upward. -/
def State.setBytes (s : State) (a : Nat) : List Byte → State
  | [] => s
  | b :: t => State.setBytes (s.setByte a b) (a + 1) t

/-- A little-endian number of `n` bytes. -/
def State.num (s : State) (a n : Nat) : Nat := leNat (s.bytes a n)

/-- The atoms (64 bytes) that a request touches. -/
def atomsOf (a n : Nat) : List Nat := if n = 0 then [] else rangeFrom (a / 64) ((a + n - 1) / 64 + 1 - a / 64)

/-- The pseudo-channel of a pasture offset: g xor b (R275). -/
def pseudoChannel (off : Nat) : Nat := Nat.xor (bitsOf off 13 8) (bitsOf off 21 16)

/-- What an uncorrectable atom does at its read (R286): counter, flag, address, record and vector 0. -/
def ueRead (s : State) (atom : Nat) : State :=
  let a := atom * 64
  let p := pastureOf a
  (((((s.count (MEM_UE_COUNT p) 1).flag (MEM_ERR p) MEM_ERR_ue_read).setReg (MEM_UE_ADDR p) (BitVec.ofNat 64 a)).log 0x5001 3 p
    p (pseudoChannel (a % 0x1000000000)) (a % 2 ^ 32) (a / 2 ^ 32))).msixBoth 0

/-- The symbol errors that an atom's burst holds, one byte for each symbol: 0 to 63 data symbols, 64 to 71 check symbols (R283). -/
def State.badSyms (s : State) (atom : Nat) : Nat := spGet (fun _ => 0) s.atomErrs atom

/-- Set the symbol errors of an atom. -/
def State.setBadSyms (s : State) (atom v : Nat) : State := { s with atomErrs := spSet (fun _ => 0) s.atomErrs atom v }

/-- The mark register of an atom's pseudo-channel (R285). -/
def markOf (s : State) (atom : Nat) : Word := s.reg (MEM_MARK (pastureOf (atom * 64)) (pseudoChannel (atom * 64 % 0x1000000000)))

/-- What the decoder makes of an atom (R285): 0 good, 1 correctable, 2 uncorrectable. Without a mark four symbols are
corrected; with one, the marked pin's symbols and three more. A burst beyond that is uncorrectable (log 13). -/
def State.atomErr (s : State) (atom : Nat) : Nat :=
  let l := symsOf (s.badSyms atom)
  let m := markOf s atom
  if l = [] then 0
  else if fbit MEM_MARK_valid m then
    (if (l.filter (fun i => decide (pinOf i ≠ fget MEM_MARK_pin m))).length ≤ 3 then 1 else 2)
  else if l.length ≤ 4 then 1 else 2

/-- A byte of an uncorrectable atom as a read delivers it (R286): undefined, and the same at every read of the same 72 symbols (R11,
log 13). -/
def undefByte (s : State) (a : Nat) : Byte :=
  let atom := a / 64
  Config.freeByte (leNat ((burstOf atom (s.bytes (atom * 64) 64) (s.badSyms atom)).map (BitVec.ofNat 8))) a

/-- Automatic marking when a pin's count of corrected symbols has reached the threshold (R287). A second pin makes its record once in a
window. -/
def autoMark (s : State) (p pc pin : Nat) (told : Bool) : State :=
  let m := s.reg (MEM_MARK p pc)
  if !fbit MEM_MARK_valid m then
    ((s.setReg (MEM_MARK p pc) (fset MEM_MARK_valid 1 <| fset MEM_MARK_source 1 <| fset MEM_MARK_pin pin 0)).flag (MEM_ERR p)
      MEM_ERR_mark_set).log 0x5003 3 p p pc pin 1
  else if fget MEM_MARK_pin m ≠ pin ∧ told = false then s.log 0x5004 3 p p pc pin 1
  else s

/-- Count a corrected symbol of a pin in the window of its pseudo-channel (R287). -/
def pinHit (p pc : Nat) (s : State) (pin : Nat) : State :=
  let key := (p * 64 + pc) * 36 + pin
  let h := spGet (fun _ => (0, false)) s.pinHits key
  let due := decide (max 1 (s.fld (MEM_CFG p) MEM_CFG_mark_threshold) ≤ h.1 + 1)
  let s1 : State := { s with pinHits := spSet (fun _ => (0, false)) s.pinHits key (h.1 + 1, due) }
  if due then autoMark s1 p pc pin h.2 else s1

/-- One burst of a pseudo-channel; the burst after the 2^20th of a window begins the next, with the pins' counts at 0 (R287). -/
def burst (s : State) (atom : Nat) : State :=
  let p := pastureOf (atom * 64)
  let pc := pseudoChannel (atom * 64 % 0x1000000000)
  if !s.bit (MEM_CFG p) MEM_CFG_auto_mark then s else
    let n := spGet (fun _ => 0) s.bursts (p * 64 + pc) + 1
    if n ≤ 2 ^ 20 then { s with bursts := spSet (fun _ => 0) s.bursts (p * 64 + pc) n }
    else { s with bursts := spSet (fun _ => 0) s.bursts (p * 64 + pc) 1
                  pinHits := s.pinHits.filter (fun q => decide (q.1 / 36 ≠ p * 64 + pc)) }

/-- A corrected burst (R285, R287). -/
def corrected (s : State) (atom : Nat) : State :=
  let p := pastureOf (atom * 64)
  let s1 := (s.count (MEM_CE_COUNT p) 1).flag (MEM_ERR p) MEM_ERR_ce
  if s.bit (MEM_CFG p) MEM_CFG_auto_mark then
    ((symsOf (s.badSyms atom)).map pinOf).foldl (pinHit p (pseudoChannel (atom * 64 % 0x1000000000))) s1
  else s1

/-- The parity errors that the next commands of a stack will meet (R274). -/
def State.parityErrs (s : State) (p : Nat) : Nat := spGet (fun _ => 0) s.caErrs p

/-- Set the parity errors that the next commands of a stack will meet. -/
def State.setParityErrs (s : State) (p n : Nat) : State := { s with caErrs := spSet (fun _ => 0) s.caErrs p n }

/-- The command of one burst goes to its stack: a parity error of a command or an address is retried up to three times, and one that
persists fails the request (R274, R300). The flag says that it persists. -/
def stackCommand (s : State) (atom : Nat) : Bool × State :=
  let p := pastureOf (atom * 64)
  let n := s.parityErrs p
  if n = 0 then (false, s)
  else
    let s1 := (s.setParityErrs p (n - 4)).flag (MEM_ERR p) MEM_ERR_ca_retry
    (decide (3 < n), s1)

/-- One burst that reads an atom, with the decoder's effects (R285, R286); true when the atom is uncorrectable. -/
def readAtom (s : State) (atom : Nat) : Bool × State :=
  if !inPasture (atom * 64) then (false, s) else
    let (lost, s1) := stackCommand s atom
    if lost then (true, ueRead s1 atom)
    else
      let s2 := burst (s1.wide (MEM_BYTES_READ (pastureOf (atom * 64))) 64) atom
      match s2.atomErr atom with
      | 0 => (false, s2)
      | 1 => (false, corrected s2 atom)
      | _ => (true, ueRead s2 atom)

/-- Whether a write covers a whole atom (R279). -/
def coversAtom (a n atom : Nat) : Bool := decide (a ≤ atom * 64) && decide (atom * 64 + 64 ≤ a + n)

/-- One burst that writes an atom: the atom holds no error after it. -/
def storeAtom (s : State) (atom : Nat) : State :=
  (burst (s.wide (MEM_BYTES_WRITTEN (pastureOf (atom * 64))) 64) atom).setBadSyms atom 0

/-- Writing one pasture atom (R279): a whole write replaces it, a partial one reads it first and writes nothing when it is
uncorrectable. True when nothing is written. -/
def writeAtom (a n : Nat) (s : State) (atom : Nat) : Bool × State :=
  if !inPasture (atom * 64) then (false, s)
  else
    let whole := coversAtom a n atom
    let (lost, s1) := if whole then stackCommand s atom else readAtom s atom
    (lost, if !lost then storeAtom s1 atom else if whole then ueRead s1 atom else s1)

/-- An access to each of a list of atoms, in order: those that failed, and the state. Structural on the list. -/
def eachAtom (f : State → Nat → Bool × State) : List Nat → State → List Nat × State
  | [], s => ([], s)
  | t :: l, s =>
    let (bad, s1) := f s t
    let (rest, s2) := eachAtom f l s1
    (if bad then t :: rest else rest, s2)

/-- The SRAM that holds a local address beyond the pastures: its kind in MEM_SRAM_UE_LOC, the instance, and the place in it (R21,
R301). -/
def sramAt (a : Nat) : Option (Nat × Nat × Nat) :=
  if scratchBase ≤ a ∧ a < scratchBase + 32 * 0x2000000 then some (0, (a - scratchBase) / 0x2000000, (a - scratchBase) % 0x2000000)
  else if accBase ≤ a ∧ a < accBase + 32 * 0x1000000 then some (1, (a - accBase) / 0x1000000, (a - accBase) % 0x1000000)
  else if stagingBase ≤ a ∧ a < stagingBase + 4 * 0x2000000 then some (5, (a - stagingBase) / 0x2000000, (a - stagingBase) % 0x2000000)
  else if collBase ≤ a ∧ a < collBase + 2 * 0x1000000 then some (6, (a - collBase) / 0x1000000, (a - collBase) % 0x1000000)
  else none

/-- Bytes of an SRAM's protected word (R297). -/
def sramWidth (kind : Nat) : Nat := if kind = 1 ∨ kind = 4 then 4 else 8

/-- Whether a word with an error lies in `n` bytes of an SRAM from a place. -/
def Upset.meets (u : Upset) (kind inst off n : Nat) : Bool :=
  let w := sramWidth kind
  decide (u.kind = kind) && decide (u.inst = inst) && decide (u.off / w * w < off + n) && decide (off < u.off / w * w + w)

/-- A corrected SRAM word (R297). -/
def sramCorrected (s : State) : State := (s.count MEM_SRAM_CE_COUNT 1).flag MEM_SRAM_ERR MEM_SRAM_ERR_ce

/-- The unit that records a double-bit error: the one whose SRAM holds the word, by the kinds and controllers of R430 (log 77). -/
def sramUnit (kind inst : Nat) : Nat × Nat :=
  if kind ≤ 4 then (1, inst) else if kind = 5 then (2, inst) else if kind = 6 then (5, inst)
  else if kind = 7 then (0, 5 + inst / 2) else (0, 10)

/-- What every double-bit error does (R298): counter, place and record with the action code. -/
def sramReport (kind inst off act : Nat) (s : State) : State :=
  ((s.count MEM_SRAM_UE_COUNT 1).setReg MEM_SRAM_UE_LOC (fset MEM_SRAM_UE_LOC_kind kind <| fset MEM_SRAM_UE_LOC_instance inst <|
    fset MEM_SRAM_UE_LOC_offset off 0)).log 0x5010 (sramUnit kind inst).1 (sramUnit kind inst).2 kind inst (off % 2 ^ 32) act

/-- A double-bit error in data (R298): action code 3. -/
def sramData (kind inst off : Nat) (s : State) : State := (sramReport kind inst off 3 s).flag MEM_SRAM_ERR MEM_SRAM_ERR_ue_data

/-- An access meets words of an SRAM with errors: single-bit errors are corrected and written back, double-bit errors are reported
(R297, R298). The flag says that one was uncorrectable. Structural on the words. -/
def meetUpsets : List Upset → State → Bool × State
  | [], s => (false, s)
  | u :: t, s =>
    let (b, s1) := meetUpsets t s
    if u.double then (true, sramData u.kind u.inst u.off s1)
    else (b, sramCorrected { s1 with upsets := s1.upsets.filter (fun v => decide (v ≠ u)) })

/-- An access of `n` bytes at a local address meets the words in error of the SRAM that holds it. -/
def meetSram (a n : Nat) (s : State) : Bool × State :=
  match sramAt a with
  | none => (false, s)
  | some (k, i, off) => meetUpsets (s.upsets.filter (fun u => u.meets k i off n)) s

/-- Whether a byte of an SRAM lies in a word with a double-bit error. -/
def sramLost (s : State) (a : Nat) : Bool :=
  match sramAt a with
  | none => false
  | some (k, i, off) => s.upsets.any (fun u => u.double && u.meets k i off 1)

/-- A byte of local memory as a read delivers it, given the atoms that failed: the bytes of an uncorrectable atom and of a word with a
double-bit error are undefined (R286, R298). -/
def readByte (s : State) (bad : List Nat) (a : Nat) : Byte :=
  if bad.contains (a / 64) then undefByte s a
  else if sramLost s a then Config.freeByte (s.num (a / 8 * 8) 8) a
  else s.byte a

/-- A read of local memory outside the MMIO mirror: the bytes, whether an uncorrectable error was met, and the counters' effects
(R280, R285, R286, R297, R298). -/
def State.readMem (s : State) (a n : Nat) : List Byte × Bool × State :=
  let (bad, s1) := eachAtom readAtom (atomsOf a n) s
  let (lost, s2) := meetSram a n s1
  ((rangeFrom a n).map (readByte s bad), decide (bad ≠ []) || lost, s2)

/-- The reads that a unit makes of structures in memory, given as places and lengths, with their effects: true when one met an
uncorrectable error (R285, R286). Structural on the list. -/
def State.touch : State → List (Nat × Nat) → Bool × State
  | s, [] => (false, s)
  | s, (a, n) :: t =>
    let (_, ue, s1) := s.readMem a n
    let (rest, s2) := State.touch s1 t
    (ue || rest, s2)

/-- Store the bytes of a write, leaving out those that are not kept. -/
def putBytes (keep : Nat → Bool) : State → Nat → List Byte → State
  | s, _, [] => s
  | s, a, b :: t => putBytes keep (if keep a then s.setByte a b else s) (a + 1) t

/-- A write of part of an SRAM's words meets their errors (R297): words that it covers whole hold none after it; a word with a
double-bit error that it covers in part stays as it was (log 12). -/
def writeSram (a n : Nat) (s : State) : Bool × State :=
  match sramAt a with
  | none => (false, s)
  | some (k, i, off) =>
    let w := sramWidth k
    let whole (u : Upset) : Bool := u.meets k i off n && decide (off ≤ u.off / w * w) && decide (u.off / w * w + w ≤ off + n)
    let s1 : State := { s with upsets := s.upsets.filter (fun u => !whole u) }
    meetUpsets (s1.upsets.filter (fun u => u.meets k i off n)) s1

/-- Whether a byte of a write reaches memory, given the atoms that failed: those of an atom that is not written, and of an SRAM word
with a double-bit error that is covered in part, stay as they were (R279). -/
def writeKept (s : State) (bad : List Nat) (a : Nat) : Bool := !bad.contains (a / 64) && !sramLost s a

/-- Bytes put into local memory outside the MMIO mirror; true when a read-modify-write met an uncorrectable error (R279). -/
def State.putMem (s : State) (a : Nat) (bs : List Byte) : Bool × State :=
  let n := bs.length
  let (bad, s1) := eachAtom (writeAtom a n) (atomsOf a n) s
  let (lost, s2) := writeSram a n s1
  (decide (bad ≠ []) || lost, putBytes (writeKept s2 bad) s2 a bs)

/-- A unit's own write of a structure in local memory: put there, but dropped where the load area takes none (R398, R399, log 18). -/
def State.writeMem (s : State) (a : Nat) (bs : List Byte) : Bool × State := if loadShut s a then (false, s) else s.putMem a bs

/-! ### Requests of a local master (R22, R425) -/

/-- What a request of a local master comes to: done, with the bytes read, whether an uncorrectable error was met, and the
state; held, because its pasture is not serving (R299, R19); or a violation, with its code. -/
inductive Access where
  | done (bs : List Byte) (ue : Bool) (s : State)
  | held
  | bad (code : Nat) (s : State)
  deriving Repr

/-- The kind of a request by its address and direction (R425). -/
def reqKind (a : Nat) (wr : Bool) : Nat := if inMmio a then kMmio else if wr then kWrite else kRead

/-- The global address of a local address of this device (R23). -/
def State.gaddr (s : State) (a : Nat) : Nat := s.devId * 2 ^ 48 + a

/-- Whether a frozen unit's request port is gated: it issues no further request until it is thawed (R428). A frozen queue pair keeps
fetching (R377), and a direct path, a control core and an ingress link are judged where their requests come in. -/
def gated (s : State) (m : Mst) : Bool := decide (2 ≤ m.cls) && decide (m.cls < 42) && s.isFrozen m

/-- A read of local memory or of the MMIO mirror by a local master. `passed` says that the request was accepted, and its windows checked,
before it was held (R427, log 150). -/
def localReadAs (passed : Bool) (m : Mst) (a n : Nat) (s : State) : Access :=
  if !passed && gated s m then .held
  else if !mapped s a n then .bad 0x1002 (s.violateAddr m 0x1002 (reqKind a false) (s.gaddr a))
  else if !passed && !permitted s m.cls s.devId a n (reqKind a false) then
    .bad 0x1001 (s.violateAddr m 0x1001 (reqKind a false) (s.gaddr a))
  else if waitsFor s a n || epochHeld s m a then .held
  else if inMmio a then .done (readRegs s (a - mmioBase) n) false (rouseRead s (a - mmioBase) n)
  else let (bs, ue, s1) := (wakeAt s a).readMem a n; .done bs ue s1

/-- A read by a local master that makes its request now. -/
def localRead (m : Mst) (a n : Nat) (s : State) : Access := localReadAs false m a n s

/-- Whether a master may not write the load area: while an image is awaited only the privileged port may (R398). -/
def loadBarred (s : State) (m : Mst) (a : Nat) : Bool :=
  decide (a < loadEnd) && decide (fwState s = 1) && decide (m.cls ≠ s.fld GLB_PRIVILEGE_OWNER GLB_PRIVILEGE_OWNER_port)

/-- A write of local memory by a local master, outside the MMIO mirror. While an image is verified the load area accepts
no write: it is dropped (R399, log 18). `passed` says that the request was accepted before it was held. -/
def localStoreAs (passed : Bool) (m : Mst) (a : Nat) (bs : List Byte) (s : State) : Access :=
  let n := bs.length
  if !passed && gated s m then .held
  else if loadBarred s m a then .bad 0x1006 (s.violateAddr m 0x1006 kWrite (s.gaddr a))
  else if a < loadEnd ∧ fwState s = 2 then .done [] false s
  else if !mapped s a n then .bad 0x1002 (s.violateAddr m 0x1002 kWrite (s.gaddr a))
  else if !passed && !permitted s m.cls s.devId a n kWrite then .bad 0x1001 (s.violateAddr m 0x1001 kWrite (s.gaddr a))
  else if waitsFor s a n || epochHeld s m a then .held
  else let (ue, s1) := (wakeAt s a).putMem a bs; .done [] ue s1

/-- A write by a local master that makes its request now. -/
def localStore (m : Mst) (a : Nat) (bs : List Byte) (s : State) : Access := localStoreAs false m a bs s

/-! ### Completion records (R375, R376) -/

/-- The port that a queue pair is bound to. -/
def State.qpPort (s : State) (n : Nat) : Nat := s.fld (QUE_STATUS n) QUE_STATUS_port

/-- The master of a queue pair's commands (R423). -/
def State.qpMst (s : State) (n : Nat) : Mst := ⟨s.qpPort n, n⟩

/-- The 32 bytes of a completion record (R375). -/
def recordBytes (s : State) (r : CmdRef) (status result detail aux : Nat) : List Byte :=
  leBytes 8 result ++ leBytes 2 r.id ++ leBytes 2 (s.fld (QUE_INDEX r.qp) QUE_INDEX_sq_head) ++ leBytes 1 status ++
    leBytes 1 (s.fld (QUE_STATUS r.qp) QUE_STATUS_phase) ++ leBytes 2 r.qp ++
    leBytes 4 (s.fld STR_EPOCH STR_EPOCH_current) ++ leBytes 4 detail ++ leBytes 8 aux

/-- The vector of a completion record on its port, if the pair has one. -/
def irqOf (s : State) (n : Nat) : Option (Nat × Nat) :=
  let cfg := s.reg (QUE_CFG n)
  if fbit QUE_CFG_irq_en cfg ∧ fget QUE_CFG_vector cfg ≥ 16 then some (s.qpPort n, fget QUE_CFG_vector cfg) else none

/-- Raise the vector of a completion record. -/
def State.irq (s : State) : Option (Nat × Nat) → State
  | some (p, v) => s.msixOn p v
  | none => s

/-- A completion record goes to a ring in local memory, with sq_head as it is then (R375), and its vector follows it: held with its vector
while its pasture is not serving (R299). A record that meets an uncorrectable atom is lost, and its atom stays as it was (R279, log 133). One that was held was accepted then: `passed`
(R427). -/
def putRecord (passed : Bool) (r : HeldRec) (s : State) : State :=
  if inMmio r.addr then s.irq r.irq
  else match localStoreAs passed r.mst r.addr (r.data.take 10 ++ leBytes 2 (s.fld (QUE_INDEX r.mst.sub) QUE_INDEX_sq_head) ++ r.data.drop 12) s with
    | .held => { s with heldRecs := s.heldRecs ++ [r] }
    | .bad _ t => t.irq r.irq
    | .done _ _ t => t.irq r.irq

/-- The completion records that were held go to their rings, in order, as far as their pastures serve. -/
def releaseRecs (s : State) : State := s.heldRecs.foldl (fun t r => putRecord true r t) { s with heldRecs := [] }

/-- Write a completion record: into the ring in local memory or in host memory, with the phase bit alternating at each
wrap, and the vector raised on the bound port. A record disowned by a function level reset is not written, and one to the host memory
of a port in reset is discarded (R379, R475). -/
def State.complete (s : State) (r : CmdRef) (status result detail aux : Nat) : State :=
  let q := s.qp r.qp
  if q.gen ≠ r.gen then s
  else if portOff s (s.qpPort r.qp) ∧ !s.bit (QUE_CFG r.qp) QUE_CFG_cq_loc then
    (s.flag (QUE_STATUS r.qp) QUE_STATUS_flr_lost).setQp r.qp { q with owed := q.owed - 1 }
  else
    let cfg := s.reg (QUE_CFG r.qp)
    let size := 2 ^ fget QUE_CFG_cq_size cfg
    let tail := s.fld (QUE_INDEX r.qp) QUE_INDEX_cq_tail
    let base := (s.reg (QUE_CQ_BASE r.qp)).toNat
    let a := base + tail % size * 32
    let bs := recordBytes s r status result detail aux
    let s1 : State := if fbit QUE_CFG_cq_loc cfg then putRecord false ⟨s.qpMst r.qp, a, bs, irqOf s r.qp⟩ s
      else ({ s with hostOut := s.hostOut ++ [(s.qpPort r.qp, a, bs)] } : State).irq (irqOf s r.qp)
    let s2 := s1.setFld (QUE_INDEX r.qp) QUE_INDEX_cq_tail (tail + 1)
    let s3 := if (tail + 1) % size = 0 then
        s2.setFld (QUE_STATUS r.qp) QUE_STATUS_phase (1 - s2.fld (QUE_STATUS r.qp) QUE_STATUS_phase) else s2
    s3.setQp r.qp { s3.qp r.qp with owed := (s3.qp r.qp).owed - 1 }

/-- The status that R13 reports for a command in execution. -/
def CmdSt.status (c : CmdSt) : Nat :=
  if c.failed ≠ 0 then c.failed else if c.skipped then 0x08 else if c.forwarded then 0x0A else 0

end Sys2Proof.Machine
end

