-- ==== Sys2Proof/Machine/Rec.lean ====
section
/-! DEFINITION. The replay recorder (16_failure_and_replay R414 to R418): the record, what recording writes, what a replay
suppresses and matches. -/

namespace Sys2Proof.Machine

/-- REC_CFG.mode. -/
def recMode (s : State) : Nat := s.fld REC_CFG REC_CFG_mode

/-- REC_STATUS.state: 0 idle, 1 armed, 2 recording or replaying, 3 closed. -/
def recState (s : State) : Nat := s.fld REC_STATUS REC_STATUS_state

/-- The record's region: address and bytes. -/
def recBase (s : State) : Nat := s.fld REC_BASE REC_BASE_address * 64
def recSize (s : State) : Nat := s.fld REC_BASE REC_BASE_size_gib * 2 ^ 30

/-- Bytes of the record in use, and its entries, as its header says (R415). -/
def recUsed (s : State) : Nat := s.num (recBase s + 16) 8
def recCount (s : State) : Nat := s.num (recBase s + 24) 4

/-- Note the bytes written or consumed (R418). -/
def noteUsed (s : State) (n : Nat) : State := s.setFld REC_STATUS REC_STATUS_used (n / 4)

/-- Write the record's header with its bytes used and entries (R415). -/
def recHeader (s : State) (used n epoch : Nat) : State :=
  noteUsed (s.writeMem (recBase s) (leBytes 4 0x4B4F4F42 ++ leBytes 2 s.devId ++ leBytes 2 0 ++ leBytes 8 (s.reg REC_STEP).toNat ++
    leBytes 8 used ++ leBytes 4 n ++ leBytes 4 epoch ++ List.replicate 32 0)).2 used

/-- What follows a write of the recorder's configuration while idle (R414, R416, R418): the recorder is armed while REC_STEP holds a
step and the mode is 1, and a write of the mode 2 starts a replay (log 149). -/
def recStart (replay : Bool) (s : State) : State :=
  if recMode s = 1 ∧ (s.reg REC_STEP).toNat ≠ 2 ^ 64 - 1 then s.setFld REC_STATUS REC_STATUS_state 1
  else if replay then ({ s with rcd := {} } : State).setFld REC_STATUS REC_STATUS_state 2
  else s

/-- REC_CTRL.abort: recording or replay ends (R418). -/
def recAbort (s : State) : State := ({ s with rcd := {} } : State).setFld REC_STATUS REC_STATUS_state 0

/-- REC_CTRL.clear_counts (R418). -/
def recClear (s : State) : State := s.clearCount REC_UNMATCHED

/-- What a confirmed fence of `step` does to a recorder: the fence two steps before opens the record, the step's own closes
it (R414). -/
def recFence (step : Nat) (s : State) : State :=
  let want := (s.reg REC_STEP).toNat
  if recMode s ≠ 1 then s
  else if recState s = 1 ∧ step + 2 = want then
    (recHeader s 64 0 (s.fld STR_EPOCH STR_EPOCH_current)).setFld REC_STATUS REC_STATUS_state 2
  else if recState s = 2 ∧ step = want then s.setFld REC_STATUS REC_STATUS_state 3
  else s

/-- An entry's 32-byte header (R415). -/
def recEntry (ordinal len link : Nat) (key : Option Req) : List Byte :=
  let k : Req := key.getD { tag := 0, dst := 0, owner := .other }
  leBytes 4 ordinal ++ leBytes 2 len ++ leBytes 1 link ++ leBytes 1 (b2n key.isSome) ++ leBytes 8 k.addr ++ leBytes 4 k.crc ++
    leBytes 2 k.len ++ leBytes 1 k.ty ++ List.replicate 9 0

/-- Write an entry, or note that it does not fit (R415). -/
def recWrite (s : State) (link : Nat) (key : Option Req) (pkt : List Byte) : State :=
  let used := recUsed s
  let e := recEntry (recCount s) pkt.length link key ++ padTo ((pkt.length + 31) / 32 * 32) 0 pkt
  if recSize s < used + e.length then s.flag REC_ERR REC_ERR_overflow
  else
    let n := recCount s
    let s1 := (s.writeMem (recBase s + used) e).2
    noteUsed (((s1.writeMem (recBase s + 16) (leBytes 8 (used + e.length))).2).writeMem (recBase s + 24) (leBytes 4 (n + 1))).2 (used + e.length)

/-- A packet for this device has been accepted on a link: recorded where R414 says so. `pkt` is the packet as received. -/
def recTake (s : State) (link vc ty stepLo tag : Nat) (pkt : List Byte) : State :=
  if recMode s ≠ 1 ∨ recState s ≠ 2 ∨ vc = 3 then s
  else if vc = 1 then
    match s.reqs.find? (fun r => decide (r.tag = tag) && decide (r.ty + 0x40 = ty)) with
    | some r => recWrite s link (some r) pkt
    | none => s
  else if stepLo = (s.reg REC_STEP).toNat % 256 then recWrite s link none pkt
  else s

/-! ### Replay (R416) -/

/-- Whether a device belongs to the group of a replay, by the group table (R332). -/
def inReplayGroup (s : State) (dev : Nat) : Bool :=
  let a := s.fld COL_GROUP_BASE COL_GROUP_BASE_address + 16 * s.fld REC_CFG REC_CFG_group
  (rangeFrom 0 (s.num a 4)).any (fun i => decide (s.num (s.num (a + 8) 8 + 2 * i) 2 = dev))

/-- Whether a replay runs. -/
def replaying (s : State) : Bool := decide (recMode s = 2) && decide (recState s = 2)

/-- The record's entries as offset and header, walked from the first. Structural on the entries left. -/
def recEntries (s : State) : Nat → Nat → List (Nat × List Byte)
  | 0, _ => []
  | n + 1, off =>
    let h := s.bytes (recBase s + off) 32
    (off, h) :: recEntries s n (off + 32 + (fieldAt h 4 2 + 31) / 32 * 32)

/-- The source device of a recorded packet. -/
def recSrc (s : State) (off : Nat) : Nat := s.num (recBase s + off + 32 + 4) 2

/-- The reads of the replay group's entry of the group table and of its rank list (R332, R416). -/
def replayGroupReads (s : State) : List (Nat × Nat) :=
  let a := s.fld COL_GROUP_BASE COL_GROUP_BASE_address + 16 * s.fld REC_CFG REC_CFG_group
  [(a, 16), (s.num (a + 8) 8, 2 * s.num a 4)]

/-- A walk of the record's entries as the controllers see it: the header, and of each entry its header and its packet's source are read,
which the group's rank list is held against (R285, R286, log 136). -/
def recScan (s : State) : State :=
  (s.touch ((recBase s, 64) :: (recEntries s (recCount s) 64).map (fun e => (recBase s + e.1, 38)) ++ replayGroupReads s)).2

/-- A packet to a device outside the group is suppressed in a replay; a management request, which no record holds, is unmatched; another request takes the earliest unused response entry that
its key matches, or is unmatched (R416). -/
def suppress (s : State) (ty addr crc len tag : Nat) : State :=
  let s0 := s.wide REC_SUPPRESSED 1
  if ty = 0xC1 ∨ ty = 0xC2 then (s0.count REC_UNMATCHED 1).flag REC_ERR REC_ERR_diverged
  else if ty = 0 ∨ 8 < ty then s0
  else
    let s1 := recScan s0
    let hit (e : Nat × List Byte) : Bool :=
      decide (fieldAt e.2 7 1 = 1) && !s.rcd.used.contains e.1 && !inReplayGroup s (recSrc s e.1) && decide (fieldAt e.2 8 8 = addr) &&
        decide (fieldAt e.2 16 4 = crc) && decide (fieldAt e.2 20 2 = len) && decide (fieldAt e.2 22 1 = ty)
    match (recEntries s (recCount s) 64).find? hit with
    | some e => { s1 with rcd := { s1.rcd with used := e.1 :: s1.rcd.used, due := s1.rcd.due ++ [(e.1, tag)] } }
    | none => (s1.count REC_UNMATCHED 1).flag REC_ERR REC_ERR_diverged

/-- The recorded packet of an entry: link, header and payload. -/
def recPacket (s : State) (off : Nat) : Nat × List Byte × List Byte :=
  let h := s.bytes (recBase s + off) 32
  let b := s.bytes (recBase s + off + 32) (fieldAt h 4 2)
  (fieldAt h 6 1, b.take 32, b.drop 32)

/-- What a replay injects next: a response that a request has matched, with the request's tag, or the next request or
collective packet in record order whose source lies outside the group (R416). -/
def recNext (s : State) : Option (Nat × Option Nat) :=
  match s.rcd.due with
  | d :: _ => some (d.1, some d.2)
  | [] => ((recEntries s (recCount s) 64).find? (fun e =>
      decide (fieldAt e.2 7 1 = 0) && decide (s.rcd.next ≤ e.1) && !inReplayGroup s (recSrc s e.1))).map (fun e => (e.1, none))

end Sys2Proof.Machine
end

