-- ==== Sys2Proof/Machine/Links.lean ====
section
/-! DEFINITION. Ilbegal links (11_ilbegal_links): packets as bytes, blocks, retry, virtual channels and credits,
routing, and the states of a link. -/

namespace Sys2Proof.Machine

/-- The payload of a packet: what the arguments say in the form the manual leaves open, then its bytes (log 20). -/
def Packet.payload (p : Packet) : List Byte :=
  (if p.args = [] then [] else Config.formPayload p.ty p.args) ++ p.data

/-- Header bytes 0x00 to 0x1B of a packet (R304). -/
def pktHead (p : Packet) (len hops : Nat) : List Byte :=
  leBytes 1 p.ty ++ leBytes 1 (p.vc % 4 + p.cls % 4 * 4) ++ leBytes 2 p.dst ++ leBytes 2 p.src ++ leBytes 2 len ++
    leBytes 8 p.addr ++ leBytes 4 p.epoch ++ leBytes 2 p.tag ++ leBytes 1 p.stepLo ++ leBytes 1 hops ++
    leBytes 1 p.status ++ leBytes 3 0

/-- A packet as it is sent, with its pcrc taken with hops as 0 (R304). -/
def pktBytes (p : Packet) : List Byte :=
  let pl := p.payload
  pktHead p pl.length p.hops ++ leBytes 4 (crc32c (pktHead p pl.length 0 ++ pl)) ++ pl

/-- The packet that leaves where one came in with some bytes: as received, but for its class and its hops. A change of the class changes the
pcrc by the same difference, so that a good one stays good and a bad one bad (R304, R306, R310, log 146). -/
def passedOn (p : Packet) : List Byte :=
  let h := p.raw.take 32
  let pl := p.raw.drop 32
  let head (cls hops : Nat) : List Byte :=
    h.take 1 ++ leBytes 1 (fieldAt h 1 1 / 16 * 16 + cls % 4 * 4 + fieldAt h 1 1 % 4) ++ (h.drop 2).take 0x15 ++ leBytes 1 hops ++
      (h.drop 0x18).take 4
  let old := crc32c (head (fieldAt h 1 1 / 4) 0 ++ pl)
  let new := crc32c (head p.cls 0 ++ pl)
  head p.cls p.hops ++ leBytes 4 (Nat.xor (fieldAt h 0x1C 4) (Nat.xor old new)) ++ pl

/-- The bytes of a packet as a link sends it: its own, or those received of one that it passes on (R304, R309). -/
def Packet.wire (p : Packet) : List Byte := if p.raw = [] then pktBytes p else passedOn p

/-- The bytes that a packet takes on a link. -/
def Packet.size (p : Packet) : Nat := if p.raw = [] then 32 + p.payload.length else p.raw.length

/-- The packet types of R305. -/
def pktTypes : List Nat :=
  [0x01, 0x02, 0x03, 0x04, 0x05, 0x06, 0x07, 0x08, 0x41, 0x42, 0x43, 0x44, 0x45, 0x46, 0x47, 0x48, 0x81, 0x82, 0x83,
   0xC1, 0xC2, 0xC3, 0xC4, 0xE1, 0xE2]

/-- The types whose payload is the bytes that they carry: WRITE, the answer to READ, and a gradient record (R253,
R305). -/
def plainTypes : List Nat := [0x02, 0x41, 0x07]

/-- The packet that 32 header bytes and a payload spell. -/
def pktOf (h pl : List Byte) : Packet :=
  let ty := fieldAt h 0 1
  { ty := ty, vc := fieldAt h 1 1 % 4, cls := fieldAt h 1 1 / 4 % 4, dst := fieldAt h 2 2, src := fieldAt h 4 2,
    addr := fieldAt h 8 8, epoch := fieldAt h 0x10 4, tag := fieldAt h 0x14 2, stepLo := fieldAt h 0x16 1,
    hops := fieldAt h 0x17 1, status := fieldAt h 0x18 1, args := Config.parsePayload ty pl
    data := if plainTypes.contains ty then pl else Config.payloadData ty pl }

/-- Whether a packet's pcrc is good (R306). -/
def pcrcGood (h pl : List Byte) : Bool :=
  fieldAt h 0x1C 4 == crc32c (h.take 0x17 ++ [0] ++ (h.drop 0x18).take 4 ++ pl)

/-- Whether a packet's format is good: its type, its length and its reserved fields (R306). -/
def pktFormatGood (h : List Byte) : Bool :=
  pktTypes.contains (fieldAt h 0 1) && decide (fieldAt h 6 2 ≤ 4096) && decide (fieldAt h 1 1 < 16) &&
    decide (fieldAt h 0x19 3 = 0)

/-! ### Ports and routes (R318, R319) -/

/-- The state code of a link (R312). -/
def State.lnkState (s : State) (n : Nat) : Nat := s.fld (LNK_STATUS n) LNK_STATUS_state

/-- Links that are Up and belong to a port (R318). -/
def portLinks (s : State) (port : Nat) : List Nat :=
  (rangeFrom 0 96).filter (fun n => s.has .link n && decide (s.lnkState n = 4) &&
    s.bit (LNK_STATUS n) LNK_STATUS_in_port && decide (s.fld (LNK_CFG n) LNK_CFG_port = port))

/-- Bytes of begun packets that a link has still to send. -/
def outBytes (k : Lnk) : Nat := (k.out.map (fun e => e.bytes.length)).foldl (· + ·) 0

/-- Blocks that a link's waiting packets will take, back to back (R303). -/
def blocksWaiting (k : Lnk) : Nat := (outBytes k + (k.tx.map Packet.size).foldl (· + ·) 0 + 119) / 120

/-- The link of a port with the fewest blocks awaiting transmission; the lowest number on a tie (R318). -/
def pickLink (s : State) (ls : List Nat) : Option Nat :=
  ls.foldl (fun o n => match o with
    | none => some n
    | some m => if blocksWaiting (s.lnk n) < blocksWaiting (s.lnk m) then some n else some m) none

/-- The route entry of a destination (R319). -/
def routeEntry (s : State) (dst : Nat) : Word :=
  if dst / 256 ≠ s.devId / 256 then s.reg (LNK_GROUP_ROUTE (dst / 256)) else s.reg (LNK_MEMBER_ROUTE (dst % 256))

/-- The link that a packet for a destination leaves on (R319). -/
def routeLink (s : State) (dst : Nat) : Option Nat :=
  let e := routeEntry s dst
  if !fbit LNK_GROUP_ROUTE_valid e then none else
    match pickLink s (portLinks s (fget LNK_GROUP_ROUTE_port e)) with
    | some n => some n
    | none => if fbit LNK_GROUP_ROUTE_alt_valid e then pickLink s (portLinks s (fget LNK_GROUP_ROUTE_alt_port e)) else none

/-- The buffer class of a packet as it leaves by an entry (R310): a global hop takes 0b10; a dateline sets bit 0. -/
def clsLeaving (e : Word) (cls : Nat) : Nat :=
  let c := if fbit LNK_GROUP_ROUTE_global e then 2 else cls
  if fbit LNK_GROUP_ROUTE_dateline e then c / 2 * 2 + 1 else c

/-! ### Sending (R303, R311, R315) -/

/-- The control word of a block without its crc (R303). -/
def ctlWord (seq ack cvc ccls ccount kind : Nat) : Nat :=
  seq % 2 ^ 16 * 2 ^ 48 + ack % 2 ^ 16 * 2 ^ 32 + cvc % 4 * 2 ^ 30 + ccls % 4 * 2 ^ 28 + ccount % 16 * 2 ^ 24 + kind % 16 * 2 ^ 20

/-- The crc of a block: over its data field and bits 63:16 of its control word (R303). -/
def blockCrc (data : List Byte) (ctl : Nat) : Nat := crc16 (data ++ (leBytes 8 ctl).drop 2)

/-- The first channel and class with a slot's credit to return, and how many, up to 15 (R303, R308). -/
def creditOf (k : Lnk) : Nat × Nat :=
  match firstIdx (fun n => decide (0 < n)) k.owedCredit with
  | some i => (i, min 15 (k.owedCredit.getD i 0))
  | none => (0, 0)

/-- Send one block on a link: it carries the latest ack and any credits to return (R303, R313). -/
def sendBlock (s : State) (n kind seq : Nat) (data : List Byte) : State :=
  let k := s.lnk n
  let (ci, cc) := creditOf k
  let ack := (s.fld (LNK_SEQ n) LNK_SEQ_rx_expected + 65535) % 65536
  let ctl := ctlWord seq ack (ci / 4) (ci % 4) cc kind
  let s1 := s.setLnk n { k with owedCredit := listPut 0 k.owedCredit ci (k.owedCredit.getD ci 0 - cc) }
  { s1 with lineOut := s1.lineOut ++ [(n, padTo 120 0 data, ctl + blockCrc (padTo 120 0 data) ctl)] }

/-- Send a block that is not DATA: it carries the next sequence number to be sent (R303). -/
def sendCtl (s : State) (n kind : Nat) : State := sendBlock s n kind (s.fld (LNK_SEQ n) LNK_SEQ_tx_next) []

/-- Send one new DATA block and keep it in the retry buffer (R315). -/
def sendData (n : Nat) (ends : List Nat) (s : State) (data : List Byte) : State :=
  let seq := s.fld (LNK_SEQ n) LNK_SEQ_tx_next
  let s1 := sendBlock s n 0 seq data
  let k := s1.lnk n
  ((s1.setLnk n { k with retry := k.retry ++ [⟨seq, padTo 120 0 data, ends⟩] }).setFld (LNK_SEQ n) LNK_SEQ_tx_next
    (seq + 1)).wide (LNK_TX_BLOCKS n) 1

/-- The next data field out of the bytes still to be sent, packets back to back (R303): its bytes, the packets that
end in it, and what is left. Structural on the packets. -/
def fillBlock : Nat → List Sending → List Byte × List Sending × List Sending
  | _, [] => ([], [], [])
  | room, x :: t =>
    if room < x.bytes.length then (x.bytes.take room, [], { x with bytes := x.bytes.drop room, cut := x.cut || decide (0 < room) } :: t)
    else
      let (d, e, r) := fillBlock (room - x.bytes.length) t
      (x.bytes ++ d, x :: e, r)

/-- Index of a channel and class in the credit counts. -/
def creditIdx (p : Packet) : Nat := p.vc % 4 * 4 + p.cls % 4

/-- Whether a link holds a credit for a packet (R308, R310: 16 slots per class). -/
def hasCredit (k : Lnk) (p : Packet) : Bool := decide (k.used.getD (creditIdx p) 0 < 16)

/-- The first waiting packet of a channel that has a credit. -/
def readyOf (k : Lnk) (vc : Nat) : Option Nat := firstIdx (fun p => decide (p.vc = vc) && hasCredit k p) k.tx

/-- Round-robin weights of the response, collective and request channels; a weight of 0 is 1 (R311, R321). -/
def weights (s : State) : List Nat :=
  [max 1 (s.fld LNK_VC_WEIGHT LNK_VC_WEIGHT_response), max 1 (s.fld LNK_VC_WEIGHT LNK_VC_WEIGHT_collective),
   max 1 (s.fld LNK_VC_WEIGHT LNK_VC_WEIGHT_request)]

/-- The channel of a round-robin position. -/
def wrrVc (i : Nat) : Nat := if i = 0 then 1 else if i = 1 then 2 else 0

/-- The packet to send next and the weights left: the management channel first, the rest by weighted round robin, passing
over a channel with no packet or no credit (R311). -/
def nextPacket (s : State) (k : Lnk) : Option (Nat × List Nat) :=
  match readyOf k 3 with
  | some i => some (i, k.wrr)
  | none =>
    let try_ (w : List Nat) : Option (Nat × List Nat) :=
      match firstIdx (fun j => decide (0 < w.getD j 0) && (readyOf k (wrrVc j)).isSome) [0, 1, 2] with
      | some j => (readyOf k (wrrVc j)).map (fun i => (i, listPut 0 w j (w.getD j 0 - 1)))
      | none => none
    match try_ k.wrr with
    | some r => some r
    | none => try_ (weights s)

/-- A packet that has left an ingress buffer frees its slot: the credit is owed to the neighbour (R308). -/
def State.oweCredit (s : State) : Option (Nat × Nat) → State
  | none => s
  | some (m, place) =>
    let k := s.lnk m
    let j := place / 16
    s.setLnk m { k with owedCredit := listPut 0 k.owedCredit j (k.owedCredit.getD j 0 + 1) }

/-- A double-bit error in a packet of an ingress buffer (R317): action code 3, and the packet counts as discarded. The word's
place has no kind in MEM_SRAM_UE_LOC: free values there and in record 0x5010 (log 119). -/
def bufferReport (n vc cls place : Nat) (s : State) : State :=
  let (w, s1) := s.drawWord
  let s2 := ((((s1.count MEM_SRAM_UE_COUNT 1).setReg MEM_SRAM_UE_LOC w).log 0x5010 4 n (fget MEM_SRAM_UE_LOC_kind w) n
    (w.toNat % 2 ^ 32) 3).flag MEM_SRAM_ERR MEM_SRAM_ERR_ue_data).flag (LNK_ERR n) LNK_ERR_buffer_ue
  (s2.count (LNK_DISCARDS n) 1).log 0x4005 4 n n vc cls (place % 64)

/-- The words in error of a place of a link's ingress buffers. -/
def placeErrs (s : State) (n place : Nat) : List Upset := s.upsets.filter (fun u => u.kind == 9 && u.inst == n && u.off == place)

/-- Forget the errors of a place that has been written, or whose packet has gone (R297). -/
def cleanPlace (s : State) (n place : Nat) : State := { s with upsets := s.upsets.filter (fun u => !(u.kind == 9 && u.inst == n && u.off == place)) }

/-- The packet of a place is read: words with one bit in error are corrected (R297). The flag says that one has two (R317). -/
def meetPlace (n place : Nat) (s : State) : Bool × State :=
  let l := placeErrs s n place
  if l.any (·.double) then (true, cleanPlace s n place) else (false, l.foldl (fun s _ => sramCorrected s) (cleanPlace s n place))

/-- A waiting packet that is passed on is read out of its place: one with a double-bit error is discarded (R317). -/
def readPassed (n i : Nat) (s : State) : Bool × State :=
  let k := s.lnk n
  match k.tx[i]? with
  | none => (false, s)
  | some p => match p.via with
    | none => (false, s)
    | some (m, place) => match meetPlace m place s with
      | (false, s1) => (false, s1)
      | (true, s1) => (true, (bufferReport m p.vc p.cls place (s1.setLnk n { k with tx := k.tx.eraseIdx i })).oweCredit p.via)

/-- Begin a waiting packet: it takes a credit, and its bytes follow those still to be sent (R303, R308). -/
def beginPacket (n i : Nat) (w : List Nat) (s : State) : State :=
  match readPassed n i s with
  | (true, s1) => s1
  | (false, s) =>
  let k := s.lnk n
  let p := k.tx.getD i { ty := 0 }
  (s.setLnk n { k with tx := k.tx.eraseIdx i, wrr := w, out := k.out ++ [⟨p.wire, creditIdx p, p.via, false⟩],
                       used := listPut 0 k.used (creditIdx p) (k.used.getD (creditIdx p) 0 + 1) }).wide (LNK_TX_PAYLOAD n) (p.size - 32)

/-- Send the next DATA block; a packet that ends in it has left its ingress slot. A block that no packet fills is filled with zeros
(log 21). -/
def sendNext (n : Nat) (s : State) : State :=
  let k := s.lnk n
  let (d, ended, rest) := fillBlock 120 k.out
  (ended.map (·.via)).foldl State.oweCredit (sendData n (ended.map (·.credit)) (s.setLnk n { k with out := rest }) d)

/-- Send while there is a packet with a credit or bytes of one, block by block, until the retry buffer is full (R315): a packet
begins where the bytes of the one before it no longer fill a block. Structural on the packets and blocks. -/
def pump (n : Nat) : Nat → State → State
  | 0, s => s
  | fuel + 1, s =>
    let k := s.lnk n
    if 1024 ≤ k.retry.length then s
    else match (if outBytes k < 120 then nextPacket s k else none) with
      | some (i, w) => pump n fuel (beginPacket n i w s)
      | none => if k.out = [] then s else pump n fuel (sendNext n s)

/-- Send what may be sent on a link that is Up or in Init. -/
def State.pumpLink (s : State) (n : Nat) : State :=
  let k := s.lnk n
  if s.lnkState n = 4 ∨ s.lnkState n = 3 then pump n (k.tx.length + blocksWaiting k + 1) s else s

/-- Put a packet on a link (R314: a link named by the sender). Each sending link adds 1 to hops (R304). -/
def State.sendOn (s : State) (n : Nat) (p : Packet) : State :=
  let k := s.lnk n
  (s.setLnk n { k with tx := k.tx ++ [{ p with hops := p.hops + 1 }] }).pumpLink n

/-- A discarded packet: LNK_ERR.packet, LNK_DISCARDS and record 0x4004 on a link (R306). -/
def State.discard (s : State) (n reason : Nat) (src ty : Nat) : State :=
  ((s.flag (LNK_ERR n) LNK_ERR_packet).count (LNK_DISCARDS n) 1).log 0x4004 4 n n reason src ty

/-- A packet of the device's own that has no route (R319): no ingress link flags or counts it, and the link that its record names is
not stated: a free value (R306, log 76). -/
def State.discardOwn (s : State) (src ty : Nat) : State :=
  let (w, s1) := s.drawWord
  s1.log 0x4004 4 (w.toNat % 256) (w.toNat % 256) 3 src ty

/-- Route a packet to another device (R319); `from_` is the ingress link of a forwarded packet. A packet without a
route, or whose hops reach 32 with this one, is discarded; a requester ends by its deadline. Before the first commit a device sends only on a
named link (R314). -/
def State.send (s : State) (from_ : Option Nat) (p : Packet) : State :=
  if !s.committed then s
  else if from_.isNone && replaying s && !inReplayGroup s p.dst then
    suppress s p.ty p.addr (crc32c p.payload) p.payload.length p.tag
  else if 31 ≤ p.hops then (match from_ with | some n => (s.discard n 4 p.src p.ty).oweCredit p.via | none => s)
  else match routeLink s p.dst with
    | none => (match from_ with | some n => (s.discard n 3 p.src p.ty).oweCredit p.via | none => s.discardOwn p.src p.ty)
    | some n => s.sendOn n { p with cls := clsLeaving (routeEntry s p.dst) p.cls }

/-- The step counter's low byte, which every packet carries (R304, R269). -/
def State.stepLo (s : State) : Nat := (s.reg COL_STEP).toNat % 256

/-- A packet of this device, stamped with its id, epoch and step (R304, R356). -/
def State.mkPacket (s : State) (ty vc dst addr tag status : Nat) (args : List Nat) (data : List Byte) : Packet :=
  { ty := ty, vc := vc, cls := 0, dst := dst, src := s.devId, addr := addr, epoch := s.fld STR_EPOCH STR_EPOCH_current,
    tag := tag, stepLo := s.stepLo, hops := 0, status := status, args := args, data := data }

/-- The epoch that a requester stamps (R356). -/
def ownerEpoch (s : State) : ReqOwner → Nat
  | .run c _ => coreEpoch s c
  | .add c _ => coreEpoch s c
  | _ => s.fld STR_EPOCH STR_EPOCH_current

/-- Send a request and remember who waits for its answer. The tag is chosen by the requester (R304). -/
def State.request (s : State) (ty dst addr : Nat) (args : List Nat) (data : List Byte) (o : ReqOwner) : Nat × State :=
  let tag := s.nextTag
  let vc := if ty = 0xC1 ∨ ty = 0xC2 then 3 else 0
  let p : Packet := { s.mkPacket ty vc dst addr tag 0 args data with epoch := ownerEpoch s o }
  let s1 : State := { s with nextTag := (tag + 1) % 65536, reqs := s.reqs ++
    [{ tag := tag, dst := dst, owner := o, addr := addr, crc := crc32c p.payload, len := p.payload.length, ty := ty }] }
  (tag, s1.send none p)

/-- Answer a request packet (R305): the type plus 0x40 on the response channel, or plus 0x20 on the management
channel. -/
def State.respond (s : State) (p : Packet) (status : Nat) (args : List Nat) (data : List Byte) : State :=
  let mg := decide (p.ty = 0xC1 ∨ p.ty = 0xC2)
  s.send none (s.mkPacket (if mg then p.ty + 0x20 else p.ty + 0x40) (if mg then 3 else 1) p.src p.addr p.tag status args data)

/-! ### Receiving (R306, R309, R313) -/

/-- A slot of an ingress buffer is freed: its credit is owed to the neighbour (R308). -/
def State.freeSlot (s : State) (n i : Nat) : State :=
  let k := s.lnk n
  match k.slots[i]? with
  | none => s
  | some p =>
    let j := creditIdx p
    cleanPlace (s.setLnk n { k with slots := k.slots.eraseIdx i, owedCredit := listPut 0 k.owedCredit j (k.owedCredit.getD j 0 + 1) }) n p.place

/-- The places of a link's ingress buffers that are taken: by packets for this device, and by packets that wait to leave, or are leaving,
on another link (R308, R310). -/
def placesTaken (s : State) (n : Nat) : List Nat :=
  let ours (v : Option (Nat × Nat)) : Option Nat := v.bind (fun q => if q.1 = n then some q.2 else none)
  (s.lnk n).slots.map (·.place) ++
    (rangeFrom 0 96).flatMap (fun m => (s.lnk m).tx.filterMap (fun p => ours p.via) ++ (s.lnk m).out.filterMap (fun e => ours e.via))

/-- The free places of a channel and class of a link, lowest first. -/
def freePlaces (s : State) (n j : Nat) : List Nat := (rangeFrom (16 * j) 16).filter (fun q => !(placesTaken s n).contains q)

/-- Credits that come back with packets that will not be delivered. -/
def creditBack (used : List Nat) (l : List Nat) : List Nat := l.foldl (fun u j => listPut 0 u j (u.getD j 0 - 1)) used

/-- What is left of a packet that has begun, when its place has a double-bit error: bytes that nothing is known of, so that its destination
discards it (R317, log 147). -/
def lostBytes (s : State) (bs : List Byte) : List Byte := (rangeFrom 0 bs.length).map (Config.freeByte s.free)

/-- A begun packet of link `m` with a double-bit error in its place: one of which nothing has been sent is not sent, and its credit comes
back. -/
def loseBegun (m : Nat) (e : Sending) (s : State) : State :=
  let k := s.lnk m
  if e.cut then ({ s with free := s.free + 1 } : State).setLnk m { k with out := k.out.map (fun x => if x = e then { e with bytes := lostBytes s e.bytes } else x) }
  else (s.setLnk m { k with out := k.out.erase e, used := creditBack k.used [e.credit] }).oweCredit e.via

/-- The patrol finds a double-bit error in a place of a link's ingress buffers (R317): its packet is discarded. -/
def bufferDouble (n place : Nat) (s : State) : State :=
  let here (v : Option (Nat × Nat)) : Bool := v == some (n, place)
  let s0 := bufferReport n (place / 64) (place / 16 % 4) place s
  match firstIdx (fun p => decide (p.place = place)) (s.lnk n).slots with
  | some i => s0.freeSlot n i
  | none =>
    match (rangeFrom 0 96).findSome? (fun m => ((s.lnk m).tx.find? (fun p => here p.via)).map (fun p => (m, p))) with
    | some (m, p) => (s0.setLnk m { s0.lnk m with tx := (s0.lnk m).tx.erase p }).oweCredit p.via
    | none =>
      match (rangeFrom 0 96).findSome? (fun m => ((s.lnk m).out.find? (fun e => here e.via)).map (fun e => (m, e))) with
      | some (m, e) => loseBegun m e s0
      | none => s0

/-- A packet that has wholly arrived on a link: taken as the device's own before the first commit (R314) or by its
destination, checked (R306, R319) and kept in its slot; or forwarded, holding its slot until it is sent (R308, R309). A NEIGHBOUR
packet is for the device at the other end, whose id its sender does not know (R312, log 138). A packet whose class has no free
slot, which its sender may not send (R308), is discarded (log 137). A packet takes the lowest free slot of its class (log 147). -/
def packetIn (s : State) (n : Nat) (h pl : List Byte) : State :=
  let p := pktOf h pl
  let s := s.wide (LNK_RX_PAYLOAD n) pl.length
  match freePlaces s n (creditIdx p) with
  | [] => s.discard n 2 p.src p.ty
  | place :: _ =>
  let slot := some (n, place)
  let s := cleanPlace s n place
  if !s.committed || decide (p.ty = 0xC4) || decide (p.dst = s.devId) then
    if !pcrcGood h pl then (s.discard n 1 p.src p.ty).oweCredit slot
    else if !pktFormatGood h then (s.discard n 2 p.src p.ty).oweCredit slot
    else if 32 ≤ p.hops then (s.discard n 4 p.src p.ty).oweCredit slot
    else
      let s := recTake s n p.vc p.ty p.stepLo p.tag (h ++ pl)
      let k := s.lnk n
      let s1 := s.setLnk n { k with slots := k.slots ++ [{ p with place := place }] }
      if p.vc = 3 ∧ (p.ty = 0xC1 ∨ p.ty = 0xC2) then s1.event 0 1 (n + place % 64 * 2 ^ 16) else s1
  else s.send (some n) { p with via := slot, raw := h ++ pl }

/-- Take the packets that the received bytes complete. A zero byte where a packet would begin is fill to the end of its
block (log 21). Structural on the fuel. -/
def takePackets (n : Nat) : Nat → State → State
  | 0, s => s
  | fuel + 1, s =>
    let k := s.lnk n
    match k.rxBuf with
    | [] => s
    | b :: _ =>
      if b = 0 then s.setLnk n { k with rxBuf := [] }
      else
        let len := fieldAt k.rxBuf 6 2
        if k.rxBuf.length < 32 ∨ k.rxBuf.length < 32 + len then s
        else takePackets n fuel (packetIn (s.setLnk n { k with rxBuf := k.rxBuf.drop (32 + len) }) n
          (k.rxBuf.take 32) ((k.rxBuf.drop 32).take len))

/-- The ack and the credits that every good block carries (R303, R308, R315). -/
def takeCtl (s : State) (n ctl : Nat) : State :=
  let k := s.lnk n
  let ack := bitsOf ctl 47 32
  let acked := s.fld (LNK_SEQ n) LNK_SEQ_tx_acked
  let fresh := decide (0 < modDiff 16 ack acked) && decide (modDiff 16 ack ((s.fld (LNK_SEQ n) LNK_SEQ_tx_next + 65535) % 65536) ≤ 0)
  let j := bitsOf ctl 31 30 * 4 + bitsOf ctl 29 28
  let k1 := { k with
    retry := if fresh then k.retry.filter (fun e => decide (0 < modDiff 16 e.seq ack)) else k.retry
    resends := if fresh then 0 else k.resends
    used := listPut 0 k.used j (k.used.getD j 0 - bitsOf ctl 27 24) }
  let s1 := s.setLnk n k1
  (if fresh then s1.setFld (LNK_SEQ n) LNK_SEQ_tx_acked ack else s1).pumpLink n

/-- A NAK, once for each expected number (R313). -/
def sendNak (s : State) (n : Nat) : State :=
  let k := s.lnk n
  let e := s.fld (LNK_SEQ n) LNK_SEQ_rx_expected
  if k.nakFor = some e then s else sendCtl (s.setLnk n { k with nakFor := some e }) n 2

/-- The state that a link shows: Training after a reset, until an event of it (R312, log 139). -/
def lnkShown (s : State) (n : Nat) : Nat := if firstTraining s n then 1 else s.lnkState n

/-- Set a link's state; a change is an event of source 5 (R396). -/
def setLnkState (s : State) (n st : Nat) : State :=
  let s1 := s.setFld (LNK_STATUS n) LNK_STATUS_state st
  if s.lnkState n = st then s1 else s1.eventAll 5 (n + st * 2 ^ 8)

/-- The packets that a link has not wholly delivered are lost and counted, and it leaves its port (R316). Their credits come back; packets that
were wholly acknowledged keep their slots at the neighbour, and the slots of this end stay owed, until a block returns them (R308, log
148). -/
def loseLink (s : State) (n : Nat) : State :=
  let k := s.lnk n
  let ended := k.retry.flatMap (·.ends)
  let lost := ended.length + k.out.length + k.tx.length + b2n (decide (k.rxBuf ≠ []))
  (((k.out.map (·.via) ++ k.tx.map (·.via)).foldl State.oweCredit (s.setLnk n { slots := k.slots, owedCredit := k.owedCredit, used := creditBack k.used (ended ++ k.out.map (·.credit)) })).count (LNK_DISCARDS n) lost).setFld (LNK_STATUS n) LNK_STATUS_in_port 0

/-- A link goes Down (R312, R316): record 0x4002 is made. -/
def goDown (s : State) (n reason : Nat) : State :=
  (setLnkState ((loseLink s n).flag (LNK_ERR n) LNK_ERR_down) n 5).log 0x4002 4 n n reason (s.fld (LNK_SEQ n) LNK_SEQ_tx_acked) (s.fld (LNK_NEIGHBOUR n) LNK_NEIGHBOUR_device)

/-- Resend every unacknowledged block, from the oldest (R315); after max_retries consecutive resends without an advance
the link goes Down. -/
def resend (s : State) (n : Nat) : State :=
  let k := s.lnk n
  if k.retry = [] then s
  else if k.resends ≥ max 1 (s.fld (LNK_RETRY_CFG n) LNK_RETRY_CFG_max_retries) then goDown s n 1
  else
    let s1 := (s.setLnk n { k with resends := k.resends + 1 }).count (LNK_RETRIES n) 1
    k.retry.foldl (fun t e => sendBlock t n 0 e.seq e.data) s1

/-- FEC codewords corrected and found uncorrectable with a block (R321). -/
def fecCount (s : State) (n good bad : Nat) : State :=
  (s.count (LNK_FEC_CORRECTED n) good).count (LNK_FEC_UNCORRECTABLE n) bad

/-- Whether a link receives blocks: in Init or Up, on a die whose fabric is not cut (R456, log 57). -/
def lnkLive (s : State) (n : Nat) : Bool :=
  s.has .link n && decide (s.lnkState n = 4 ∨ s.lnkState n = 3) && !s.fabricCut.contains (2 + n / 48)

/-- Whether a block's crc is good; a block whose kind is reserved counts as one whose crc failed (R303). -/
def blockGood (data : List Byte) (ctl : Nat) : Bool :=
  decide (ctl % 2 ^ 16 = blockCrc (padTo 120 0 data) (ctl / 2 ^ 16 * 2 ^ 16)) && decide (bitsOf ctl 23 20 ≤ 3)

/-- The link's own series goes on: for a block that has arrived a block is sent, IDLE where nothing else was (R303, R313, log 140).
`sent` is how many blocks had been sent before. -/
def keepSeries (n sent : Nat) (s : State) : State :=
  if lnkLive s n && decide (s.lineOut.length ≤ sent) then sendCtl s n 1 else s

/-- A DATA block in sequence is taken (R313). -/
def takeBlock (n : Nat) (data : List Byte) (s : State) : State :=
  let k := s.lnk n
  let s1 := ((s.setLnk n { k with rxBuf := k.rxBuf ++ padTo 120 0 data, nakFor := none }).setFld (LNK_SEQ n) LNK_SEQ_rx_expected
    (s.fld (LNK_SEQ n) LNK_SEQ_rx_expected + 1)).wide (LNK_RX_BLOCKS n) 1
  sendCtl (takePackets n (k.rxBuf.length + 121) s1) n 1

/-- A DATA block arrives (R313). -/
def dataBlock (n : Nat) (data : List Byte) (ctl good bad : Nat) (s : State) : State :=
  if !lnkLive s n then s
  else keepSeries n s.lineOut.length <|
    let s := fecCount s n good bad
    if !blockGood data ctl then sendNak (s.count (LNK_CRC_ERRORS n) 1) n
    else
      let s := takeCtl s n ctl
      let d := modDiff 16 (bitsOf ctl 63 48) (s.fld (LNK_SEQ n) LNK_SEQ_rx_expected)
      if d > 0 then sendNak s n else if d < 0 then s else takeBlock n data s

/-- A NAK block arrives: the sender resends from the block after its ack (R313, R315). -/
def nakBlock (n : Nat) (data : List Byte) (ctl good bad : Nat) (s : State) : State :=
  if !lnkLive s n then s
  else keepSeries n s.lineOut.length <|
    let s := fecCount s n good bad
    if !blockGood data ctl then sendNak s n else resend (takeCtl s n ctl) n

/-- An IDLE block arrives: its ack and its credits are taken (R313). -/
def idleBlock (n : Nat) (data : List Byte) (ctl good bad : Nat) (s : State) : State :=
  if !lnkLive s n then s
  else keepSeries n s.lineOut.length <|
    let s := fecCount s n good bad
    if !blockGood data ctl then sendNak s n else takeCtl s n ctl

/-- The NEIGHBOUR packet of this end of a link: device id, link number and port (R312). -/
def neighbourPacket (s : State) (n : Nat) : Packet :=
  s.mkPacket 0xC4 3 0 0 0 0 [s.devId, n, s.fld (LNK_CFG n) LNK_CFG_port] []

/-- An INIT block arrives: its ack and its credits are taken (R303); the first in Init tells the next sequence number to expect (log 21), and this end answers it with an INIT
block of its own and sends its NEIGHBOUR packet (R312). -/
def initBlock (n : Nat) (data : List Byte) (ctl good bad : Nat) (s : State) : State :=
  if !lnkLive s n then s
  else keepSeries n s.lineOut.length <|
    let s := fecCount s n good bad
    if !blockGood data ctl then sendNak s n
    else
      let s := takeCtl s n ctl
      let k := s.lnk n
      if s.lnkState n ≠ 3 then s
      else if k.gotInit then sendCtl s n 3
      else
        let s1 := sendCtl ((s.setLnk n { k with gotInit := true }).setFld (LNK_SEQ n) LNK_SEQ_rx_expected (bitsOf ctl 63 48)) n 3
        s1.sendOn n (neighbourPacket s1 n)

/-- The oldest unacknowledged block has waited its deadline (R315). -/
def retryDeadline (n : Nat) (s : State) : State :=
  if lnkLive s n then resend s n else s

/-- Whether a link is training: in Training, or just after reset with enable set (R312). -/
def lnkTraining (s : State) (n : Nat) : Bool :=
  s.has .link n && (decide (s.lnkState n = 1) || (decide (s.lnkState n = 0) && s.bit (LNK_CFG n) LNK_CFG_enable))

/-- A lane's register after training (R321). -/
def laneTrained (s : State) (n k snr prec st : Nat) : State :=
  s.setReg (LNK_LANE n k) (fset LNK_LANE_snr snr <| fset LNK_LANE_precoding prec <| fset LNK_LANE_train_state st 0)

/-- Both lanes complete link training; the link aligns (R312). The lanes' readings come with the event. -/
def linkTrainingDone (n snr0 snr1 prec0 prec1 : Nat) (s : State) : State :=
  if lnkTraining s n then setLnkState (laneTrained (laneTrained s n 0 snr0 prec0 2) n 1 snr1 prec1 2) n 2 else s

/-- Training fails after 1 s: the link goes Down with records 0x4003 and 0x4002, whose reason is none of the three that R312 lists: a
free value (R312, log 139). -/
def trainingTimeout (n : Nat) (s : State) : State :=
  if lnkTraining s n then
    let (w, s1) := (((laneTrained (laneTrained s n 0 0 0 3) n 1 0 0 3).flag (LNK_ERR n) LNK_ERR_training).logFree 0x4003 4 n).drawWord
    goDown s1 n (w.toNat % 256)
  else s

/-- Alignment and codeword lock on both lanes: the link enters Init and sends INIT blocks (R312). -/
def alignmentDone (n : Nat) (s : State) : State :=
  if s.has .link n && decide (s.lnkState n = 2) then sendCtl (setLnkState s n 3) n 3 else s

/-- An Up link loses lock and goes Down for reason 2 (R312). -/
def lossOfLock (n : Nat) (s : State) : State :=
  if s.has .link n && decide (s.lnkState n = 4) then goDown s n 2 else s

/-- Start training (R312). -/
def startTraining (s : State) (n : Nat) : State :=
  laneTrained (laneTrained (setLnkState s n 1) n 0 0 0 1) n 1 0 0 1

/-- 10 ms after going Down with auto_retrain set, the link retrains (R312). -/
def retrainTimer (n : Nat) (s : State) : State :=
  if s.has .link n && decide (s.lnkState n = 5) && s.bit (LNK_RETRY_CFG n) LNK_RETRY_CFG_auto_retrain
    then startTraining s n else s

/-- LNK_CTRL.retrain: Down for reason 3, then Training (R312, R321). -/
def retrain (s : State) (n : Nat) : State :=
  if lnkShown s n = 0 ∨ s.lnkState n = 6 then s
  else startTraining (if s.lnkState n = 5 then s else goDown s n 3) n

/-- What a change of a link's enable or port does (R312, R354): Down for reason 3 from a working state `st`, then Training, or
Disabled. -/
def relink (st : Nat) (s : State) (n : Nat) : State :=
  let s1 := if 1 ≤ st ∧ st ≤ 4 then goDown s n 3 else s
  if s.bit (LNK_CFG n) LNK_CFG_enable then startTraining s1 n else setLnkState s1 n 0

/-- A commit gives a link its configuration (R312, R354): port 127 puts it on holiday. -/
def linkCommit (n : Nat) (w : Word) (s : State) : State :=
  let old := s.reg (LNK_CFG n)
  if !s.has .link n then s
  else
    let s1 := s.setReg (LNK_CFG n) w
    if fget LNK_CFG_port w = 127 then (if s.lnkState n = 6 then s1 else setLnkState (loseLink s1 n) n 6)
    else if s.lnkState n = 6 ∨ old ≠ w then relink (lnkShown s n) s1 n else s1

/-- LNK_CTRL.clear_counts (R321). -/
def lnkClear (s : State) (n : Nat) : State :=
  [LNK_FEC_CORRECTED n, LNK_FEC_UNCORRECTABLE n, LNK_CRC_ERRORS n, LNK_RETRIES n, LNK_DISCARDS n].foldl State.clearCount s

/-- A NEIGHBOUR packet completes Init: the link is Up, and joins its port unless it leads to another device than the
port's other links (R312, R318). -/
def neighbourIn (s : State) (n dev lnk port : Nat) : State :=
  let others := portLinks s (s.fld (LNK_CFG n) LNK_CFG_port)
  let clash := others.any (fun m => m != n && decide (s.fld (LNK_NEIGHBOUR m) LNK_NEIGHBOUR_device ≠ dev))
  let s1 := s.setReg (LNK_NEIGHBOUR n) (fset LNK_NEIGHBOUR_valid 1 <| fset LNK_NEIGHBOUR_port port <|
    fset LNK_NEIGHBOUR_link lnk <| fset LNK_NEIGHBOUR_device dev 0)
  let s2 := (setLnkState (s1.setFld (LNK_STATUS n) LNK_STATUS_in_port (b2n (!clash))) n 4).logFree 0x4001 4 n
  let s3 := if clash then (s2.flag (LNK_ERR n) LNK_ERR_neighbour).logFree 0x4007 4 n else s2
  s3.pumpLink n

/-- A NEIGHBOUR packet in an ingress slot is taken (R312). -/
def neighbourTaken (n i : Nat) (s : State) : State :=
  match (s.lnk n).slots[i]? with
    | none => s
    | some p =>
      if p.ty ≠ 0xC4 then s
      else match meetPlace n p.place s with
        | (true, s1) => (bufferReport n p.vc p.cls p.place s1).freeSlot n i
        | (false, s0) =>
          let s1 := s0.freeSlot n i
          if s0.lnkState n = 3 && (s0.lnk n).gotInit then
            neighbourIn s1 n (p.args.getD 0 0) (p.args.getD 1 0) (p.args.getD 2 0)
          else s1

end Sys2Proof.Machine
end

