-- ==== Sys2Proof/Machine/Tables.lean ====
section
/-! DEFINITION. Placed tables as data (08_gather_scatter R224, R235, 09_embedding_tables R245 to R253): descriptors,
directory entries, slots, pieces, decoded rows, exact sums, gradient records. -/

namespace Sys2Proof.Machine

/-- A table descriptor (R245). -/
structure Table where
  desc : Nat
  key : Bool
  updatable : Bool
  opt : Nat
  rem16 : Bool
  w16rem : Bool
  ranged : Bool
  wide : Nat
  narrow : Nat
  id : Nat
  elems : Nat
  rows : Nat
  base : Nat
  ranges : Nat
  rangeCount : Nat
  params : Nat
  deriving DecidableEq, Repr, Inhabited

/-- The fields of a descriptor's 64 bytes. -/
def tableOf (addr : Nat) (b : List Byte) : Table :=
  let f := fieldAt b 6 2
  { desc := addr, key := bitOf f 0, updatable := bitOf f 1, opt := bitsOf f 3 2, rem16 := bitOf f 4, w16rem := bitOf f 5,
    ranged := bitOf f 6, wide := bitsOf f 8 7, narrow := bitsOf f 10 9, id := fieldAt b 8 2, elems := fieldAt b 0xA 2,
    rows := fieldAt b 0x10 8, base := fieldAt b 0x18 8 % 2 ^ 48, ranges := fieldAt b 0x20 8, rangeCount := fieldAt b 0x28 4,
    params := fieldAt b 0x30 8 }

/-- Whether a descriptor is free of the faults of R246. -/
def tableGood (b : List Byte) : Bool :=
  let t := tableOf 0 b
  fieldAt b 0 4 == 0x4C424154 && fieldAt b 4 2 == 1 && decide (t.opt < 3) && decide (fieldAt b 6 2 < 2 ^ 11) &&
    decide (1 ≤ t.elems) && decide (t.elems ≤ 4096) && decide (1 ≤ t.rows) &&
    decide (t.rows ≤ (if t.ranged then 2 ^ 40 else 2 ^ 33)) && decide (t.wide ≤ t.narrow) &&
    ((b.drop 0xC).take 4 ++ (b.drop 0x2C).take 4 ++ (b.drop 0x38).take 8).all (fun x => decide (x = 0))

/-- A descriptor that R246 accepts. -/
def parseTable (addr : Nat) (b : List Byte) : Option Table := if tableGood b then some (tableOf addr b) else none

/-- A directory entry (R249). -/
structure DirEnt where
  dev : Nat
  pasture : Nat
  cls : Nat
  slot : Nat
  ver : Nat
  deriving DecidableEq, Repr, Inhabited

/-- The entry that 64 bits spell. -/
def dirEnt (w : Nat) : DirEnt := ⟨bitsOf w 63 48, bitsOf w 47 45, bitsOf w 44 42, bitsOf w 41 12, bitsOf w 11 0⟩

/-- The 64 bits of an entry. -/
def DirEnt.word (e : DirEnt) : Nat :=
  e.dev % 2 ^ 16 * 2 ^ 48 + e.pasture % 8 * 2 ^ 45 + e.cls % 8 * 2 ^ 42 + e.slot % 2 ^ 30 * 2 ^ 12 + e.ver % 2 ^ 12

/-- Whether an entry's row is unplaced (R249). -/
def DirEnt.unplaced (e : DirEnt) : Bool := decide (e.slot = 0x3FFFFFFF)

/-- The local address of an entry's slot. -/
def DirEnt.addr (e : DirEnt) : Nat := e.pasture * 0x1000000000 + e.slot * 64

/-- An entry of a range table (R191). -/
structure RangeEnt where
  first : Nat
  dev : Nat
  base : Nat
  deriving DecidableEq, Repr, Inhabited

/-- The range that 16 bytes spell. -/
def rangeEnt (b : List Byte) : RangeEnt :=
  let w := leNat b
  ⟨bitsOf w 39 0, bitsOf w 55 40, bitsOf w 103 64⟩

/-! ### Slots and pieces (R251, R224) -/

/-- Bytes of the values part (R251). -/
def valBytes (cls e : Nat) : Nat := if cls = 0 then 4 * e else if cls = 1 then 2 * e else if cls = 2 then e else (e + 1) / 2

/-- Whether a class has a row scale (R251). -/
def hasScale (cls : Nat) : Bool := decide (cls = 2 ∨ cls = 3)

/-- A number rounded up to a multiple. -/
def upTo (m n : Nat) : Nat := (n + m - 1) / m * m

/-- Where the remainders of a slot start. -/
def remOff (cls e : Nat) : Nat := upTo 16 (valBytes cls e + (if hasScale cls then 2 else 0))

/-- Bytes of the remainders of a slot (R251). -/
def remBytes (t : Table) (cls : Nat) : Nat :=
  if hasScale cls ∨ (cls = 1 ∧ t.w16rem) then t.elems * (if t.rem16 then 2 else 1) else 0

/-- Where the optimiser state of a slot starts. -/
def stateOff (t : Table) (cls : Nat) : Nat := upTo 16 (remOff cls t.elems + remBytes t cls)

/-- The size of a slot (R251). -/
def slotSize (t : Table) (cls : Nat) : Nat :=
  upTo 64 (if t.opt = 0 then (if remBytes t cls = 0 then valBytes cls t.elems + (if hasScale cls then 2 else 0)
    else remOff cls t.elems + remBytes t cls) else stateOff t cls + t.opt * t.elems * 4)

/-- The bytes of the values part that hold elements `col0` to `col0 + n − 1`: from and to. -/
def colSpan (cls col0 n : Nat) : Nat × Nat :=
  if cls = 3 then (col0 / 2, (col0 + n + 1) / 2) else
    let z := if cls = 0 then 4 else if cls = 1 then 2 else 1
    (z * col0, z * (col0 + n))

/-- The smallest naturally aligned piece of 8, 16, 32 or 64 bytes that covers bytes `lo` to `hi` of an atom (R224). -/
def pieceOf (lo hi : Nat) : Nat × Nat :=
  match [8, 16, 32, 64].find? (fun p => decide (lo / p = hi / p)) with
  | some p => (lo / p * p, p)
  | none => (lo / 64 * 64, 64)

/-- The pieces of a sub-row in a slot: address and length, one per atom, ascending (R224). -/
def rowPieces (slot cls e col0 n : Nat) : List (Nat × Nat) :=
  let (a, b) := colSpan cls col0 n
  let sc := slot + valBytes cls e
  let spans := [(slot + a, slot + b)] ++ (if hasScale cls then [(sc, sc + 2)] else [])
  let last := if hasScale cls then sc + 1 else slot + b - 1
  if n = 0 then [] else
    (rangeFrom ((slot + a) / 64) (last / 64 + 1 - (slot + a) / 64)).filterMap (fun t =>
      let ins := spans.filterMap (fun p =>
        let lo := max p.1 (t * 64)
        let hi := min p.2 (t * 64 + 64)
        if lo < hi then some (lo, hi - 1) else none)
      match ins with
      | [] => none
      | (lo, hi) :: rest => some (pieceOf lo (rest.foldl (fun a p => max a p.2) hi)))

/-- Bytes of pieces. -/
def pieceLen (ps : List (Nat × Nat)) : Nat := (ps.map (·.2)).foldl (· + ·) 0

/-- The byte of an address among packed pieces. -/
def pieceByte : List (Nat × Nat) → List Byte → Nat → Byte
  | [], _, _ => 0
  | (a, n) :: t, d, x => if a ≤ x ∧ x < a + n then d.getD (x - a) 0 else pieceByte t (d.drop n) x

/-- The elements of a sub-row as values, from its packed pieces (R252): exact in FP32. -/
def rowVals (slot cls e col0 n : Nat) (d : List Byte) : List FVal :=
  let ps := rowPieces slot cls e col0 n
  let (a, b) := colSpan cls col0 n
  let raw := (rangeFrom (slot + a) (b - a)).map (pieceByte ps d)
  let sc := decodeF .fp16 (leNat ((rangeFrom (slot + valBytes cls e) 2).map (pieceByte ps d)))
  if cls = 0 then (rowElems 32 raw).map f32
  else if cls = 1 then (rowElems 16 raw).map (decodeF .bf16)
  else if cls = 2 then (rowElems 8 raw).map (fun c => mulV (decodeF .e4m3 c) sc)
  else (((rowElems 4 raw).drop (col0 % 2)).take n).map (fun c => mulV (decodeF .p4 c) sc)

/-! ### Exact sums (R228, R235) -/

/-- The special codes of two parts joined: both infinities are a NaN. -/
def joinSpecial (a b : Nat) : Nat :=
  if a = 0 then b else if b = 0 then a else if a = b then a else 1

/-- A finite value in units of 2^−149. -/
def unitsOf : FVal → Int
  | .num s m e => alignAt s m e (-149)
  | _ => 0

/-- The special code of a value. -/
def specialOf : FVal → Nat
  | .nan => 1
  | .inf s => if s then 3 else 2
  | .num _ _ _ => 0

/-- Add a term to a sum. -/
def Col.addTerm (x : Col) (v : FVal) : Col :=
  { x with special := joinSpecial x.special (specialOf v), sum := x.sum + unitsOf v }

/-- Join two sums. -/
def Col.join (x y : Col) : Col := { x with special := joinSpecial x.special y.special, sum := x.sum + y.sum }

/-- Take a term into a maximum or minimum (R229): the earlier record keeps a tie; the first NaN wins. -/
def Col.take (isMax : Bool) (x : Col) (code rec : Nat) : Col :=
  if x.winner = 0xFFFFFFFF then { x with code := code, winner := rec }
  else
    let a := f32 x.code
    let b := f32 code
    if a.isNan then x
    else if b.isNan then { x with code := code, winner := rec }
    else if (if isMax then ltTotal a b else ltTotal b a) then { x with code := code, winner := rec } else x

/-- The FP32 code of a finished column: sum or mean over `n` (R228), maximum or minimum (R229). -/
def Col.final (agg n : Nat) (x : Col) : Nat :=
  if agg = 3 ∨ agg = 4 then (if x.winner = 0xFFFFFFFF then 0 else if (f32 x.code).isNan then FFmt.fp32.nan else x.code)
  else if n = 0 then 0
  else match x.special with
    | 1 => FFmt.fp32.nan
    | 2 => rneF .fp32 (.inf false)
    | 3 => rneF .fp32 (.inf true)
    | _ =>
      if x.sum = 0 then 0
      else if agg = 2 then rneF .fp32 (divV (ofInt false x.sum (-149)) (ofInt false n 0))
      else rneF .fp32 (ofInt false x.sum (-149))

/-- A column's accumulator as 320 bits. -/
def Col.limbs (x : Col) : Nat := if x.special = 0 then wrapInt 320 x.sum else 0

/-- Limb j of an accumulator. -/
def limb (a j : Nat) : Nat := bitsOf a (32 * j + 31) (32 * j)

/-- Whether limbs 0 to n − 1 spell a 320-bit number by sign extension. -/
def spelt (a n : Nat) : Bool :=
  if n = 0 then a == 0 else wrapInt 320 (signedOf (32 * n) a) == a

/-- Limbs sent for columns: the lowest and how many (R235). The manual lets a sender choose; the model sends the fewest. -/
def limbSpan (as_ : List Nat) : Nat × Nat :=
  let lo := ((rangeFrom 0 10).find? (fun j => as_.any (fun a => decide (limb a j ≠ 0)))).getD 0
  let hi := ((rangeFrom 0 11).find? (fun n => as_.all (fun a => spelt a n))).getD 10
  if as_.all (fun a => decide (a = 0)) then (0, 0) else (lo, hi - lo)

/-- One block of up to 32 columns of a sum's partial (R235). -/
def partialBlock (cs : List Col) : List Byte :=
  let as_ := cs.map Col.limbs
  let (lo, n) := limbSpan as_
  let sp := cs.any (fun c => decide (c.special ≠ 0))
  let map_ := (cs.zip (rangeFrom 0 cs.length)).foldl (fun a p => a + p.1.special * 4 ^ p.2) 0
  leBytes 2 (lo + n * 16 + b2n sp * 256) ++ (if sp then leBytes 8 map_ else []) ++
    (as_.map (fun a => ((rangeFrom lo n).map (fun j => leBytes 4 (limb a j))).flatten)).flatten

/-- A partial: for sums blocks of 32 columns, for maxima and minima value and winner (R233, R235). -/
def partialBytes (agg : Nat) (cs : List Col) : List Byte :=
  if agg = 3 ∨ agg = 4 then (cs.map (fun c => leBytes 4 c.code ++ leBytes 4 c.winner)).flatten
  else ((chunksOf 32 cs).map partialBlock).flatten

/-- The columns of one block, and the bytes after it. -/
def readBlock (m : Nat) (b : List Byte) : List Col × List Byte :=
  let h := fieldAt b 0 2
  let lo := bitsOf h 3 0
  let n := bitsOf h 7 4
  let sp := bitOf h 8
  let map_ := if sp then fieldAt b 2 8 else 0
  let b1 := b.drop (if sp then 10 else 2)
  ((rangeFrom 0 m).map (fun c =>
      let v := signedOf (32 * n) (fieldAt (b1.drop (c * n * 4)) 0 (4 * n))
      { special := map_ / 4 ^ c % 4, sum := (if n = 0 then 0 else v) * (2 ^ (32 * lo) : Nat) }),
    b1.drop (m * n * 4))

/-- The columns that a sum's partial spells. Structural on the fuel. -/
def readBlocks : Nat → Nat → List Byte → List Col
  | 0, _, _ => []
  | fuel + 1, m, b =>
    if m = 0 then [] else
      let (cs, rest) := readBlock (min 32 m) b
      cs ++ readBlocks fuel (m - 32) rest

/-- The columns that a partial spells (R233, R235). -/
def readPartial (agg m : Nat) (b : List Byte) : List Col :=
  if agg = 3 ∨ agg = 4 then (rangeFrom 0 m).map (fun c => { code := fieldAt b (8 * c) 4, winner := fieldAt b (8 * c + 4) 4 })
  else readBlocks (m + 1) m b

/-- The term of a source element (R227). -/
def termOf (agg : Nat) (w x : FVal) : FVal := if agg = 5 then r32 (mulV x w) else x

/-- Take the row of a record into columns (R227 to R229). -/
def takeRow (agg : Nat) (cs : List Col) (xs : List FVal) (w : FVal) (rec : Nat) : List Col :=
  (cs.zip xs).map (fun p =>
    if agg = 3 ∨ agg = 4 then p.1.take (agg = 3) (rneF .fp32 p.2) rec else p.1.addTerm (termOf agg w p.2))

/-- Join the columns of two groups of records of one destination: a later lowest record yields a tie to an earlier
(R230, R236). -/
def joinCols (agg : Nat) (a b : List Col) : List Col :=
  (a.zip b).map (fun p =>
    if agg = 3 ∨ agg = 4 then
      (if p.2.winner = 0xFFFFFFFF then p.1
       else if p.1.winner = 0xFFFFFFFF then p.2
       else
        let x := f32 p.1.code
        let y := f32 p.2.code
        if x.isNan || y.isNan then
          (if x.isNan && y.isNan then (if p.1.winner < p.2.winner then p.1 else p.2) else if x.isNan then p.1 else p.2)
        else if eqV x y && (ltTotal x y == ltTotal y x) then (if p.1.winner < p.2.winner then p.1 else p.2)
        else if (if agg = 3 then ltTotal x y else ltTotal y x) then p.2 else p.1)
    else p.1.join p.2)

/-! ### Gradient records (R253) -/

/-- The header of a gradient record. -/
structure GradHead where
  dev : Nat
  table : Nat
  core : Nat
  row : Nat
  col0 : Nat
  ncols : Nat
  stepLo : Nat
  deriving DecidableEq, Repr, Inhabited

/-- The header that 16 bytes spell. -/
def gradHead (b : List Byte) : GradHead :=
  let w := fieldAt b 0 16
  ⟨bitsOf w 127 112, bitsOf w 111 96, bitsOf w 95 91, bitsOf w 87 48, bitsOf w 47 36, bitsOf w 35 23, bitsOf w 22 15⟩

/-- A gradient record: header, FP32 values, padding to 16 bytes. -/
def gradBytes (h : GradHead) (vs : List Nat) : List Byte :=
  let w := h.dev % 2 ^ 16 * 2 ^ 112 + h.table % 2 ^ 16 * 2 ^ 96 + h.core % 32 * 2 ^ 91 + h.row % 2 ^ 40 * 2 ^ 48 +
    h.col0 % 4096 * 2 ^ 36 + h.ncols % 2 ^ 13 * 2 ^ 23 + h.stepLo % 256 * 2 ^ 15
  let b := leBytes 16 w ++ (vs.map (leBytes 4)).flatten
  padTo (upTo 16 b.length) 0 b

/-- Bytes of a record of `n` columns. -/
def gradSize (n : Nat) : Nat := upTo 16 (16 + 4 * n)

end Sys2Proof.Machine
end

