-- ==== Sys2Proof/Machine/Nsr.lean ====
section
/-! DEFINITION. Near-stack reducers (08_gather_scatter R224, R233 to R235, R240 to R243): reads of rows, popularity,
reduce requests, stubs. -/

namespace Sys2Proof.Machine

/-- The stub that an NSR holds for a slot (R266). -/
def State.stubAt (s : State) (slot : Nat) : Option Stub :=
  (s.nsr (pastureOf slot)).stubs.find? (fun b => decide (b.slot = slot))

/-! ### Popularity (R240, R241) -/

/-- The largest count of a popularity entry. -/
abbrev popMax : Nat := 2 ^ 48 - 1

/-- The entry of smallest count, the lowest address on a tie. -/
def popLeast : List Pop → Option Pop
  | [] => none
  | p :: t => match popLeast t with
    | none => some p
    | some q => if p.count < q.count ∨ (p.count = q.count ∧ p.addr < q.addr) then some p else some q

/-- Count one read of a row in a live table (R240). -/
def popBump (a : Nat) (l : List Pop) : List Pop :=
  if l.any (fun p => decide (p.addr = a)) then
    l.map (fun p => if p.addr = a then { p with count := min popMax (p.count + 1) } else p)
  else if l.length < 1024 then l ++ [⟨a, 1, 0⟩]
  else match popLeast l with
    | none => l
    | some q => l.map (fun p => if p.addr = q.addr then ⟨a, min popMax (q.count + 1), q.count⟩ else p)

/-- Count a read of the row whose slot is at an address, while counting is enabled (R240). -/
def State.popular (s : State) (slot : Nat) : State :=
  let p := pastureOf slot
  if s.bit (NSR_CFG p) NSR_CFG_pop_enable then
    let l := popBump (slot / 64 * 64) (s.nsr p).live
    let s1 := s.setNsr p { s.nsr p with live := l }
    if l.any (fun e => decide (e.addr = slot / 64 * 64) && decide (e.count = popMax)) then
      s1.flag (NSR_POP_STATUS p) NSR_POP_STATUS_saturated else s1
  else s

/-- Insertion by descending count, then ascending address. -/
def popInsert (p : Pop) : List Pop → List Pop
  | [] => [p]
  | q :: t => if p.count > q.count ∨ (p.count = q.count ∧ p.addr < q.addr) then p :: q :: t else q :: popInsert p t

/-- The snapshot of a live table (R241). -/
def popSort (l : List Pop) : List Pop := l.foldl (fun a p => popInsert p a) []

/-- What a step fence does to an NSR (R241): snapshot, step, empty live table; and the load of the step (R262). -/
def State.popSnapshot (s : State) (step p : Nat) : State :=
  let x := s.nsr p
  let snap := popSort x.live
  ((((s.setNsr p { x with live := [], snap := snap, load := 0 }).setReg (NSR_POP_STEP p) (BitVec.ofNat 64 step)).setFld
    (NSR_POP_STATUS p) NSR_POP_STATUS_entries snap.length).setReg (EMB_LOAD_STEP p) (BitVec.ofNat 64 x.load))

/-! ### Rows (R224, R243) -/

/-- What a row request comes to at an NSR: its pieces, a forward with the new entry, or a refusal. -/
inductive RowAns where
  | got (d : List Byte) (ue : Bool) (s : State)
  | moved (entry : Nat) (s : State)
  | refused (s : State)
  deriving Repr

/-- Read the pieces of a row, one access per atom. -/
def readPieces (s : State) : List (Nat × Nat) → List Byte × Bool × State
  | [] => ([], false, s)
  | (a, n) :: t =>
    let (b, ue, s1) := s.readMem a n
    let (bs, ue2, s2) := readPieces s1 t
    (b ++ bs, ue || ue2, s2)

/-- The refusal of a request by an NSR (R243), for the requesting device. -/
def State.nsrRefuse (s : State) (p dev slot : Nat) : State :=
  ((s.flag (NSR_ERR p) NSR_ERR_request_addr).setReg (NSR_ERR_ADDR p) (BitVec.ofNat 64 (slot % 2 ^ 48))).log 0x5801 3 p p dev
    (slot % 2 ^ 32) (slot / 2 ^ 32 % 2 ^ 16)

/-- Whether a row's location and class are ones that an NSR serves: its values and, in the classes that have one, its scale lie in one
pasture (R243, R251). -/
def rowPlaced (slot cls e : Nat) : Bool :=
  decide (cls < 4) && inPasture slot && decide (pastureOf slot = pastureOf (slot + valBytes cls e + (if hasScale cls then 2 else 0) - 1))

/-- A request that an NSR forwards (R268). -/
def State.nsrForward (s : State) (p : Nat) : State := s.count (EMB_FORWARDED p) 1

/-- Count what an NSR has read and delivered (R242, R244, R262). -/
def State.nsrCount (s : State) (p atoms out : Nat) : State :=
  let s1 := (s.wide (NSR_ATOMS_READ p) atoms).wide (NSR_BYTES_OUT p) out
  s1.setNsr p { s1.nsr p with load := (s1.nsr p).load + atoms }

/-- A row request of a device at the NSR of its slot (R224). A location in no pasture reaches the NSR that its low pasture bits
name, which refuses it (log 75). -/
def nsrRow (s : State) (dev slot cls e col0 n : Nat) : RowAns :=
  let p := pastureOf slot % 8
  match s.stubAt slot with
  | some b => .moved b.entry (s.nsrForward p)
  | none =>
    if !rowPlaced slot cls e then .refused (s.nsrRefuse p dev slot)
    else
      let ps := rowPieces slot cls e col0 n
      let (d, ue, s1) := readPieces (s.popular slot) ps
      .got d ue (s1.nsrCount p ps.length d.length)

/-! ### Reduce requests (R233 to R235) -/

/-- Count the rows that a reduce request names, each once (R240). -/
def popularAll (s : State) (xs : List Src) : State := ((xs.map (·.slot)).eraseDups).foldl State.popular s

/-- Read the pieces of all sources. -/
def srcPieces (s : State) (e col0 n : Nat) : List Src → List (List Byte) × Bool × Nat × State
  | [] => ([], false, 0, s)
  | x :: t =>
    let ps := rowPieces x.slot x.cls e col0 n
    let (d, ue, s1) := readPieces s ps
    let (ds, ue2, k, s2) := srcPieces s1 e col0 n t
    (d :: ds, ue || ue2, k + ps.length, s2)

/-- Columns of nothing. -/
def noCols (n : Nat) : List Col := List.replicate n {}

/-- The columns of sources whose pieces are known, in ascending record index. -/
def reduceCols (agg e col0 n : Nat) (xs : List (Src × List Byte)) : List Col :=
  xs.foldl (fun cs p => takeRow agg cs (rowVals p.1.slot p.1.cls e col0 n p.2) (f32 p.1.weight) p.1.num) (noCols n)

/-- The form that an NSR answers in (R233, R234): 0 a complete result, 1 a partial, 2 raw pieces. -/
def formOf (mode : Nat) (complete : Bool) (rawLen partLen : Nat) : Nat :=
  if complete then 0 else if mode = 1 then 2 else if mode = 2 then 1 else if partLen < rawLen then 1 else 2

/-- The bytes of a complete result: FP32 values and, for maxima and minima, winners. -/
def completeBytes (agg nd : Nat) (cs : List Col) : List Byte :=
  (cs.map (fun c => leBytes 4 (c.final agg nd))).flatten ++
    (if agg = 3 ∨ agg = 4 then (cs.map (fun c => leBytes 4 c.winner)).flatten else [])

/-- What a reduce request comes to: the form and its bytes, forwards as pairs of record and new entry, or records whose
place the NSR refuses. -/
inductive RedAns where
  | got (form : Nat) (d : List Byte) (ue : Bool) (s : State)
  | moved (l : List Nat) (s : State)
  | refused (l : List Nat) (s : State)
  deriving Repr

/-- A reduce request at the NSR of pasture `p` (R233 to R235). -/
def nsrReduce (s : State) (p dev agg e col0 n : Nat) (complete : Bool) (nd : Nat) (xs : List Src) : RedAns :=
  let bad := xs.filter (fun x => !(rowPlaced x.slot x.cls e && decide (pastureOf x.slot = p)))
  let gone := xs.filterMap (fun x => (s.stubAt x.slot).map (fun b => [x.num, b.entry]))
  if bad ≠ [] then .refused (bad.map (·.num)) (bad.foldl (fun s x => s.nsrRefuse p dev x.slot) s)
  else if gone ≠ [] then .moved gone.flatten (gone.foldl (fun s _ => s.nsrForward p) s)
  else
    let (ds, ue, atoms, s1) := srcPieces (popularAll s xs) e col0 n xs
    let cs := reduceCols agg e col0 n (xs.zip ds)
    let raw := ds.flatten
    let part := partialBytes agg cs
    let form := formOf (s.fld (NSR_CFG p) NSR_CFG_mode) complete raw.length part.length
    let out := if form = 0 then completeBytes agg nd cs else if form = 1 then part else raw
    let s2 := (s1.nsrCount p atoms out.length).wide (NSR_REDUCE_REQS p) 1
    .got form out ue (if form = 1 then s2.wide (NSR_PARTIALS p) 1 else if form = 2 then s2.wide (NSR_RAW_ROWS p) xs.length else s2)

/-- Split the bytes of raw pieces over the sources. -/
def splitRaw (e col0 n : Nat) : List Src → List Byte → List (Src × List Byte)
  | [], _ => []
  | x :: t, d =>
    let k := pieceLen (rowPieces x.slot x.cls e col0 n)
    (x, d.take k) :: splitRaw e col0 n t (d.drop k)

/-- The columns that an answer brings the combiner (R236). -/
def answerCols (agg e col0 n form : Nat) (xs : List Src) (d : List Byte) : List Col :=
  if form = 0 then (rangeFrom 0 n).map (fun c =>
      { code := fieldAt d (4 * c) 4, winner := if agg = 3 ∨ agg = 4 then fieldAt d (4 * n + 4 * c) 4 else 0 })
  else if form = 1 then readPartial agg n d
  else reduceCols agg e col0 n (splitRaw e col0 n xs d)

end Sys2Proof.Machine
end

