-- ==== Sys2Proof/Machine/CoreOps.lean ====
section
/-! DEFINITION. Shared operations of the compute core (02_compute_core): queues, tallies, contexts, stop, halt, abort,
program end. -/

namespace Sys2Proof.Machine

/-- The A-stream master of a core (R423). -/
def aMst (c : Nat) : Mst := ⟨2 + c, 0⟩

/-- A context of a stream. -/
def Core.ctx (k : Core) (x deferred : Bool) : Ctx :=
  if x then (if deferred then k.xd else k.xm) else (if deferred then k.ad else k.am)

/-- Replace a context. -/
def Core.setCtx (k : Core) (x deferred : Bool) (v : Ctx) : Core :=
  if x then (if deferred then { k with xd := v } else { k with xm := v })
  else (if deferred then { k with ad := v } else { k with am := v })

/-- Rows a queue of a row size holds (R31). -/
def queueCap (units : Nat) : Nat := 65536 / (max 1 units * 16)

/-- Whether a queue is full (R33). -/
def DQueue.full (q : DQueue) : Bool := decide (queueCap q.units ≤ q.rows.length)

/-- The end of a loop body (R86): after the instruction at `at_`, go back while passes are left, else leave the loop,
and the loops that end at the same place. Structural on the loop stack. -/
def afterBody (at_ : Nat) : List LoopEnt → Nat × List LoopEnt
  | [] => (at_ + 16, [])
  | e :: t => if e.last = at_ then
      (if e.left > 1 then (e.first, { e with left := e.left - 1 } :: t) else afterBody at_ t)
    else (at_ + 16, e :: t)

/-- The context after its instruction at its position has issued: the next position by R86. -/
def Ctx.next (x : Ctx) : Ctx :=
  let (p, l) := afterBody x.pos x.loops
  { x with pos := p, loops := l, stall := 1 }

/-- A context whose stall has one of some codes may try again. -/
def Ctx.retry (codes : List Nat) (v : Ctx) : Ctx := if codes.contains v.stall then { v with stall := 1 } else v

/-- What a core's contexts were stalled on has changed: they may try again. -/
def Core.retry (codes : List Nat) (k : Core) : Core :=
  { k with am := k.am.retry codes, ad := k.ad.retry codes, xm := k.xm.retry codes, xd := k.xd.retry codes }

/-- Running instructions that waited for something may go on. -/
def Core.free (w : Nat) (k : Core) : Core := { k with runs := k.runs.map (Run.freed w) }

/-- The number of a tally's count. -/
def State.tally (s : State) (c t : Nat) : Nat := s.fld (COR_TALLY c t) COR_TALLY_count

/-- A stalled WAIT_GE or SUB completes: its context goes on (R53). -/
def releaseWaiter (k : Core) (w : Waiter) : Core :=
  k.setCtx false w.deferred (k.ctx false w.deferred).next

/-- Serve stalled SUBs of a tally in the order in which they stalled; one that is not met blocks those behind it
(R53). Structural on the waiters. -/
def serveSubs (t : Nat) : List Waiter → Nat → Core → Nat × Core
  | [], n, k => (n, k)
  | w :: ws, n, k =>
    if w.tally = t ∧ w.isSub then
      (if w.n ≤ n then serveSubs t ws (n - w.n) (releaseWaiter { k with waiters := k.waiters.erase w } w) else (n, k))
    else serveSubs t ws n k

/-- A tally's count has changed (R53): every WAIT_GE that the new count meets is released, then stalled SUBs are
served. A halted core's contexts stay at their boundaries: what waits is served when it resumes (R63, log 143). -/
def State.tallyChanged (s : State) (c t : Nat) : State :=
  if (s.core c).state = .halted then s else
  let k := wakeCore (s.core c)
  let n := s.tally c t
  let met (w : Waiter) : Bool := decide (w.tally = t) && !w.isSub && decide (w.n ≤ n)
  let k1 := (k.waiters.filter met).foldl releaseWaiter { k with waiters := k.waiters.filter (fun w => !met w) }
  let (n', k2) := serveSubs t k1.waiters n k1
  (s.setFld (COR_TALLY c t) COR_TALLY_count n').setCore c k2

/-- The global address of a tally register in the MMIO mirror of a device (R425). -/
def tallyAddr (dev c t : Nat) : Nat := dev * 2 ^ 48 + mmioBase + COR_TALLY c t

/-- The violation of R54 by a master: record 0x1003 with its parameters (R428). -/
def State.violateTally (s : State) (m : Mst) (dev c t : Nat) : State :=
  let r := s.reg (COR_TALLY c t)
  let here := decide (dev = s.devId) && s.has .core c
  s.violate m 0x1003 kTally (tallyAddr dev c t) (c % 256 + t % 256 * 2 ^ 8 + dev * 2 ^ 16)
    (if here ∧ fget COR_TALLY_limit r ≠ 0 then fget COR_TALLY_count r else 0) (if here then fget COR_TALLY_limit r else 0)

/-! ### Stops (R45, R101) -/

/-- The first in the order of issue of some instructions. -/
def firstRun (l : List Run) : Option Run :=
  l.foldl (fun o r => match o with
    | none => some r
    | some q => if r.rid < q.rid then some r else o) none

/-- The address of the next instruction of a stream's active context that was not executed: the oldest of its abandoned
instructions, else its position (log 9). -/
def stopAddr (k : Core) (x : Bool) : Nat :=
  let d := if x then k.xDef else k.aDef
  match firstRun (k.lost.filter (fun r => decide (r.deferred = d) && decide (decide (r.unit ≠ 0) = x))) with
  | some r => r.addr
  | none => (k.ctx x d).pos

/-- Whether a running instruction is stalled on a queue: itself, or an MSWAP that waits for a fill that is stalled or not
there (R45, log 121). -/
def Core.stuck (k : Core) (r : Run) : Bool :=
  r.onQueue ||
    (decide (r.stage = 3) && decide (r.wcode = 1) && decide (1 ≤ r.unit) && decide (r.unit ≤ 4) &&
      !k.runs.any (fun q => decide (q.unit = r.unit + 4) && !q.onQueue))

/-- A core at its stop (R45 step 3): instructions that are stalled on a queue, a tally or the deferred queue are abandoned;
the others that run are completed. -/
def Core.atStop (k : Core) : Core :=
  { k with state := .stopped, haltReq := false, waiters := [], runs := k.runs.filter (fun r => !k.stuck r),
           lost := k.runs.filter k.stuck }

/-- COR_STOP_A and COR_STOP_X (R45, R64). -/
def State.setStops (s : State) (c : Nat) : State :=
  let k := s.core c
  (s.setReg (COR_STOP_A c) (BitVec.ofNat 64 (stopAddr k false / 16 * 16))).setReg (COR_STOP_X c)
    (BitVec.ofNat 64 (stopAddr k true / 16 * 16))

/-- Complete the command bound to a core, and forget it. -/
def State.endCmd (s : State) (c status detail aux : Nat) : State :=
  match (s.core c).cmd with
  | none => s
  | some m => (s.onCore c (fun k => { k with cmd := none })).complete m.ref status 0 detail aux

/-- The command of a stopped core completes with the status of the stop once every TALLY_ADD that it sent has been answered
(R323, R374). -/
def State.settleStop (s : State) (c : Nat) : State :=
  let k := s.core c
  if k.state = .stopped ∧ k.adds = [] then s.endCmd c k.stopStatus k.stopDetail (s.reg (COR_STOP_A c)).toNat else s

/-- The core stops (R45 steps 3 to 7, R101): instructions of other contexts that are stalled are abandoned and the rest
complete, COR_STOP_A and COR_STOP_X name what was not executed, and the command completes with the status. A failure that
did not stop the core is then not reported (log 121). A core that has stopped stays as its first stop left it. -/
def State.coreStop (s : State) (c status detail : Nat) : State :=
  let k := s.core c
  if k.state = .stopped then s
  else ((s.setCore c { k.atStop with stopStatus := status, stopDetail := detail }).setStops c).settleStop c

/-- An instruction of a stopped core is abandoned after all. -/
def State.abandon (s : State) (c : Nat) (r : Run) : State :=
  let k := s.core c
  if k.state = .stopped ∧ k.runs.any (fun q => decide (q.rid = r.rid)) then
    (s.setCore c { k with runs := k.runs.filter (fun q => decide (q.rid ≠ r.rid)), lost := k.lost ++ [r] }).setStops c
  else s

/-- A stop with a record of the core: parameters core, generation and instruction address, and vector 0 (R101). -/
def State.coreTrap (s : State) (c status code addr : Nat) : State :=
  if (s.core c).state = .stopped then s else
  ((s.log code 1 c c (s.core c).prog.gen (addr % 2 ^ 32) (addr / 2 ^ 32)).msixBoth 0).coreStop c status code

/-- A violation by a core's A-stream: the master is frozen and the core stops with FROZEN (R22, R101). -/
def State.coreViolation (s : State) (c code kind gaddr : Nat) : State :=
  (s.violateAddr (aMst c) code kind gaddr).coreStop c 0x05 code

/-! ### Words of a core's SRAMs in error (R297, R298) -/

/-- A core reads places of its SRAMs, given as kind, place and bytes: single-bit errors are corrected, and one that is uncorrectable is
reported. True when one is. Structural on the places. -/
def meetWords (c : Nat) : List (Nat × Nat × Nat) → State → Bool × State
  | [], s => (false, s)
  | (kind, off, n) :: t, s =>
    let (b, s1) := meetUpsets (s.upsets.filter (fun u => u.meets kind c off n)) s
    let (bs, s2) := meetWords c t s1
    (b || bs, s2)

/-- An instruction reads places of its core's SRAMs: an uncorrectable word makes it fail (R101, R298). -/
def State.meetCore (s : State) (c : Nat) (l : List (Nat × Nat × Nat)) : State :=
  let (b, s1) := meetWords c l s
  if b then s1.onCore c (fun k => { k with badWord := true }) else s1

/-- The words that a write of a core's SRAM covers whole hold no error after it (R297). -/
def cleanWords (c kind off n : Nat) (s : State) : State :=
  let w := sramWidth kind
  { s with upsets := s.upsets.filter (fun u =>
      !(u.meets kind c off n && decide (off ≤ u.off / w * w) && decide (u.off / w * w + w ≤ off + n))) }

/-- A byte of a core's SRAM as a read delivers it: undefined in a word with a double-bit error, a free value (R298). -/
def coreByte (s : State) (c kind off : Nat) (b : Byte) : Byte :=
  if s.upsets.any (fun u => u.double && u.meets kind c off 1) then Config.freeByte b.toNat off else b

/-- An operation reads a tally (R297, R298): an uncorrectable count is undefined, a free value, and stops its core. -/
def State.meetTally (s : State) (c t : Nat) : State :=
  let (b, s1) := meetWords c [(4, 4 * t, 4)] s
  if b then
    let (w, s2) := (cleanWords c 4 (4 * t) 4 s1).drawWord
    (s2.setFld (COR_TALLY c t) COR_TALLY_count w.toNat).coreStop c 0x06 0x5010
  else s1

/-- An ADD at a tally of this device: one to an unused tally, and one whose count would come above the limit, is refused, and
nothing then changes but COR_ERR.tally_limit (R51, R54); n = 0 has no effect (R52). Any of them wakes the core (R55). -/
def State.tallyAdd (s0 : State) (c t n : Nat) : Bool × State :=
  let s := s0.meetTally c t
  let r := s.reg (COR_TALLY c t)
  if !s.has .core c || t ≥ 48 || fget COR_TALLY_limit r = 0 || (n ≠ 0 && fget COR_TALLY_count r + n > fget COR_TALLY_limit r) then
    (false, if s.has .core c then (s.flag (COR_ERR c) COR_ERR_tally_limit).onCore c wakeCore else s)
  else if n = 0 then (true, s.onCore c wakeCore)
  else (true, (s.setFld (COR_TALLY c t) COR_TALLY_count (fget COR_TALLY_count r + n)).tallyChanged c t)

/-! ### Halt, resume, abort, program end (R46, R63, R86, R483) -/

/-- A requested halt takes hold when no context has an instruction in progress (R63). -/
def State.settleHalt (s : State) (c : Nat) : State :=
  let k := s.core c
  if k.haltReq && decide (k.runs = []) && decide (k.state = .running ∨ k.state = .recess ∨ k.state = .holiday) then
    (s.setCore c { k with state := .halted, haltReq := false }).setStops c
  else s

/-- COR_CTRL.halt (R63, R483). -/
def State.coreHalt (s : State) (c : Nat) : State :=
  let k := s.core c
  if k.state = .running ∨ k.state = .recess ∨ k.state = .holiday then
    (s.setCore c { k with haltReq := true }).settleHalt c
  else s

/-- COR_CTRL.resume: leaves the halted state, and stalled tally operations that are met complete; ignored in any other (R53, R64). -/
def State.coreResume (s : State) (c : Nat) : State :=
  let k := s.core c
  if k.state = .halted then (k.waiters.map (·.tally)).foldl (fun s t => s.tallyChanged c t) (s.setCore c { k with state := .running }) else s

/-- What a program start and an abort do to the planes of a sub-array (R485): a filled shadow plane is discarded, and a
2:4 tile in dense service is discarded from both planes. -/
def discardShadow (x : SubArr) : SubArr :=
  if x.active.dense then {} else { active := x.active }

/-- A steal by a lane ends: its shadow plane, which held the copy of the victim's, is empty (R133). -/
def Core.endSteal (k : Core) (z : Steal) : Core :=
  let k1 := { k with steals := k.steals.filter (fun y => decide (y ≠ z)) }
  if z.cross then k1 else k1.setSub z.lane { k1.sub z.lane with shadow := {}, filled := false }

/-- The steals from an MSTREAM that has ended, within the core (R133). -/
def Core.endSteals (k : Core) (rid : Nat) : Core :=
  (k.steals.filter (fun z => !z.cross && decide (z.rid = rid))).foldl Core.endSteal k

/-- The shadow planes of every sub-array are discarded. -/
def Core.discardShadows (k : Core) : Core := (rangeFrom 0 4).foldl (fun k i => k.setSub i (discardShadow (k.sub i))) k

/-- The rows of every queue are discarded; types and ends stay. -/
def Core.emptyQueues (k : Core) : Core := (rangeFrom 0 32).foldl (fun k q => k.setQueue q { k.queue q with rows := [] }) k

/-- All row segments become classless with their values left, and their records are released (R163, R172). -/
def Core.classless (k : Core) : Core := { k with segs := [] }

/-- No program runs: COR_ARR_CFG.wydak reads 0 (R137). -/
def State.noProgram (s : State) (c : Nat) : State := s.setFld (COR_ARR_CFG c) COR_ARR_CFG_wydak 0

/-- COR_CTRL.abort (R46): queues, deferred queue and staged blocks are emptied, contexts end, planes are discarded as
R485 states, a RETIRE that waited for the program completes, and a command still running completes FROZEN, or with the
status of the stop where the core has stopped and answers to its TALLY_ADDs are still awaited (R374, log 121). -/
def State.coreAbort (s : State) (c : Nat) : State :=
  let k := s.core c
  let s1 := s.endCmd c (if k.state = .stopped then k.stopStatus else 0x05) (if k.state = .stopped then k.stopDetail else 0)
    (if k.state = .stopped then (s.reg (COR_STOP_A c)).toNat else 0)
  let k := s1.core c
  let k1 : Core :=
    { k with
      state := .idle, haltReq := false, starting := none, am := {}, ad := {}, xm := {}, xd := {}, aDef := false, xDef := false
      stagedA := [], stagedX := [], deferQ := [], waiters := [], runs := [], segs := [], adds := [], checks := [], lost := [], steals := [] }
  (s1.setCore c k1.emptyQueues.discardShadows).noProgram c

/-- Whether a stream has ended: its main context, and its deferred context where one runs. -/
def Life.over (l : Life) : Bool := l == .ended || l == .idle

/-- A context that has issued END ends when everything it issued has completed and every TALLY_ADD it sent has been
answered (R86). -/
def settleCtx (k : Core) (x d : Bool) : Core :=
  let v := k.ctx x d
  if v.life = .ending && !k.runs.any (fun r => decide ((r.unit ≠ 0) = x) && decide (r.deferred = d)) &&
      (x || !k.adds.any (fun a => decide (a.2 = d))) && (x || !k.checks.any (fun t => decide (t.deferred = d))) then
    k.setCtx x d { v with life := .ended }
  else k

/-- Start the contexts of the head entry of the deferred queue once the main program has ended (R60, R73). -/
def startDeferred (k : Core) : Core :=
  match k.deferQ with
  | [] => k
  | e :: _ =>
    if k.ad.life = .idle ∧ k.xd.life = .idle then
      { k with ad := { life := .live, pos := e.a }, xd := { life := .live, pos := e.x } }
    else k

/-- The program ends when both main contexts have ended and the deferred queue is empty (R86): the core returns to idle
and its command completes under R13. -/
def State.endProgram (s : State) (c : Nat) : State :=
  let k := s.core c
  let st := match k.cmd with | some m => m.status | none => 0
  let det := match k.cmd with | some m => m.detail | none => 0
  let s1 := s.endCmd c st det 0
  let k1 := s1.core c
  (s1.setCore c { k1 with state := .idle, am := {}, ad := {}, xm := {}, xd := {}, aDef := false, xDef := false, segs := [] }).noProgram c

/-- Settle what follows from contexts ending: a deferred entry whose two contexts have ended adds 1 to its completion
tally (R61), deferred work runs on once the main program has ended (R60), and the program ends (R86). -/
def State.settle (s : State) (c : Nat) : State :=
  let k0 := s.core c
  if k0.state ≠ .running ∧ k0.state ≠ .recess then s.settleHalt c else
    let k := settleCtx (settleCtx (settleCtx (settleCtx k0 false false) true false) false true) true true
    let s := s.setCore c k
    let s := match k.deferQ with
      | e :: t =>
        if k.ad.life = .ended ∧ k.xd.life = .ended then
          let s1 := s.setCore c { k.retry [6] with deferQ := t, ad := {}, xd := {}, aDef := false, xDef := false }
          let (ok, s2) := s1.tallyAdd c e.tally 1
          if ok then s2 else (s1.violateTally (aMst c) s.devId c e.tally |>.flag (COR_ERR c) COR_ERR_tally_limit).coreStop c 0x0B 0x1003
        else s
      | [] => s
    let k := s.core c
    if k.state ≠ .running ∧ k.state ≠ .recess then s
    else if k.am.life = .ended ∧ k.xm.life = .ended then
      (if k.deferQ = [] then s.endProgram c else
        let k1 := startDeferred k
        (s.setCore c { k1 with aDef := true, xDef := true }).settleHalt c)
    else s.settleHalt c

/-! ### Staged blocks (R42 to R47) -/

/-- The staged blocks of a stream. -/
def Core.staged (k : Core) (x : Bool) : List Staged := if x then k.stagedX else k.stagedA

/-- Discard the staged blocks tagged with a generation (R47). -/
def Core.discardGen (k : Core) (g : Nat) : Core :=
  { k with stagedA := k.stagedA.filter (fun b => decide (b.gen ≠ g)),
           stagedX := k.stagedX.filter (fun b => decide (b.gen ≠ g)) }

/-- Whether a context of the core executes a generation (R47). -/
def Core.executes (k : Core) (g : Nat) : Bool :=
  decide (k.prog.gen = g) && decide (k.state ≠ .idle) &&
    (!k.am.life.over || !k.xm.life.over || !k.ad.life.over || !k.xd.life.over || decide (k.deferQ ≠ []))

/-- A write of COR_RETIRE (R47, R64): ignored while busy. -/
def State.coreRetire (s : State) (c g : Nat) : State :=
  let k := s.core c
  if k.retiring.isSome then s
  else (s.setCore c { k with retiring := some g }).setReg (COR_RETIRE_STATUS c)
    (fset COR_RETIRE_STATUS_busy 1 (BitVec.ofNat 64 (g % 2 ^ 16)))

/-- A pending RETIRE completes once no context executes its generation: the staged blocks of the generation are
discarded (R47). A block fetch is one step here, so none is in flight. -/
def State.retireDone (s : State) (c : Nat) : State :=
  let k := s.core c
  match k.retiring with
  | none => s
  | some g =>
    if k.executes g then s
    else (s.setCore c { (k.discardGen g) with retiring := none }).setReg (COR_RETIRE_STATUS c)
      (fset COR_RETIRE_STATUS_done 1 (BitVec.ofNat 64 (g % 2 ^ 16)))

/-! ### What follows from an event of a core (R34, R43 to R46, R55, R60, R63) -/

/-- The staged block that holds a position, of the running program's generation (R43, R50). -/
def Core.blockAt (k : Core) (x : Bool) (pos : Nat) : Option Staged :=
  (k.staged x).find? (fun b => decide (b.addr = pos / 4096 * 4096) && decide (b.gen = k.prog.gen))

/-- The instruction at a position, from a block that has passed its check (R44). -/
def Core.wordAt (k : Core) (x : Bool) (pos : Nat) : Option Code :=
  match k.blockAt x pos with
  | some b => if b.ok then b.code[pos % 4096 / 16]? else none
  | none => none

/-- Whether a context has instructions that run. -/
def Core.busy (k : Core) (x d : Bool) : Bool :=
  k.runs.any (fun r => decide (decide (r.unit ≠ 0) = x) && decide (r.deferred = d))

/-- Whether a core's streams run: running, or in recess, with its regulator on. -/
def Core.up (k : Core) : Bool := !k.cut && (decide (k.state = .running) || decide (k.state = .recess))

/-- Whether a context may issue: the core runs, no halt is requested, the context is its stream's active one and live, it
has no stalled tally operation, and no instruction of it has produced a NaN that halts (R60, R63, R159). -/
def Core.mayIssue (k : Core) (x d : Bool) : Bool :=
  k.up && !k.haltReq && decide ((k.ctx x d).life = .live) && decide ((if x then k.xDef else k.aDef) = d) &&
    (x || !k.waiters.any (fun w => decide (w.deferred = d))) &&
    !k.runs.any (fun r => decide (decide (r.unit ≠ 0) = x) && decide (r.deferred = d) && r.nan.isSome)

/-- Note why a context is stalled, by the codes of COR_STATUS. -/
def State.stall (s : State) (c : Nat) (x d : Bool) (code : Nat) : State :=
  s.onCore c (fun k => k.setCtx x d { k.ctx x d with stall := code })

/-- The context's instruction has issued: its next position, and the core is awake. -/
def State.advance (s : State) (c : Nat) (x d : Bool) : State :=
  s.onCore c (fun k => (wakeCore k).setCtx x d (k.ctx x d).next)

/-- Whether the next instruction of a context lies in a failed block and everything issued before it has completed
(R45). -/
def Core.reachesFailed (k : Core) (x d : Bool) : Option Staged :=
  if k.mayIssue x d && !k.busy x d then
    match k.blockAt x (k.ctx x d).pos with
    | some b => if b.ok then none else some b
    | none => none
  else none

/-- A context that reaches a failed block stops the core (R45): with CVU_MISMATCH, or with UNCORRECTABLE where the fetch met an
uncorrectable error (R286, log 111). -/
def failedBlock (c : Nat) (x d : Bool) (s : State) : State :=
  match (s.core c).reachesFailed x d with
  | none => s
  | some b =>
    ((((s.flag (COR_ERR c) COR_ERR_cvu_block).setReg (COR_CVU_MISMATCH_ADDR c) (BitVec.ofNat 64 b.addr)).setReg
      (COR_CVU_EXPECTED c) (BitVec.ofNat 64 b.expected)).setReg (COR_CVU_ACTUAL c) (BitVec.ofNat 64 b.actual)).coreTrap c
        (if b.ue then 0x06 else 0x03) 0x6001 b.addr

/-- Whether a running instruction is stalled on a queue, a fence or a row check, or, in the X-stream, waiting for its
fill or on the interlock behind one that is (R34, R55, log 122). -/
def Core.stalled (k : Core) (r : Run) : Bool :=
  r.idles ||
    (decide (r.unit ≠ 0) && decide (r.wcode = 1) && decide (r.stage = 3 ∨ r.stage = 4) && k.runs.any (fun q => decide (q.unit ≠ 0) && q.idles))

/-- Whether a context is at rest for recess and the stall limit: idle, ended, or stalled on a queue, a tally, the deferred
queue, a fence or a row check (R34, R55, R63); with nothing to issue before running instructions end, its own or else those of its
stream, it rests when they all do. -/
def Core.rests (k : Core) (x d : Bool) : Bool :=
  let v := k.ctx x d
  let stream := k.runs.filter (fun r => decide (decide (r.unit ≠ 0) = x))
  let own := stream.filter (fun r => decide (r.deferred = d))
  let ahead := if own = [] then stream else own
  match v.life with
  | .idle => true
  | .ended => true
  | .live => [2, 5, 6, 7].contains v.stall || (v.stall == 8 && decide (ahead ≠ []) && ahead.all k.stalled)
  | .ending => own.all k.stalled && decide (own ≠ [])

/-- Whether every context of a core rests and some context has not ended. -/
def Core.allRest (k : Core) : Bool :=
  k.rests false false && k.rests true false && k.rests false true && k.rests true true &&
    (!k.am.life.over || !k.xm.life.over || !k.ad.life.over || !k.xd.life.over)

/-- A core whose contexts all rest goes into recess (R63). -/
def enterRecess (k : Core) : Core := if decide (k.state = .running) && k.allRest then { k with state := .recess } else k

/-- What follows from any event of a core: failed blocks that a context has reached, contexts and programs that end, a
halt that takes hold, a RETIRE that completes is left to its own event, and recess. -/
def State.afterCore (s : State) (c : Nat) : State :=
  let s1 := failedBlock c true true (failedBlock c false true (failedBlock c true false (failedBlock c false false s)))
  (s1.settle c).onCore c enterRecess

/-- The tally limit at an ADD of an A-stream: the increment is discarded, the master frozen, the command LIMIT (R54,
R101). -/
def addLimit (s : State) (c dev core t : Nat) : State :=
  (s.violateTally (aMst c) dev core t).coreStop c 0x0B 0x1003

end Sys2Proof.Machine
end

