-- ==== Sys2Proof/Machine/Operands.lean ====
section
/-! DEFINITION. The 128-bit encodings of the core's instructions (03_instruction_set R68 to R82): fields, reserved bits,
ranges, queue ends and operand formats, and the conditions that stop a context before an instruction (R101). -/

namespace Sys2Proof.Machine

/-- Bits `hi:lo` of an instruction. -/
def cb (w : Code) (hi lo : Nat) : Nat := bitsOf w.toNat hi lo

/-- One bit of an instruction. -/
def cbit (w : Code) (i : Nat) : Bool := bitOf w.toNat i

/-- The opcode (R68). -/
def opcode (w : Code) : Nat := cb w 127 120

/-- Opcodes of R69. -/
abbrev opLOAD : Nat := 0x01
abbrev opSTORE : Nat := 0x02
abbrev opCOPY : Nat := 0x03
abbrev opTLOAD : Nat := 0x04
abbrev opGATHER : Nat := 0x08
abbrev opSCATTER : Nat := 0x09
abbrev opWAIT : Nat := 0x10
abbrev opADD : Nat := 0x11
abbrev opSUB : Nat := 0x12
abbrev opSETX : Nat := 0x18
abbrev opADDX : Nat := 0x19
abbrev opFENCE : Nat := 0x1C
abbrev opPHASE : Nat := 0x20
abbrev opRETIRE : Nat := 0x21
abbrev opDEFER : Nat := 0x22
abbrev opNOP : Nat := 0x40
abbrev opEND : Nat := 0x41
abbrev opJUMP : Nat := 0x42
abbrev opLOOP : Nat := 0x43
abbrev opMLOAD : Nat := 0x80
abbrev opMSWAP : Nat := 0x81
abbrev opMSTREAM : Nat := 0x82
abbrev opEPI : Nat := 0x83
abbrev opEXPERT : Nat := 0x84
abbrev opVADD : Nat := 0x90
abbrev opVSUB : Nat := 0x91
abbrev opVMUL : Nat := 0x92
abbrev opVFMA : Nat := 0x93
abbrev opVAXPY : Nat := 0x94
abbrev opVMAX : Nat := 0x95
abbrev opVMIN : Nat := 0x96
abbrev opVABS : Nat := 0x97
abbrev opVNEG : Nat := 0x98
abbrev opVMOV : Nat := 0x99
abbrev opVEXP : Nat := 0x9A
abbrev opVRCP : Nat := 0x9B
abbrev opVRSQRT : Nat := 0x9C
abbrev opVCMP : Nat := 0x9D
abbrev opVAND : Nat := 0x9E
abbrev opVOR : Nat := 0x9F
abbrev opVXOR : Nat := 0xA0
abbrev opVIADD : Nat := 0xA1
abbrev opCVT : Nat := 0xB0
abbrev opCOMPRESS : Nat := 0xB1
abbrev opUPDATE : Nat := 0xB2
abbrev opREDUCE : Nat := 0xB3

/-- The opcodes of the A-stream only (R69). -/
def aOps : List Nat :=
  [opLOAD, opSTORE, opCOPY, opTLOAD, opGATHER, opSCATTER, opWAIT, opADD, opSUB, opSETX, opADDX, opFENCE, opPHASE,
   opRETIRE, opDEFER]

/-- The opcodes of both streams (R69). -/
def bothOps : List Nat := [opNOP, opEND, opJUMP, opLOOP]

/-- The vector instructions of R94. -/
def vecOps : List Nat :=
  [opVADD, opVSUB, opVMUL, opVFMA, opVAXPY, opVMAX, opVMIN, opVABS, opVNEG, opVMOV, opVEXP, opVRCP, opVRSQRT, opVCMP,
   opVAND, opVOR, opVXOR, opVIADD]

/-- The opcodes of the X-stream only (R69). -/
def xOps : List Nat :=
  [opMLOAD, opMSWAP, opMSTREAM, opEPI, opEXPERT] ++ vecOps ++ [opCVT, opCOMPRESS, opUPDATE, opREDUCE]

/-- Whether a stream may issue an opcode (R69). -/
def opAllowed (x : Bool) (op : Nat) : Bool := bothOps.contains op || (if x then xOps.contains op else aOps.contains op)

/-- The access instructions (R83). -/
def isAccess (op : Nat) : Bool := [opLOAD, opSTORE, opCOPY, opTLOAD, opGATHER, opSCATTER].contains op

/-- Vector instructions on 32-bit patterns, which have no f64 modifier (R81, R94). -/
def isBitwise (op : Nat) : Bool := [opVAND, opVOR, opVXOR, opVIADD].contains op

/-- Vector instructions with one source (R94). -/
def isUnary (op : Nat) : Bool := [opVABS, opVNEG, opVMOV, opVEXP, opVRCP, opVRSQRT].contains op

/-- The bits below 119 that each opcode's format defines (R74 to R82); every other bit is reserved. -/
def usedBits (w : Code) : List (Nat × Nat) :=
  let op := opcode w
  if op = opLOAD ∨ op = opSTORE then [(118, 117), (111, 0)]
  else if op = opCOPY then [(118, 117), (111, 28)]
  else if op = opTLOAD then [(118, 116), (111, 28)]
  else if op = opGATHER then [(118, 113), (111, 33)]
  else if op = opSCATTER then [(118, 116), (111, 33)]
  else if op = opWAIT ∨ op = opSUB then [(111, 74)]
  else if op = opADD then (if cbit w 118 then [(118, 118), (111, 53)] else [(111, 74)])
  else if op = opJUMP then [(111, 88)]
  else if op = opLOOP then [(118, 118), (111, 60)]
  else if op = opPHASE then [(111, 109)]
  else if op = opRETIRE then [(111, 96)]
  else if op = opDEFER then [(111, 58)]
  else if op = opSETX ∨ op = opADDX then [(111, 44)]
  else if op = opMLOAD then [(118, 115), (111, 95)]
  else if op = opMSWAP then [(96, 95)]
  else if op = opMSTREAM then [(118, 112), (111, 95), (94, 43)]
  else if op = opEPI then [(96, 93), (63, 0)]
  else if op = opEXPERT then [(111, 97), (94, 55)]
  else if op = opVCMP then [(118, 115), (111, 0)]
  else if isBitwise op then [(111, 0)]
  else if vecOps.contains op then [(118, 118), (111, 0)]
  else if op = opCVT then [(117, 113), (111, 0)]
  else if op = opCOMPRESS then [(118, 118), (111, 0)]
  else if op = opREDUCE then [(118, 112), (111, 0)]
  else if op = opUPDATE then [(118, 118), (111, 72), (63, 0)]
  else []

/-- The mask of bit ranges. -/
def maskOf (l : List (Nat × Nat)) : Nat := l.foldl (fun a p => Nat.lor a ((2 ^ (p.1 + 1 - p.2) - 1) * 2 ^ p.2)) 0

/-- Whether every reserved bit is zero (R101). -/
def reservedZero (w : Code) : Bool :=
  decide (w.toNat % 2 ^ 119 = Nat.land (w.toNat % 2 ^ 119) (maskOf (usedBits w)))

/-- An operand of the vector format (R71). -/
inductive Opnd where
  | queue (q : Nat)
  | none
  | acc (bank row : Nat)
  deriving DecidableEq, Repr, Inhabited

/-- A selector (R71); an absent answer is a reserved value. -/
def selector (v : Nat) : Option Opnd :=
  let lowBits := v % 2 ^ 14
  match v / 2 ^ 14 with
  | 0 => if lowBits < 32 then some (.queue lowBits) else Option.none
  | 1 => if lowBits = 0 then some .none else Option.none
  | 2 => if lowBits < 2048 then some (.acc 0 lowBits) else Option.none
  | _ => if lowBits < 2048 then some (.acc 1 lowBits) else Option.none

/-- The three selectors of a vector instruction. -/
def selA (w : Code) : Option Opnd := selector (cb w 111 96)
def selB (w : Code) : Option Opnd := selector (cb w 95 80)
def selD (w : Code) : Option Opnd := selector (cb w 79 64)

/-- The operand of a selector that has been checked. -/
def opA (w : Code) : Opnd := (selA w).getD .none
def opB (w : Code) : Opnd := (selB w).getD .none
def opD (w : Code) : Opnd := (selD w).getD .none

/-- Rows of a vector instruction, EXPERT's and MSTREAM's (R80, R81). -/
def vRows (w : Code) : Nat := cb w 63 32
def xRows (w : Code) : Nat := cb w 94 63
def mRows (w : Code) : Nat := if xRows w = 0 then 2 ^ 32 else xRows w

/-- The sub-array field (R80). -/
def subOf (w : Code) : Nat := cb w 96 95

/-- Width of a sub-array in a split mode (R90). -/
def subWidth (split : Nat) : Nat := 512 / nSubs split

/-- Queues that a format names as sources (R70). -/
def popsOf (w : Code) : List Nat :=
  let op := opcode w
  let ofOp : Opnd → List Nat := fun o => match o with | .queue q => [q] | _ => []
  if op = opSTORE ∨ op = opSCATTER then [cb w 111 107]
  else if op = opMLOAD then
    [cb w 111 107] ++ (if cbit w 118 then [cb w 106 102] else []) ++ (if cbit w 115 then [cb w 101 97] else [])
  else if op = opMSTREAM then
    [cb w 111 107] ++ (if cbit w 113 then [cb w 101 97] else []) ++ (if cbit w 112 then [cb w 47 43] else [])
  else if op = opEXPERT then [cb w 111 107]
  else if op = opUPDATE then
    let q := cb w 111 107
    let o := cb w 106 104
    [q, q + 1, q + 2] ++ (if cbit w 118 then [q + 3] else []) ++ (if o ≥ 1 then [q + 4] else []) ++
      (if o = 2 then [q + 5] else [])
  else if vecOps.contains op then ofOp (opA w) ++ (if isUnary op then [] else ofOp (opB w))
  else if op = opCOMPRESS ∨ op = opREDUCE then ofOp (opA w)
  else if op = opCVT then ofOp (opA w)
  else []

/-- Queues that a format names as destinations (R70). -/
def pushesOf (w : Code) : List Nat :=
  let op := opcode w
  let ofOp : Opnd → List Nat := fun o => match o with | .queue q => [q] | _ => []
  if op = opLOAD ∨ op = opGATHER then [cb w 111 107]
  else if op = opMSTREAM then (if cbit w 118 then [cb w 106 102] else [])
  else if op = opEXPERT then [cb w 106 102, cb w 101 97]
  else if op = opUPDATE then
    let q := cb w 111 107
    let o := cb w 106 104
    [q + 6] ++ (if cbit w 118 then [q + 7] else []) ++ (if o ≥ 1 then [q + 8] else []) ++ (if o = 2 then [q + 9] else [])
  else if op = opCOMPRESS then ofOp (opB w) ++ ofOp (opD w)
  else if vecOps.contains op ∨ op = opREDUCE ∨ op = opCVT then ofOp (opD w)
  else []

/-- Ranges and reserved values that the encoding alone decides (R74 to R82, R101). -/
def rangeOk (x : Bool) (w : Code) : Bool :=
  let op := opcode w
  if op = opLOAD ∨ op = opSTORE then decide (1 ≤ cb w 70 47)
  else if op = opCOPY ∨ op = opTLOAD then decide (cb w 85 84 ≠ 3)
  else if op = opGATHER then
    decide (1 ≤ cb w 98 67) && decide (cb w 54 42 ≤ 4096) && decide (cb w 116 114 ≤ 5) &&
      (!cbit w 113 || decide (cb w 116 114 = 3 ∨ cb w 116 114 = 4))
  else if op = opSCATTER then decide (1 ≤ cb w 98 67) && decide (cb w 54 42 ≤ 4096)
  else if op = opWAIT ∨ op = opSUB then decide (cb w 111 106 < 48)
  else if op = opADD then decide (cb w 111 106 < 48)
  else if op = opLOOP then decide (1 ≤ cb w 79 64) && (!x || !cbit w 118)
  else if op = opDEFER then decide (cb w 63 58 < 48)
  else if op = opMLOAD then decide (cb w 117 116 ≠ 3)
  else if op = opMSTREAM then decide (cb w 50 48 ≤ 5) && (!cbit w 112 || decide (cb w 50 48 = 0))
  else if op = opEXPERT then decide (1 ≤ xRows w)
  else if op = opUPDATE then
    decide (cb w 106 104 ≤ 2) && decide (1 ≤ cb w 103 72) && (popsOf w ++ pushesOf w).all (fun q => decide (q < 32))
  else if op = opVCMP then decide (cb w 117 115 ≤ 4) && decide (1 ≤ vRows w)
  else if op = opCVT then decide (cb w 117 116 ≠ 3) && decide (1 ≤ vRows w) && (!cbit w 114 || decide (vRows w % 32 = 0))
  else if op = opCOMPRESS then decide (1 ≤ vRows w) && decide (vRows w % 256 = 0)
  else if op = opREDUCE then decide (cb w 117 115 ≤ 4) && decide (1 ≤ vRows w)
  else if vecOps.contains op then decide (1 ≤ vRows w)
  else true

/-- The format of a queue. -/
def Core.fmtOf (k : Core) (q : Nat) : Option Elem := elemOf (k.queue q).fmt

/-- Whether a queue has one of the array's operand formats with the block scaling that `scaled` requires (R104,
R139). -/
def arrayFmt (k : Core) (q : Nat) (scaled : Bool) : Bool :=
  match k.fmtOf q with
  | some (.flt f bs) => (f == .p4 || f == .e4m3 || f == .e5m2 || f == .fp16 || f == .bf16) && bs == scaled
  | _ => false

/-- Whether a queue has a block scale format (R139). -/
def scaleFmtOk (k : Core) (q : Nat) : Bool := k.fmtOf q == some .e8 || k.fmtOf q == some (.flt .fp16 false)

/-- Whether an operand has one of some formats; accumulator rows count as FP32 (R139). -/
def opndFmt (k : Core) (allowed : List Elem) (o : Opnd) : Bool :=
  match o with
  | .queue q => match k.fmtOf q with
    | some e => allowed.contains e
    | none => false
  | .acc _ _ => true
  | .none => false

/-- A floating-point queue format without block scaling (R88, R89). -/
def fltFmt (k : Core) (q : Nat) : Bool := match k.fmtOf q with | some (.flt _ false) => true | _ => false

/-- The formats of accumulated gathers and reverse scatters: FP32, FP16 or BF16 (R226, R237). -/
def aggFmt (k : Core) (q : Nat) : Bool :=
  k.fmtOf q == some (.flt .fp32 false) || k.fmtOf q == some (.flt .fp16 false) || k.fmtOf q == some (.flt .bf16 false)

/-- The output formats of an MSTREAM (R92, R121). -/
def qoutOk (w : Code) (k : Core) (q : Nat) : Bool :=
  if cbit w 114 then
    [FFmt.fp32, .fp16, .bf16, .e4m3, .e5m2].any (fun f => k.fmtOf q == some (.flt f false))
  else k.fmtOf q == some (.flt .fp32 false)

/-- Operand forms of the vector format: which selectors must be None and which must not (R81, R94 to R98). REDUCE names no
sb, and one other than None is trapped (log 123). -/
def selectorsOk (w : Code) : Bool :=
  let op := opcode w
  if vecOps.contains op ∨ op = opCVT ∨ op = opCOMPRESS ∨ op = opREDUCE then
    match selA w, selB w, selD w with
    | some a, some b, some d =>
      decide (a ≠ .none) && decide (d ≠ .none) &&
      (if isUnary op ∨ op = opREDUCE then decide (b = .none)
       else if op = opCVT then (match b with | .queue _ => cbit w 115 | .none => !cbit w 115 | .acc _ _ => false)
       else if op = opCOMPRESS then (match a, b, d with | .queue _, .queue _, .queue _ => true | _, _, _ => false)
       else if op = opVFMA then decide (b ≠ .none) && (match d with | .acc _ _ => true | _ => false)
       else decide (b ≠ .none))
    | _, _, _ => false
  else true

/-- The class of a REDUCE (R98, R162). -/
def reduceClass (k : Core) (w : Code) : Nat :=
  if cb w 113 112 = 0 then (match opA w with | .queue q => (k.bind q).cls | _ => 3) else cb w 113 112

/-- Formats that an instruction requires of its operands (R104, R139, R88, R89, R93, R96, R179, R126). -/
def formatOk (k : Core) (w : Code) : Bool :=
  let op := opcode w
  let f32s : List Elem := [.flt .fp32 false]
  let f64s : List Elem := [.flt .fp64 false]
  let arith := if cbit w 118 then f64s else f32s
  if op = opMLOAD then arrayFmt k (cb w 111 107) (cbit w 115) && (!cbit w 115 || scaleFmtOk k (cb w 101 97))
  else if op = opMSTREAM then
    arrayFmt k (cb w 111 107) (cbit w 113) && (!cbit w 113 || scaleFmtOk k (cb w 101 97)) &&
      (!cbit w 118 || qoutOk w k (cb w 106 102))
  else if op = opGATHER then
    (decide (cb w 116 114 ≠ 0) || fltFmt k (cb w 111 107))
  else if op = opSCATTER then cbit w 117 || fltFmt k (cb w 111 107)
  else if op = opEXPERT then
    k.fmtOf (cb w 111 107) == some .u8 && k.fmtOf (cb w 106 102) == some .u32 && k.fmtOf (cb w 101 97) == some .u32
  else if op = opVCMP then opndFmt k arith (opA w) && opndFmt k arith (opB w) && opndFmt k f32s (opD w)
  else if isBitwise op then
    let l : List Elem := [.flt .fp32 false, .i32, .u32]
    opndFmt k l (opA w) && opndFmt k l (opB w) && opndFmt k l (opD w)
  else if vecOps.contains op then
    opndFmt k arith (opA w) && (isUnary op || opndFmt k arith (opB w)) && opndFmt k arith (opD w)
  else if op = opCVT then
    let bsOf : Opnd → Bool := fun o => match o with
      | .queue q => (match k.fmtOf q with | some (.flt _ b) => b | _ => false)
      | _ => false
    let known : Opnd → Bool := fun o => match o with
      | .queue q => (match k.fmtOf q with | some .e8 => false | some _ => true | none => false)
      | _ => true
    known (opA w) && known (opD w) &&
      (if cbit w 115 then (bsOf (opA w) != bsOf (opD w)) && (match opB w with | .queue q => scaleFmtOk k q | _ => false)
       else !bsOf (opA w) && !bsOf (opD w))
  else if op = opCOMPRESS then
    (match opA w, opD w with
     | .queue a, .queue d => arrayFmt k a false && decide ((k.queue a).fmt = (k.queue d).fmt)
     | _, _ => false)
  else if op = opREDUCE then
    opndFmt k arith (opA w) && opndFmt k (if cb w 117 115 = 4 then [.u32, .i32, .flt .fp32 false] else arith) (opD w)
      && !(cbit w 118 && decide (cb w 117 115 = 0 ∨ cb w 117 115 = 3) && decide (reduceClass k w = 1))
  else if op = opUPDATE then
    let q := cb w 111 107
    let o := cb w 106 104
    let wf : List Elem := [.flt .fp32 false, .flt .fp16 false, .flt .bf16 false, .flt .e4m3 false, .flt .e5m2 false,
      .flt .p4 false]
    opndFmt k wf (.queue q) && decide ((k.queue q).fmt = (k.queue (q + 6)).fmt) && aggFmt k (q + 1) &&
      opndFmt k f32s (.queue (q + 2)) &&
      (!cbit w 118 || (k.fmtOf (q + 3) == some .u8 && k.fmtOf (q + 7) == some .u8)) &&
      (decide (o = 0) || (opndFmt k f32s (.queue (q + 4)) && opndFmt k f32s (.queue (q + 8)))) &&
      (decide (o ≠ 2) || (opndFmt k f32s (.queue (q + 5)) && opndFmt k f32s (.queue (q + 9))))
  else true

/-- The end code of a context (R66): 1 A main, 2 X main, 3 A deferred, 4 X deferred. -/
def endCode (x d : Bool) : Nat := 1 + b2n x + 2 * b2n d

/-- Whether a context holds the end of its block scale queue that a CVT uses (R70, R96): the consumer end for a block-scaled
source, else the producer end. -/
def scaleEndOk (k : Core) (code : Nat) (w : Code) : Bool :=
  match opB w with
  | .queue q =>
    (match opA w with
     | .queue a => (match k.fmtOf a with
       | some (.flt _ true) => decide ((k.queue q).cons = code)
       | _ => decide ((k.queue q).prod = code))
     | _ => decide ((k.queue q).prod = code))
  | _ => true

/-- Whether a context holds the ends that an instruction uses (R70). -/
def endsOk (k : Core) (x d : Bool) (w : Code) : Bool :=
  (popsOf w).all (fun q => decide ((k.queue q).cons = endCode x d)) &&
    (pushesOf w).all (fun q => decide ((k.queue q).prod = endCode x d)) &&
    (decide (opcode w ≠ opCVT) || scaleEndOk k (endCode x d) w)

/-- Reserved bits of the epilogue words (R121) as used bits per word, in whole mode and in split modes. -/
def epiUsed (whole : Bool) (word : Nat) : List (Nat × Nat) :=
  if word = 3 then [(63, 58), (31, 0)]
  else if whole then (if word = 0 then [(63, 20), (4, 2)] else if word = 1 then [(9, 0)] else [(63, 32)])
  else if word = 0 then [(63, 32), (15, 12), (4, 0)] else if word = 1 then [(63, 0)] else [(63, 8)]

/-- Whether an epilogue word holds no reserved field or value (R121). -/
def epiOk (whole : Bool) (word v : Nat) : Bool :=
  decide (v = Nat.land v (maskOf (epiUsed whole word))) &&
    (if word = 0 then decide (bitsOf v 3 2 ≠ 3) && (whole || decide (bitsOf v 15 12 ≤ 7))
     else if word = 1 ∧ whole then decide (bitsOf v 9 0 ≤ 511) else true)

/-- The first row of R101, for a core in a split mode. -/
def malformed (k : Core) (split : Nat) (x d : Bool) (w : Code) : Bool :=
  let op := opcode w
  !opAllowed x op || !reservedZero w || !rangeOk x w || !selectorsOk w || !endsOk k x d w || !formatOk k w ||
    ([opMLOAD, opMSWAP, opMSTREAM, opEPI].contains op && decide (nSubs split ≤ subOf w)) ||
    (decide (op = opEPI) && !epiOk (decide (split = 0)) (cb w 94 93) (cb w 63 0)) ||
    (decide (op = opLOOP) && decide ((k.ctx x d).loops.length ≥ 8))

/-! ### Addresses (R72, R74 to R76) -/

/-- An address register. -/
def Ctx.axr (v : Ctx) (i : Nat) : Nat := (v.ax.getD i 0).toNat

/-- Write an address register. -/
def Ctx.setAx (v : Ctx) (i n : Nat) : Ctx := { v with ax := listPut 0 v.ax i (BitVec.ofNat 64 n) }

/-! ### Where an address of the A-stream leads (R72, R337) -/

/-- Where an address leads. -/
inductive Reach where
  | here (a : Nat)
  | there (dev a : Nat)
  | off (g : Nat)
  deriving DecidableEq, Repr

/-- The phase map that a core uses: COL_PHASE and COL_PHASE_SIZE of its number, as the core knows them (R337, R354). -/
def phaseWords (s : State) (k : Core) : Word × Word :=
  match k.maps with
  | some l => l.getD k.phase (0, 0)
  | none => (s.reg (COL_PHASE k.phase), s.reg (COL_PHASE_SIZE k.phase))

/-- A device id leads here or away. -/
def toDev (s : State) (dev a : Nat) : Reach := if dev = s.devId then .here a else .there dev a

/-- The rank table entry that an address of the A-stream is translated by, if any (R337). -/
def rankEntry (s : State) (c : Nat) (isLoc : Bool) (g : Nat) : Option Nat :=
  let (m, z) := phaseWords s (s.core c)
  let rank := g / 2 ^ 48 % 2 ^ 16
  if !isLoc && fbit COL_PHASE_translate m && decide (rank < fget COL_PHASE_SIZE_ranks z) then some (fget COL_PHASE_table m + 2 * rank) else none

/-- Where an address of the A-stream leads: local with loc; else its upper bits name a device, or a rank that the phase
map translates, and a rank beyond the table is an unmapped address (R72, R337). -/
def reach (s : State) (c : Nat) (isLoc : Bool) (g : Nat) : Reach :=
  if isLoc then .here (g % 2 ^ 48)
  else if fbit COL_PHASE_translate (phaseWords s (s.core c)).1 then
    (match rankEntry s c isLoc g with
     | some a => toDev s (s.num a 2) (g % 2 ^ 48)
     | none => .off g)
  else toDev s (g / 2 ^ 48 % 2 ^ 16) (g % 2 ^ 48)

/-- The local address that an address of the A-stream leads to on this device. -/
def ownAddr (s : State) (c : Nat) (isLoc : Bool) (g : Nat) : Option Nat :=
  match reach s c isLoc g with
  | .here a => some a
  | _ => none

/-- The row pitch of LOAD and STORE in bytes (R74). -/
def rowPitch (k : Core) (w : Code) : Nat :=
  if cb w 46 31 = 0 then (k.queue (cb w 111 107)).units * 16 else cb w 46 31 * 16

/-- The address of row 0 of LOAD or STORE before loc (R74). -/
def rowBase (v : Ctx) (w : Code) : Nat := wrapInt 64 ((v.axr (cb w 106 103) : Int) + signedOf 32 (cb w 102 71))

/-- The element size of COPY and TLOAD in bytes (R75). -/
def eSize (w : Code) : Nat := 2 ^ cb w 85 84

/-- The scratch window of a core (R21). -/
def inScratch (c a n : Nat) : Bool :=
  decide (scratchBase + c * 0x2000000 ≤ a) && decide (a + n ≤ scratchBase + c * 0x2000000 + 0x1000000)

/-- The bytes that COPY or TLOAD spans from an address with `n` rows of `m` bytes. -/
def spanOf (n pitch m : Nat) : Nat := (n - 1) * pitch + m

/-- Misalignment, or an index tensor, drove road or TLOAD side outside its required region (R76, R101, code 0x6009). Format G has no
loc, so its index register holds a global address, which the phase map translates as any other (R72, R337). An
indirect LOOP's word is held to 4-byte alignment (log 123). -/
def misplaced (s : State) (c : Nat) (v : Ctx) (w : Code) : Bool :=
  let op := opcode w
  if op = opLOAD ∨ op = opSTORE then decide (rowBase v w % 16 ≠ 0)
  else if op = opCOPY ∨ op = opTLOAD then
    let e := eSize w
    let sa := v.axr (cb w 111 108)
    let da := v.axr (cb w 107 104)
    let r := cb w 103 95 + 1
    let cc := cb w 94 86 + 1
    decide (sa % e ≠ 0 ∨ da % e ≠ 0 ∨ cb w 83 60 % e ≠ 0 ∨ cb w 59 36 % e ≠ 0) ||
      (decide (op = opTLOAD) &&
        (let own := ownAddr s c (cbit w 117)
         let sSpan := spanOf r (cb w 83 60) (cc * e)
         let dSpan := spanOf cc (cb w 59 36) (r * e)
         let past (g n : Nat) : Bool := (own g).any (fun a => inPasture a && inPasture (a + n - 1) && decide (pastureOf a = pastureOf (a + n - 1)))
         let scr (g n : Nat) : Bool := (own g).any (fun a => inScratch c a n)
         if cbit w 116 then !(scr sa sSpan && past da dSpan) else !(past sa sSpan && scr da dSpan)))
  else if op = opGATHER ∨ op = opSCATTER then
    let own (f : Nat → Bool) : Bool := (ownAddr s c false (v.axr (cb w 106 103))).any f
    let n := cb w 98 67 * (if cbit w 33 then 8 else 4)
    let dv := droverOf s.grade (c / 8)
    let road := cbit w 117
    decide (v.axr (cb w 102 99) % 64 ≠ 0) ||
      (if road then !own (fun ia => decide (stagingBase + dv * 0x2000000 ≤ ia) && decide (ia < stagingBase + dv * 0x2000000 + 0x2000000) &&
          decide (ia % 64 = 0))
       else !own (fun ia => inScratch c ia n && decide (ia % (if cbit w 33 then 8 else 4) = 0)))
  else if op = opLOOP then cbit w 118 && decide (v.axr (cb w 63 60) % 4 ≠ 0)
  else false

/-! ### Accumulator rules (R38, R92, R95, R101 code 0x6005) -/

/-- Whether a row segment may be added to in a class: classless, or an unfinished sum of that class (R38, R163). -/
def classFits (k : Core) (bank row sub cls : Nat) : Bool :=
  decide ((k.seg bank row sub).cls = 0 ∨ (k.seg bank row sub).cls = cls)

/-- The class of an MSTREAM: its field, or the class default of qin (R162). -/
def streamClass (k : Core) (w : Code) : Nat :=
  if cb w 116 115 = 0 then (k.bind (cb w 111 107)).cls else cb w 116 115

/-- Whether a semiring mode follows the class rules (R119). -/
def classed (semi : Nat) : Bool := decide (semi = 0 ∨ semi = 3 ∨ semi = 4)

/-- Whether an operand's accumulator rows stay within 0 to 2,047. -/
def accInRange (n : Nat) : Opnd → Bool
  | .acc _ r => decide (r + n ≤ 2048)
  | _ => true

/-- The accumulator rules that an instruction breaks at its issue; `n` is the rows it names, 0 for an MSTREAM whose count is
still to be taken (R135). Whether an ADD's class fits
the row segments is seen once the interlock lets it read them (R38, R114). A REDUCE of class C holds its sums in the vector engine and
accumulates into no bank: shadow service does not stop it (R178, log 159). -/
def accBroken (k : Core) (shadow : Bool) (w : Code) (n : Nat) : Bool :=
  let op := opcode w
  if op = opMSTREAM then
    if cbit w 118 then false
    else
      let bank := cb w 51 51
      let row := cb w 62 52
      let semi := cb w 50 48
      decide (row + n > 2048) ||
        (!shadow && decide (bank = 1)) ||
        (classed semi && !k.prog.wydak && shadow && decide (streamClass k w = 2))
  else if vecOps.contains op ∨ op = opCVT ∨ op = opREDUCE then
    let outRows := if op = opREDUCE then
        (if cbit w 114 then (n + 511) / 512 else 1) else n
    !accInRange n (opA w) || !accInRange n (opB w) || !accInRange outRows (opD w) ||
      (match opD w with | .acc 1 _ => !shadow | _ => false)
  else false

/-- Whether a phase map is defined, as the core knows the maps (R337, R354). -/
def mapDefined (s : State) (k : Core) (m : Nat) : Bool :=
  match k.maps with
  | some l => fbit COL_PHASE_valid (l.getD m (0, 0)).1
  | none => s.bit (COL_PHASE m) COL_PHASE_valid

/-- Whether an MSTREAM that takes its count from cnt_q finds there a U32 queue whose consumer end its context holds
(R135). -/
def countQueueOk (k : Core) (x d : Bool) (w3 : Nat) : Bool :=
  !bitOf w3 63 || (decide ((k.queue (bitsOf w3 62 58)).cons = endCode x d) && k.fmtOf (bitsOf w3 62 58) == some .u32)

/-- The condition of R101 that stops a context before an instruction: status and Logbook code. Whichever the table
lists first is reported. -/
def issueTrap (s : State) (c : Nat) (x d : Bool) (w : Code) : Option (Nat × Nat) :=
  let k := s.core c
  let split := s.fld (COR_ARR_CFG c) COR_ARR_CFG_split
  let shadow := s.bit (COR_MODE c) COR_MODE_service
  let w3 := (s.reg (COR_ARR_EPI c (subOf w * 4 + 3))).toNat
  if malformed k split x d w || (opcode w == opMSTREAM && !countQueueOk k x d w3) then some (0x02, 0x6003)
  else if misplaced s c (k.ctx x d) w then some (0x02, 0x6009)
  else if accBroken k shadow w (if opcode w ≠ opMSTREAM then vRows w else if bitOf w3 63 then 0 else mRows w) then
    some (0x02, 0x6005)
  else if opcode w = opPHASE && !mapDefined s k (cb w 111 109) then some (0x02, 0x6008)
  else if opcode w = opRETIRE && decide (cb w 111 96 = k.prog.gen) then some (0x02, 0x600C)
  else none

end Sys2Proof.Machine
end

