-- ==== Sys2Proof/Machine/Accum.lean ====
section
/-! DEFINITION. Accumulator rows and their classes (02_compute_core R37 to R41, 06_training_numerics R161 to R176). -/

namespace Sys2Proof.Machine

/-- Address of a column of an accumulator row (R37). -/
def accAddr (c bank row col : Nat) : Nat := accBase + c * 0x1000000 + bank * 0x400000 + row * 2048 + col * 4

/-- Place of a column of an accumulator row in its SRAM (R37). -/
def accPlace (bank row col : Nat) : Nat := bank * 0x400000 + row * 2048 + col * 4

/-- Whether a column of an accumulator row is a word with a double-bit error. -/
def accLost (s : State) (c bank row col : Nat) : Bool := s.upsets.any (fun u => u.double && u.meets 1 c (accPlace bank row col) 4)

/-- Codes of `n` columns of a row, as a read delivers them: the code of an uncorrectable word is undefined, a free value (R298). -/
def accCodes (s : State) (c bank row col n : Nat) : List Nat :=
  (rangeFrom 0 n).map (fun j =>
    let v := s.num (accAddr c bank row (col + j)) 4
    if accLost s c bank row (col + j) then leNat ((rangeFrom 0 4).map (Config.freeByte v)) else v)

/-- The places of `n` columns of an accumulator row, for `State.meetCore`. -/
def accWords (bank row col n : Nat) : Nat × Nat × Nat := (1, accPlace bank row col, 4 * n)

/-- Write codes to columns of a row, which then hold no error. -/
def putAcc (s : State) (c bank row col : Nat) (vs : List Nat) : State :=
  (cleanWords c 1 (accPlace bank row col) (4 * vs.length) s).setBytes (accAddr c bank row col) (vs.flatMap (leBytes 4))

/-- Split mode, sub-array width, job seed and latched step of a core. -/
def splitOf (s : State) (c : Nat) : Nat := s.fld (COR_ARR_CFG c) COR_ARR_CFG_split
def widthOf (s : State) (c : Nat) : Nat := subWidth (splitOf s c)
def seedOf (s : State) : Nat := (s.reg COL_SEED).toNat

/-- SR16 of R164: stochastic rounding to FP16, held as its exact FP32 code. -/
def sr16 (draw : Nat) (v : FVal) : Nat := rneF .fp32 (decodeF .fp16 (convF .fp16 .sr false draw v))

/-- The draw of a class G accumulator row segment (R168). -/
def drawAcc (s : State) (c row col segNo cnt : Nat) : Nat :=
  philox (seedOf s) (s.core c).step (0xFFFF0000 + c * 2048 + row) col (segNo % 2 ^ 15 * 2 ^ 17 + cnt % 2 ^ 17)

/-- One class C addition of v into (s, c) (R165); the codes of both. -/
def addC (rd : FVal → FVal) (sv cv v : FVal) : FVal × FVal :=
  let t := rd (addV sv v)
  if t.finite then
    let e := if ltV sv.abs v.abs then rd (addV (rd (subV v t)) sv) else rd (addV (rd (subV sv t)) v)
    (t, rd (addV cv e))
  else (t, FVal.zero)

/-- Limit of additions of a class (R171). -/
def clsLimit (cls : Nat) : Nat := if cls = 1 then 2 ^ 16 else 2 ^ 20

/-! ### Level-two accumulators (R171 to R174) -/

/-- Size of a level-two record (R172). -/
def l2RecSize (w : Nat) : Nat := 64 + 16 * w * 8

/-- Local address of a record. -/
def l2Addr (s : State) (c r : Nat) : Nat :=
  scratchBase + c * 0x2000000 + (s.core c).prog.l2Off + r * l2RecSize (widthOf s c)

/-- The lowest free record (R172). -/
def l2Free (s : State) (c : Nat) : Option Nat :=
  let n := (s.core c).prog.l2Size / l2RecSize (widthOf s c)
  (rangeFrom 0 n).find? (fun r => !(s.core c).segs.any (fun p => decide (p.2.l2 = some r)))

/-- Format of the levels of a class (R172, R173). -/
def l2Fmt (cls : Nat) : FFmt := if cls = 2 then .fp64 else .fp32

/-- The values of a level. -/
def l2Level (s : State) (base w cls k : Nat) : List FVal :=
  (rangeFrom 0 w).map (fun j => decodeF (l2Fmt cls) (s.num (base + 64 + (k * w + j) * 8) 8))

/-- Write a level. -/
def l2Put (s : State) (base w cls k : Nat) (vs : List FVal) : State :=
  s.setBytes (base + 64 + k * w * 8) (vs.flatMap (fun v => leBytes 8 (rneF (l2Fmt cls) v)))

/-- Element-wise sum in the format of a class's levels, the left operand first (R173). -/
def l2Sum (cls : Nat) (a b : List FVal) : List FVal :=
  (a.zip b).map (fun p => decodeF (l2Fmt cls) (rneF (l2Fmt cls) (addV p.1 p.2)))

/-- The place of a level-two record in its core's scratch, for `State.meetCore`. -/
def l2Words (s : State) (c r : Nat) : Nat × Nat × Nat :=
  (0, (s.core c).prog.l2Off + r * l2RecSize (widthOf s c), l2RecSize (widthOf s c))

/-- The words that a row segment's values lie in: its own, its compensation in class C, and its level-two record. -/
def segWords (s : State) (c bank row sub : Nat) (l2 : Bool) : List (Nat × Nat × Nat) :=
  let w := widthOf s c
  let g := (s.core c).seg bank row sub
  accWords bank row (sub * w) w :: ((if g.cls = 2 then [accWords 1 row (sub * w) w] else []) ++
    (if l2 then (g.l2.map (l2Words s c)).toList else []))

/-- The carries of a spill (R173): from a level with the values in hand and the valid bits; structural on the levels
left. -/
def l2Carry (s : State) (base w cls : Nat) : Nat → Nat → Nat → List FVal → State × Nat
  | 0, k, valid, v =>
    let v' := if bitOf valid k then l2Sum cls (l2Level s base w cls k) v else v
    (l2Put s base w cls k v', Nat.lor valid (2 ^ k))
  | fuel + 1, k, valid, v =>
    if bitOf valid k then l2Carry s base w cls fuel (k + 1) (valid - 2 ^ k) (l2Sum cls (l2Level s base w cls k) v)
    else (l2Put s base w cls k v, Nat.lor valid (2 ^ k))

/-- The live values of a segment as the spill and the fold take them: s + c rounded to FP64 in class C, s in class G
(R173, R174). -/
def segLive (s : State) (c bank row sub cls : Nat) : List FVal :=
  let w := widthOf s c
  let a := (accCodes s c bank row (sub * w) w).map f32
  if cls = 2 then (a.zip ((accCodes s c 1 row (sub * w) w).map f32)).map (fun p => r64 (addV p.1 p.2)) else a

/-- The header of a record (R172). -/
def l2Header (valid row sub cls n : Nat) : List Byte :=
  leBytes 2 valid ++ leBytes 2 row ++ leBytes 1 sub ++ leBytes 1 cls ++ leBytes 2 n ++ leBytes 56 0

/-- A spill (R171, R173): the segment takes the lowest free record at its first spill, its values go through the levels,
and it restarts in the same class under the next segment number. False when no record is free (R176). -/
def spillSeg (s0 : State) (c bank row sub : Nat) : Bool × State :=
  let s := s0.meetCore c (segWords s0 c bank row sub true)
  let g := (s.core c).seg bank row sub
  let w := widthOf s c
  let fresh := g.l2.isNone
  match (match g.l2 with | some r => some r | none => l2Free s c) with
  | none => (false, s)
  | some r =>
    let base := l2Addr s c r
    let valid := if fresh then 0 else s.num base 2
    let (s1, valid') := l2Carry s base w g.cls 15 0 valid (segLive s c bank row sub g.cls)
    let s2 := s1.setBytes base (l2Header valid' row sub g.cls (g.spilled + 1))
    let z := List.replicate w 0
    let s3 := putAcc s2 c bank row (sub * w) z
    let s4 := if g.cls = 2 then putAcc s3 c 1 row (sub * w) z else s3
    (true, s4.onCore c (fun k => k.setSeg bank row sub
      { g with count := 0, segNo := (g.segNo + 1) % 2 ^ 15, spilled := (g.spilled + 1) % 2 ^ 16, l2 := some r }))

/-- The fold of a spilled segment over its valid levels, the older segments first (R174). -/
def foldLevels (s : State) (base w cls valid : Nat) (v : List FVal) : List FVal :=
  (rangeFrom 0 16).foldl (fun a k => if bitOf valid k then l2Sum cls (l2Level s base w cls k) a else a) v

/-- Finalisation of a row segment before an X-stream instruction reads it (R166, R174): an unclassed segment keeps its values and becomes
classless (R175). -/
def finalSeg (s0 : State) (c bank row sub : Nat) : State :=
  let g := (s0.core c).seg bank row sub
  if g.cls = 0 then s0 else
    let s := s0.meetCore c (segWords s0 c bank row sub true)
    let w := widthOf s c
    let live := segLive s c bank row sub g.cls
    let vals : List FVal := match g.l2 with
      | some r => foldLevels s (l2Addr s c r) w g.cls (s.num (l2Addr s c r) 2) live
      | none => if g.cls = 2 then
          ((accCodes s c bank row (sub * w) w).zip (accCodes s c 1 row (sub * w) w)).map (fun p => addV (f32 p.1) (f32 p.2))
        else live
    let s1 := if g.cls = 3 then s else putAcc s c bank row (sub * w) (vals.map (rneF .fp32))
    s1.onCore c (fun k => k.setSeg bank row sub {})

/-- Finalise the segments of a row that hold one of its first `n` columns, those that an instruction reads, and read them (R113, R166;
log 112). -/
def finalRow (s : State) (c bank row n : Nat) : State :=
  let w := widthOf s c
  ((rangeFrom 0 ((min n 512 + w - 1) / w)).foldl (fun t i => finalSeg t c bank row i) s).meetCore c [accWords bank row 0 (min n 512)]

/-- Finalise the first `n` columns of `g` rows from a row. -/
def finalRows (s : State) (c bank row g n : Nat) : State :=
  (rangeFrom row g).foldl (fun t r => finalRow t c bank r n) s

/-! ### Writes and additions (R95, R163 to R165) -/

/-- A vector write of the first columns of a row: the segments that hold a written column become classless with count 0
(R95, R163). -/
def vecWrite (s : State) (c bank row : Nat) (vs : List Nat) : State :=
  let w := widthOf s c
  let s1 := putAcc s c bank row 0 (vs.take 512)
  let touched := (min vs.length 512 + w - 1) / w
  s1.onCore c (fun k => (rangeFrom 0 touched).foldl (fun k i => k.setSeg bank row i {}) k)

/-- OVERWRITE of a row segment in a class with FP32 values (R163). -/
def segOverwrite (s : State) (c bank row sub cls : Nat) (vs : List FVal) : State :=
  let w := widthOf s c
  let codes := (vs.zip (rangeFrom 0 w)).map (fun p =>
    if cls = 1 then sr16 (drawAcc s c row (sub * w + p.2) 0 0) p.1 else rneF .fp32 p.1)
  let s1 := putAcc s c bank row (sub * w) codes
  let s2 := if cls = 2 then putAcc s1 c 1 row (sub * w) (List.replicate w 0) else s1
  s2.onCore c (fun k => k.setSeg bank row sub { cls := cls })

/-- ADD to a row segment in a class (R163 to R165, R117): the count rises. -/
def segAdd (s0 : State) (c bank row sub cls : Nat) (vs : List FVal) : State :=
  let s := s0.meetCore c (segWords s0 c bank row sub false)
  let w := widthOf s c
  let g0 := (s.core c).seg bank row sub
  let start := decide (g0.cls = 0)
  let g : Seg := if start then { cls := cls } else g0
  let cnt := g.count + 1
  let old := (accCodes s c bank row (sub * w) w).map f32
  if cls = 2 then
    let comp := if start then List.replicate w FVal.zero else (accCodes s c 1 row (sub * w) w).map f32
    let rs := ((old.zip comp).zip vs).map (fun p => addC r32 p.1.1 p.1.2 p.2)
    let s1 := putAcc (putAcc s c bank row (sub * w) (rs.map (fun p => rneF .fp32 p.1))) c 1 row (sub * w)
      (rs.map (fun p => rneF .fp32 p.2))
    s1.onCore c (fun k => k.setSeg bank row sub { g with count := cnt })
  else if cls = 1 then
    let rs := ((old.zip vs).zip (rangeFrom 0 w)).map (fun p =>
      sr16 (drawAcc s c row (sub * w + p.2) g.segNo cnt) (addV p.1.1 p.1.2))
    (putAcc s c bank row (sub * w) rs).onCore c (fun k => k.setSeg bank row sub { g with count := cnt })
  else
    let rs := (old.zip vs).map (fun p => rneF .fp32 (addV p.1 p.2))
    (putAcc s c bank row (sub * w) rs).onCore c (fun k => k.setSeg bank row sub { g with cls := 3 })

/-- A count that has reached the limit of its class spills the segment (R171). False when the spill finds no free record
(R176). -/
def segSpill (s : State) (c bank row sub cls : Nat) : Bool × State :=
  if (cls = 1 ∨ cls = 2) ∧ ((s.core c).seg bank row sub).count = clsLimit cls then spillSeg s c bank row sub else (true, s)

/-- OVERWRITE or ADD of the modes that do not follow the class rules (R119): OVERWRITE leaves the segment classless, ADD
combines with the bank value and leaves class, count, compensation and record as they stand. -/
def segCombine (s : State) (c bank row sub semi : Nat) (add : Bool) (vs : List FVal) : State :=
  let w := widthOf s c
  if add then
    let s := s.meetCore c [accWords bank row (sub * w) w]
    let old := (accCodes s c bank row (sub * w) w).map f32
    let f (a b : FVal) : FVal := if semi = 1 then minV a b else if semi = 2 then maxV a b else r32 (addV a b)
    putAcc s c bank row (sub * w) ((old.zip vs).map (fun p => rneF .fp32 (f p.1 p.2)))
  else (putAcc s c bank row (sub * w) (vs.map (rneF .fp32))).onCore c (fun k => k.setSeg bank row sub {})

/-- Exchange the bank A and bank B segments of a row: contents, class states, counts and records (R125). -/
def exchangeSeg (sub c : Nat) (s0 : State) (row : Nat) : State :=
  let w := widthOf s0 c
  let s := s0.meetCore c [accWords 0 row (sub * w) w, accWords 1 row (sub * w) w]
  let a := accCodes s c 0 row (sub * w) w
  let b := accCodes s c 1 row (sub * w) w
  let s1 := putAcc (putAcc s c 0 row (sub * w) b) c 1 row (sub * w) a
  s1.onCore c (fun k => (k.setSeg 0 row sub (k.seg 1 row sub)).setSeg 1 row sub (k.seg 0 row sub))

end Sys2Proof.Machine
end

