-- ==== Sys2Proof/Machine/Array.lean ====
section
/-! DEFINITION. The matrix array's arithmetic (04_matrix_array R104 to R136), Wydak numerics (R187), epilogues (R121 to
R123), and the approximations of R94 within their error bounds. -/

namespace Sys2Proof.Machine

/-- The floating-point format of an element code, block scaling aside. -/
def baseFmt (code : Nat) : FFmt :=
  match elemOf code with
  | some (.flt f _) => f
  | _ => .fp32

/-- Element `i` of a row in a format; a missing element is +0 (R484). -/
def elemAt (f : FFmt) (row : List Byte) (i : Nat) : FVal := decodeF f ((rowElems f.bits row).getD i 0)

/-- Scale `i` of a scale row; a missing scale is 1.0 (R145). The format code 0 stands for no scaling. -/
def scaleAt (fmt : Nat) (row : List Byte) (i : Nat) : FVal :=
  if fmt = 0 then FVal.one else
    match elemOf fmt with
    | some e => match (rowElems e.bits row)[i]? with
      | some c => decodeElem e c
      | none => FVal.one
    | none => FVal.one

/-- The metadata entry of a column of a group (R127): idx0 and idx1; a missing entry is 0, which is invalid (R484). -/
def metaAt (p : Plane) (g c : Nat) : Nat × Nat :=
  let e := (rowElems 4 (p.meta24.getD g [])).getD c 0
  (e % 4, e / 4)

/-- The stationary value at logical row `k` and column `c`; none is a structural zero (R127 to R129). -/
def planeAt (p : Plane) (k c : Nat) : Option FVal :=
  let f := baseFmt p.fmt
  if p.tile24 && p.sparseKind then
    let (i0, i1) := metaAt p (k / 4) c
    if i0 ≥ i1 then none
    else if k % 4 = i0 then some (elemAt f (p.vals.getD (k / 4 * 2) []) c)
    else if k % 4 = i1 then some (elemAt f (p.vals.getD (k / 4 * 2 + 1) []) c)
    else none
  else some (elemAt f (p.vals.getD k []) c)

/-- Logical rows of a tile (R90): 256 for a 2:4 tile, else 128. -/
def Plane.depth (p : Plane) : Nat := if p.tile24 then 256 else 128

/-- Elements of a format that a row holds. -/
def elemsIn (f : FFmt) (row : List Byte) : Nat := row.length * 8 / f.bits

/-- The stationary scale at a logical row and column: column blocks of 32 rows; a scale beyond the last column that the value rows hold
is ignored (R145). -/
def planeScale (p : Plane) (k c : Nat) : FVal :=
  if elemsIn (baseFmt p.fmt) (p.vals.getD 0 []) ≤ c then FVal.one else scaleAt p.scaleFmt (p.scales.getD (k / 32) []) c

/-- A streamed input row: format code, its bytes, and its scales (row blocks, R145). -/
structure InRow where
  fmt : Nat
  row : List Byte
  scaleFmt : Nat := 0
  scales : List Byte := []
  deriving DecidableEq, Repr, Inhabited

/-- A scaled element of an input row; a scale beyond the row's last block is ignored (R145). -/
def InRow.at_ (x : InRow) (k : Nat) : FVal :=
  if elemsIn (baseFmt x.fmt) x.row ≤ k / 32 * 32 then FVal.zero
  else mulV (elemAt (baseFmt x.fmt) x.row k) (scaleAt x.scaleFmt x.scales (k / 32))

/-- The exact product at a position; a structural zero contributes +0 whatever the input (R116, R129). -/
def prodAt (p : Plane) (x : InRow) (c k : Nat) : FVal :=
  match planeAt p k c with
  | none => FVal.zero
  | some v => mulV (x.at_ k) (mulV v (planeScale p k c))

/-- The rounded sum of one K-block of 128 logical rows (R116). -/
def kBlock (p : Plane) (x : InRow) (c b : Nat) : FVal := r32 (sumExact ((rangeFrom (128 * b) 128).map (prodAt p x c)))

/-- The MUL_ADD output of a column (R116). -/
def mulAddCol (p : Plane) (x : InRow) (c : Nat) : FVal :=
  if p.tile24 then r32 (addV (kBlock p x c 0) (kBlock p x c 1)) else kBlock p x c 0

/-- The element term of a semiring mode (R119). -/
def semiTerm (semi : Nat) (a w thr : FVal) : FVal :=
  let d := subV a w
  if semi = 1 ∨ semi = 2 then addV a w
  else if semi = 3 then mulV d d
  else if semi = 4 then d.abs
  else if !d.isNan && !thr.isNan && !ltV thr d.abs then FVal.one else FVal.zero

/-- A column's result in a semiring mode other than MUL_ADD, rounded once (R119). -/
def semiCol (semi : Nat) (thr : FVal) (p : Plane) (x : InRow) (c : Nat) : FVal :=
  let terms := (rangeFrom 0 p.depth).map (fun k =>
    semiTerm semi (x.at_ k) (mulV ((planeAt p k c).getD FVal.zero) (planeScale p k c)) thr)
  let red (f : FVal → FVal → FVal) : FVal := match terms with
    | [] => FVal.zero
    | t :: ts => ts.foldl f t
  r32 (if semi = 1 then red minV else if semi = 2 then red maxV else sumExact terms)

/-- Truncation toward zero to a multiple of 2^q. -/
def truncAt (q : Int) : FVal → FVal
  | .num s m e => let (n, _, _) := scaleDiv m e q; .num s n q
  | v => v

/-- A group sum of Wydak numerics (R187): each product truncated to a multiple of 2^(E − 17), summed, and taken to FP32
toward zero. -/
def wydakGroup (p : Plane) (x : InRow) (c g : Nat) : FVal :=
  let ps := (rangeFrom (32 * g) 32).map (prodAt p x c)
  let big := amaxOf ps
  if ps.any (fun v => !v.finite) then sumExact ps
  else match big with
    | .num _ m e => if m = 0 then FVal.zero else r32tz (sumExact (ps.map (truncAt ((log2 m : Int) + e - 17))))
    | _ => FVal.zero

/-- A Wydak output from the value it starts at: groups 0 to 3 added in order toward zero (R187). -/
def wydakCol (p : Plane) (x : InRow) (c : Nat) (start : FVal) : FVal :=
  [0, 1, 2, 3].foldl (fun a g => r32tz (addV a (wydakGroup p x c g))) start

/-- An output in Wydak numerics mode. The mode admits only MUL_ADD on dense tiles (R118); what it gives elsewhere is open
(log 113). -/
def wydakVal (semi : Nat) (thr : FVal) (p : Plane) (x : InRow) (c : Nat) (start : FVal) : FVal :=
  if semi = 0 ∧ p.tile24 = false then wydakCol p x c start
  else f32 (Config.wydakOpen [p.vals, p.meta24, p.scales, [x.row, x.scales]]
    [semi, rneF .fp32 thr, p.fmt, p.scaleFmt, b2n p.tile24, b2n p.sparseKind, x.fmt, x.scaleFmt, c, rneF .fp32 start])

/-- The output values of an input row over the `w` columns of a sub-array. -/
def arrayRow (semi : Nat) (thr : FVal) (p : Plane) (x : InRow) (w : Nat) : List FVal :=
  (rangeFrom 0 w).map (fun c => if semi = 0 then mulAddCol p x c else semiCol semi thr p x c)

/-! ### Approximations (R94, R122; log 8) -/

/-- A sign and a magnitude within a bound of a value, as a code of a format. -/
def approx (f : FFmt) (ulps tag a : Nat) (neg : Bool) (m : Nat) (e : Int) : Nat :=
  let c := pickNear f ulps (Config.pickUlp tag a 0) m e false
  if neg then f.signBit + c else c

/-- VEXP (R94). -/
def vexp (f : FFmt) (a : Nat) : Nat :=
  match decodeF f a with
  | .nan => f.nan
  | .inf s => if s then 0 else (2 ^ f.eb - 1) * 2 ^ f.mb
  | .num s m e =>
    let (em, ee) := expMag s m e
    if m = 0 then approx f (if f = .fp64 then 2 else 1) opVEXP a false 1 0
    else approx f (if f = .fp64 then 2 else 1) opVEXP a false (2 * em + 1) (ee - 1)

/-- VRCP (R94). -/
def vrcp (f : FFmt) (a : Nat) : Nat :=
  match decodeF f a with
  | .nan => f.nan
  | .inf s => if s then f.signBit else 0
  | .num s m e =>
    if m = 0 then (if s then f.signBit else 0) + (2 ^ f.eb - 1) * 2 ^ f.mb
    else
      let sh := 200 + log2 m
      let sticky := if 2 ^ sh % m = 0 then 0 else 1
      approx f (if f = .fp64 then 2 else 1) opVRCP a s (2 * (2 ^ sh / m) + sticky) (-e - sh - 1)

/-- VRSQRT (R94). The reciprocal square root of −0 is −∞ and of a negative value NaN, as IEEE 754-2019 has them for
rSqrt (log 8). -/
def vrsqrt (f : FFmt) (a : Nat) : Nat :=
  match decodeF f a with
  | .nan => f.nan
  | .inf s => if s then f.nan else 0
  | .num s m e =>
    if m = 0 then (if s then f.signBit else 0) + (2 ^ f.eb - 1) * 2 ^ f.mb
    else if s then f.nan
    else
      let (m, e) := if e % 2 = 0 then (m, e) else (2 * m, e - 1)
      let k := 200 + log2 m
      let q := isqrt (2 ^ (2 * k) / m)
      let sticky := if q * q * m = 2 ^ (2 * k) then 0 else 1
      approx f (if f = .fp64 then 2 else 1) opVRSQRT a false (2 * q + sticky) (-(e / 2) - k - 1)

/-- σ(y) = 1 / (1 + e^−y) of a signed magnitude, as mantissa and exponent to 300 bits. -/
def sigmoidMag (neg : Bool) (m : Nat) (e : Int) : Nat × Int :=
  let (em, ee) := expMag true m e
  let den : Nat := 2 ^ 640 + (scaleDiv em ee (-640)).1
  if neg then (em * 2 ^ 960 / den, ee - 320) else (2 ^ 1600 / den, -960)

/-- √(2/π) in units of 2^−128, rounded down. -/
def sqrt2OverPi : Nat := 271506046879672464325182014351570923903

/-- An activation (R122): 0 none, 1 ReLU, 2 leaky ReLU, 3 GELU in tanh form, 4 SiLU, 5 sigmoid, 6 tanh, 7 clamp, on an FP32
code with the words act_a and act_b. -/
def activation (act actA actB a : Nat) : Nat :=
  let f := FFmt.fp32
  let v := f32 a
  let ap (neg : Bool) (m : Nat) (e : Int) : Nat := approx f 2 (0x200 + act) a neg m e
  if v.isNan then f.nan
  else match act with
  | 0 => a
  | 1 => rneF f (maxV v FVal.zero)
  | 2 => if ltV v FVal.zero then rneF f (mulV (f32 actA) v) else a
  | 7 => rneF f (minV (maxV v (f32 actB)) (f32 actA))
  | 3 => match v with
    | .inf s => if s then f.signBit else a
    | .num s m e =>
      -- 2u = 2·√(2/π)·(x + 0.044715·x³), kept to 128 bits; GELU = x·σ(2u)
      let x2 := addV (.num s (1000000 * m) e) (.num s (44715 * m * m * m) (3 * e))
      match x2 with
      | .num _ n q =>
        let (gm, ge) := sigmoidMag s (n * sqrt2OverPi * 2 ^ 64 / 1000000) (q - 128 - 64 + 1)
        ap s (2 * (gm * m) + 1) (ge + e - 1)
      | _ => f.nan
    | .nan => f.nan
  | 4 => match v with
    | .inf s => if s then f.signBit else a
    | .num s m e => let (gm, ge) := sigmoidMag s m e; ap s (2 * (gm * m) + 1) (ge + e - 1)
    | .nan => f.nan
  | 5 => match v with
    | .inf s => if s then 0 else rneF f FVal.one
    | .num s m e => let (gm, ge) := sigmoidMag s m e; ap false (2 * gm + 1) (ge - 1)
    | .nan => f.nan
  | _ => match v with
    | .inf s => rneF f (.num s 1 0)
    | .num s m e =>
      -- tanh x = 2·σ(2x) − 1
      let (gm, ge) := sigmoidMag false m (e + 1)
      match subV (.num false gm (ge + 1)) FVal.one with
      | .num _ n q => ap s n q
      | _ => f.nan
    | .nan => f.nan

/-! ### Epilogues (R121 to R123) -/

/-- The rounding that an epilogue's round field names. -/
def rndOf (r : Nat) : Rnd := if r = 0 then .rne else if r = 1 then .rtz else .sr

/-- Conversion of an epilogue's FP32 result to the format of qout, as CVT with sat 1 (R121, R155). -/
def epiConv (s : State) (c : Nat) (f : FFmt) (rnd tid idx : Nat) (v : FVal) : Nat :=
  convF f (rndOf rnd) true (drawAt (seedOf s) (s.core c).step tid idx) v

/-- The split-mode epilogue of one value (R122). -/
def epiSplit (s : State) (c : Nat) (w0 w1 w2 : Nat) (f : FFmt) (cs bs : List Nat) (j idx : Nat) (y : FVal) : Nat :=
  let y1 := if bitOf w0 4 then r32 (mulV y (f32 (bitsOf w0 63 32))) else y
  let y2 := if bitOf w0 0 then r32 (mulV y1 (f32 (cs.getD j 0))) else y1
  let y3 := if bitOf w0 1 then r32 (addV y2 (f32 (bs.getD j 0))) else y2
  let y4 := activation (bitsOf w0 15 12) (bitsOf w1 63 32) (bitsOf w1 31 0) (rneF .fp32 y3)
  epiConv s c f (bitsOf w0 3 2) (bitsOf w2 63 32) idx (f32 y4)

/-- The pairwise tree of R98 by levels: neighbours combine, a lone last value passes up unchanged. Structural on the
levels. -/
def pairTree {α : Type} (f : α → α → α) : Nat → List α → List α
  | 0, l => l
  | n + 1, l => pairTree f n (pairUp f l)
where
  pairUp (f : α → α → α) : List α → List α
    | [] => []
    | [a] => [a]
    | a :: b :: t => f a b :: pairUp f t

/-- The value at the root of the pairwise tree over a list. -/
def treeOf {α : Type} (d : α) (f : α → α → α) (l : List α) : α := (pairTree f (log2 l.length + 1) l).headD d

/-- The statistics pair of the whole-mode epilogue for one row (R123): running maximum and running sum, as codes. Each difference,
the product and the final addition is rounded to FP32 (log 123). -/
def epiStats (m0 s0 : Nat) (ys : List FVal) : Nat × Nat :=
  let m := match ys with
    | [] => FVal.inf true
    | y :: t => t.foldl maxV y
  let mn := maxV (f32 m0) m
  let ex (v : FVal) : FVal := f32 (vexp .fp32 (rneF .fp32 v))
  let tree := treeOf FVal.zero (fun a b => r32 (addV a b)) (ys.map (fun y => ex (r32 (subV y mn))))
  let sn := r32 (addV (r32 (mulV (f32 s0) (ex (r32 (subV (f32 m0) mn))))) tree)
  (rneF .fp32 mn, if mn = .inf true then 0 else rneF .fp32 sn)

end Sys2Proof.Machine
end

