-- ==== Sys2Proof/Machine/Update.lean ====
section
/-! DEFINITION. The arithmetic of an optimiser step (06_training_numerics R180, R181), shared by UPDATE and the row
appliers. -/

namespace Sys2Proof.Machine

/-- The spacing of a format at a stored weight (R181): to the next larger magnitude, or below the largest finite value
there; zero for a weight that is not finite. -/
def spacing (f : FFmt) (code : Nat) : FVal :=
  let c := code % f.signBit
  if !(decodeF f code).finite then FVal.zero
  else
    let hi := if c = f.maxFin then c else c + 1
    subV (.num false (magOf f hi).1 (magOf f hi).2) (.num false (magOf f (hi - 1)).1 (magOf f (hi - 1)).2)

/-- 2^n as a value. -/
def twoTo (n : Int) : FVal := .num false 1 n

/-- dec(k) of R181 for a b-bit remainder with a spacing. -/
def remDec (b k : Nat) (sp : FVal) : FVal :=
  mulV (mulV (ofInt false (signedOf b k) 0) sp) (twoTo (-(b : Int)))

/-- enc(e) of R181: e over the spacing times 2^b, rounded to nearest-even and clamped. -/
def remEnc (b : Nat) (e sp : FVal) : Nat :=
  match divV e sp with
  | .num s m x => wrapInt b (max (-(2 ^ (b - 1) : Nat)) (min ((2 ^ (b - 1) : Nat) - 1) (roundInt .rne s m (x + b))))
  | _ => 0

/-- The new weight and moments of R180: parameters as FP32 codes, gradient, weight and moments as values. -/
def updArith (p : List Nat) (lr opt : Nat) (gin w m v : FVal) : FVal × FVal × FVal :=
  let P (i : Nat) : FVal := f32 (p.getD i 0)
  let fm (a b c : FVal) : FVal := r32 (fmaV a b c)
  let ml (a b : FVal) : FVal := r32 (mulV a b)
  let g := ml gin (P 4)
  let step (d : FVal) : FVal := fm ((f32 lr).negate) d w
  if opt = 0 then (step (fm (P 3) w g), m, v)
  else if opt = 1 then
    let m1 := fm (P 0) m (fm (P 3) w g)
    (step m1, m1, v)
  else
    let om (i : Nat) : FVal := r32 (subV FVal.one (P i))
    let m1 := fm (P 0) m (ml (om 0) g)
    let v1 := fm (P 1) v (ml (om 1) (ml g g))
    let q := ml v1 (P 6)
    let den := if q.isZero then P 2 else fm q (f32 (vrsqrt .fp32 (rneF .fp32 q))) (P 2)
    let d := fm (P 3) w (ml (ml m1 (P 5)) (f32 (vrcp .fp32 (rneF .fp32 den))))
    (step d, m1, v1)

end Sys2Proof.Machine
end

