-- ==== Sys2Proof/Machine/Emb.lean ====
section
/-! DEFINITION. Row appliers (09_embedding_tables R247 to R261, R268, R269): the directory, gradient records arriving, and
the application of a step. -/

namespace Sys2Proof.Machine

/-! ### The directory of this device (R247 to R250) -/

/-- The descriptor of a table in the registry (R254, R272): its local address and its fields. -/
def State.registered (s : State) (id : Nat) : Option Table :=
  let reg := (s.reg EMB_TABLE_REG).toNat % 2 ^ 48
  let g := s.num (reg + 8 * id) 8
  if g = 0 then none else parseTable (g % 2 ^ 48) (s.bytes (g % 2 ^ 48) 64)

/-- The reads that the look-up of a row's place makes beside its entry: the range table of a ranged table (R248). -/
def entryReads (t : Table) : List (Nat × Nat) := if t.ranged then [(t.ranges, 16 * t.rangeCount)] else []

/-- The reads that a look-up of a table in the registry makes: its registry entry, the descriptor that it names, and its range table. -/
def tableReads (s : State) (id : Nat) : List (Nat × Nat) :=
  let a := (s.reg EMB_TABLE_REG).toNat % 2 ^ 48 + 8 * id
  (a, 8) :: (if s.num a 8 = 0 then [] else (s.num a 8 % 2 ^ 48, 64) :: ((s.registered id).map entryReads).getD [])

/-- Whether a look-up of a table in the registry must wait for a pasture (R299). -/
def tableWaits (s : State) (id : Nat) : Bool := (tableReads s id).any (fun q => waitsFor s q.1 q.2)

/-- Whether a table is registered with a descriptor that has a fault (R246). -/
def tableFaulty (s : State) (id : Nat) : Bool :=
  decide (s.num ((s.reg EMB_TABLE_REG).toNat % 2 ^ 48 + 8 * id) 8 ≠ 0) && (s.registered id).isNone

/-- What a table with a faulty descriptor causes: the flag and record 0x7013, by the unit that met it (R246). -/
def tableFault (s : State) (kind inst : Nat) : State := (s.flag EMB_ERR EMB_ERR_descriptor).logFree 0x7013 kind inst

/-- The range that holds an id: the last entry whose first id is at most it. Structural on the number of entries. -/
def rangeOf (s : State) (base id : Nat) : Nat → Option RangeEnt
  | 0 => none
  | n + 1 =>
    let e := rangeEnt (s.bytes (base + 16 * n) 16)
    if e.first ≤ id then some e else rangeOf s base id n

/-- Where a row's entry lies: the device and the address (R248, R250). The base that a descriptor names serves for every
device of a ranged table (log 35). -/
def entryAt (s : State) (t : Table) (row : Nat) : Option (Nat × Nat) :=
  if t.ranged then (rangeOf s t.ranges row t.rangeCount).map (fun r => (r.dev, t.base + 8 * (r.base + (row - r.first))))
  else some (s.devId, t.base + 8 * row)

/-- This device's own entry of a row, with its address. -/
def ownEntry (s : State) (t : Table) (row : Nat) : Option (Nat × DirEnt) :=
  match entryAt s t row with
  | some (dev, a) => if dev = s.devId then some (a, dirEnt (s.num a 8)) else none
  | none => none

/-! ### Records arriving (R254, R255) -/

/-- Bytes of each half of a record area. -/
def halfSize (s : State) (p : Nat) : Nat := s.fld (EMB_REC p) EMB_REC_size_mib * 2 ^ 20 / 2

/-- The base of a half of a record area; `odd` is its parity. -/
def halfBase (s : State) (p : Nat) (odd : Bool) : Nat :=
  s.fld (EMB_REC p) EMB_REC_base * 2 ^ 20 + (if odd then halfSize s p else 0)

/-- Bytes used in a half. -/
def halfUsed (s : State) (p : Nat) (odd : Bool) : Nat :=
  16 * (if odd then s.fld (EMB_STATUS p) EMB_STATUS_used_odd else s.fld (EMB_STATUS p) EMB_STATUS_used_even)

/-- Set the bytes used in a half; the state is idle when neither holds a record. -/
def setUsed (s : State) (p : Nat) (odd : Bool) (n : Nat) : State :=
  let s1 := s.setFld (EMB_STATUS p) (if odd then EMB_STATUS_used_odd else EMB_STATUS_used_even) (n / 16)
  s1.setFld (EMB_STATUS p) EMB_STATUS_state (if halfUsed s1 p false = 0 ∧ halfUsed s1 p true = 0 then 0 else 1)

/-- Whether a half refuses the rest of its step. -/
def Applier.refusing (x : Applier) (odd : Bool) : Bool := if odd then x.refO else x.refE

/-- Set whether a half refuses. -/
def Applier.setRefusing (x : Applier) (odd v : Bool) : Applier := if odd then { x with refO := v } else { x with refE := v }

/-- A record is refused for its content (R254), with the parameters of R243: pasture, sender and the location that it was sent to. -/
def refuseRecord (s : State) (p dev slot : Nat) : State :=
  ((s.flag EMB_ERR EMB_ERR_record_refused).count (EMB_BAD_RECORDS p) 1).log 0x7011 3 p p dev (slot % 2 ^ 32) (slot / 2 ^ 32 % 2 ^ 16)

/-- Signed lag of a step number behind this device's own (R269). -/
def stepLag (s : State) (stepLo : Nat) : Int := modDiff 8 s.stepLo stepLo

/-- A gradient record is stored in its half, or refused with the rest of its step (R254, R255, R272). -/
def storeRecord (s : State) (p dev : Nat) (h : GradHead) (b : List Byte) : Nat × Nat × State :=
  let odd := decide (h.stepLo % 2 = 1)
  let x := s.applier p
  let n := gradSize h.ncols
  let used := halfUsed s p odd
  if x.refusing odd then (0x0B, 0, s.count (EMB_BAD_RECORDS p) 1)
  else if halfSize s p < used + n then
    (0x0B, 0, ((((s.setApplier p (x.setRefusing odd true)).flag EMB_ERR EMB_ERR_rec_full).count (EMB_BAD_RECORDS p) 1).log 0x7010 3 p p dev
      h.table (h.row % 2 ^ 32)))
  else
    let (ue, s1) := s.writeMem (halfBase s p odd + used) (padTo n 0 b)
    if ue then (0x06, 0, s1) else (0, 0, (setUsed s1 p odd (used + n)).wide (EMB_RECORDS p) 1)

/-- A gradient record for a slot reaches the row applier of the slot's pasture from a device (R254, R255, R268, R269): the answer's
status, with the new entry where it is forwarded: a stub is held at the slot, or this device's entry names another home. -/
def recordIn (s : State) (slot dev : Nat) (b : List Byte) : Nat × Nat × State :=
  let h := gradHead b
  let p := pastureOf slot % 8
  let (ue, s1) := s.touch (tableReads s h.table)
  if stepLag s h.stepLo ≥ 2 then (0x07, 0, s)
  else match s.stubAt slot with
    | some k => (0x0A, k.entry, s.nsrForward p)
    | none =>
      if ue then (0x06, 0, s1)
      else match s.registered h.table with
        | none => (0x02, 0, if tableFaulty s h.table then tableFault s1 3 p else refuseRecord s1 p dev slot)
        | some t =>
          if t.rows ≤ h.row then (0x02, 0, refuseRecord s1 p dev slot)
          else match ownEntry s t h.row with
            | none => (0x02, 0, refuseRecord s1 p dev slot)
            | some (ea, e) =>
              let (ue2, s2) := s1.touch [(ea, 8)]
              if ue2 then (0x06, 0, s2)
              else if !e.unplaced && (decide (e.dev ≠ s.devId) || decide (e.addr ≠ slot)) then (0x0A, e.word, s2.nsrForward p)
              else if e.unplaced || decide (t.elems < h.col0 + h.ncols) then (0x02, 0, refuseRecord s2 p dev slot)
              else storeRecord s2 p dev h b

/-! ### Slots as data (R251, R258, R259) -/

/-- The base format of a class's values. -/
def clsFmt (cls : Nat) : FFmt := if cls = 0 then .fp32 else if cls = 1 then .bf16 else if cls = 2 then .e4m3 else .p4

/-- The codes of a slot's values. -/
def slotCodes (t : Table) (cls : Nat) (b : List Byte) : List Nat :=
  (rowElems (clsFmt cls).bits (b.take (valBytes cls t.elems))).take t.elems

/-- The row scale of a slot; 1 for classes without one. -/
def slotScale (t : Table) (cls : Nat) (b : List Byte) : FVal :=
  if hasScale cls then decodeF .fp16 (fieldAt b (valBytes cls t.elems) 2) else FVal.one

/-- The spacing that remainders of a class are held against (R181, R258). -/
def slotSpacing (cls code : Nat) (scale : FVal) : FVal :=
  if hasScale cls then mulV (spacing (clsFmt cls) code) scale else spacing (clsFmt cls) code

/-- The weights of a slot as an application decodes them: w + dec(r) (R180, R258, R271). -/
def slotWeights (t : Table) (cls : Nat) (b : List Byte) : List FVal :=
  let sc := slotScale t cls b
  let cs := slotCodes t cls b
  let bits := if t.rem16 then 16 else 8
  let rs := rowElems bits ((b.drop (remOff cls t.elems)).take (remBytes t cls))
  (cs.zip (rangeFrom 0 t.elems)).map (fun p =>
    let w := if hasScale cls then mulV (decodeF (clsFmt cls) p.1) sc else decodeF (clsFmt cls) p.1
    if remBytes t cls = 0 then w else r32 (addV w (remDec bits (rs.getD p.2 0) (slotSpacing cls p.1 sc))))

/-- The optimiser state of a slot: moment `j` as FP32 codes. -/
def slotMoment (t : Table) (cls j : Nat) (b : List Byte) : List Nat :=
  rowElems 32 ((b.drop (stateOff t cls + j * t.elems * 4)).take (t.elems * 4))

/-- The draw of a W16 row without remainders (R259). -/
def rowDraw (s : State) (t : Table) (row col : Nat) : Nat :=
  philox (seedOf s) (s.reg COL_STEP).toNat (0xFFFD0000 + t.id) (row % 2 ^ 32) (bitsOf row 39 32 * 4096 + col)

/-- Lay a part over bytes at an offset. -/
def layAt (off : Nat) (part base : List Byte) : List Byte := base.take off ++ part ++ base.drop (off + part.length)

/-- A slot of a class that holds new weights and moments (R258). The bytes between its parts stay as in `old` (log 116). -/
def encodeSlot (s : State) (t : Table) (cls row : Nat) (old : List Byte) (ws : List FVal) (ms : List (List Nat)) : List Byte :=
  let f := clsFmt cls
  let scCode := chooseFp16 f (amaxOf (ws.filter FVal.finite))
  let sc := if hasScale cls then decodeF .fp16 scCode else FVal.one
  let noRem := decide (remBytes t cls = 0)
  let code (p : FVal × Nat) : Nat :=
    if cls = 0 then rneF .fp32 p.1
    else if hasScale cls then convF f .rne true 0 (divV p.1 sc)
    else convF f (if noRem then .sr else .rne) true (rowDraw s t row p.2) p.1
  let cs := (ws.zip (rangeFrom 0 t.elems)).map code
  let bits := if t.rem16 then 16 else 8
  let rs := (ws.zip cs).map (fun p =>
    if p.1.finite then
      let w := if hasScale cls then mulV (decodeF f p.2) sc else decodeF f p.2
      remEnc bits (subV p.1 w) (slotSpacing cls p.2 sc)
    else 0)
  let vals := padTo (valBytes cls t.elems) 0 (rowBytes f.bits cs) ++ (if hasScale cls then leBytes 2 scCode else [])
  let b0 := layAt 0 vals (padTo (slotSize t cls) 0 old)
  let b1 := if noRem then b0 else layAt (remOff cls t.elems) (rowBytes bits rs) b0
  if t.opt = 0 then b1 else layAt (stateOff t cls) ((ms.take t.opt).map (rowBytes 32)).flatten b1

/-! ### Application (R256 to R261) -/

/-- The records of a half. Structural on the fuel. -/
def records (b : List Byte) : Nat → List (GradHead × List Nat)
  | 0 => []
  | fuel + 1 =>
    if b.length < 16 then [] else
      let h := gradHead b
      (h, rowElems 32 ((b.drop 16).take (4 * h.ncols))) :: records (b.drop (gradSize h.ncols)) fuel

/-- The rows that records touch, in order of first appearance. -/
def touchedRows (l : List (GradHead × List Nat)) : List (Nat × Nat) :=
  l.foldl (fun a p => if a.contains (p.1.table, p.1.row) then a else a ++ [(p.1.table, p.1.row)]) []

/-- The gradient of a column: the exact sum of the records that cover it, rounded once (R257). -/
def columnGrad (l : List (GradHead × List Nat)) (c : Nat) : FVal :=
  let hit := l.filter (fun p => decide (p.1.col0 ≤ c) && decide (c < p.1.col0 + p.1.ncols))
  f32 ((hit.foldl (fun (a : Col) p => a.addTerm (f32 (p.2.getD (c - p.1.col0) 0))) {}).final 1 hit.length)

/-- An application at a slot marks the KiB of a running migration that were copied (R265). A copy within the device is made
in one step, so nothing of it is copied in COPY. -/
def Mig.soil (own size : Nat) (m : Mig) : Mig :=
  if m.state = 0 ∧ m.dev = own then m
  else { m with state := if m.state = 1 then 2 else m.state, dirty := rangeFrom 0 ((size + 1023) / 1024) }

/-- Mark the migrations of a row. -/
def soilRow (s : State) (table row size : Nat) : State :=
  [0, 1].foldl (fun s n =>
    let x := s.trh n
    s.setTrh n { x with migs := x.migs.map (fun m => if m.table = table ∧ m.row = row then m.soil s.devId size else m) }) s

/-- A placed row's new slot, from the records that name it and the bytes of its slot (R257, R258). -/
def updatedSlot (s : State) (t : Table) (e : DirEnt) (row : Nat) (mine : List (GradHead × List Nat)) (b : List Byte) : List Byte :=
  let par := rowElems 32 (s.bytes t.params 64)
  let ws := slotWeights t e.cls b
  let m := padTo t.elems 0 (if t.opt = 0 then [] else slotMoment t e.cls 0 b)
  let v := padTo t.elems 0 (if t.opt = 2 then slotMoment t e.cls 1 b else [])
  let res := (ws.zip (rangeFrom 0 t.elems)).map (fun q =>
    updArith par (par.getD 7 0) t.opt (columnGrad mine q.2) q.1 (f32 (m.getD q.2 0)) (f32 (v.getD q.2 0)))
  encodeSlot s t e.cls row b (res.map (·.1)) [res.map (fun r => rneF .fp32 r.2.1), res.map (fun r => rneF .fp32 r.2.2)]

/-- Apply the records of one row (R257, R258, R260). A row whose table has a faulty descriptor is not used (R246), and one whose
descriptor, parameters, entry or slot is uncorrectable is not written (log 132). -/
def applyRow (l : List (GradHead × List Nat)) (p : Nat) (s : State) (tr : Nat × Nat) : State :=
  let (ue, s0) := s.touch (tableReads s tr.1)
  if ue then s0
  else match s.registered tr.1 with
  | none => if tableFaulty s tr.1 then tableFault s0 3 p else s0
  | some t =>
    match ownEntry s t tr.2 with
    | none => s0
    | some (ea, e) =>
      if e.unplaced || decide (e.dev ≠ s.devId) || decide (e.pasture ≠ p) || decide (3 < e.cls) then s0
      else
        let mine := l.filter (fun q => decide (q.1.table = tr.1) && decide (q.1.row = tr.2))
        let (ue1, s1) := s0.touch [(ea, 8), (t.params, 64)]
        let (b, ue2, s2) := s1.readMem e.addr (slotSize t e.cls)
        if ue1 || ue2 then s2
        else
          let s3 := (s2.writeMem e.addr (updatedSlot s t e tr.2 mine b)).2
          let s4 := (s3.writeMem ea (leBytes 8 ({ e with ver := (e.ver + 1) % 4096 } : DirEnt).word)).2
          (soilRow s4 tr.1 tr.2 (slotSize t e.cls)).wide (EMB_ROWS_APPLIED p) 1

/-- Whether any present applier but one still has its flag to apply. -/
def othersApply (s : State) (p : Nat) : Bool :=
  (rangeFrom 0 8).any (fun q => q != p && s.has .stack q && (s.applier q).flag.isSome)

/-- The application of the step at a pasture, on its delivered flag: the records are applied or discarded, and the half is
emptied (R255, R256, R261). Records of a half that cannot be read are not applied (log 132). -/
def applyStep (p : Nat) (s : State) : State :=
  match (s.applier p).flag with
  | none => s
  | some f =>
    if !s.has .stack p then s else
      let odd := decide ((s.reg COL_STEP).toNat % 2 = 1)
      let used := halfUsed s p odd
      let (b, ue, s0) := s.readMem (halfBase s p odd) used
      let l := records b (used / 16)
      let s1 := if f || (s.applier p).refusing odd then s else if ue then s0 else (touchedRows l).foldl (applyRow l p) s0
      let s2 := (setUsed s1 p odd 0).setApplier p ({ s1.applier p with flag := none } : Applier)
      let s3 := s2.setApplier p ((s2.applier p).setRefusing odd false)
      if f && !othersApply s p then s3.wide EMB_SKIPPED_STEPS 1 else s3

end Sys2Proof.Machine
end

