-- ==== Sys2Proof/Machine/Drover.lean ====
section
/-! DEFINITION. Drovers (07_drover_sampling): adjacency, draws, selection, roads, SAMPLE and TOPO_SWITCH, halt and abort, what
a step fence does to them. -/

namespace Sys2Proof.Machine

/-- The master of a Drover (R423). -/
def drMst (d : Nat) : Mst := ⟨34 + d, 0⟩

/-- The road step of a slot that holds no valid road (R222). -/
abbrev noRoad : Nat := 0xFFFFFFFFFFFFFFFF

/-! ### Adjacency (R190 to R195) -/

/-- An adjacency descriptor (R190). -/
structure Adj where
  times : Bool
  weights : Bool
  version : Nat
  rangeCount : Nat
  nodes : Nat
  entries : Nat
  entryCount : Nat
  ranges : Nat
  good : Bool
  deriving DecidableEq, Repr, Inhabited

/-- The descriptor that 64 bytes spell. -/
def adjOf (b : List Byte) : Adj :=
  let f := fieldAt b 6 2
  { times := bitOf f 0, weights := bitOf f 1, version := fieldAt b 8 4, rangeCount := fieldAt b 0xC 4, nodes := fieldAt b 0x10 8,
    entries := fieldAt b 0x20 8, entryCount := fieldAt b 0x28 8, ranges := fieldAt b 0x30 8
    good := fieldAt b 0 4 == 0x4A444150 && fieldAt b 4 2 == 1 && decide (f < 4) && decide (fieldAt b 0x38 8 = 0) }

/-- An edge of a block as it is read: neighbour, relation, timestamp, weight. -/
structure RawEdge where
  nbr : Nat
  rel : Nat
  time : Nat
  weight : Nat
  deriving DecidableEq, Repr, Inhabited

/-- The neighbour ids of a block (R194): differences of 1, 2 or 4 bytes, or full ids of 5. -/
def blockIds (code first : Nat) : Nat → List Byte → List Nat
  | 0, _ => []
  | n + 1, b =>
    let w := if code = 0 then 1 else if code = 1 then 2 else if code = 2 then 4 else 5
    let id := if code = 3 then fieldAt b 0 5 else first + fieldAt b 0 w
    id :: blockIds code id n (b.drop w)

/-- The contents' length of a block of `c` neighbours (R194). -/
def blockNeed (a : Adj) (code c : Nat) : Nat :=
  let w := if code = 0 then 1 else if code = 1 then 2 else if code = 2 then 4 else 5
  let x := 8 + (c - 1) * w + c
  let y := if a.times then upTo 4 x + 4 * c else x
  if a.weights then upTo 2 y + 2 * c else y

/-- The edges of a block, unless it is malformed (R194, R195). -/
def readBlockEdges (a : Adj) (b : List Byte) : Option (List RawEdge) :=
  let h := fieldAt b 0 8
  let len := bitsOf h 63 48
  let code := bitsOf h 47 46
  let c := bitsOf h 45 40 + 1
  let first := bitsOf h 39 0
  let w := if code = 0 then 1 else if code = 1 then 2 else if code = 2 then 4 else 5
  let ids := first :: blockIds code first (c - 1) (b.drop 8)
  let ro := 8 + (c - 1) * w
  let tOff := upTo 4 (ro + c)
  let wo := upTo 2 (if a.times then tOff + 4 * c else ro + c)
  if len < blockNeed a code c ∨ len > 1024 ∨ ids.any (fun i => decide (2 ^ 40 ≤ i)) then none
  else some ((ids.zip (rangeFrom 0 c)).map (fun p =>
    { nbr := p.1, rel := fieldAt b (ro + p.2) 1, time := if a.times then fieldAt b (tOff + 4 * p.2) 4 else 0,
      weight := if a.weights then fieldAt b (wo + 2 * p.2) 2 else 0 }))

/-- What reading a node's edges comes to. -/
inductive NodeRes where
  | ok (es : List RawEdge) (firstEdge : Nat) (s : State)
  | malformed (run : Nat) (s : State)
  | frozen (s : State)
  | failed (s : State)
  | held
  deriving Repr

/-! ### Draws and selection (R200 to R204) -/

/-- A Drover's draw (R200). -/
def drDraw (seed step hop v j : Nat) : Nat :=
  philox seed step (Nat.lor (0xFFFE0000 + hop * 256) (v / 2 ^ 32 % 256)) (v % 2 ^ 32) j

/-- A hop entry of a plan (R196). -/
structure Hop where
  policy : Nat
  pf : Bool
  fanout : Nat
  tLo : Nat
  tHi : Nat
  mask : Nat
  deriving DecidableEq, Repr, Inhabited

/-- The hop that 64 bytes spell. -/
def hopOf (b : List Byte) : Hop :=
  ⟨fieldAt b 0 1, bitOf (fieldAt b 1 1) 0, fieldAt b 2 2, fieldAt b 4 4, fieldAt b 8 4, fieldAt b 0x20 32⟩

/-- Whether an edge is eligible (R203). -/
def eligible (a : Adj) (h : Hop) (e : RawEdge) : Bool :=
  let w := decodeF .fp16 e.weight
  bitOf h.mask e.rel && decide (e.nbr < a.nodes) &&
    (if h.policy = 3 then decide (h.tLo ≤ e.time) && decide (e.time < h.tHi)
     else if h.policy = 1 then !w.isNan && ltV FVal.zero w
     else if h.policy = 2 then !w.isNan else true)

/-- Floyd's selection of `k` of `m` (R204). -/
def floyd (seed step hop v m k : Nat) : List Nat :=
  (rangeFrom (m - k) k).foldl (fun S j =>
    let t := drDraw seed step hop v j * (j + 1) / 2 ^ 32
    if S.contains t then S ++ [j] else S ++ [t]) []

/-- Bits of the binary logarithm of a fixed-point number in [1, 2), by repeated squaring; structural on the bits. -/
def logBits (p : Nat) : Nat → Nat → Nat → Nat
  | 0, _, acc => acc
  | n + 1, x, acc =>
    let y := x * x / 2 ^ p
    if y ≥ 2 ^ (p + 1) then logBits p n (y / 2) (2 * acc + 1) else logBits p n y (2 * acc)

/-- −log2((r + 0.5) · 2^−32) rounded to FP32 (R204): the logarithm to 110 fraction bits, with a sticky bit. -/
def negLog (r : Nat) : Nat :=
  let n := 2 * r + 1
  let k := log2 n
  if n = 1 then rneF .fp32 (.num false 33 0)
  else
    let f := logBits 256 110 (n * 2 ^ 256 / 2 ^ k) 0
    rneF .fp32 (.num false (2 * ((33 - k) * 2 ^ 110 - f) - 1) (-111))

/-- The key of weighted selection (R204). -/
def weightKey (r w : Nat) : FVal :=
  match decodeF .fp16 w with
  | .inf _ => FVal.zero
  | v => r32 (divV (f32 (negLog r)) v)

/-- Insertion of an index by a strict order that keeps lower numbers first on ties. -/
def insertBy (lt : Nat → Nat → Bool) (i : Nat) : List Nat → List Nat
  | [] => [i]
  | j :: t => if lt i j then i :: j :: t else j :: insertBy lt i t

/-- The numbers 0 to m − 1 in an order that keeps lower numbers first on ties. -/
def orderBy (lt : Nat → Nat → Bool) (m : Nat) : List Nat := (rangeFrom 0 m).foldl (fun l i => insertBy lt i l) []

/-- The eligible numbers that a policy selects (R204). -/
def chosen (seed step hop v : Nat) (h : Hop) (es : List RawEdge) : List Nat :=
  let m := es.length
  let w (i : Nat) : Nat := (es.getD i default).weight
  if h.policy = 4 ∨ m ≤ h.fanout then rangeFrom 0 m
  else if h.policy = 1 then
    let keys := (rangeFrom 0 m).map (fun i => weightKey (drDraw seed step hop v i) (w i))
    (orderBy (fun i j => ltV (keys.getD i .nan) (keys.getD j .nan)) m).take h.fanout
  else if h.policy = 2 then (orderBy (fun i j => ltV (decodeF .fp16 (w j)) (decodeF .fp16 (w i))) m).take h.fanout
  else floyd seed step hop v m h.fanout

/-- A mask of every relation. -/
abbrev allRelations : Nat := 2 ^ 256 - 1

/-- Whether a hop draws among a node's edges by position alone: uniform, unfiltered, and fewer than all (R221). -/
def byPosition (h : Hop) (deg : Nat) : Bool := decide (h.policy = 0) && decide (h.mask = allRelations) && decide (h.fanout < deg)

/-- The selected edges of a node, in ascending eligible number (R203, R204). An unfiltered uniform draw takes every position as eligible,
and one that it finds out of range is not selected (R195, R221, log 36). -/
def selectEdges (seed step hop v : Nat) (a : Adj) (h : Hop) (first : Nat) (es : List RawEdge) : List Edge :=
  let all := es.zip (rangeFrom 0 es.length)
  if byPosition h es.length then
    let sel := floyd seed step hop v es.length h.fanout
    (all.filter (fun p => sel.contains p.2 && decide (p.1.nbr < a.nodes))).map (fun p =>
      { nbr := p.1.nbr, rel := p.1.rel, weight := p.1.weight, edge := first + p.2, num := p.2 })
  else
    let el := all.filter (fun p => eligible a h p.1)
    let sel := chosen seed step hop v h (el.map (·.1))
    ((el.zip (rangeFrom 0 el.length)).filter (fun p => sel.contains p.2)).map (fun p =>
      { nbr := p.1.1.nbr, rel := p.1.1.rel, weight := p.1.1.weight, edge := first + p.1.2, num := p.2 })

/-- Edges whose neighbour is out of range (R195). -/
def outOfRange (a : Adj) (es : List RawEdge) : Nat := (es.filter (fun e => decide (a.nodes ≤ e.nbr))).length

/-! ### Reading a node's edges (R192 to R195, R221) -/

/-- The blocks of a node that a hop reads: for an unfiltered uniform draw of fewer than all edges those that the positions fall in (R193,
R221, log 36); else all of them. -/
def blocksRead (seed step hop v deg : Nat) (h : Hop) : Option (List Nat) :=
  if byPosition h deg then some ((floyd seed step hop v deg h.fanout).map (· / 64)) else none

/-- An edge of a block that is left unread: it is not selected. -/
abbrev unreadEdge : RawEdge := ⟨0, 0, 0, 0⟩

/-- Read the blocks of a run at the given places, with their numbers; blocks that are not wanted are left unread. Structural on the
blocks. -/
def readBlocksOf (d : Nat) (a : Adj) (run : Nat) (want : Nat → Bool) : List (Nat × Nat) → State → NodeRes
  | [], s => .ok [] 0 s
  | (b, o) :: t, s =>
    let go (es : List RawEdge) (s : State) : NodeRes :=
      match readBlocksOf d a run want t s with
      | .ok more f s2 => .ok (es ++ more) f s2
      | r => r
    let len := bitsOf (s.num (run + o) 8) 63 48
    if !want b then go (List.replicate 64 unreadEdge) s
    else
      match localRead (drMst d) (run + o) (if len > 1024 ∨ len < 8 then 8 else len) s with
      | .held => .held
      | .bad _ s1 => .frozen s1
      | .done b ue s1 =>
        if ue then .failed s1
        else if len > 1024 ∨ len < 8 then .malformed run s1
        else match readBlockEdges a b with
          | none => .malformed run s1
          | some es => go es s1

/-- Read all the blocks of a node, or the wanted ones: its edges are then as many as its degree says. -/
def readWanted (d : Nat) (a : Adj) (run deg : Nat) (want : Option (List Nat)) (l : List (Nat × Nat)) (s : State) : NodeRes :=
  match want with
  | none => readBlocksOf d a run (fun _ => true) l s
  | some w =>
    match readBlocksOf d a run (fun b => w.contains b) l s with
    | .ok es f s1 => .ok (padTo deg unreadEdge (es.take deg)) f s1
    | r => r

/-- The edges of a node of this device, in ascending position (R192, R193, R195, R221). -/
def nodeEdges (d : Nat) (a : Adj) (idx : Nat) (want : Nat → Option (List Nat)) (s : State) : NodeRes :=
  match localRead (drMst d) (a.entries + 16 * idx) 16 s with
  | .held => .held
  | .bad _ s1 => .frozen s1
  | .done b ue s1 =>
    let w := leNat b
    let deg := bitsOf w 79 48
    let run := bitsOf w 47 0
    let dir := bitOf w 120
    let n := (deg + 63) / 64
    if ue then .failed s1
    else if deg = 0 then (if dir then .malformed run s1 else .ok [] (bitsOf w 119 80) s1)
    else if run % 64 ≠ 0 ∨ dir ≠ decide (64 < deg) then .malformed run s1
    else
      let go (offs : List Nat) (s : State) : NodeRes :=
        match readWanted d a run deg (want deg) ((rangeFrom 0 offs.length).zip offs) s with
        | .ok es _ s2 => .ok es (bitsOf w 119 80) s2
        | r => r
      if !dir then go [0] s1
      else match localRead (drMst d) run (4 * n) s1 with
        | .held => .held
        | .bad _ s2 => .frozen s2
        | .done o ue2 s2 => if ue2 then .failed s2 else go ((rangeFrom 0 n).map (fun i => fieldAt o (4 * i) 4)) s2

/-! ### Topologies (R216) -/

/-- The adjacency descriptor in force for a step (R216). -/
def topoFor (s : State) (d step : Nat) : Nat :=
  (((s.drover d).topos.filter (fun p => decide (p.1 ≤ step))).foldl (fun (o : Option (Nat × Nat)) p =>
    match o with
    | none => some p
    | some q => if q.1 ≤ p.1 then some p else some q) none).elim (s.fld (DRV_ADJ_BASE d) DRV_ADJ_BASE_descriptor) (·.2)

/-- The topologies that a Drover holds: the current one, and a pending switch's (R216). -/
def heldTopos (s : State) (d : Nat) : List Nat :=
  let c := (s.reg COL_STEP).toNat
  topoFor s d c :: ((s.drover d).topos.filter (fun p => decide (c < p.1))).map (·.2)

/-- The topology version that a descriptor holds; 0 where none is named. A Drover holds the descriptors that it uses, which software does
not write, so that this is no read of memory (R216, log 155). -/
def topoVersion (s : State) (desc : Nat) : Nat := if desc = 0 then 0 else s.num (desc + 8) 4

/-- The steps of SAMPLEs that the Drover has accepted at a value of the step counter (R216, R217): the highest is kept. -/
def Drover.accepts (c : Nat) (k : Drover) : Drover :=
  let l := k.samples.filter (fun x => decide (c ≤ x.step) && decide (x.step ≤ c + x.depth))
  { k with top := l.foldl (fun t x => some (max (t.getD 0) x.step)) k.top }

/-- Bring DRV_TOPO, the list of switches and the accepted steps up to the step counter (R216, R217, R222): the switch in force and later
ones stay. -/
def setTopo (s : State) (d : Nat) : State :=
  let c := (s.reg COL_STEP).toNat
  let x : Drover := (s.drover d).accepts c
  let cur := (x.topos.filter (fun p => decide (p.1 ≤ c))).foldl (fun a p => max a p.1) 0
  let s1 := s.setDrover d { x with topos := x.topos.filter (fun p => decide (cur ≤ p.1)) }
  (s1.setFld (DRV_TOPO d) DRV_TOPO_version (topoVersion s1 (topoFor s1 d c))).setFld (DRV_TOPO d) DRV_TOPO_pending
    (b2n (x.topos.any (fun p => decide (c < p.1))))

/-! ### Plans and seeds (R196, R198, R208) -/

/-- The hops of a plan's bytes. -/
def planHops (b : List Byte) : List Hop := (rangeFrom 1 (fieldAt b 4 1)).map (fun h => hopOf ((b.drop (64 * h)).take 64))

/-- Whether bytes are all zero. -/
def zeros (b : List Byte) : Bool := b.all (fun x => decide (x = 0))

/-- Whether a plan is well-formed on its own (R198). -/
def planGood (b : List Byte) : Bool :=
  fieldAt b 0 4 == 0x4E414C50 && decide (1 ≤ fieldAt b 4 1) && decide (fieldAt b 4 1 ≤ 8) && decide (fieldAt b 5 1 < 2) &&
    decide (fieldAt b 6 2 = 0) && decide (fieldAt b 0xC 4 = 0) && zeros ((b.drop 0x2C).take 20) &&
    (rangeFrom 1 (fieldAt b 4 1)).all (fun i =>
      let e := (b.drop (64 * i)).take 64
      let h := hopOf e
      decide (h.policy ≤ 4) && decide (fieldAt e 1 1 < 2) && (h.policy == 4 || (decide (1 ≤ h.fanout) && decide (h.fanout ≤ 1024))) &&
        zeros ((e.drop 0xC).take 20))

/-- Whether a plan suits a topology (R198). -/
def planSuits (a : Adj) (b : List Byte) : Bool :=
  (planHops b).all (fun h => (h.policy != 1 || a.weights) && (h.policy != 3 || a.times))

/-- The segment size of a node (R210). -/
def segSize (t n : Nat) : Nat :=
  if (n + t - 1) / t ≤ 65535 then t else upTo 64 ((n + 65534) / 65535)

/-- The split threshold of a plan. -/
def planSplit (b : List Byte) : Nat := if fieldAt b 8 4 = 0 then 4096 else fieldAt b 8 4

/-- Half width of the permutation of R208. -/
def permHalf (n : Nat) : Nat :=
  let l := if n ≤ 1 then 0 else log2 (n - 1) + 1
  max 1 ((l + 1) / 2)

/-- One pass of the network of R208. -/
def permOnce (seed e b x : Nat) : Nat :=
  let m := 2 ^ b
  let (hi, lo) := (rangeFrom 0 6).foldl (fun (p : Nat × Nat) k =>
    let f := philox seed e (Nat.lor 0xFFFE1000 k) p.2 0 % m
    (p.2, Nat.xor p.1 f)) (x / m, x % m)
  hi * m + lo

/-- Cycle walking (R208); the fuel bounds the cycle. -/
def permWalk (seed e b n : Nat) : Nat → Nat → Nat
  | 0, x => x
  | fuel + 1, x =>
    let y := permOnce seed e b x
    if y < n then y else permWalk seed e b n fuel y

/-- π_e(i) (R208). -/
def perm (seed e n i : Nat) : Nat := permWalk seed (e % 2 ^ 32) (permHalf n) n (2 ^ (2 * permHalf n)) i

/-! ### Roads (R209 to R214) -/

/-- Which of a Drover's Folds a Fold is: 0 its own, 1 the borrowing one (R214). -/
def foldPlace (d f : Nat) : Nat := if f = d then 0 else 1

/-- Whether a Drover is shared (R2). -/
def drShared (s : State) (d : Nat) : Bool := s.bit (DRV_SHARE_CFG d) DRV_SHARE_CFG_shared

/-- The road slot of a step of a Fold (R213). -/
def roadSlot (d f step : Nat) : Nat := 3 * foldPlace d f + step % 3

/-- The staging offset of a road slot (R214). -/
def slotOffset (s : State) (d k : Nat) : Nat :=
  (s.fld (DRV_STAGING_CFG d) DRV_STAGING_CFG_hash_units + k * s.fld (DRV_STAGING_CFG d) DRV_STAGING_CFG_slot_units) * 0x10000

/-- The base of a Drover's staging. -/
def staging (d : Nat) : Nat := stagingBase + d * 0x2000000

/-- The unique nodes that a hop may hold (R209); a shared Drover halves its hash area (R214). -/
def hashCap (s : State) (d : Nat) : Nat :=
  s.fld (DRV_STAGING_CFG d) DRV_STAGING_CFG_hash_units * 4096 / (if drShared s d then 2 else 1)

/-- Bytes of the prefetch area (R214). -/
def prefetchSize (s : State) (d : Nat) : Nat := 0x2000000 - slotOffset s d (if drShared s d then 6 else 3)

/-- Distinct nodes in order of first appearance (R199). -/
def distinct (l : List Nat) : List Nat := (l.foldl (fun a n => if a.contains n then a else n :: a) []).reverse

/-- The unique list of a hop (R199). -/
def uniqueOf (h : List (List Edge)) : List Nat := distinct (h.flatten.map (·.nbr))

/-- The adjacency home of a node (R191). -/
def homeOf (s : State) (a : Adj) (v : Nat) : RangeEnt := (rangeOf s a.ranges v a.rangeCount).getD ⟨0, s.devId, 0⟩

/-- Pad a section to 64 bytes. -/
def pad64 (b : List Byte) : List Byte := padTo (upTo 64 b.length) 0 b

/-- A node list (R211). -/
def nodeList (s : State) (a : Adj) (l : List Nat) : List Byte :=
  (l.map (fun v => leBytes 8 ((homeOf s a v).dev * 2 ^ 40 + v))).flatten

/-- The destination slots of a hop: per slot its segments, segment number, frontier index and edges (R210). -/
def slotsOf (t : Nat) (h : List (List Edge)) : List (Nat × Nat × Nat × List Edge) :=
  ((h.zip (rangeFrom 0 h.length)).map (fun p =>
    let tv := segSize t p.1.length
    if p.1.length ≤ tv then [(1, 0, p.2, p.1)]
    else
      let segs := chunksOf tv p.1
      (segs.zip (rangeFrom 0 segs.length)).map (fun g => (segs.length, g.2, p.2, g.1)))).flatten

/-- The sections of a hop at an offset of the road (R211). -/
def hopBytes (s : State) (a : Adj) (t off : Nat) (h : List (List Edge)) : List Byte :=
  let u := uniqueOf h
  let sl := slotsOf t h
  let ub := pad64 (nodeList s a u)
  let sb := pad64 ((sl.map (fun x => leBytes 8 (x.1 * 2 ^ 48 + x.2.1 * 2 ^ 32 + x.2.2.1))).flatten)
  let eb := pad64 (((sl.zip (rangeFrom 0 sl.length)).map (fun x =>
    (x.1.2.2.2.map (fun e =>
      leBytes 16 (e.weight * 2 ^ 112 + e.rel * 2 ^ 104 + e.edge * 2 ^ 64 + x.2 * 2 ^ 32 + ((firstIdx (· == e.nbr) u).getD 0)))).flatten)).flatten)
  let nEdges := h.flatten.length
  let split := (h.filter (fun es => decide (segSize t es.length < es.length))).length
  leBytes 4 u.length ++ leBytes 4 nEdges ++ leBytes 4 sl.length ++ leBytes 4 h.length ++ leBytes 4 split ++ leBytes 4 0 ++
    leBytes 8 (off + 64) ++ leBytes 8 (off + 64 + ub.length) ++ leBytes 8 (off + 64 + ub.length + sb.length) ++ leBytes 16 0 ++
    ub ++ sb ++ eb

/-- The hops' sections from an offset, with the hop headers' offsets. -/
def hopsBytes (s : State) (a : Adj) (t : Nat) : Nat → List (List (List Edge)) → List Nat × List Byte
  | _, [] => ([], [])
  | off, h :: rest =>
    let b := hopBytes s a t off h
    let (os, bs) := hopsBytes s a t (off + b.length) rest
    (off :: os, b ++ bs)

/-- The bytes of a drove road (R211). -/
def roadBytes (s : State) (a : Adj) (x : Smp) : List Byte :=
  let sl := pad64 (nodeList s a x.seeds)
  let (os, hb) := hopsBytes s a (planSplit x.plan) (192 + sl.length) x.hops
  padTo 192 0 (leBytes 4 0x44414F52 ++ leBytes 1 (fieldAt x.plan 4 1) ++ leBytes 3 0 ++ leBytes 8 x.step ++ leBytes 4 a.version ++
    leBytes 4 x.seeds.length ++ leBytes 8 x.epoch ++ leBytes 8 192 ++ ((padTo 8 0 os).map (leBytes 8)).flatten) ++ sl ++ hb

/-! ### SAMPLE (R197, R199, R206 to R209, R212, R213, R217) -/

/-- A Drover's SAMPLE by its serial number. -/
def State.sample? (s : State) (d serial : Nat) : Option Smp := (s.drover d).samples.find? (fun x => decide (x.serial = serial))

/-- Put a SAMPLE back. -/
def State.putSample (s : State) (d : Nat) (x : Smp) : State :=
  let k := s.drover d
  s.setDrover d { k with samples := k.samples.map (fun y => if y.serial = x.serial then x else y) }

/-- A Drover whose work has drained enters recess (R457). -/
def Drover.settle (k : Drover) : Drover :=
  if 2 ≤ k.rest then k
  else if k.samples = [] ∧ k.feeds = [] ∧ k.inbox = [] ∧ !k.rows.any (fun r => decide (r.check = 1 ∨ r.check = 2)) then { k with rest := 1 }
  else { k with rest := 0 }

/-- A SAMPLE completes and leaves the Drover. -/
def endSample (s : State) (d : Nat) (x : Smp) (status detail : Nat) : State :=
  let k := s.drover d
  (s.setDrover d ({ k with samples := k.samples.filter (fun y => decide (y.serial ≠ x.serial)) } : Drover).settle).complete x.ref status 0
    detail 0

/-- A malformed block or entry ends a SAMPLE (R195). -/
def badNode (s : State) (d : Nat) (x : Smp) (v run : Nat) : State :=
  endSample ((s.flag (DRV_ERR d) DRV_ERR_adjacency).log 0x7001 2 d d (v % 2 ^ 32) (v / 2 ^ 32) (run % 2 ^ 32)) d x 0x02 0x7001

/-- The requests' hop entry bytes of hop `h` (from 1). -/
def hopEntry (x : Smp) (h : Nat) : List Byte := (x.plan.drop (64 * h)).take 64

/-- Nodes that a packet of sample requests names at most, beside the hop entry: a packet carries up to 4 KiB (R206, log 134). -/
abbrev nodesPerPacket : Nat := 500

/-- Whether a window of a class lets it make a request of a kind of a device, which names no bytes of it (R425, log 156). -/
def reachesDev (s : State) (cls dev kind : Nat) : Bool :=
  (rangeFrom 0 256).any (fun i =>
    let w := (s.win cls i 2).toNat
    bitOf w 40 && bitOf w (32 + kind) &&
      (if bitOf w 41 then decide (dev = s.devId) else decide (bitsOf w 15 0 ≤ dev) && decide (dev ≤ bitsOf w 31 16)))

/-- Send the sample requests of nodes of other devices, in frontier order: those of one device share packets (R206). -/
def askNodes (d : Nat) (a : Adj) (x : Smp) (nodes : List Nat) (s : State) : State :=
  let h := x.hops.length + 1
  (distinct (nodes.map (fun v => (homeOf s a v).dev))).foldl (fun s dev =>
    (chunksOf nodesPerPacket (nodes.filter (fun v => decide ((homeOf s a v).dev = dev)))).foldl (fun s l =>
      (s.request 0x06 dev 0 ([x.step, h, a.version] ++ l) (hopEntry x h) (.sample d x.serial)).2) s) s

/-- Serve the nodes of the hop in hand: a node of this device is read and its edges selected, a node of another device is
to be asked for, by a Drover that is not frozen and whose windows reach that device (R206, R425, R428). The answer is the state and the
SAMPLE where it goes on. -/
def serveNodes (d : Nat) (a : Adj) : List (Nat × Bool × Option (List Edge)) → List (Nat × Bool × Option (List Edge)) → State → Smp →
    State × Option Smp
  | [], done, s, x => (s, some { x with cur := done })
  | (v, asked, some es) :: t, done, s, x => serveNodes d a t (done ++ [(v, asked, some es)]) s x
  | (v, true, none) :: t, done, s, x => serveNodes d a t (done ++ [(v, true, none)]) s x
  | (v, false, none) :: t, done, s, x =>
    let h := x.hops.length + 1
    let r := homeOf s a v
    if r.dev ≠ s.devId then
      if s.isFrozen (drMst d) then serveNodes d a t (done ++ [(v, false, none)]) s x
      else if !reachesDev s (34 + d) r.dev kRead then (endSample (s.violateAddr (drMst d) 0x1001 kRead (r.dev * 2 ^ 48)) d x 0x05 0x1001, none)
      else serveNodes d a t (done ++ [(v, true, none)]) s x
    else match nodeEdges d a (r.base + (v - r.first)) (fun deg => blocksRead (seedOf s) x.step h v deg (hopOf (hopEntry x h))) s with
      | .held => (s, some { x with cur := done ++ (v, false, none) :: t })
      | .frozen s1 => (endSample s1 d x 0x05 0x1001, none)
      | .failed s1 => (endSample s1 d x 0x06 0x5001, none)
      | .malformed run s1 => (badNode s1 d x v run, none)
      | .ok es first s1 =>
        let sel := selectEdges (seedOf s) x.step h v a (hopOf (hopEntry x h)) first es
        serveNodes d a t (done ++ [(v, false, some sel)]) (s1.count (DRV_INDEX_DROPPED d) (outOfRange a es)) x

/-- Go on with a SAMPLE hop by hop until it waits or its road is built. Structural on the fuel, above its hops. -/
def advanceSample (d : Nat) : Nat → State → Smp → State
  | 0, s, x => s.putSample d x
  | fuel + 1, s, x =>
    if x.built ∨ (s.drover d).halted then s.putSample d x else
      let a := adjOf x.adj
      match serveNodes d a x.cur [] s x with
      | (s1, none) => s1
      | (s0, some y) =>
        let asked := (x.cur.filter (fun p => p.2.1)).map (·.1)
        let s1 := askNodes d a y ((y.cur.filter (fun p => p.2.1 && p.2.2.isNone && !asked.contains p.1)).map (·.1)) s0
        if y.cur.any (fun p => p.2.2.isNone) then s1.putSample d y
        else
          let hop := y.cur.map (fun p => p.2.2.getD [])
          let u := uniqueOf hop
          if hashCap s1 d < u.length then
            endSample ((s1.flag (DRV_ERR d) DRV_ERR_staging_limit).logFree 0x7002 2 d) d y 0x0B 0x7002
          else
            let z := { y with hops := y.hops ++ [hop], cur := u.map (fun v => (v, false, none)) }
            if z.hops.length = fieldAt z.plan 4 1 then s1.putSample d { z with built := true, cur := [] }
            else advanceSample d fuel s1 z

/-- Whether a SAMPLE may start (R213, R217): its step within the speculation depth that it was taken under, its slot free of a valid
road and of another SAMPLE's. -/
def mayStart (s : State) (d : Nat) (x : Smp) : Bool :=
  let c := (s.reg COL_STEP).toNat
  decide (c ≤ x.step) && decide (x.step ≤ c + x.depth) &&
    decide ((s.reg (DRV_ROAD_STEP d (roadSlot d x.fold x.step))).toNat = noRoad) &&
    !(s.drover d).samples.any (fun y => y.started && decide (y.fold = x.fold) && decide (y.step % 3 = x.step % 3))

/-- The places of a SAMPLE's entries in the training list (R208). -/
def seedPlaces (s : State) (x : Smp) : List Nat :=
  (rangeFrom x.i0 x.count).map (fun i => fieldAt x.plan 0x10 8 + 8 * perm (seedOf s) x.epoch (fieldAt x.plan 0x18 8) i)

/-- The seeds of a SAMPLE (R196, R208): those of its indices whose node exists, and how many were dropped. -/
def seedsOf (s : State) (a : Adj) (x : Smp) : List Nat × Nat :=
  let all := (seedPlaces s x).map (fun p => s.num p 8 % 2 ^ 40)
  (all.filter (fun v => decide (v < a.nodes)), (all.filter (fun v => decide (a.nodes ≤ v))).length)

/-- A violation by reads of a Drover, if any: its code and the place (R22, R425). -/
def drBad (s : State) (d : Nat) (l : List (Nat × Nat)) : Option (Nat × Nat) :=
  match l.find? (fun q => !mapped s q.1 q.2) with
  | some q => some (0x1002, q.1)
  | none => (l.find? (fun q => !permitted s (34 + d) s.devId q.1 q.2 kRead)).map (fun q => (0x1001, q.1))

/-- A SAMPLE whose Drover has violated ends FROZEN. -/
def sampleFrozen (s : State) (d : Nat) (x : Smp) (code g : Nat) : State :=
  endSample (s.violateAddr (drMst d) code kRead g) d x 0x05 code

/-- Whether a plan prefetches, and the global address of its feature table (R196). -/
def featTable (x : Smp) : Option Nat :=
  let g := fieldAt x.plan 0x20 8
  if fieldAt x.plan 5 1 = 0 ∨ g = 0 then none else some g

/-- What reading the feature table's descriptor comes to when a SAMPLE begins (R247): its bytes, none while another device has not sent
them. -/
def readFeature (s : State) (d : Nat) (x : Smp) : Access :=
  match featTable x with
  | none => .done [] false s
  | some g =>
    let dev := g / 2 ^ 48
    if dev = s.devId then localRead (drMst d) (g % 2 ^ 48) 64 s
    else if !permitted s (34 + d) dev (g % 2 ^ 48) 64 kRead then .bad 0x1001 (s.violateAddr (drMst d) 0x1001 kRead g)
    else .done [] false (s.request 0x01 dev g [64] [] (.feature d x.serial)).2

/-- Build a SAMPLE whose descriptors are read: its seeds are taken, and it goes as far as it can. -/
def beginSample (d : Nat) (x : Smp) (topo : Nat) (adj : List Byte) (feat : List Byte) (s : State) : State :=
  let (sd, dropped) := seedsOf s (adjOf adj) x
  let y := { x with started := true, topo := topo, adj := adj, feat := feat, seeds := sd, cur := sd.map (fun v => (v, false, none)) }
  advanceSample d 9 ((s.putSample d y).count (DRV_INDEX_DROPPED d) dropped) y

/-- Start a SAMPLE: its topology is fixed, the feature table's descriptor and the seeds are read, and it is built as far as it goes.
A read that is a violation ends it FROZEN, one that meets an uncorrectable atom UNCORRECTABLE. -/
def startSample (d : Nat) (x : Smp) (s : State) : State :=
  let topo := topoFor s d x.step
  match localRead (drMst d) topo 64 s with
  | .held => s
  | .bad code s1 => endSample s1 d x 0x05 code
  | .done adj ue s1 =>
    let a := adjOf adj
    let seeds := (seedPlaces s x).map (fun p => (p, 8))
    let reads := (a.ranges, 16 * a.rangeCount) :: seeds
    if ue then endSample s1 d x 0x06 0x5001
    else if !a.good ∨ !planSuits a x.plan then endSample s1 d x 0x02 0
    else match drBad s d reads with
      | some (code, p) => sampleFrozen s1 d x code (s.gaddr p)
      | none =>
        if reads.any (fun q => waits s q.1) then s
        else match readFeature s1 d x with
          | .held => s
          | .bad code s2 => endSample s2 d x 0x05 code
          | .done feat ue2 s2 =>
            let (ue3, s3) := s2.touch reads
            if ue2 || ue3 then endSample s3 d x 0x06 0x5001 else beginSample d x topo adj feat s3

/-- Start the first SAMPLE that may start (R217). One whose step has been passed while it waited is refused as R198 refuses it. -/
def sampleStart (d : Nat) (s : State) : State :=
  let k := s.drover d
  if k.halted ∨ 2 ≤ k.rest then s else
    match k.samples.find? (fun x => !x.started && (mayStart s d x || decide (x.step < (s.reg COL_STEP).toNat))) with
    | some x => if x.step < (s.reg COL_STEP).toNat then endSample s d x 0x02 0 else startSample d x s
    | none => s

/-- Take the head command of a Drover's inbox; one whose work has drained so enters recess (R457). -/
def State.dropDr (s : State) (d : Nat) : State :=
  let k := s.drover d
  s.setDrover d ({ k with inbox := k.inbox.drop 1 } : Drover).settle

/-- The head command of a Drover, when it takes commands: not halted, not in holiday, of a code. -/
def drHead (s : State) (d code : Nat) : Option (Nat × Cmd) :=
  let k := s.drover d
  if k.halted ∨ 2 ≤ k.rest ∨ s.mixed ∨ !s.has .drover d then none
  else match k.inbox with
    | [] => none
    | m :: _ => if m.2.code = code then some m else none

/-- The SAMPLE that a descriptor names. -/
def smpOf (serial fold depth : Nat) (m : Cmd) (plan : List Byte) : Smp :=
  { serial := serial, depth := depth, ref := m.ref, fold := fold, plan := plan, step := fieldAt m.desc 0x10 8, epoch := fieldAt m.desc 0x18 8,
    i0 := fieldAt m.desc 0x20 8, count := fieldAt m.desc 0x28 4 }

/-- SAMPLE: the head command of the Drover (R197, R198, R217). -/
def sampleCmd (d : Nat) (s : State) : State :=
  match drHead s d 1 with
  | none => s
  | some (f, m) =>
    let p := fieldAt m.desc 8 8
    let s0 := s.dropDr d
    if s.isFrozen (drMst d) then (s0.frozenCommand (drMst d) 0x05).complete m.ref 0x05 0 0x1007 0
    else match localRead (drMst d) p 64 s0 with
      | .held => s
      | .bad code s1 => s1.complete m.ref 0x05 0 code 0
      | .done h ue s1 =>
        if ue then s1.complete m.ref 0x06 0 0x5001 0
        else match localRead (drMst d) (p + 64) (64 * max 1 (min 8 (fieldAt h 4 1))) s1 with
          | .held => s
          | .bad code s2 => s2.complete m.ref 0x05 0 code 0
          | .done hs ue2 s2 =>
            let k := s2.drover d
            let x := smpOf k.serial f (s2.fld (DRV_SPEC_CFG d) DRV_SPEC_CFG_depth) m (h ++ hs)
            if ue2 then s2.complete m.ref 0x06 0 0x5001 0
            else if !planGood (h ++ hs) ∨ x.step < (s2.reg COL_STEP).toNat ∨ fieldAt h 0x18 8 < x.i0 + x.count then s2.complete m.ref 0x02 0 0 0
            else match localRead (drMst d) (topoFor s2 d x.step) 64 s2 with
            | .held => s
            | .bad code s3 => s3.complete m.ref 0x05 0 code 0
            | .done adj ue3 s3 =>
              if ue3 then s3.complete m.ref 0x06 0 0x5001 0
              else if !planSuits (adjOf adj) (h ++ hs) then s3.complete m.ref 0x02 0 0 0
              else
                let k1 : Drover := { k with samples := k.samples ++ [x], serial := k.serial + 1, rest := 0 }
                let s4 := s3.setDrover d (k1.accepts (s3.reg COL_STEP).toNat)
                if mayStart s4 d x && !k.samples.any (fun y => !y.started && decide (y.fold = f)) then startSample d x s4 else s4

/-- What a prefetch of a road asks for: the keys of its flagged hops (R218, R223). -/
def feedKeys (key : Bool) (x : Smp) : List Nat :=
  (((planHops x.plan).zip x.hops).map (fun p =>
    if p.1.pf then (let u := uniqueOf p.2; if key then rangeFrom 0 u.length else u) else [])).flatten

/-- A prefetch takes its table's descriptor: the keys are those of the table's kind (R218, R223). -/
def Feed.withTable (f : Feed) (b : List Byte) : Feed := { f with table := b, keys := if (tableOf 0 b).key then f.byIndex else f.keys }

/-- The prefetch that follows a road (R218). -/
def feedOf (x : Smp) : Option Feed :=
  match featTable x with
  | none => none
  | some g =>
    let f : Feed := { serial := x.serial, step := x.step, fold := x.fold, topo := (adjOf x.adj).version, table := [], desc := g,
                      col0 := fieldAt x.plan 0x28 2, ncols := fieldAt x.plan 0x2A 2, keys := distinct (feedKeys false x),
                      byIndex := distinct (feedKeys true x) }
    some (if x.feat = [] then f else f.withTable x.feat)

/-- SAMPLE_COMPLETE: the first built road is written and its record made; its prefetch follows (R197, R211, R212). -/
def sampleComplete (d : Nat) (s0 : State) : State :=
  let s := match (s0.drover d).samples.find? (fun x => x.started && !x.built) with
    | some x => if 2 ≤ (s0.drover d).rest then s0 else advanceSample d 9 s0 x
    | none => s0
  match (s.drover d).samples.find? (fun x => x.built) with
  | none => s
  | some x =>
    let a := adjOf x.adj
    let b := roadBytes s a x
    let k := roadSlot d x.fold x.step
    if s.fld (DRV_STAGING_CFG d) DRV_STAGING_CFG_slot_units * 0x10000 < b.length then
      endSample ((s.flag (DRV_ERR d) DRV_ERR_staging_limit).logFree 0x7002 2 d) d x 0x0B 0x7002
    else
      let s1 := ((s.writeMem (staging d + slotOffset s d k) b).2.setReg (DRV_ROAD_STEP d k) (BitVec.ofNat 64 x.step)).wide
        (DRV_EDGES_SAMPLED d) (x.hops.flatten.flatten.length)
      let s2 := match feedOf x with
        | some f => s1.setDrover d { s1.drover d with feeds := (s1.drover d).feeds ++ [f] }
        | none => s1
      endSample s2 d x 0 0

/-- TOPO_SWITCH (R216). -/
def topoSwitch (d : Nat) (s : State) : State :=
  match drHead s d 2 with
  | none => s
  | some (_, m) =>
    let s0 := s.dropDr d
    let k := s0.drover d
    let desc := fieldAt m.desc 8 8
    let first := fieldAt m.desc 0x10 8
    let c := (s.reg COL_STEP).toNat
    let early := match (k.accepts c).top with | some t => decide (first ≤ t) | none => false
    if s.isFrozen (drMst d) then (s0.frozenCommand (drMst d) 0x05).complete m.ref 0x05 0 0x1007 0
    else if early || decide (first < c) || k.topos.any (fun p => decide (c < p.1)) then
      ((s0.flag (DRV_ERR d) DRV_ERR_topo_refused).logFree 0x7004 2 d).complete m.ref 0x02 0 0x7004 0
    else (setTopo (s0.setDrover d { k with topos := k.topos ++ [(first, desc)] }) d).complete m.ref 0 0 0 0

/-- REMOTE_SAMPLE_TIMEOUT: a SAMPLE with a request unanswered completes TIMEOUT (R207). -/
def sampleTimeout (d serial : Nat) (s : State) : State :=
  match s.sample? d serial, s.reqs.find? (fun r => match r.owner with | .sample e n => decide (e = d) && decide (n = serial) | _ => false) with
  | some x, some r =>
    if s.fld (DRV_REMOTE_TIMEOUT d) DRV_REMOTE_TIMEOUT_us = 0 then s else
      let s1 : State := { s with reqs := s.reqs.filter (fun q => match q.owner with | .sample e n => !(decide (e = d) && decide (n = serial)) | _ => true) }
      endSample ((s1.flag (DRV_ERR d) DRV_ERR_remote_timeout).log 0x7003 2 d r.dst 0 0 0) d x 0x07 0x7003
  | _, _ => s

/-! ### Halt, resume, abort, clear (R220, R222, R483) -/

/-- DRV_CTRL.halt. -/
def drHalt (d : Nat) (s : State) : State := s.setDrover d { s.drover d with halted := true }

/-- DRV_CTRL.resume: taken in the halted state only. -/
def drResume (d : Nat) (s : State) : State :=
  let s1 := s.setDrover d { s.drover d with halted := false }
  ((s1.drover d).samples.filter (fun x => x.started && !x.built)).foldl (fun s x =>
    match s.sample? d x.serial with | some y => advanceSample d 9 s y | none => s) s1

/-- No valid road in any slot of a Drover. -/
def clearRoads (d : Nat) (s : State) : State :=
  (rangeFrom 0 6).foldl (fun s k => s.setReg (DRV_ROAD_STEP d k) (BitVec.ofNat 64 noRoad)) s

/-- DRV_CTRL.abort (R220): every SAMPLE completes FROZEN, roads and prefetched rows are discarded. -/
def drAbort (d : Nat) (s : State) : State :=
  let s1 := (s.drover d).samples.foldl (fun s x => endSample s d x 0x05 0) s
  clearRoads d (s1.setDrover d { s1.drover d with halted := false, feeds := [], rows := [] })

/-- DRV_CTRL.clear_counts (R222). -/
def drClear (d : Nat) (s : State) : State :=
  [DRV_ROWS_DISCARDED d, DRV_INDEX_DROPPED d, DRV_PREFETCH_SKIPPED d].foldl State.clearCount s

/-! ### The step fence (R213, R219, R220, R222) -/

/-- A confirmed fence of `step` at a Drover: roads and prefetched rows up to it are freed, rows of the next step fall due for
their check, and the Drover sees the new step. -/
def drFence (step d : Nat) (s : State) : State :=
  let s1 := (rangeFrom 0 6).foldl (fun s k =>
    if (s.reg (DRV_ROAD_STEP d k)).toNat ≤ step then s.setReg (DRV_ROAD_STEP d k) (BitVec.ofNat 64 noRoad) else s) s
  let x := s1.drover d
  let rows := (x.rows.filter (fun r => decide (step < r.step))).map (fun r => if r.step = step + 1 ∧ r.check = 0 then { r with check := 1 } else r)
  let s2 := s1.setDrover d ({ x with rows := rows, feeds := x.feeds.filter (fun f => decide (step < f.step)) } : Drover).settle
  setTopo (s2.setFld (DRV_STATUS d) DRV_STATUS_step_low ((step + 1) % 2 ^ 32)) d

/-! ### Prefetched rows (R218, R219) -/

/-- The check of a row of a Fold has completed: the Fold's cores that stall on a check wake, and their instructions may go on (R34, R55,
R219). -/
def checkDone (fold : Nat) (s : State) : State :=
  (rangeFrom (8 * fold) 8).foldl (fun s c =>
    if (s.core c).runs.any (fun r => decide (r.wcode = 7)) then s.onCore c (fun k => (wakeCore k).free 7) else s) s

/-- A prefetched row is discarded and counted (R219). -/
def discardRow (s : State) (d id : Nat) : State :=
  let k := s.drover d
  let s1 := (s.setDrover d ({ k with rows := k.rows.filter (fun r => decide (r.id ≠ id)) } : Drover).settle).count (DRV_ROWS_DISCARDED d) 1
  match k.rows.find? (fun r => decide (r.id = id)) with
  | some r => checkDone r.fold s1
  | none => s1

/-- The state of a row's check is noted. -/
def markRow (s : State) (d id v : Nat) : State :=
  let k := s.drover d
  s.setDrover d ({ k with rows := k.rows.map (fun q => if q.id = id then { q with check := v } else q) } : Drover).settle

/-- A row's check completes with the current version of its entry (R219). -/
def rowChecked (s : State) (d : Nat) (r : PfRow) (ver : Nat) : State :=
  if ver = (dirEnt r.entry).ver ∧ r.topo = topoVersion s (topoFor s d r.step) then checkDone r.fold (markRow s d r.id 3) else discardRow s d r.id

/-- Where the entry of a row lies on its home device, as this device's descriptor has it (R250, log 35). -/
def entryPlace (s : State) (t : Table) (row : Nat) : Nat := ((entryAt s t row).map (·.2)).getD (t.base + 8 * row)

/-- Ask a row's home for its version, a read of the home's entry (R219, R250): a window must permit it, and a frozen Drover asks later (R425,
R428). -/
def askVersion (s : State) (d : Nat) (r : PfRow) (t : Table) (home : Nat) (e : DirEnt) : State :=
  let a := entryPlace s t r.key
  if s.isFrozen (drMst d) then markRow s d r.id 1
  else if !permitted s (34 + d) home a 8 kRead then discardRow (s.violateAddr (drMst d) 0x1001 kRead (home * 2 ^ 48 + a)) d r.id
  else ((markRow s d r.id 2).request 0x08 home 0 [t.id, r.key, e.addr] [] (.check d r.id)).2

/-- The range table of a ranged table is read by a master that looks a row up in it (R248, R250). -/
def readRanges (m : Mst) (t : Table) (s : State) : Access :=
  if t.ranged then localRead m t.ranges (16 * t.rangeCount) s else .done [] false s

/-- Bytes that a prefetched row takes of the prefetch area (log 37). -/
def PfRow.room (r : PfRow) : Nat := upTo 64 r.bytes.length

/-- Where a row's bytes begin in the prefetch area: rows lie one after the other (log 37). Structural on the rows. -/
def rowPlace (id : Nat) : List PfRow → Nat → Option Nat
  | [], _ => none
  | r :: t, off => if r.id = id then some off else rowPlace id t (off + r.room)

/-- Whether a row's bytes in staging hold a double-bit error that its check meets (R298). -/
def rowUpset (s : State) (d : Nat) (r : PfRow) : Option Upset :=
  match rowPlace r.id (s.drover d).rows (slotOffset s d (if drShared s d then 6 else 3)) with
  | some off => s.upsets.find? (fun u => u.double && u.meets 5 d off r.room)
  | none => none

/-- ROW_CHECK of a row that is due: its version is read here, or asked of its home (R219, R250). A row whose bytes hold a double-bit
error is discarded (R298). -/
def rowCheck (d id : Nat) (s : State) : State :=
  let k := s.drover d
  match k.rows.find? (fun r => decide (r.id = id) && decide (r.check = 1)) with
  | none => s
  | some r =>
    let t := tableOf (r.desc % 2 ^ 48) r.table
    if 2 ≤ k.rest ∨ s.isFrozen (drMst d) then s
    else match rowUpset s d r with
    | some u => discardRow (sramReport 5 d u.off 2 { s with upsets := s.upsets.filter (fun v => decide (v ≠ u)) }) d id
    | none => match readRanges (drMst d) t s with
    | .held => s
    | .bad _ s1 => discardRow s1 d id
    | .done _ lost s =>
      match (if lost then none else entryAt s t r.key) with
      | none => discardRow s d id
      | some (dev, a) =>
        if dev ≠ s.devId then
          (if !permitted s (34 + d) dev a 8 kRead then discardRow (s.violateAddr (drMst d) 0x1001 kRead (dev * 2 ^ 48 + a)) d id
           else askVersion s d r t dev (dirEnt r.entry))
        else match localRead (drMst d) a 8 s with
           | .held => s
           | .bad _ s1 => discardRow s1 d id
           | .done b ue s1 =>
             let e := dirEnt (leNat b)
             if ue then discardRow s1 d id
             else if e.dev = s.devId then rowChecked s1 d r e.ver
             else askVersion s1 d r t e.dev e

end Sys2Proof.Machine
end

