-- ==== Sys2Proof/Machine/Prefetch.lean ====
section
/-! DEFINITION. Prefetches of a Drover (R218, R219) and the samples that it serves for other devices (R206, R207). -/

namespace Sys2Proof.Machine

/-- Bytes of the prefetch area in use. -/
def prefetchUsed (k : Drover) : Nat := (k.rows.map PfRow.room).foldl (· + ·) 0

/-- Replace the prefetch in hand. -/
def putFeed (s : State) (d : Nat) (f : Feed) : State :=
  let k := s.drover d
  s.setDrover d { k with feeds := f :: k.feeds.drop 1 }

/-- The prefetch in hand has ended. -/
def endFeed (s : State) (d : Nat) : State :=
  let k := s.drover d
  s.setDrover d ({ k with feeds := k.feeds.drop 1 } : Drover).settle

/-- The next row of a prefetch: the row in hand is left. -/
def nextKey (f : Feed) : Feed := { f with keys := f.keys.drop 1, entry := none, known := false, await := false, resp := none }

/-- Whether the fence of the step before a prefetch's target was confirmed when its row's version was asked for (R219). -/
def Feed.fenced (f : Feed) : Bool := decide (f.step ≤ f.asked)

/-- Elements of the prefetched sub-row. -/
def Feed.width (f : Feed) (t : Table) : Nat := if f.ncols = 0 then t.elems - f.col0 else f.ncols

/-- A row's pieces have come: they are kept with their tags, or the prefetch stops for want of room (R218). A row gathered
once the fence of the step before its target is confirmed needs no check; one whose gathering began before it is due at once when it
comes after it (R219). -/
def keepRow (s : State) (d : Nat) (f : Feed) (t : Table) (e : DirEnt) (b : List Byte) : State :=
  let k := s.drover d
  let r : PfRow := { id := k.serial, step := f.step, fold := f.fold, topo := f.topo, desc := f.desc, table := f.table, key := f.keys.headD 0,
                     col0 := f.col0, ncols := f.width t, entry := e.word, elems := t.elems, bytes := b
                     check := if f.fenced then 3 else if f.step ≤ (s.reg COL_STEP).toNat then 1 else 0 }
  if prefetchSize s d < prefetchUsed k + r.room then (endFeed s d).count (DRV_PREFETCH_SKIPPED d) f.keys.length
  else (putFeed (s.setDrover d { k with rows := k.rows ++ [r], serial := k.serial + 1 }) d (nextKey f)).wide (DRV_ROWS_PREFETCHED d) 1

/-- An entry that a forward brought is written into this device's directory (R268); true when the write meets an uncorrectable atom, which
stays as it was (R279). -/
def learnEntry (s : State) (t : Table) (row entry : Nat) : Bool × State :=
  if t.ranged then (false, s) else s.writeMem (t.base + 8 * row) (leBytes 8 entry)

/-- The entry of the row in hand is known with its version: its bytes are read here or asked of its home. -/
def feedRow (d : Nat) (t : Table) (e : DirEnt) (s : State) (f : Feed) : State :=
  let n := f.width t
  let (lo, hi) := colSpan e.cls f.col0 n
  if e.unplaced then putFeed s d (nextKey f)
  else if e.dev = s.devId ∧ rowPlaced e.addr e.cls t.elems ∧ !mapped s (e.addr + lo) (hi - lo) then
    endFeed (s.violateAddr (drMst d) 0x1002 kRead (s.gaddr e.addr)) d
  else if !permitted s (34 + d) e.dev (e.addr + lo) (hi - lo) kRead then
    endFeed (s.violateAddr (drMst d) 0x1001 kRead (e.dev * 2 ^ 48 + e.addr)) d
  else if e.dev = s.devId then
    if waits s e.addr then s else
      match nsrRow s s.devId e.addr e.cls t.elems f.col0 n with
      | .got b ue s1 => if ue then putFeed s1 d (nextKey f) else keepRow s1 d f t e b
      | .moved w s1 => putFeed (learnEntry s1 t (f.keys.headD 0) w).2 d { f with entry := none, known := false }
      | .refused s1 => putFeed s1 d (nextKey f)
  else
    let (_, s1) := s.request 0x04 e.dev (e.dev * 2 ^ 48 + e.addr) [e.cls, t.elems, f.col0, n] [] (.feed d f.serial)
    putFeed s1 d { f with await := true, entry := some e.word, known := true }

/-- One row of the prefetch in hand: its directory entry, its version, its bytes (R218, R250). -/
def feedStep (d : Nat) (s : State) : State :=
  let k := s.drover d
  let now := (s.reg COL_STEP).toNat
  match k.feeds with
  | [] => s
  | f :: _ =>
    if k.halted ∨ 2 ≤ k.rest ∨ s.isFrozen (drMst d) ∨ (f.await ∧ f.resp.isNone) ∨ f.table = [] then s
    else match parseTable (f.desc % 2 ^ 48) f.table with
      | none => endFeed (tableFault s 2 d) d
      | some t =>
        if t.elems < f.col0 + f.width t ∨ f.width t = 0 then endFeed (s.flag EMB_ERR EMB_ERR_columns) d
        else match f.keys with
          | [] => endFeed s d
          | row :: _ =>
            match f.resp with
            | some (st, args, b) =>
              let g := { f with await := false, resp := none }
              if st = 0x0A then putFeed (learnEntry s t row (args.getD 0 0)).2 d { g with entry := none, known := false }
              else if st ≠ 0 then putFeed s d (nextKey f)
              else (match f.entry with
                | none => putFeed s d { g with entry := some (leNat (b.take 8)), known := true }
                | some w =>
                  if f.known then keepRow s d g t (dirEnt w) b
                  else putFeed s d { g with entry := some ({ dirEnt w with ver := args.getD 0 0 % 4096 } : DirEnt).word, known := true })
            | none =>
              if t.rows ≤ row then putFeed s d (nextKey f)
              else match f.entry with
                | some w =>
                  let e := dirEnt w
                  if f.known then feedRow d t e s f
                  else if !permitted s (34 + d) e.dev (entryPlace s t row) 8 kRead then
                    endFeed (s.violateAddr (drMst d) 0x1001 kRead (e.dev * 2 ^ 48 + entryPlace s t row)) d
                  else
                    let (_, s1) := s.request 0x08 e.dev 0 [t.id, row, e.addr] [] (.feed d f.serial)
                    putFeed s1 d { f with await := true, asked := now }
                | none => match readRanges (drMst d) t s with
                | .held => s
                | .bad _ s1 => endFeed s1 d
                | .done _ lost s =>
                  match (if lost then none else entryAt s t row) with
                  | none => putFeed s d (nextKey f)
                  | some (dev, a) =>
                    if dev ≠ s.devId ∧ !permitted s (34 + d) dev a 8 kRead then
                      endFeed (s.violateAddr (drMst d) 0x1001 kRead (dev * 2 ^ 48 + a)) d
                    else if dev ≠ s.devId then
                      let (_, s1) := s.request 0x01 dev (dev * 2 ^ 48 + a) [8] [] (.feed d f.serial)
                      putFeed s1 d { f with await := true, asked := now }
                    else match localRead (drMst d) a 8 s with
                      | .held => s
                      | .bad _ s1 => endFeed s1 d
                      | .done b ue s1 =>
                        let e := dirEnt (leNat b)
                        if ue || e.unplaced then putFeed s1 d (nextKey f)
                        else putFeed s1 d { f with entry := some e.word, known := decide (e.dev = s.devId), asked := now }

/-- PREFETCH: a Drover takes up to `n` steps of its prefetch (R218). Structural on the steps. -/
def prefetch (d : Nat) : Nat → State → State
  | 0, s => s
  | n + 1, s => prefetch d n (feedStep d s)

/-! ### Samples served for other devices (R206, R207) -/

/-- The present Drovers in ascending number. -/
def presentDrovers (s : State) : List Nat := (rangeFrom 0 4).filter (fun d => s.has .drover d)

/-- The Drover that serves a node for another device (R206). -/
def servingDrover (s : State) (v : Nat) : Nat :=
  let l := presentDrovers s
  l.getD (v % max 1 l.length) 0

/-- A topology of a Drover with a version: the current one or the pending one (R207, R216). -/
def topoOfVersion (s : State) (d ver : Nat) : Option Nat :=
  (heldTopos s d).find? (fun t => decide (t ≠ 0) && (adjOf (s.bytes t 64)).good && decide (topoVersion s t = ver))

/-- The arguments that carry selected edges (R206). -/
def edgeArgs (l : List Edge) : List Nat := (l.map (fun e => [e.nbr, e.rel, e.weight, e.edge, e.num])).flatten

/-- The edges that arguments carry. -/
def argEdges : Nat → List Nat → List Edge
  | 0, _ => []
  | n + 1, l => if l.length < 5 then [] else
    ⟨l.getD 0 0, l.getD 1 0, l.getD 2 0, l.getD 3 0, l.getD 4 0⟩ :: argEdges n (l.drop 5)

/-- Serve the sample request of a node: the status, the run of a malformed block or entry, the selected edges and the state; none while it
must wait (R206, R207, log 114). -/
def serveSample (s : State) (v step hop ver : Nat) (entry : List Byte) : Option (Nat × List Nat × List Edge × State) :=
  let d := servingDrover s v
  if 2 ≤ (s.drover d).rest ∨ s.isFrozen (drMst d) then none
  else match topoOfVersion s d ver with
    | none => some (0x02, [], [], s.flag (DRV_ERR d) DRV_ERR_topo_refused)
    | some t =>
      let a := adjOf (s.bytes t 64)
      let r := homeOf s a v
      let (ue, s0) := s.touch [(t, 64), (a.ranges, 16 * a.rangeCount)]
      if waitsFor s t 64 ∨ waitsFor s a.ranges (16 * a.rangeCount) then none
      else if ue then some (0x06, [], [], s0)
      else match nodeEdges d a (r.base + (v - r.first)) (fun deg => blocksRead (seedOf s) step hop v deg (hopOf entry)) s0 with
      | .held => none
      | .frozen s1 => some (0x05, [], [], s1)
      | .failed s1 => some (0x06, [], [], s1)
      | .malformed run s1 =>
        some (0x02, [run], [], (s1.flag (DRV_ERR d) DRV_ERR_adjacency).log 0x7001 2 d d (v % 2 ^ 32) (v / 2 ^ 32) (run % 2 ^ 32))
      | .ok es first s1 =>
        some (0, [], selectEdges (seedOf s) step hop v a (hopOf entry) first es,
          (s1.count (DRV_INDEX_DROPPED d) (outOfRange a es)).wide (DRV_REMOTE_SERVED d) 1)

/-- Serve the nodes of a packet in order: the first failure ends it. Structural on the nodes. -/
def serveAll (step hop ver : Nat) (entry : List Byte) : List Nat → State → Option (Nat × List Nat × List (Nat × List Edge) × State)
  | [], s => some (0, [], [], s)
  | v :: t, s =>
    match serveSample s v step hop ver entry with
    | none => none
    | some (st, run, es, s1) =>
      if st ≠ 0 then some (st, run, [], s1)
      else (serveAll step hop ver entry t s1).map (fun r => (r.1, r.2.1, (v, es) :: r.2.2.1, r.2.2.2))

/-- A piece of a node's selection in an answer: the node, how many edges it has in all, and the piece's edges. -/
abbrev EdgePiece := Nat × Nat × List Edge

/-- The pieces of a node's selection: 254 edges of 16 bytes, with the node's own 16, fill a packet (R206, log 134). -/
def edgePieces (p : Nat × List Edge) : List EdgePiece :=
  (if p.2 = [] then [[]] else chunksOf 254 p.2).map (fun l => (p.1, p.2.length, l))

/-- Pieces put into packets of up to 4 KiB, in order. Structural on the pieces. -/
def packPieces : List EdgePiece → List EdgePiece → List (List EdgePiece)
  | [], cur => [cur]
  | p :: t, cur =>
    if 255 < (cur.map (fun q => q.2.2.length + 1)).foldl (· + ·) (p.2.2.length + 1) then cur :: packPieces t [p]
    else packPieces t (cur ++ [p])

/-- The arguments of one packet of an answer: the packets of the whole answer, then each piece. -/
def pieceArgs (n : Nat) (l : List EdgePiece) : List Nat :=
  n :: (l.map (fun p => [p.1, p.2.1, p.2.2.length] ++ edgeArgs p.2.2)).flatten

/-- The pieces that arguments carry. Structural on the fuel. -/
def argPieces : Nat → List Nat → List EdgePiece
  | 0, _ => []
  | n + 1, l => if l.length < 3 then [] else
    let k := l.getD 2 0
    (l.getD 0 0, l.getD 1 0, argEdges k (l.drop 3)) :: argPieces n (l.drop (3 + 5 * k))

/-- A piece of a node's selection joins what has come of it; a whole selection takes its place in frontier order, in ascending eligible
number (R206). -/
def takePiece (x : Smp) (p : EdgePiece) : Smp :=
  let old := ((x.parts.find? (fun q => decide (q.1 = p.1))).map (·.2)).getD []
  let es := old ++ p.2.2
  let rest := x.parts.filter (fun q => decide (q.1 ≠ p.1))
  if es.length < p.2.1 then { x with parts := rest ++ [(p.1, es)] }
  else
    let by_ := es.foldl (fun l e => l.filter (fun q => decide (q.num ≤ e.num)) ++ e :: l.filter (fun q => decide (e.num < q.num))) []
    { x with parts := rest, cur := x.cur.map (fun q => if q.1 = p.1 then (q.1, q.2.1, some by_) else q) }

/-- A packet of the answer to sample requests reaches its Drover: its selections are taken and the SAMPLE goes on, or it ends with the
failure (R195, R206, R207; log 114). -/
def sampleAnswered (s : State) (d serial status : Nat) (args : List Nat) : State :=
  match s.sample? d serial with
  | none => s
  | some x =>
    if status = 0x05 then endSample s d x 0x05 0
    else if status = 0x06 then endSample s d x 0x06 0
    else if status = 0x02 ∧ args ≠ [] then endSample s d x 0x02 0x7001
    else if status ≠ 0 then endSample ((s.flag (DRV_ERR d) DRV_ERR_topo_refused).logFree 0x7004 2 d) d x 0x02 0x7004
    else advanceSample d 9 s ((argPieces args.length (args.drop 1)).foldl takePiece x)

/-- The answer to a version check (R219): the row passes or is discarded; a forward asks again at the new home. -/
def checkAnswered (s : State) (d id status : Nat) (args : List Nat) : State :=
  let k := s.drover d
  match k.rows.find? (fun r => decide (r.id = id) && decide (r.check = 2)) with
  | none => s
  | some r =>
    if status = 0 then rowChecked s d r (args.getD 0 0)
    else if status = 0x0A then
      let t := tableOf (r.desc % 2 ^ 48) r.table
      askVersion (learnEntry s t r.key (args.getD 0 0)).2 d r t (dirEnt (args.getD 0 0)).dev (dirEnt (args.getD 0 0))
    else discardRow s d id

/-- The answer to a prefetch's request; one that comes when another prefetch is in hand is dropped. -/
def feedAnswered (s : State) (d serial status : Nat) (args : List Nat) (b : List Byte) : State :=
  match (s.drover d).feeds with
  | [] => s
  | f :: _ => if f.await ∧ f.serial = serial then putFeed s d { f with resp := some (status, args, b) } else s

/-- The descriptor of a feature table comes from another device (R196, R247): the SAMPLE or its prefetch takes it, or the SAMPLE fails
with its status. -/
def featureAnswered (s : State) (d serial status : Nat) (b : List Byte) : State :=
  match s.sample? d serial with
  | some x => if status ≠ 0 then endSample s d x status 0 else s.putSample d { x with feat := b }
  | none =>
    let k := s.drover d
    s.setDrover d ({ k with feeds := if status = 0 then k.feeds.map (fun f => if f.serial = serial then f.withTable b else f)
                                     else k.feeds.filter (fun f => decide (f.serial ≠ serial)) } : Drover).settle

end Sys2Proof.Machine
end

