-- ==== Sys2Proof/Machine/Trh.lean ====
section
/-! DEFINITION. Transhumance engines (09_embedding_tables R262 to R271, R273): slots, migrations, commits, reclassification,
selection at the fence. -/

namespace Sys2Proof.Machine

/-- The master of a Transhumance engine (R423). -/
def trMst (n : Nat) : Mst := ⟨40 + n, 0⟩

/-- The engine that migrates the rows of a pasture. -/
def engineOf (p : Nat) : Nat := p / 4

/-! ### Slot regions (R295) -/

/-- A region of a pasture's region table (R295). -/
structure Region where
  base : Nat
  size : Nat
  kind : Nat
  units : Nat
  owners : Nat
  deriving DecidableEq, Repr, Inhabited

/-- The region that 32 bytes spell. -/
def regionOf (b : List Byte) : Region := ⟨fieldAt b 0 8, fieldAt b 8 8, fieldAt b 16 4, fieldAt b 20 4, fieldAt b 24 8⟩

/-- The bytes of a region's entry. -/
def Region.bytes (r : Region) : List Byte := leBytes 8 r.base ++ leBytes 8 r.size ++ leBytes 4 r.kind ++ leBytes 4 r.units ++ leBytes 8 r.owners

/-- The regions of a pasture, in ascending base (R295). -/
def regions (s : State) (p : Nat) : List Region :=
  (rangeFrom 0 (s.fld (MEM_REGION_BASE p) MEM_REGION_BASE_entries)).map (fun i =>
    regionOf (s.bytes (s.fld (MEM_REGION_BASE p) MEM_REGION_BASE_address + 32 * i) 32))

/-- The owner word of a free slot (R295). -/
abbrev freeOwner : Nat := 0xFFFFFFFFFFFFFFFF

/-- The region and slot number of a slot address. -/
def slotPlace (s : State) (a : Nat) : Option (Region × Nat) :=
  ((regions s (pastureOf a)).find? (fun r => decide (r.kind = 3) && decide (r.units ≠ 0) && decide (r.base ≤ a) && decide (a < r.base + r.size))).map
    (fun r => (r, (a - r.base) / (r.units * 64)))

/-- The owner word of a slot. -/
def ownerOf (s : State) (a : Nat) : Nat :=
  match slotPlace s a with
  | some (r, i) => s.num (r.owners + 8 * i) 8
  | none => freeOwner

/-- Write the owner word of a slot. -/
def setOwner (s : State) (a w : Nat) : State :=
  match slotPlace s a with
  | some (r, i) => (s.writeMem (r.owners + 8 * i) (leBytes 8 w)).2
  | none => s

/-- The first free slot of a region, by ascending number. -/
def freeIn (s : State) (r : Region) : Option Nat :=
  ((rangeFrom 0 (r.size / (r.units * 64))).find? (fun i => decide (s.num (r.owners + 8 * i) 8 = freeOwner))).map
    (fun i => r.base + i * r.units * 64)

/-- A free slot of at least `n` bytes in a pasture: of the regions in ascending base the first that has one (log 38). -/
def freeSlotIn (s : State) (p n : Nat) : Option Nat :=
  (regions s p).foldl (fun o r => match o with
    | some a => some a
    | none => if r.kind = 3 ∧ n ≤ r.units * 64 then freeIn s r else none) none

/-- The reads that the search for a free slot of `n` bytes makes: the pasture's region table, and the owner words of its slot regions
(R263, R295). -/
def slotReads (s : State) (p n : Nat) : List (Nat × Nat) :=
  (s.fld (MEM_REGION_BASE p) MEM_REGION_BASE_address, 32 * s.fld (MEM_REGION_BASE p) MEM_REGION_BASE_entries) ::
    ((regions s p).filter (fun r => decide (r.kind = 3) && decide (n ≤ r.units * 64))).map (fun r => (r.owners, 8 * (r.size / (r.units * 64))))

/-! ### Starting a migration (R263, R264, R270) -/

/-- Put a migration back, or take it away. -/
def State.putMig (s : State) (n : Nat) (m : Mig) : State :=
  let k := s.trh n
  s.setTrh n { k with migs := k.migs.map (fun q => if q.id = m.id then m else q) }

/-- An engine whose work has drained enters recess (R457). -/
def Trh.settle (k : Trh) : Trh := if 2 ≤ k.rest then k else if k.migs = [] ∧ k.inbox = [] then { k with rest := 1 } else { k with rest := 0 }

def State.dropMig (s : State) (n : Nat) (m : Mig) : State :=
  let k := s.trh n
  s.setTrh n ({ k with migs := k.migs.filter (fun q => decide (q.id ≠ m.id)) } : Trh).settle

/-- The record of an abandoned migration (R270). -/
def abandonNote (s : State) (n table row dev : Nat) : State :=
  (s.flag (TRH_ERR n) TRH_ERR_abandoned).log 0x7012 6 n n table (row % 2 ^ 32) dev

/-- A migration is abandoned (R270): slot b is freed. -/
def abandon (n : Nat) (s : State) (m : Mig) : State :=
  let s1 := if m.dev = s.devId then setOwner s m.slotB freeOwner else s
  abandonNote (s1.dropMig n m) n m.table m.row m.dev

/-- The table of a migration's row, as its descriptor read when it started. -/
def Mig.tableOf (m : Mig) : Table := Machine.tableOf m.desc m.tbl

/-- The bytes that a migration puts in slot b, from slot a's: the same, or their conversion into the new class (R271). -/
def movedBytes (s : State) (m : Mig) (b : List Byte) : List Byte :=
  let t := m.tableOf
  if m.clsA = m.clsB then b
  else encodeSlot s t m.clsB m.row [] (slotWeights t m.clsA b) ((rangeFrom 0 t.opt).map (fun j => slotMoment t m.clsA j b))

/-- The engine reads slot a of a migration, as a request of its own (R22, R425). -/
def readSlot (n : Nat) (m : Mig) (s : State) : Access := localRead (trMst n) m.slotA (slotSize m.tableOf m.clsA) s

/-- Send bytes to another device in WRITEs of at most 4,096 bytes; how many there are (R305). -/
def sendCopies (n id dev a : Nat) (s : State) (ps : List (List Byte)) : State :=
  (ps.foldl (fun (q : Nat × State) b => (q.1 + b.length, (q.2.request 0x02 dev (dev * 2 ^ 48 + q.1) [] b (.copy n id)).2)) (a, s)).2

/-- Copy a migration's slot to another device, under the TRH_COPY_TIMEOUT of now, counting the KiB that are copied again (R273). A slot whose read is held, or is a violation,
stays to be copied; one that is uncorrectable is not copied: the migration is abandoned (R22, R299, R425; log 132). -/
def copyAway (n again : Nat) (s : State) (m : Mig) : State :=
  match readSlot n m s with
  | .held => s
  | .bad _ s1 => s1
  | .done b ue s1 =>
    let ps := chunksOf 4096 (movedBytes s m b)
    if ue then abandon n s1 m
    else if !permitted s (40 + n) m.dev m.slotB (movedBytes s m b).length kWrite then
      s1.violateAddr (trMst n) 0x1001 kWrite (m.dev * 2 ^ 48 + m.slotB)
    else (sendCopies n m.id m.dev m.slotB
      (s1.putMig n { m with acks := ps.length, dirty := [], sent := true, timeout := s.fld (TRH_COPY_TIMEOUT n) TRH_COPY_TIMEOUT_us }) ps).wide
      (TRH_ROWS_RECOPIED n) again

/-- A violation by the requests of a migration, if any: to read slot a, and to write slot b of a device (R22, R425). -/
def moveBad (s : State) (n a lenA dev b lenB : Nat) : Option (Nat × Nat × Nat) :=
  if !mapped s a lenA then some (0x1002, kRead, s.gaddr a)
  else if !permitted s (40 + n) s.devId a lenA kRead then some (0x1001, kRead, s.gaddr a)
  else if decide (dev = s.devId) && !mapped s b lenB then some (0x1002, kWrite, s.gaddr b)
  else if !permitted s (40 + n) dev b lenB kWrite then some (0x1001, kWrite, dev * 2 ^ 48 + b)
  else none

/-- Start the migration of a placed row to a device and pasture in a class (R263). The slot that another device reserves is
its own choice: a free value, as is its refusal (log 39). One whose requests would be violations does not start. -/
def startMig (n : Nat) (t : Table) (row : Nat) (e : DirEnt) (dev pas cls : Nat) (re : Bool) (s : State) : State :=
  let k := s.trh n
  let need := slotSize t cls
  let mk (b : Nat) : Mig := { id := k.serial, table := t.id, row := row, desc := t.desc, slotA := e.addr, clsA := e.cls, ver := e.ver
                              dev := dev, slotB := b, clsB := cls, reclass := re, tbl := s.bytes t.desc 64 }
  let put (s : State) (m : Mig) : State :=
    s.setTrh n { k with migs := k.migs ++ [m], serial := k.serial + 1, begun := k.begun + 1, rest := 0 }
  if dev = s.devId then
    let (ue, s1) := s.touch (slotReads s pas need)
    match (if s.has .stack pas && !ue then freeSlotIn s pas need else none) with
    | none => abandonNote s1 n t.id row dev
    | some b =>
      match moveBad s n e.addr (slotSize t e.cls) dev b need with
      | some (code, kind, g) => s1.violateAddr (trMst n) code kind g
      | none => put (setOwner s1 b (t.id * 2 ^ 48 + row)) (mk b)
  else
    let (no, s1) := s.drawBool
    let (w, s2) := s1.drawWord
    let b := pas * 0x1000000000 + w.toNat % 2 ^ 30 * 64
    if no then abandonNote s2 n t.id row dev
    else match moveBad s2 n e.addr (slotSize t e.cls) dev b need with
      | some (code, kind, g) => s2.violateAddr (trMst n) code kind g
      | none => copyAway n 0 (put s2 (mk b)) (mk b)

/-- Whether a row migrates in an engine. -/
def Trh.migrating (k : Trh) (table row : Nat) : Bool := k.migs.any (fun m => decide (m.table = table) && decide (m.row = row))

/-- What an engine's look-up of a row comes to: a row of a registered table homed in its pastures, with its table and entry; no such
row; a failure, with its status; or a look-up that must wait (R250, R299). -/
inductive RowHome where
  | here (t : Table) (e : DirEnt) (s : State)
  | none (s : State)
  | fails (status : Nat) (s : State)
  | held
  deriving Repr

/-- An engine's look-up of a row: the registry, the descriptor, and the row's entry, read as the engine's own request (R250). -/
def homedRow (s : State) (n table row : Nat) : RowHome :=
  let (ue, s1) := s.touch (tableReads s table)
  if s.isFrozen (trMst n) then .fails 0x05 s
  else if tableWaits s table then .held
  else if ue then .fails 0x06 s1
  else match s.registered table with
    | none => .none s1
    | some t =>
      match (if t.rows ≤ row then none else entryAt s t row) with
      | none => .none s1
      | some (dev, a) =>
        if dev ≠ s.devId then .none s1
        else match localRead (trMst n) a 8 s1 with
          | .held => .held
          | .bad _ s2 => .fails 0x05 s2
          | .done b ue2 s2 =>
            let e := dirEnt (leNat b)
            if ue2 then .fails 0x06 s2
            else if !e.unplaced && decide (e.dev = s.devId) && decide (engineOf e.pasture = n) && decide (e.cls < 4) then .here t e s2
            else .none s2

/-! ### MIGRATE and RECLASS (R264) -/

/-- The head command of an engine, when it takes commands. A halted engine starts no migration and leaves a MIGRATE waiting (log
115). -/
def trHead (s : State) (n code : Nat) : Option Cmd :=
  let k := s.trh n
  if 2 ≤ k.rest ∨ s.mixed ∨ !s.has .trh n ∨ (k.halted ∧ code = 1) then none
  else match k.inbox with
    | [] => none
    | m :: _ => if m.code = code then some m else none

/-- The list of a command: entries of 16 bytes, whose fields' places the manual leaves open (log 22). -/
def listEntries (code : Nat) (b : List Byte) : List (List Nat) := (chunksOf 16 b).map (Config.parseEntry code)

/-- The status of a command of an engine while an entry of its list has to wait for a pasture: no status of R12. -/
abbrev entryHeld : Nat := 0x100

/-- An entry of a command's list that is no valid one, given the command's status so far: the command completes MALFORMED once the
valid ones have been taken (R264). -/
def badEntry (s : State) : Nat × State := (0x02, s)

/-- An entry of MIGRATE: the command's status, and the row's migration started; a violation by its requests ends the command FROZEN
(R22). Nothing more is taken once an entry has failed. -/
def migrateOne (n : Nat) (p : Nat × State) (a : List Nat) : Nat × State :=
  let s := p.2
  if 0x05 ≤ p.1 then p
  else match homedRow s n (a.getD 0 0) (a.getD 1 0) with
  | .held => (entryHeld, s)
  | .fails st s1 => (st, s1)
  | .none s1 => badEntry s1
  | .here t e s1 =>
    let dev := a.getD 2 0
    let pas := a.getD 3 0 % 8
    if dev ≠ s.devId ∧ t.ranged then badEntry s1
    else if (s.trh n).migrating t.id (a.getD 1 0) then (p.1, s1)
    else if decide (dev = s.devId) && (s1.touch (slotReads s1 pas (slotSize t e.cls))).1 then
      (0x06, (s1.touch (slotReads s1 pas (slotSize t e.cls))).2)
    else
      let s2 := startMig n t (a.getD 1 0) e dev pas e.cls false s1
      (if s2.isFrozen (trMst n) then 0x05 else p.1, s2)

/-- Start the migrations of queued rows in the step whose fence commits them (R271). They stay on their device and in their
pasture (log 38). -/
def beginReclass (n : Nat) (s : State) : State :=
  let k := s.trh n
  if k.halted ∨ s.reg (TRH_RECLASS_STEP n) ≠ s.reg COL_STEP then s
  else
    k.queue.foldl (fun s q =>
      let gone (s : State) : State := s.setTrh n { s.trh n with queue := (s.trh n).queue.erase q }
      match homedRow s n q.1 q.2.1 with
      | .held => s
      | .fails _ s1 => s1
      | .none s1 => gone s1
      | .here t e s1 =>
        if (s.trh n).migrating q.1 q.2.1 then s1 else startMig n t q.2.1 e s.devId e.pasture q.2.2 true (gone s1)) s

/-- An entry of RECLASS: the command's status, and the row queued. -/
def reclassOne (n : Nat) (p : Nat × State) (a : List Nat) : Nat × State :=
  let s := p.2
  if 0x05 ≤ p.1 then p
  else match homedRow s n (a.getD 0 0) (a.getD 1 0) with
  | .held => (entryHeld, s)
  | .fails st s1 => (st, s1)
  | .none s1 => badEntry s1
  | .here t _ s1 =>
    let c := a.getD 2 0
    if c < t.wide ∨ t.narrow < c then badEntry s1
    else (p.1, s1.setTrh n { s1.trh n with queue := (s1.trh n).queue ++ [(t.id, a.getD 1 0, c)] })

/-- A command of an engine over its list (R264): an invalid entry is skipped and the command then completes MALFORMED; a look-up that
is a violation or meets an uncorrectable atom ends it (R250, R286). -/
def listCmd (code n : Nat) (one : Nat → Nat × State → List Nat → Nat × State) (s : State) : State :=
  match trHead s n code with
  | none => s
  | some m =>
    let k := s.trh n
    let s0 := s.setTrh n ({ k with inbox := k.inbox.drop 1 } : Trh).settle
    let a := fieldAt m.desc 8 8
    let len := fieldAt m.desc 0x10 4
    if s.isFrozen (trMst n) then (s0.frozenCommand (trMst n) 0x05).complete m.ref 0x05 0 0x1007 0
    else match localRead (trMst n) a (16 * len) s0 with
      | .held => s
      | .bad c s1 => s1.complete m.ref 0x05 0 c 0
      | .done b ue s1 =>
        if ue then s1.complete m.ref 0x06 0 0x5001 0
        else
          let (st, s2) := (listEntries code b).foldl (one n) (0, s1)
          if st = entryHeld then s
          else
            let s3 := beginReclass n s2
            (s3.setTrh n (s3.trh n).settle).complete m.ref st 0
              (if st = 0x05 then s3.fld HMN_VIOL HMN_VIOL_code else if st = 0x06 then 0x5001 else 0) 0

/-- MIGRATE (R264). -/
def migrateCmd (n : Nat) (s : State) : State := listCmd 1 n migrateOne s

/-- RECLASS (R264). -/
def reclassCmd (n : Nat) (s : State) : State := listCmd 2 n reclassOne s

/-! ### Copies (R265) -/

/-- MIGRATION_COPY_DONE of a migration: a copy within the device is made; a copy to another device is acknowledged; dirty KiB
are copied again (R265). A copy whose requests are held stays to be made, and so does one that is a violation, which freezes the engine
(R22, R299, R425, R428). -/
def copyDone (n id : Nat) (s : State) : State :=
  match (s.trh n).migs.find? (fun m => decide (m.id = id)) with
  | none => s
  | some m =>
    if m.state = 1 ∨ 0 < m.acks then s
    else
      let recopied := if m.state = 2 ∨ m.dirty ≠ [] then m.dirty.length else 0
      if m.dev = s.devId then
        match readSlot n m s with
        | .held => s
        | .bad _ s1 => s1
        | .done b ue s1 =>
          if ue then abandon n s1 m
          else match localStore (trMst n) m.slotB (movedBytes s m b) s1 with
            | .held => s
            | .bad _ s2 => s2
            | .done _ ue2 s2 =>
              if ue2 then abandon n s2 m
              else (s2.putMig n { m with state := 1, dirty := [] }).wide (TRH_ROWS_RECOPIED n) recopied
      else if !m.sent then copyAway n 0 s m
      else if m.dirty ≠ [] then copyAway n recopied s { m with state := 2 }
      else s.putMig n { m with state := 1 }

/-- The answer to a copy: acknowledged, or refused, which abandons the migration (R270). -/
def copyAnswered (s : State) (n id status : Nat) : State :=
  match (s.trh n).migs.find? (fun m => decide (m.id = id)) with
  | none => s
  | some m => if status = 0 then s.putMig n { m with acks := m.acks - 1 } else abandon n s m

/-- COPY_TIMEOUT of a migration (R270); a deadline of 0 never expires, and a copy keeps the one it started with (R273). -/
def copyTimeout (n id : Nat) (s : State) : State :=
  match (s.trh n).migs.find? (fun m => decide (m.id = id)) with
  | none => s
  | some m => if 0 < m.acks ∧ m.timeout ≠ 0 then abandon n s m else s

/-! ### Commits (R266, R267) -/

/-- Whether the device's applications of the step have completed (R260): the step's flag has been delivered to every applier that
has a record area, and applied by all. A pasture without a record area has no application to wait for (log 130). -/
def appsDone (s : State) : Bool :=
  let odd := decide ((s.reg COL_STEP).toNat % 2 = 1)
  (rangeFrom 0 8).all (fun p => !s.has .stack p || ((s.applier p).flag.isNone && decide (halfUsed s p odd = 0) &&
    (decide (halfSize s p = 0) || s.bit COL_STEP_FLAGS COL_STEP_FLAGS_delivered)))

/-- Whether a migration is to commit at this step's fence (R265, R271). -/
def commits (s : State) (n : Nat) (m : Mig) : Bool :=
  decide (m.state = 1) && !m.late && (!m.reclass || decide (s.reg (TRH_RECLASS_STEP n) = s.reg COL_STEP))

/-- Send a directory notice to the row's new home and to the other devices of the job: those of the group of the last closing
collective (log 40). -/
def notify (s : State) (home table row entry : Nat) : State :=
  (home :: s.jobRanks.filter (fun d => decide (d ≠ s.devId) && decide (d ≠ home))).foldl
    (fun s d => s.send none (s.mkPacket 0x83 2 d 0 0 0 [table, row, entry] [])) s

/-- A row of an engine's pastures has committed: the engine skips it at the next two fences (R263). -/
def noteRecent (n table row : Nat) (s : State) : State :=
  s.setTrh n { s.trh n with recent := (s.trh n).recent ++ [(table, row, 0)] }

/-- Commit one migration (R266, R267). One whose entry the engine cannot read waits for a later fence. -/
def commitOne (n : Nat) (s0 : State) (m : Mig) : State :=
  let p := pastureOf m.slotA
  let t := m.tableOf
  match ownEntry s0 t m.row with
  | none => s0
  | some (ea, e) =>
    match localRead (trMst n) ea 8 (s0.touch (entryReads t)).2 with
    | .held => s0.putMig n { m with late := true }
    | .bad _ s => s.putMig n { m with late := true }
    | .done _ ue s =>
    if ue then s.putMig n { m with late := true }
    else if 16384 ≤ (s.nsr p).stubs.length then (s.flag (TRH_ERR n) TRH_ERR_stub_full).putMig n { m with late := true }
    else
      let w := ({ dev := m.dev, pasture := pastureOf m.slotB, cls := m.clsB, slot := m.slotB % 0x1000000000 / 64, ver := e.ver } : DirEnt).word
      match localStore (trMst n) ea (leBytes 8 w) s with
      | .held => s0.putMig n { m with late := true }
      | .bad _ s1 => s1.putMig n { m with late := true }
      | .done _ ue1 s1 =>
        if ue1 then s1.putMig n { m with late := true }
        else
          let s2 := s1.setNsr p { s1.nsr p with stubs := (s1.nsr p).stubs ++ [{ slot := m.slotA, entry := w, eng := n, table := m.table, row := m.row }] }
          let s3 := noteRecent (engineOf p) m.table m.row (s2.dropMig n m)
          let s4 := if m.dev = s.devId ∧ engineOf (pastureOf m.slotB) ≠ engineOf p then noteRecent (engineOf (pastureOf m.slotB)) m.table m.row s3 else s3
          let s5 := s4.wide (TRH_ROWS_COMMITTED n) 1
          if m.dev = s.devId then s5 else notify s5 m.dev m.table m.row w

/-- The commits of an engine (R266). -/
def commitAll (n : Nat) (s : State) : State :=
  if !s.has .trh n ∨ !appsDone s then s
  else ((s.trh n).migs.filter (commits s n)).foldl (commitOne n) s

/-- Whether no migration still is to commit before the fence (R329). -/
def commitsDone (s : State) : Bool :=
  [0, 1].all (fun n => !s.has .trh n || !(s.trh n).migs.any (commits s n))

/-! ### The step fence (R262, R263, R265, R271) -/

/-- The load of a pasture in the step just fenced. -/
def pastureLoad (s : State) (p : Nat) : Nat := (s.reg (EMB_LOAD_STEP p)).toNat

/-- The present pastures. -/
def presentStacks (s : State) : List Nat := (rangeFrom 0 8).filter (fun p => s.has .stack p)

/-- The device's load (R262). -/
def deviceLoad (s : State) : Nat := ((presentStacks s).map (pastureLoad s)).foldl (· + ·) 0

/-- The pasture that is best by a strict order, the lowest number on a tie. -/
def bestPasture (lt : Nat → Nat → Bool) (l : List Nat) : Option Nat :=
  l.foldl (fun o p => match o with
    | none => some p
    | some q => if lt p q then some p else some q) none

/-- The valid partners of an engine. -/
def partners (s : State) (n : Nat) : List Nat :=
  ((rangeFrom 0 16).filter (fun i => s.bit (TRH_PARTNER n i) TRH_PARTNER_valid)).map (fun i => s.fld (TRH_PARTNER n i) TRH_PARTNER_device)

/-- The partner with the lowest reported load, the lowest id on a tie. -/
def lowPartner (s : State) (n : Nat) : Option (Nat × Nat) :=
  ((s.trh n).loads.filter (fun q => (partners s n).contains q.1)).foldl (fun o q => match o with
    | none => some q
    | some r => if q.2 < r.2 ∨ (q.2 = r.2 ∧ q.1 < r.1) then some q else some r) none

/-- The target of R263: target device, target pasture and twice the load to move. -/
def target (s : State) (n : Nat) : Option (Nat × Nat × Nat) :=
  let l := presentStacks s
  let imb := s.fld (TRH_POLICY n) TRH_POLICY_imbalance
  let total := deviceLoad s
  let hi := (bestPasture (fun a b => decide (pastureLoad s b < pastureLoad s a)) l).getD 0
  let lo := (bestPasture (fun a b => decide (pastureLoad s a < pastureLoad s b)) l).getD 0
  if (64 + imb) * total < 64 * l.length * pastureLoad s hi then some (s.devId, lo, pastureLoad s hi - total / max 1 l.length)
  else if s.bit (TRH_POLICY n) TRH_POLICY_cross_device then
    match lowPartner s n with
    | some (d, x) => if (64 + imb) * x < 64 * total then some (d, 0, total - x) else none
    | none => none
  else none

/-- The candidates of an engine: snapshot entries of its pastures with their rows (R263). -/
def candidates (s : State) (n : Nat) : List (Pop × Nat × Nat) :=
  (((presentStacks s).filter (fun p => decide (engineOf p = n))).map (fun p =>
    (s.nsr p).snap.filterMap (fun e =>
      let w := ownerOf s e.addr
      if w = freeOwner then none else some (e, w / 2 ^ 48, w % 2 ^ 40)))).flatten

/-- The reads that an engine makes to find its candidates: the region tables of its pastures, and the owner words of the slots in their
snapshots (R263, R295). -/
def candidateReads (s : State) (n : Nat) : List (Nat × Nat) :=
  ((presentStacks s).filter (fun p => decide (engineOf p = n))).flatMap (fun p =>
    (s.fld (MEM_REGION_BASE p) MEM_REGION_BASE_address, 32 * s.fld (MEM_REGION_BASE p) MEM_REGION_BASE_entries) ::
      (s.nsr p).snap.filterMap (fun e => (slotPlace s e.addr).map (fun q => (q.1.owners + 8 * q.2, 8))))

/-- Whether a candidate is skipped (R263). -/
def skipped (s : State) (n : Nat) (c : Pop × Nat × Nat) : Bool :=
  let k := s.trh n
  decide (c.1.count - c.1.floor < s.fld (TRH_LIMITS n) TRH_LIMITS_min_count) || k.migrating c.2.1 c.2.2 ||
    k.recent.any (fun r => decide (r.1 = c.2.1) && decide (r.2.1 = c.2.2) && decide (r.2.2 ≤ 2))

/-- Start migrations of candidates to the target until half the excess or the limit; a candidate that lies at the target does not
move (R263). Structural on the candidates. -/
def selectRows (n dev pas excess : Nat) : List (Pop × Nat × Nat) → Nat → State → State
  | [], _, s => s
  | c :: t, moved, s =>
    if excess ≤ 2 * moved ∨ s.fld (TRH_LIMITS n) TRH_LIMITS_max_rows ≤ (s.trh n).begun then s
    else if skipped s n c then selectRows n dev pas excess t moved s
    else match homedRow s n c.2.1 c.2.2 with
      | .held => selectRows n dev pas excess t moved s
      | .fails _ s1 => selectRows n dev pas excess t moved s1
      | .none s1 => selectRows n dev pas excess t moved s1
      | .here tb e s1 =>
        if e.addr ≠ c.1.addr ∨ (dev ≠ s.devId ∧ tb.ranged) ∨ (dev = s.devId ∧ e.pasture = pas) then selectRows n dev pas excess t moved s1
        else selectRows n dev pas excess t (moved + c.1.count * ((valBytes e.cls tb.elems + 63) / 64))
          (startMig n tb c.2.2 e dev pas e.cls false s1)

/-- Rows that auto_class promotes at the fence of the reclassification step (R271). -/
def promote (n : Nat) (s : State) : State :=
  if s.bit (TRH_POLICY n) TRH_POLICY_auto_class then
    (candidates s n).foldl (fun s c =>
      match homedRow s n c.2.1 c.2.2 with
      | .held => s
      | .fails _ s1 => s1
      | .none s1 => s1
      | .here t e s1 =>
        if s.fld (TRH_CLASS_THRESH n) TRH_CLASS_THRESH_promote ≤ c.1.count ∧ t.wide < e.cls then
          s1.setTrh n { s1.trh n with queue := (s1.trh n).queue ++ [(c.2.1, c.2.2, e.cls - 1)] }
        else s1) s
  else s

/-- Stubs at a fence (R265): at the second fence after the commit's own the stub is removed and slot a is freed. -/
def stubFence (s : State) (p : Nat) : State :=
  let x := s.nsr p
  let old := x.stubs.filter (fun b => decide (2 ≤ b.age))
  let s1 := s.setNsr p { x with stubs := (x.stubs.filter (fun b => decide (b.age < 2))).map (fun b => { b with age := b.age + 1 }) }
  old.foldl (fun s b => setOwner s b.slot freeOwner) s1

/-- What a confirmed fence of `step` does at a Transhumance engine, after the snapshots (R262, R263, R265, R271). -/
def trhFence (step n : Nat) (s : State) : State :=
  if !s.has .trh n then s else
    let k := s.trh n
    let waiting := (k.migs.filter (fun m => decide (m.state ≠ 1) || m.late)).length
    let k1 := { k with
      begun := 0, migs := k.migs.map (fun m => { m with late := false })
      recent := (k.recent.filter (fun r => decide (r.2.2 < 2))).map (fun r => (r.1, r.2.1, r.2.2 + 1)) }
    let s1 := (s.setTrh n k1).count (TRH_COMMITS_DEFERRED n) waiting
    let s2 := (partners s1 n).foldl (fun s d => s.send none (s.mkPacket 0xC3 3 d 0 0 0 [deviceLoad s] [])) s1
    let reads := s2.bit (TRH_POLICY n) TRH_POLICY_auto_move || s2.bit (TRH_POLICY n) TRH_POLICY_auto_class
    let s2 := if reads then (s2.touch (candidateReads s2 n)).2 else s2
    let s3 := if (s2.reg (TRH_RECLASS_STEP n)).toNat = step then
        (promote n s2).setReg (TRH_RECLASS_STEP n) (BitVec.ofNat 64 noRoad) else s2
    let s4 := beginReclass n s3
    if s4.bit (TRH_POLICY n) TRH_POLICY_auto_move && !(s4.trh n).halted then
      match target s4 n with
      | none => s4
      | some (dev, pas, ex) => selectRows n dev pas ex (candidates s4 n) 0 s4
    else s4

/-- A partner's load report (R262). -/
def loadReport (s : State) (dev load : Nat) : State :=
  [0, 1].foldl (fun s n =>
    if s.has .trh n && (partners s n).contains dev then
      s.setTrh n { s.trh n with loads := (s.trh n).loads.filter (fun q => decide (q.1 ≠ dev)) ++ [(dev, load)] }
    else s) s

/-- A directory notice is written into this device's directory (R267). The row's new home notes the commit, and its slot b is owned from
then on at the latest (R263, log 39). -/
def noticeIn (s : State) (table row entry : Nat) : State :=
  let s1 := (s.touch (tableReads s table)).2
  let e := dirEnt entry
  match s.registered table with
  | some t =>
    if row < t.rows then
      let s2 := (learnEntry s1 t row entry).2
      if e.dev = s.devId then noteRecent (engineOf e.pasture) table row (setOwner s2 e.addr (table * 2 ^ 48 + row)) else s2
    else s1
  | none => s1

/-! ### Halt, resume, abort, clear (R273, R483) -/

/-- TRH_CTRL.halt. -/
def trHalt (n : Nat) (s : State) : State := s.setTrh n { s.trh n with halted := true }

/-- TRH_CTRL.resume. -/
def trResume (n : Nat) (s : State) : State := s.setTrh n { s.trh n with halted := false }

/-- TRH_CTRL.abort: every migration that has not committed is abandoned; stubs are kept (R270). -/
def trAbort (n : Nat) (s : State) : State :=
  let s1 := (s.trh n).migs.foldl (abandon n) s
  s1.setTrh n { s1.trh n with halted := false }

/-- TRH_CTRL.clear_counts (R273). -/
def trClear (n : Nat) (s : State) : State := s.clearCount (TRH_COMMITS_DEFERRED n)

/-! ### EMB_CTRL and NSR_CTRL (R240, R272) -/

/-- EMB_CTRL.clear_counts (R272). -/
def embClear (s : State) : State :=
  (rangeFrom 0 8).foldl (fun s p => (s.clearCount (EMB_FORWARDED p)).clearCount (EMB_BAD_RECORDS p)) s

/-- NSR_CTRL.clear_pop: the live table is emptied (R240, R244). -/
def clearPop (p : Nat) (s : State) : State := s.setNsr p { s.nsr p with live := [] }

end Sys2Proof.Machine
end

