-- ==== Sys2Proof/Machine/Collective.lean ====
section
/-! DEFINITION. Collective engines, Roll call and the step fence (12_collectives_and_mapping R326 to R336, R340, R341). -/

namespace Sys2Proof.Machine

/-- The master of a collective engine (R423). -/
def engMst (n : Nat) : Mst := ⟨38 + n, 0⟩

/-- An engine whose work has drained enters recess (R457). -/
def CollEng.settle (k : CollEng) : CollEng :=
  if 2 ≤ k.rest then k else if k.active = [] ∧ k.inbox = [] then { k with rest := 1 } else { k with rest := 0 }

/-- The head command of an engine, when it takes commands (R355, R457, R483). -/
def engHead (s : State) (n code : Nat) : Option Cmd :=
  let k := s.engine n
  if 2 ≤ k.rest ∨ k.halted ∨ s.mixed ∨ !s.has .coll n then none
  else match k.inbox with
    | [] => none
    | m :: _ => if m.code = code then some m else none

/-- Take the head command off an engine. -/
def dropHead (n : Nat) (s : State) : State :=
  let k := s.engine n
  s.setEngine n { k with inbox := k.inbox.drop 1 }

/-! ### Commands (R331, R332, R334) -/

/-- The parameters of a collective command, by the layout of its descriptor (R331, R374). -/
structure CollPar where
  src : Nat
  dst : Nat
  srcScales : Nat
  dstScales : Nat
  elems : Nat
  tensor : Nat
  group : Nat
  scaling : Nat
  root : Nat
  notify : Nat
  fmt : Nat
  op : Nat
  flags : Nat
  deriving DecidableEq, Repr, Inhabited

/-- The parameters that a descriptor spells. -/
def collPar (d : List Byte) : CollPar :=
  { src := fieldAt d 8 8, dst := fieldAt d 0x10 8, srcScales := fieldAt d 0x18 8, dstScales := fieldAt d 0x20 8,
    elems := fieldAt d 0x28 8, tensor := fieldAt d 0x30 4, group := fieldAt d 0x34 2, scaling := fieldAt d 0x36 2,
    root := fieldAt d 0x38 2, notify := fieldAt d 0x3A 2, fmt := fieldAt d 0x3C 1, op := fieldAt d 0x3D 1,
    flags := fieldAt d 0x3E 1 }

/-- The scaling mode: 0 none, 1 tensor, 2 block. -/
def CollPar.mode (p : CollPar) : Nat := p.scaling % 4

/-- Whether a command reduces. -/
def reduces (code : Nat) : Bool := decide (code = 1 ∨ code = 2)

/-- Whether format, operator and scaling go together (R334; FP32 and U32 carry no scale, log 42). -/
def pairingOk (code : Nat) (p : CollPar) : Bool :=
  decide (bitsOf p.scaling 7 2 = 0) && decide (p.mode ≠ 3) &&
    (if reduces code then
      (decide (p.fmt = 4) && decide (p.op = 1) && decide (p.mode ≠ 0)) ||
        (decide (p.fmt = 6) && decide (1 ≤ p.op) && decide (p.op ≤ 3) && decide (p.mode = 0)) ||
        (decide (p.fmt = 0x12) && decide (2 ≤ p.op) && decide (p.op ≤ 4) && decide (p.mode = 0))
     else decide (p.op = 0) && (elemOf p.fmt).isSome)

/-- Whether a command is a gradient collective: FP16 sums in class G (R183, R184; log 42). -/
def isGradient (code : Nat) (p : CollPar) : Bool := reduces code && decide (p.fmt = 4)

/-- Where a group's entry of the group table lies (R332). -/
def groupAt (s : State) (g : Nat) : Nat := s.fld COL_GROUP_BASE COL_GROUP_BASE_address + 16 * g

/-- The device ids of a rank list. -/
def idsOf (b : List Byte) : List Nat := (chunksOf 2 b).map leNat

/-- The bytes of `n` elements of a format. -/
def elemBytes (fmt n : Nat) : Nat := (n * ((elemOf fmt).map Elem.bits).getD 8 + 7) / 8

/-- Block scales of `n` elements: one byte for each 32, under block scaling. -/
def scaleBytes (p : CollPar) (n : Nat) : Nat := if p.mode = 2 then (n + 31) / 32 else 0

/-- Whether an address of a collective lies in a pasture or a scratch window of the device (R331). -/
def collPlace (s : State) (a n : Nat) : Bool :=
  mapped s a n && (inPasture a || (decide (scratchBase ≤ a) && decide (a + n ≤ accBase)))

/-- A read of an engine: addresses outside pastures and scratch windows are unmapped to it (R22, R331). -/
def engRead (n a m : Nat) (s : State) : Access :=
  if m = 0 then .done [] false s
  else if !collPlace s a m then .bad 0x1002 (s.violateAddr (engMst n) 0x1002 kRead (s.gaddr a))
  else localRead (engMst n) a m s

/-- A write of an engine. -/
def engWrite (n a : Nat) (bs : List Byte) (s : State) : Access :=
  if bs = [] then .done [] false s
  else if !collPlace s a bs.length then .bad 0x1002 (s.violateAddr (engMst n) 0x1002 kWrite (s.gaddr a))
  else localStore (engMst n) a bs s

/-- Reads of several ranges, as one. -/
def engReads (n : Nat) : List (Nat × Nat) → State → Access
  | [], s => .done [] false s
  | (a, m) :: t, s =>
    match engRead n a m s with
    | .done b ue s1 => match engReads n t s1 with
      | .done bs ue2 s2 => .done (b ++ bs) (ue || ue2) s2
      | .held => .held
      | .bad c s2 => .bad c s2
    | .held => .held
    | .bad c s1 => .bad c s1

/-- Writes of several ranges, one after the other. -/
def engWrites (n : Nat) : List (Nat × List Byte) → State → Access
  | [], s => .done [] false s
  | (a, b) :: t, s =>
    match engWrite n a b s with
    | .done _ ue s1 => match engWrites n t s1 with
      | .done bs ue2 s2 => .done bs (ue || ue2) s2
      | .held => .held
      | .bad c s2 => .bad c s2
    | .held => .held
    | .bad c s1 => .bad c s1

/-! ### What a member sends (R336; log 43) -/

/-- The packets of one message: pieces of 2,048 bytes, at least one. -/
def msgPieces (b : List Byte) : List (Nat × List Byte) :=
  if b = [] then [(0, [])] else (rangeFrom 0 ((b.length + 2047) / 2048)).map (fun i => (2048 * i, (b.drop (2048 * i)).take 2048))

/-- What matched members must agree on (R332). -/
def matchPars (code : Nat) (p : CollPar) : List Nat := [code, p.tensor, p.elems, p.fmt, p.op, p.scaling]

/-- An engine reads a group's entry and its rank list (R332): the 16 bytes of the entry, then the ids. -/
def readGroup (n g : Nat) (s : State) : Access :=
  if 4095 < g then .done [] false s
  else match engRead n (groupAt s g) 16 s with
    | .done e ue s1 =>
      if ue then .done e ue s1
      else match engRead n (fieldAt e 8 8) (2 * fieldAt e 0 4) s1 with
        | .done l ue2 s2 => .done (e ++ l) ue2 s2
        | .held => .held
        | .bad c s2 => .bad c s2
    | .held => .held
    | .bad c s1 => .bad c s1

/-- Bytes of a piece pass through an engine's 16 MiB buffer, at a place of its own choosing (R21, R336; log 85). -/
def stageBytes (n : Nat) (b : List Byte) (s : State) : State :=
  let (w, s1) := s.drawWord
  s1.setBytes (collBase + n * 0x1000000 + w.toNat % 0x3FFC1 * 64) (b.take 4096)

/-- Note a message of a member of a group, as received. -/
def keepMsg (s : State) (m : CollMsg) : State := { s with collIn := s.collIn ++ [m] }

/-- Send a member's message of a round to a rank: COLL_DATA packets, or to itself at once. -/
def sendMsg (n : Nat) (x : Coll) (pars : List Nat) (flag : Bool) (s : State) (rb : Nat × List Byte) : State :=
  (msgPieces rb.2).foldl (fun s q =>
    let m : CollMsg := ⟨x.group, x.seq, x.me, pars, flag, x.round, x.rounds, q.1, rb.2.length, q.2⟩
    let s := stageBytes n q.2 s
    if rb.1 = x.me then keepMsg s m
    else
      let p := s.mkPacket 0x81 2 (x.ranks.getD rb.1 0) 0 0 0 ([x.group, x.seq, x.me, b2n flag, x.round, x.rounds, q.1, rb.2.length] ++ pars) q.2
      (s.send none p).wide (COL_ENG_BYTES_SENT n) p.payload.length) s

/-- The message that COLL_DATA arguments and data spell. -/
def msgOf (a : List Nat) (d : List Byte) : CollMsg :=
  let g (i : Nat) : Nat := a.getD i 0
  ⟨g 0, g 1, g 2, a.drop 8, g 3 == 1, g 4, g 5, g 6, g 7, d⟩

/-- The messages held for a collective from a rank in a round. -/
def msgsOf (s : State) (x : Coll) (rank round : Nat) : List CollMsg :=
  s.collIn.filter (fun m => decide (m.group = x.group) && decide (m.seq = x.seq) && decide (m.rank = rank) && decide (m.round = round))

/-- Put pieces at their places. -/
def placePieces (total : Nat) (l : List CollMsg) : List Byte :=
  l.foldl (fun b m => b.take m.off ++ m.data ++ b.drop (m.off + m.data.length)) (List.replicate total 0)

/-- A rank's whole message of a round, once all of it has come. -/
def wholeMsg (s : State) (x : Coll) (rank round : Nat) : Option (List Byte) :=
  let l := msgsOf s x rank round
  match l with
  | [] => none
  | m :: _ =>
    if (rangeFrom 0 (max 1 ((m.total + 2047) / 2048))).all (fun i => l.any (fun q => decide (q.off = 2048 * i))) then
      some (placePieces m.total l)
    else none

/-- Every rank's message of a round, once all have come. -/
def allMsgs (s : State) (x : Coll) (round : Nat) : Option (List (List Byte)) :=
  let l := (rangeFrom 0 x.ranks.length).map (fun r => wholeMsg s x r round)
  if l.all Option.isSome then some (l.map (·.getD [])) else none

/-- Whether a member was commanded otherwise (R332). -/
def mismatched (s : State) (x : Coll) : Bool :=
  s.collIn.any (fun m => decide (m.group = x.group) && decide (m.seq = x.seq) &&
    decide (m.params ≠ matchPars x.cmd.code (collPar x.cmd.desc)))

/-! ### Reductions (R183, R333, R334) -/

/-- A partial of a reduction: element codes, block scales, and whether a value that is not finite was met. -/
structure RedPart where
  codes : List Nat
  scales : List Nat := []
  bad : Bool := false
  deriving DecidableEq, Repr, Inhabited

/-- One stage of the fixed tree (R333): pairs of neighbours are combined, a block without a partner passes on. -/
def redStage {α : Type} (comb : α → α → α) : List α → List α
  | a :: b :: t => comb a b :: redStage comb t
  | l => l

/-- The fixed tree from stage `j` on. Structural on the stages left. -/
def redTree {α : Type} (comb : Nat → α → α → α) : Nat → Nat → List α → List α
  | 0, _, l => l
  | n + 1, j, l => if l.length ≤ 1 then l else redTree comb n (j + 1) (redStage (comb j) l)

/-- Values of a block of FP16 codes under an E8 scale. -/
def scaledVals (codes : List Nat) (scale : Nat) : List FVal := codes.map (fun c => mulV (decodeF .fp16 c) (decodeE8 scale))

/-- Blocks of codes with their scales. -/
def withScales (codes scales : List Nat) : List (List Nat × Nat) := (chunksOf 32 codes).zip scales

/-- FP16 sums at a stage (R183): exact sums of decoded values, a new scale per block under block scaling, and SR16 with the
draw of R168. `scale` is the tensor's E8 code. -/
def sumStage (s : State) (tensor : Nat) (blockScaled : Bool) (scale stage : Nat) (a b : RedPart) : RedPart :=
  let draw (i : Nat) : Nat := philox (seedOf s) (s.reg COL_STEP).toNat tensor i stage
  let put (sc : Nat) (first : Nat) (vs : List FVal) : List Nat :=
    (vs.zip (rangeFrom first vs.length)).map (fun p => convF .fp16 .sr false (draw p.2) (divV p.1 (decodeE8 sc)))
  let sums (x y : List FVal) : List FVal := (x.zip y).map (fun p => addV p.1 p.2)
  let badIn (l : List FVal) : Bool := l.any (fun v => !v.finite)
  if blockScaled then
    let blocks := ((withScales a.codes a.scales).zip (withScales b.codes b.scales)).zip (rangeFrom 0 a.scales.length)
    let out := blocks.map (fun q =>
      let x := scaledVals q.1.1.1 q.1.1.2
      let y := scaledVals q.1.2.1 q.1.2.2
      let t := sums x y
      let sc := chooseE8 14 (amaxOf t)
      (put sc (32 * q.2) t, sc, badIn x || badIn y))
    let codes := (out.map (·.1)).flatten
    { codes := codes, scales := out.map (·.2.1), bad := a.bad || b.bad || out.any (·.2.2) || badIn (codes.map (decodeF .fp16)) }
  else
    let x := scaledVals a.codes scale
    let y := scaledVals b.codes scale
    let codes := put scale 0 (sums x y)
    { codes := codes, bad := a.bad || b.bad || badIn x || badIn y || badIn (codes.map (decodeF .fp16)) }

/-- Combination of two codes for the exact operators: FP32 maximum and minimum, U32 maximum, minimum and OR (R334). -/
def exactOp (fmt op a b : Nat) : Nat :=
  if fmt = 6 then rneF .fp32 (if op = 2 then maxV (f32 a) (f32 b) else minV (f32 a) (f32 b))
  else if op = 2 then max a b else if op = 3 then min a b else Nat.lor a b

/-- The reduction of every rank's contribution. -/
def reduceAll (s : State) (p : CollPar) (l : List (List Byte)) : RedPart :=
  let sb := scaleBytes p p.elems
  let bits := ((elemOf p.fmt).map Elem.bits).getD 8
  let parts := l.map (fun b => ({ codes := (rowElems bits (b.drop sb)).take p.elems, scales := (b.take sb).map (·.toNat) } : RedPart))
  if p.fmt = 4 then
    ((redTree (fun j => sumStage s p.tensor (decide (p.mode = 2)) (p.scaling / 256) j) l.length 1 parts).head?).getD { codes := [] }
  else if p.op = 1 then
    { codes := (rangeFrom 0 p.elems).map (fun i =>
        (parts.foldl (fun (x : Col) q => x.addTerm (f32 (q.codes.getD i 0))) {}).final 1 l.length) }
  else ((redTree (fun _ a b => ({ codes := (a.codes.zip b.codes).map (fun q => exactOp p.fmt p.op q.1 q.2) } : RedPart)) l.length 1
    parts).head?).getD { codes := [] }

/-- First element and length of shard r (R331). -/
def shardOf (e n r : Nat) : Nat × Nat := (r * (e / n) + min r (e % n), e / n + (if r < e % n then 1 else 0))

/-! ### Moves of PERMUTE (R340) -/

/-- The entry that 24 bytes spell. -/
def moveOf (b : List Byte) : Move := ⟨fieldAt b 0 8, fieldAt b 8 2, fieldAt b 12 8, fieldAt b 20 4⟩

/-- Rounds of at most 4 MiB, taking entries in order; an entry is cut where a round is full (R340). Structural on the
fuel. -/
def moveRounds : Nat → Nat → List Move → List Move → List (List Move)
  | 0, _, cur, _ => [cur]
  | fuel + 1, room, cur, l =>
    match l with
    | [] => [cur]
    | m :: t =>
      if m.len ≤ room then moveRounds fuel (room - m.len) (cur ++ [m]) t
      else
        let a : Move := { m with len := room }
        let b : Move := { m with src := m.src + room, dst := m.dst + room, len := m.len - room }
        (if room = 0 then cur else cur ++ [a]) :: moveRounds fuel 0x400000 [] (b :: t)

/-- The rounds of a move list. -/
def roundsOf (l : List Move) : List (List Move) :=
  moveRounds (2 * l.length + (l.map (·.len)).foldl (· + ·) 0 / 0x400000 + 2) 0x400000 [] l

/-- The entries of a round with the bytes that were read for them, one after the other. Structural on the entries. -/
def movedBytesOf : List Move → List Byte → List (Move × List Byte)
  | [], _ => []
  | m :: t, b => (m, b.take m.len) :: movedBytesOf t (b.drop m.len)

/-- A member's message of a round to a rank: each range as destination, length and bytes. -/
def moveMsg (l : List Move) (b : List Byte) (rank : Nat) : List Byte :=
  (((movedBytesOf l b).filter (fun q => decide (q.1.rank = rank))).map (fun q => leBytes 8 q.1.dst ++ leBytes 4 q.1.len ++ q.2)).flatten

/-- The ranges that a message spells. Structural on the fuel. -/
def movedRanges : Nat → List Byte → List (Nat × List Byte)
  | 0, _ => []
  | n + 1, b => if b.length < 12 then [] else
    let len := fieldAt b 8 4
    (fieldAt b 0 8, (b.drop 12).take len) :: movedRanges n (b.drop (12 + len))

/-! ### Starting a collective -/

/-- Put a collective back. -/
def putColl (s : State) (n : Nat) (x : Coll) : State :=
  let k := s.engine n
  s.setEngine n { k with active := k.active.map (fun y => if y.group = x.group ∧ y.seq = x.seq then x else y) }

/-- Send a member's arrival in the Roll call of a PERMUTE's round (R340): kind 2 of a Roll call packet (log 43). -/
def callMember (x : Coll) (s : State) (r : Nat) : State :=
  if r = x.me then { s with calls := s.calls ++ [⟨x.group, x.seq, x.round, x.me⟩] }
  else s.send none (s.mkPacket 0x82 2 (x.ranks.getD r 0) 0 0 0 [2, x.group, x.seq, x.round, x.me] [])

/-- Whether every member has arrived in the Roll call of a PERMUTE's round. -/
def allCalled (s : State) (x : Coll) : Bool :=
  (rangeFrom 0 x.ranks.length).all (fun r => s.calls.contains ⟨x.group, x.seq, x.round, r⟩)

/-- The round in hand of a PERMUTE: its outgoing bytes are read and sent, and this member arrives (R340). -/
def sendRound (n : Nat) (s : State) (x : Coll) : Access :=
  let l := x.moves.getD x.round []
  match engReads n (l.map (fun m => (m.src, m.len))) s with
  | .held => .held
  | .bad c s1 => .bad c s1
  | .done b ue s1 =>
    let p := matchPars x.cmd.code (collPar x.cmd.desc)
    let flag := s.bit COL_STEP_FLAGS COL_STEP_FLAGS_nonfinite
    let s2 := (rangeFrom 0 x.ranks.length).foldl (fun s r => sendMsg n x p flag s (r, moveMsg l b r)) s1
    .done [] ue ((rangeFrom 0 x.ranks.length).foldl (callMember x) s2)

/-- The ranges of its own source that a command reads: block scales, then elements. -/
def sourceRanges (code : Nat) (p : CollPar) (me n : Nat) : List (Nat × Nat) :=
  let k := if code = 4 then n else 1
  if code = 5 ∧ me ≠ p.root then [] else [(p.srcScales, k * scaleBytes p p.elems), (p.src, k * elemBytes p.fmt p.elems)]

/-- What a member sends to a rank out of its source bytes. -/
def contribution (code : Nat) (p : CollPar) (n rank : Nat) (b : List Byte) : List Byte :=
  if code = 4 then
    let sb := scaleBytes p p.elems
    let eb := elemBytes p.fmt p.elems
    (b.drop (rank * sb)).take sb ++ (b.drop (n * sb + rank * eb)).take eb
  else b

/-- The number of collectives that a group has counted (R332). -/
def State.groupSeq (s : State) (g : Nat) : Nat := spGet (fun _ => 0) s.collSeq g

/-- Make the head command an active collective under its number in the group's sequence (R332). -/
def acceptColl (s : State) (n : Nat) (m : Cmd) (g : Nat) (ranks : List Nat) (me : Nat) (moves : List (List Move)) : Coll × State :=
  let x : Coll := { cmd := m, group := g, seq := m.seq, ranks := ranks, me := me, rounds := max 1 moves.length, moves := moves }
  let k := s.engine n
  (x, s.setEngine n { k with inbox := k.inbox.drop 1, active := k.active ++ [x], rest := 0 })

/-- The messages and arrivals held for a collective that has ended go (R332). -/
def forgetColl (g seq : Nat) (s : State) : State :=
  { s with collIn := s.collIn.filter (fun m => !(decide (m.group = g) && decide (m.seq = seq)))
           calls := s.calls.filter (fun m => !(decide (m.group = g) && decide (m.seq = seq))) }

/-- Take away a collective that has ended, with its messages, and complete its command. -/
def endColl (n : Nat) (x : Coll) (status detail : Nat) (s : State) : State :=
  let k := s.engine n
  let s1 := s.setEngine n ({ k with active := k.active.filter (fun y => !(decide (y.group = x.group) && decide (y.seq = x.seq))) } : CollEng).settle
  (forgetColl x.group x.seq s1).complete x.cmd.ref status 0 detail 0

/-- The move list of a PERMUTE. -/
def readMoves (n : Nat) (p : CollPar) (s : State) : Access := engRead n p.src (24 * p.elems) s

/-- The head command of an engine ends at its start. -/
def refuseColl (n : Nat) (m : Cmd) (status detail : Nat) (s : State) : State :=
  let s1 := dropHead n s
  let s2 := s1.setEngine n (s1.engine n).settle
  (if m.code = 7 then s2 else forgetColl (collPar m.desc).group m.seq s2).complete m.ref status 0 detail 0

/-- Whether a command's format, operator, scaling and root are ones that R331 and R334 give. -/
def collGood (code : Nat) (p : CollPar) (n : Nat) : Bool := pairingOk code p && !(decide (code = 5) && decide (n ≤ p.root))

/-- A collective with its group's entry read and its own rank known starts (R331 to R336, R340). One that R334 refuses tells the
other members what it was commanded, and ends (R332). None: a read of it is held. -/
def collGo (code n : Nat) (m : Cmd) (p : CollPar) (ranks : List Nat) (me : Nat) (s : State) : Option State :=
  let flag := s.bit COL_STEP_FLAGS COL_STEP_FLAGS_nonfinite
  let all := rangeFrom 0 ranks.length
  if !collGood code p ranks.length then
    let (x, s1) := acceptColl s n m p.group ranks me []
    some (endColl n x 0x02 0 (all.foldl (fun s r => sendMsg n x (matchPars code p) flag s (r, [])) s1))
  else if code = 6 then
    match readMoves n p s with
    | .held => none
    | .bad c s1 => some (refuseColl n m 0x05 c s1)
    | .done b ue s1 =>
      if ue then some (refuseColl n m 0x06 0x5001 s1)
      else
        let (x, s2) := acceptColl s1 n m p.group ranks me (roundsOf ((chunksOf 24 b).map moveOf))
        match sendRound n s2 x with
        | .held => none
        | .bad c s3 => some (endColl n x 0x05 c s3)
        | .done _ ue2 s3 => some (if ue2 then endColl n x 0x06 0x5001 s3 else s3)
  else
    match engReads n (sourceRanges code p me ranks.length) s with
    | .held => none
    | .bad c s1 => some (refuseColl n m 0x05 c s1)
    | .done b ue s1 =>
      if ue then some (refuseColl n m 0x06 0x5001 s1)
      else
        let (x, s2) := acceptColl s1 n m p.group ranks me []
        some (all.foldl (fun s r => sendMsg n x (matchPars code p) flag s (r, contribution code p ranks.length r b)) s2)

/-- Start the head command of an engine if it has a code (R331 to R336, R340). An entry whose own rank
does not name this device in the list is one of a list that does not hold it (log 129). -/
def collStart (code n : Nat) (s : State) : State :=
  match engHead s n code with
  | none => s
  | some m =>
    let p := collPar m.desc
    if s.isFrozen (engMst n) then refuseColl n m 0x05 0x1007 (s.frozenCommand (engMst n) 0x05)
    else match readGroup n p.group s with
      | .held => s
      | .bad c s1 => refuseColl n m 0x05 c s1
      | .done b ue s1 =>
        let ranks := idsOf (b.drop 16)
        let me := fieldAt b 4 4
        if ue then refuseColl n m 0x06 0x5001 s1
        else if ranks[me]? ≠ some s.devId then refuseColl n m 0x02 0 s1
        else (collGo code n m p ranks me s1).getD s

/-! ### Receiving and completing (R184, R335, R336) -/

/-- The engine that runs a group's collective, else engine 0 (log 43). -/
def engineFor (s : State) (g : Nat) : Nat :=
  if (s.engine 1).active.any (fun x => decide (x.group = g)) then 1 else 0

/-- Whether a collective of a group has ended on this device: it has been counted, and is active and waits on no engine. -/
def collOver (s : State) (g seq : Nat) : Bool :=
  decide (seq < s.groupSeq g) &&
    !([0, 1].any (fun n => (s.engine n).active.any (fun x => decide (x.group = g) && decide (x.seq = seq)) ||
      (s.engine n).inbox.any (fun m => decide (m.code ≠ 7) && decide ((collPar m.desc).group = g) && decide (m.seq = seq))))

/-- A COLL_DATA packet has come: its message is held for its collective; one for a collective that has ended is passed over. -/
def collData (s : State) (p : Packet) : State :=
  let m := msgOf p.args p.data
  let s1 := s.wide (COL_ENG_BYTES_RECEIVED (engineFor s m.group)) p.payload.length
  if collOver s m.group m.seq then s1 else keepMsg (stageBytes (engineFor s m.group) p.data s1) m

/-- A member's arrival in the Roll call of a PERMUTE's round has come (R340). -/
def memberCall (s : State) (a : List Nat) : State :=
  let m : MemberCall := ⟨a.getD 1 0, a.getD 2 0, a.getD 3 0, a.getD 4 0⟩
  if collOver s m.group m.seq then s else { s with calls := s.calls ++ [m] }

/-- The delivered flag of the step reaches every core and row applier (R184, R335). -/
def deliver (flag : Bool) (ranks : List Nat) (s : State) : State :=
  let s1 := (rangeFrom 0 32).foldl (fun s c =>
    if s.has .core c then s.onCore c (fun k => (wakeCore { k with flag := some flag }).retry [1, 7, 8]) else s) s
  let s2 := (rangeFrom 0 8).foldl (fun s p => if s.has .stack p then s.setApplier p { s.applier p with flag := some flag } else s) s1
  { s2.setFld COL_STEP_FLAGS COL_STEP_FLAGS_delivered 1 with jobRanks := ranks }

/-- The output of a collective as ranges to write, and whether a value that is not finite was met. -/
def collOutput (s : State) (x : Coll) (p : CollPar) (l : List (List Byte)) : List (Nat × List Byte) × Bool :=
  let sb := scaleBytes p p.elems
  let n := x.ranks.length
  if reduces x.cmd.code then
    let r := reduceAll s p l
    let bits := ((elemOf p.fmt).map Elem.bits).getD 8
    let (first, len) := if x.cmd.code = 2 then shardOf p.elems n x.me else (0, p.elems)
    let sc := (r.scales.drop (first / 32)).take ((first + len + 31) / 32 - first / 32)
    ([(p.dstScales, if p.mode = 2 ∧ 0 < len then sc.map (BitVec.ofNat 8) else []), (p.dst, rowBytes bits ((r.codes.drop first).take len))], r.bad)
  else if x.cmd.code = 5 then
    let b := l.getD p.root []
    ([(p.dstScales, b.take sb), (p.dst, b.drop sb)], false)
  else ([(p.dstScales, (l.map (fun b => b.take sb)).flatten), (p.dst, (l.map (fun b => b.drop sb)).flatten)], false)

/-- The notify tally of a collective (R336): the status that the command then has. -/
def notifyTally (n v : Nat) (s : State) : Nat × Nat × State :=
  if !bitOf v 15 then (0, 0, s)
  else
    let c := bitsOf v 10 6
    let t := bitsOf v 5 0
    let (ok, s1) := s.tallyAdd c t 1
    if ok then (0, 0, s1)
    else (0x0B, 0x1003, s1.violateTally (engMst n) s.devId c t)

/-- A collective's output is written: closing flag, notify, record (R335, R336). -/
def collDone (n : Nat) (x : Coll) (p : CollPar) (s : State) : State :=
  let f := (rangeFrom 0 x.ranks.length).any (fun r => ((msgsOf s x r 0).head?.map (·.flag)).getD false)
  let s1 := if bitOf p.flags 0 then deliver f x.ranks s else s
  let (st, det, s2) := notifyTally n p.notify s1
  endColl n x st det s2

/-- The ranges that a round of a PERMUTE writes. -/
def roundWrites (l : List (List Byte)) : List (Nat × List Byte) := (l.map (fun b => movedRanges b.length b)).flatten

/-- What a round of a PERMUTE waits for: every member's arrival in its Roll call, and every member's bytes (R340). -/
def roundMsgs (s : State) (x : Coll) : Option (List (List Byte)) := if allCalled s x then allMsgs s x x.round else none

/-- Rounds of a PERMUTE that can be finished, up to the last. Structural on the rounds left. -/
def permuteOn (n : Nat) (p : CollPar) : Nat → State → Coll → State
  | 0, s, _ => s
  | fuel + 1, s, x =>
    match roundMsgs s x with
    | none => s
    | some l =>
      let rounds := (rangeFrom 0 x.ranks.length).foldl (fun a r => max a (((msgsOf s x r 0).head?.map (·.rounds)).getD 1)) 1
      match engWrites n (roundWrites l) s with
      | .held => s
      | .bad c s1 => endColl n x 0x05 c s1
      | .done _ ue s1 =>
        if ue then endColl n x 0x06 0x5001 s1
        else if rounds ≤ x.round + 1 then collDone n x p s1
        else
          let x1 : Coll := { x with round := x.round + 1 }
          match sendRound n (putColl s1 n x1) x1 with
          | .held => s
          | .bad c s3 => endColl n x1 0x05 c s3
          | .done _ ue2 s3 => if ue2 then endColl n x1 0x06 0x5001 s3 else permuteOn n p fuel s3 x1

/-- COLLECTIVE_COMPLETE of the i-th active collective of an engine: once every member's bytes have come, its output is
written and its record made (R332, R336); a PERMUTE goes on round by round (R340). -/
def collComplete (n i : Nat) (s : State) : State :=
  let k := s.engine n
  if 2 ≤ k.rest then s else
    match k.active[i]? with
    | none => s
    | some x =>
      let p := collPar x.cmd.desc
      if mismatched s x then
        endColl n x 0x02 0x4012 ((s.flag COL_ERR COL_ERR_mismatch).logFree 0x4012 5 n)
      else if x.cmd.code = 6 then permuteOn n p 0x10000 s x
      else match allMsgs s x 0 with
        | none => s
        | some l =>
          let (out, bad) := collOutput s x p l
          let s0 := if isGradient x.cmd.code p && bad then s.setFld COL_STEP_FLAGS COL_STEP_FLAGS_nonfinite 1 else s
          match engWrites n out s0 with
          | .held => s
          | .bad c s1 => endColl n x 0x05 c s1
          | .done _ ue s1 => if ue then endColl n x 0x06 0x5001 s1 else collDone n x p s1

/-- COLLECTIVE_TIMEOUT of the i-th active collective (R336). -/
def collTimeout (n i : Nat) (s : State) : State :=
  if s.fld COL_TIMEOUT COL_TIMEOUT_us = 0 then s else
    match (s.engine n).active[i]? with
    | none => s
    | some x => if (if x.cmd.code = 6 then roundMsgs s x else allMsgs s x x.round).isSome then s else endColl n x 0x07 0 (s.flag COL_ERR COL_ERR_timeout)

/-! ### The step fence (R329) -/

/-- A confirmed step fence on this device: the step counter, the non-finite flag, and what it signals. -/
def stepFence (s : State) : State :=
  let step := (s.reg COL_STEP).toNat
  let s1 := ((s.wide COL_STEP 1).wide COL_FENCES 1).setReg COL_STEP_FLAGS 0
  let s2 := (rangeFrom 0 32).foldl (fun s c => if s.has .core c then s.onCore c (fun k => { k with flag := none }) else s) s1
  let s3 := (presentStacks s2).foldl (fun s p => stubFence (s.popSnapshot step p) p) s2
  let s4 := (presentDrovers s3).foldl (fun s d => drFence step d s) s3
  let s5 := [0, 1].foldl (fun s n => trhFence step n s) s4
  let s6 := s5.eventAll 7 ((step + 1) % 2 ^ 32)
  let s7 := (rangeFrom 0 32).foldl (fun s c => if s.has .core c then s.onCore c (fun k => ((wakeCore k).free 7).retry [7, 8]) else s) s6
  recFence step s7

/-! ### Roll call (R326 to R330) -/

/-- COL_ROLL_STATUS fields. -/
def rollNext (s : State) : Nat := s.fld COL_ROLL_STATUS COL_ROLL_STATUS_round_next
def rollReleased (s : State) : Nat := s.fld COL_ROLL_STATUS COL_ROLL_STATUS_released

/-- The count field of a round's parity. -/
def rollFld (k : Nat) : Fld := if k % 2 = 1 then COL_ROLL_STATUS_count_odd else COL_ROLL_STATUS_count_even

/-- Arrivals counted for a round's parity. -/
def rollCount (s : State) (k : Nat) : Nat := s.fld COL_ROLL_STATUS (rollFld k)

/-- What a round's parity has gathered. -/
def Roll.side (r : Roll) (k : Nat) : Arrived := if k % 2 = 1 then r.odd else r.even

/-- Replace it. -/
def Roll.setSide (r : Roll) (k : Nat) (a : Arrived) : Roll := if k % 2 = 1 then { r with odd := a } else { r with even := a }

/-- COL_ROLL_CFG as a round goes by it: as it stood when the device's ROLL of the round was taken, else as it is (R354). -/
def rollCfg (s : State) (k : Nat) : Word := ((s.roll.side k).cfg).getD (s.reg COL_ROLL_CFG)
def rollChildren (s : State) (k : Nat) : Nat := fget COL_ROLL_CFG_children (rollCfg s k)
def rollParent (s : State) (k : Nat) : Nat := fget COL_ROLL_CFG_parent (rollCfg s k)

/-- Count an arrival for a round with its fence flags. -/
def countArrival (s : State) (k : Nat) (any all : Bool) (child : Option Nat) : State :=
  let a := s.roll.side k
  let a1 : Arrived := { a with anyFence := a.anyFence || any, allFence := a.allFence && all, children := a.children ++ child.toList }
  { s.setFld COL_ROLL_STATUS (rollFld k) (rollCount s k + 1) with roll := s.roll.setSide k a1 }

/-- A Roll call packet: kind 0 an arrival, 1 a release; round; the fence flags combined by OR and by AND (log 43). -/
def rollPacket (s : State) (dst kind k : Nat) (any all : Bool) : State :=
  s.send none (s.mkPacket 0x82 2 dst 0 0 0 [kind, k % 2 ^ 16, b2n any, b2n all] [])

/-- The release of a round on this device (R327, R329). -/
def rollRelease (k : Nat) (any all : Bool) (s : State) : State :=
  let kids := (s.roll.side k).children
  let s1 : State := { (s.setFld COL_ROLL_STATUS (rollFld k) 0).setFld COL_ROLL_STATUS COL_ROLL_STATUS_released k with
                      roll := s.roll.setSide k {} }
  let s2 := kids.foldl (fun s d => rollPacket s d 1 k any all) s1
  let s3 := if any != all then (s2.flag COL_ERR COL_ERR_fence_mismatch).logFree 0x4013 5 0
    else if any then stepFence s2 else s2
  let mine := s3.roll.waiting.filter (fun w => decide (w.2.1 = k))
  let s4 : State := { s3 with roll := { s3.roll with waiting := s3.roll.waiting.filter (fun w => decide (w.2.1 ≠ k)) } }
  mine.foldl (fun s w => s.complete w.1 (if any != all then 0x02 else 0) 0 (if any != all then 0x4013 else 0) 0) s4

/-- What follows from an arrival: at children + 1 the device calls its parent, or releases the round as the Bellwether
(R327). -/
def rollCheck (k : Nat) (s : State) : State :=
  if rollCount s k ≠ rollChildren s k + 1 then s
  else
    let a := s.roll.side k
    if rollParent s k = s.devId then rollRelease k a.anyFence a.allFence s
    else rollPacket s (rollParent s k) 0 k a.anyFence a.allFence

/-- Whether the step's work that a fence arrival waits for is done: applications, commits, and the notices of the previous
fence that have come (R329). -/
def stepWorkDone (s : State) : Bool :=
  appsDone s && commitsDone s &&
    (rangeFrom 0 96).all (fun n => !(s.lnk n).slots.any (fun p => decide (p.ty = 0x83)))

/-- The device's own arrival for a round, with its fence flag. -/
def ownArrival (s : State) (k : Nat) (f : Bool) : State := rollCheck k (countArrival s k f f none)

/-- Held fence arrivals go on once the step's work is done. -/
def rollRetry (s : State) : State :=
  if stepWorkDone s then
    match s.roll.held with
    | [] => s
    | w :: t => ownArrival { s with roll := { s.roll with held := t } } w.1 w.2
  else s

/-- ROLL at the head of an engine (R326, R328, R329). -/
def rollCmd (n : Nat) (s : State) : State :=
  match engHead s n 7 with
  | none => s
  | some m =>
    let s0 := dropHead n s
    let s0 := s0.setEngine n (s0.engine n).settle
    let k := rollNext s
    let fence := bitOf (fieldAt m.desc 0x3E 1) 1
    if s.isFrozen (engMst n) then (s0.frozenCommand (engMst n) 0x05).complete m.ref 0x05 0 0x1007 0
    else if 2 < modDiff 16 k (rollReleased s) then
      (s0.violate (s.qpMst m.ref.qp) 0x1003 kTally 0 (0xFF + 0xFF * 2 ^ 8 + s.devId * 2 ^ 16) (rollCount s k) (rollChildren s k + 1)).complete
        m.ref 0x0B 0 0x1003 0
    else
      let s1 := s0.setFld COL_ROLL_STATUS COL_ROLL_STATUS_round_next (k + 1)
      let r := s1.roll.setSide k { s1.roll.side k with cfg := some (s1.reg COL_ROLL_CFG) }
      let s2 : State := { s1 with roll := { r with waiting := r.waiting ++ [(m.ref, k, fence)] } }
      if fence && !stepWorkDone s2 then { s2 with roll := { s2.roll with held := s2.roll.held ++ [(k, fence)] } }
      else ownArrival s2 k fence

/-- A child's arrival (R326 to R328). An arrival for a released round, a second one of the same child, and one beyond the round's
limit, which keeps a place for the device's own, are passed over (log 44). -/
def childArrival (child k : Nat) (any all : Bool) (s : State) : State :=
  let ahead := modDiff 16 k (rollReleased s)
  if 2 < ahead then
    ((s.count COL_ROLL_DISCARDS 1).flag COL_ERR COL_ERR_round_ahead).log 0x4011 5 0 k child (rollReleased s) (rollNext s)
  else if ahead ≤ 0 ∨ (s.roll.side k).children.contains child ∨ rollChildren s k ≤ (s.roll.side k).children.length then s
  else rollCheck k (countArrival s k any all (some child))

/-- A release from the parent. -/
def parentRelease (k : Nat) (any all : Bool) (s : State) : State :=
  if 0 < modDiff 16 k (rollReleased s) then rollRelease k any all s else s

/-- ROLL_TIMEOUT of the oldest ROLL that is not released (R330). -/
def rollTimeout (s : State) : State :=
  match s.roll.waiting with
  | [] => s
  | w :: t =>
    if s.fld COL_TIMEOUT COL_TIMEOUT_us = 0 then s
    else
      let s1 : State := { s with roll := { s.roll with waiting := t } }
      (((s1.flag COL_ERR COL_ERR_timeout).log 0x4010 5 0 w.2.1 (rollParent s w.2.1) (rollCount s w.2.1) (rollChildren s w.2.1)).msixBoth 0).complete
        w.1 0x07 0 0x4010 0

/-! ### Halt, resume, abort, clear (R330, R341, R483) -/

/-- COL_ENG_CTRL.halt. -/
def engHalt (n : Nat) (s : State) : State := s.setEngine n { s.engine n with halted := true }

/-- COL_ENG_CTRL.resume. -/
def engResume (n : Nat) (s : State) : State := s.setEngine n { s.engine n with halted := false }

/-- Roll call is reset (R330): ROLLs that wait complete FROZEN (log 44). -/
def rollReset (s : State) : State :=
  let s1 := s.roll.waiting.foldl (fun s w => s.complete w.1 0x05 0 0 0) s
  { s1.setReg COL_ROLL_STATUS (fset COL_ROLL_STATUS_released 0xFFFF 0) with roll := {} }

/-- A command that waits at an engine ends FROZEN. -/
def endWaiting (n : Nat) (s : State) (m : Cmd) : State := refuseColl n m 0x05 0 s

/-- COL_ENG_CTRL.abort: collectives that have been accepted end FROZEN (R341: they are the active ones); engine 0 also resets Roll
call. -/
def engAbort (n : Nat) (s : State) : State :=
  let s1 := (s.engine n).active.foldl (fun s x => endColl n x 0x05 0 s) s
  let s2 := (s1.engine n).inbox.foldl (endWaiting n) s1
  let s3 := s2.setEngine n { s2.engine n with halted := false }
  if n = 0 then rollReset s3 else s3

/-- COL_CTRL.clear_counts. -/
def colClear (s : State) : State := s.clearCount COL_ROLL_DISCARDS

end Sys2Proof.Machine
end

