-- ==== Sys2Proof/Machine/SchedOps.lean ====
section
/-! DEFINITION. The hardware scheduler (15_control_and_scheduler R389 to R397, R401): posts, Timetable, dispatch, pre-emption,
acknowledgement, cancel, held sources. -/

namespace Sys2Proof.Machine

/-- Items in service: taken ones, and yielded ones back on a list (R389, R392). -/
def Sched.inService (x : Sched) : List Item :=
  ((x.slot0.toList ++ x.slot1.toList).filter (fun z => z.taken || z.item.serving)).map (·.item) ++ x.ready.filter (·.serving)

/-- Whether an item is eligible (R390). -/
def Sched.eligible (x : Sched) (it : Item) : Bool :=
  x.inService.all (fun o => decide (o.handle = it.handle) ||
    (decide (o.thread ≠ it.thread) && (it.flock.isNone || decide (o.flock ≠ it.flock))))

/-- The item to offer: of the highest level with an eligible item, the one nearest the head (R390); none of a scheduler that is cut. -/
def Sched.chosen (x : Sched) : Option Item :=
  if x.cut then none else (x.ready.filter x.eligible).foldl (fun o it => match o with
    | none => some it
    | some b => if b.level < it.level then some it else some b) none

/-- The slot of control core c within its Fold's scheduler. -/
def Sched.slotOf (x : Sched) (odd : Bool) : Option Slot := if odd then x.slot1 else x.slot0

/-- Replace a slot. -/
def Sched.setSlot (x : Sched) (odd : Bool) (v : Option Slot) : Sched := if odd then { x with slot1 := v } else { x with slot0 := v }

/-- Events that a source holds enter while it is open, in order. Structural on the held events. -/
def openHeld (f : Nat) : List (Nat × Nat) → List (Nat × Nat) → State → State
  | [], keep, s => s.setSched f { s.sched f with held := keep }
  | (src, arg) :: t, keep, s =>
    if srcOpen s f src && !keep.any (fun h => decide (h.1 = src)) then
      let x := s.sched f
      openHeld f t keep (s.setSched f { x with ready := x.ready ++ [srcItem s f src arg x] })
    else openHeld f t (keep ++ [(src, arg)]) s

/-- Timetable entries in the order of R394: by due tick, then by posting. -/
def ttInsert (e : TtEnt) : List TtEnt → List TtEnt
  | [] => [e]
  | q :: t => if e.due < q.due then e :: q :: t else q :: ttInsert e t

/-- Move the due entries of a Timetable into the pool while it has room (R394). Structural on the entries. -/
def ttMove (tick : Nat) : List TtEnt → Sched → Sched
  | [], x => x
  | e :: t, x =>
    if e.due ≤ tick ∧ x.used < 8192 then
      ttMove tick t { x with ready := x.ready ++ [{ e.item with handle := x.freeHandle }], tt := x.tt.erase e }
    else x

/-- TIMETABLE_EXPIRY: due entries move, in ascending due tick and order of posting (R394). -/
def ttExpire (f : Nat) (s : State) : State :=
  let x := s.sched f
  if x.cut then s else s.setSched f (ttMove (s.reg SCH_TICK).toNat (x.tt.foldl (fun a e => ttInsert e a) []) x)

/-- What follows when pool entries are freed or a source is enabled: due Timetable entries, then held events (R394, R397). -/
def schSettle (f : Nat) (s : State) : State :=
  let s1 := ttExpire f s
  openHeld f (s1.sched f).held [] s1

/-- The lowest free Timetable index. -/
def Sched.freeTt (x : Sched) : Option Nat := (rangeFrom 0 4096).find? (fun i => !x.tt.any (fun e => decide (e.idx = i)))

/-- A post of control core c finds no free entry: its hold counts once, when it begins (R397). -/
def postStall (f c : Nat) (s : State) : State :=
  let x := s.sched f
  if x.stalled.contains c then s
  else ((s.setSched f { x with stalled := c :: x.stalled }).count (SCH_STALLS f) 1).flag (SCH_ERR f) SCH_ERR_stall

/-- A post by control core c (R389, R394). A post that finds no free entry does not complete: its writer presents it again
(R397). -/
def schPost (c : Nat) (w : Word) (s : State) : State :=
  let f := fget SCH_POST_fold w
  let x := s.sched f
  let it : Item := { handle := x.freeHandle, level := fget SCH_POST_level w
                     flock := if fbit SCH_POST_flock_en w then some (fget SCH_POST_flock w) else none
                     thread := fget SCH_POST_thread w, arg := (s.reg (SCH_POST_ARG c)).toNat }
  let d := fget SCH_POST_delay w
  let status (tt h : Nat) (s : State) : State :=
    s.setReg (SCH_POST_STATUS c) (fset SCH_POST_STATUS_handle h <| fset SCH_POST_STATUS_fold f <|
      fset SCH_POST_STATUS_timetable tt (s.reg (SCH_POST_STATUS c)))
  if d = 0 then
    (if x.used < 8192 then status 0 it.handle (s.setSched f { x with ready := x.ready ++ [it], stalled := x.stalled.erase c })
     else postStall f c s)
  else match x.freeTt with
    | none => postStall f c s
    | some i => status 1 i (s.setSched f { x with tt := x.tt ++ [⟨i, (s.reg SCH_TICK).toNat + d, it⟩], stalled := x.stalled.erase c })

/-- DISPATCH of a Fold: the chosen eligible item is offered to an idle control core, the lower-numbered first (R391). -/
def dispatch (f : Nat) (s : State) : State :=
  let x := s.sched f
  if fwState s ≠ 3 then s else
    match x.chosen with
    | none => s
    | some it =>
      let x1 : Sched := { x with ready := x.ready.filter (fun q => decide (q.handle ≠ it.handle)) }
      if x.slot0.isNone then s.setSched f { x1 with slot0 := some { item := it } }
      else if x.slot1.isNone then s.setSched f { x1 with slot1 := some { item := it } }
      else s

/-- PREEMPT of a Fold (R392): with both cores running, an eligible item of a level that may pre-empt and that is above a
running one asserts pre-emption on the core whose item has the lowest level, the one that took later on a tie. -/
def preempt (f : Nat) (s : State) : State :=
  let x := s.sched f
  match x.slot0, x.slot1, x.chosen with
  | some a, some b, some it =>
    let odd := decide (b.item.level < a.item.level) || (decide (a.item.level = b.item.level) && decide (a.serial < b.serial))
    let v := if odd then b else a
    if a.taken && b.taken && s.bit (SCH_CFG f) SCH_CFG_preempt_en && decide (s.fld (SCH_CFG f) SCH_CFG_preempt_min ≤ it.level) &&
        decide (v.item.level < it.level) && !v.preempt then
      (s.setSched f (x.setSlot odd (some { v with preempt := true }))).wide (SCH_PREEMPTS f) 1
    else s
  | _, _, _ => s

/-- A write to SCH_ACK_c that does not fit (R393). -/
def ackBad (c : Nat) (s : State) : State := s.flag (SCH_ERR (c / 2)) SCH_ERR_ack_state

/-- Take: the offered item runs (R391). -/
def schTake (c : Nat) (s : State) : State :=
  let f := c / 2
  let odd := decide (c % 2 = 1)
  let x := s.sched f
  match x.slotOf odd with
  | some z =>
    if z.taken then ackBad c s
    else
      let z1 : Slot := { z with taken := true, item := { z.item with serving := true }, serial := x.takes }
      (s.setSched f { x.setSlot odd (some z1) with takes := x.takes + 1 }).wide (SCH_DISPATCHES f) 1
  | none => ackBad c s

/-- Done: the running item is retired (R391). -/
def schDone (c : Nat) (s : State) : State :=
  let f := c / 2
  let odd := decide (c % 2 = 1)
  let x := s.sched f
  match x.slotOf odd with
  | some z => if z.taken then schSettle f (s.setSched f (x.setSlot odd none)) else ackBad c s
  | none => ackBad c s

/-- Yield: a pre-empted item returns to the head of its list with resumed set (R392). -/
def schYield (c : Nat) (s : State) : State :=
  let f := c / 2
  let odd := decide (c % 2 = 1)
  let x := s.sched f
  match x.slotOf odd with
  | some z =>
    if z.taken && z.preempt then
      s.setSched f { x.setSlot odd none with ready := { z.item with resumed := true, serving := true } :: x.ready }
    else ackBad c s
  | none => ackBad c s

/-- Cancel of a Timetable entry by control core c: an entry whose due tick has come moves first, as far as the pool has room (R394,
R395). -/
def schCancel (c : Nat) (w : Word) (s : State) : State :=
  let f := fget SCH_CANCEL_fold w
  let s := ttExpire f s
  let x := s.sched f
  match x.tt.find? (fun e => decide (e.idx = fget SCH_CANCEL_handle w)) with
  | some e => (s.setSched f { x with tt := x.tt.erase e }).setFld (SCH_POST_STATUS c) SCH_POST_STATUS_cancel 1
  | none => s.setFld (SCH_POST_STATUS c) SCH_POST_STATUS_cancel 2

/-- SCH_CTRL.clear_counts. -/
def schClear (f : Nat) (s : State) : State := s.clearCount (SCH_STALLS f)

end Sys2Proof.Machine
end

