-- ==== Sys2Proof/Machine/MemOps.lean ====
section
/-! DEFINITION. Stacks and SRAM beyond reads and writes (10_memory_system R287 to R301): refresh, scrub, marks, training, the
SRAM patrol, and the placement service. -/

namespace Sys2Proof.Machine

/-- The refresh rate by the temperature of a stack's hottest die: doubled above 85 °C, normal again below 80 °C (R289). -/
def refreshRate (p : Nat) (s : State) : State :=
  let t := s.fld (MEM_STATUS p) MEM_STATUS_temp
  if 85 < t then s.setFld (MEM_STATUS p) MEM_STATUS_refresh_x2 1
  else if t < 80 then s.setFld (MEM_STATUS p) MEM_STATUS_refresh_x2 0
  else s

/-- The errors that the 72 symbols of an atom have taken: a free value (R283, log 131). -/
def symErrors (draw : Nat) : Nat := leNat ((rangeFrom 0 72).map (Config.freeByte draw))

/-- REFRESH of a stack (R289), with what the stack shows at that moment, which no command carries (log 131): the temperature of its
hottest die, the symbol errors that an atom's cells and pins have taken, the parity errors that its next commands will meet (R274,
R285), and the largest number of requests that wait in one of its reorder queues of 64 entries (R276, log 120), all free. -/
def refresh (p : Nat) (s : State) : State :=
  if !s.has .stack p then s
  else
    let (w, s0) := s.drawWord
    let atom := p * 0x40000000 + w.toNat / 2 ^ 16 % 0x40000000
    let s1 := refreshRate p ((s0.setFld (MEM_STATUS p) MEM_STATUS_temp (w.toNat % 2 ^ 8)).setFld (MEM_STATUS p) MEM_STATUS_queue_max
      (w.toNat / 2 ^ 46 % 65))
    (s1.setBadSyms atom (Nat.xor (s1.badSyms atom) (symErrors s.free))).setParityErrs p (s1.parityErrs p + w.toNat / 2 ^ 8 % 2 ^ 8)

/-- An uncorrectable atom met by scrub (R290). -/
def scrubUe (p atom : Nat) (s : State) : State :=
  let a := atom * 64
  (((s.flag (MEM_ERR p) MEM_ERR_ue_scrub).count (MEM_UE_COUNT p) 1).setReg (MEM_UE_ADDR p) (BitVec.ofNat 64 a)).log 0x5002 3 p p
    (pseudoChannel (a % 0x1000000000)) (a % 2 ^ 32) (a / 2 ^ 32)

/-- SCRUB: the next atom is read, and rewritten if it was corrected (R290). -/
def scrub (p : Nat) (s : State) : State :=
  if !s.has .stack p || decide (s.fld (MEM_SCRUB p) MEM_SCRUB_period_hours = 0) || decide (s.fld (MEM_STATUS p) MEM_STATUS_state ≠ 1) then s
  else
    let pos := s.fld (MEM_SCRUB_POS p) MEM_SCRUB_POS_position
    let atom := p * 0x40000000 + pos
    let (lost, s0) := stackCommand s atom
    let s1 := burst (s0.wide (MEM_BYTES_READ p) 64) atom
    let s2 := if lost then scrubUe p atom s0 else match s1.atomErr atom with
      | 0 => s1
      | 1 => storeAtom (corrected s1 atom) atom
      | _ => scrubUe p atom s1
    s2.setFld (MEM_SCRUB_POS p) MEM_SCRUB_POS_position ((pos + 1) % 0x40000000)

/-- MEM_CTRL.scrub_now. -/
def scrubNow (p : Nat) (s : State) : State := s.setFld (MEM_SCRUB_POS p) MEM_SCRUB_POS_position 0

/-- MEM_CTRL.clear_counts (R300). -/
def memClear (p : Nat) (s : State) : State := (s.clearCount (MEM_CE_COUNT p)).clearCount (MEM_UE_COUNT p)

/-- MEM_SRAM_CTRL.clear_counts (R301). -/
def sramClear (s : State) : State := (s.clearCount MEM_SRAM_CE_COUNT).clearCount MEM_SRAM_UE_COUNT

/-- A write of MEM_MARK_c: a mark of software; a pin of 36 or above is ignored (R288, R300). -/
def markWrite (p c : Nat) (w : Word) (s : State) : State :=
  if 36 ≤ fget MEM_MARK_pin w then s
  else s.setReg (MEM_MARK p c) (fset MEM_MARK_valid (fget MEM_MARK_valid w) <| fset MEM_MARK_pin (fget MEM_MARK_pin w) 0)

/-- STACK_TRAINING_DONE (R299); a failure is a device error (R419), and the firmware load opens when stack 0 is ready (R398). -/
def trainingDone (p : Nat) (ok : Bool) (s : State) : State :=
  if !s.has .stack p || decide (s.fld (MEM_STATUS p) MEM_STATUS_state ≠ 0) then s
  else if ok then
    let s1 := s.setFld (MEM_STATUS p) MEM_STATUS_state 1
    releaseRecs (if p = 0 ∧ fwState s1 = 0 then s1.setFld SCH_FW_STATUS SCH_FW_STATUS_state 1 else s1)
  else releaseRecs ((((s.setFld (MEM_STATUS p) MEM_STATUS_state 2).flag (MEM_ERR p) MEM_ERR_training).log 0x5006 3 p p 0 0 0).msixBoth 0)

/-! ### The SRAM patrol (R297, R298) -/

/-- Action codes of R298 by the SRAM's kind and the place of the word. -/
def sramAction (s : State) (kind inst off : Nat) : Nat :=
  if kind = 3 then 1
  else if kind = 5 ∧ slotOffset s inst (if drShared s inst then 6 else 3) ≤ off then 2
  else if kind ≤ 6 then 3 else 4

/-- Whether the unit that an SRAM belongs to is present. Kinds 0 to 8 are those of MEM_SRAM_UE_LOC; kind 9 is the ingress buffers of
a link, with the place of a packet (channel × 64 + class × 16 + slot) as the place of the word (log 119). -/
def sramHere (s : State) (kind inst off : Nat) : Bool :=
  if kind ≤ 4 then s.has .core inst
  else if kind = 5 then s.has .drover inst
  else if kind = 6 then s.has .coll inst
  else if kind = 7 then decide (inst < 8)
  else if kind = 9 then s.has .link inst && (placesTaken s inst).contains off
  else decide (kind = 8)

/-- The prefetched row that holds a place of the prefetch area, rows lying one after the other (log 37). -/
def rowAtPlace : List PfRow → Nat → Option PfRow
  | [], _ => none
  | r :: t, off => if off < r.room then some r else rowAtPlace t (off - r.room)

/-- Change the staged block that holds a place of instruction staging: the A-stream's blocks stand before the X-stream's. -/
def onStaged (off : Nat) (f : List Staged → Nat → List Staged) (k : Core) : Core :=
  let i := off / 4096
  if i < k.stagedA.length then { k with stagedA := f k.stagedA i } else { k with stagedX := f k.stagedX (i - k.stagedA.length) }

/-- Discard the staged block that holds a place of instruction staging (R298). -/
def dropStaged (c off : Nat) (s : State) : State := s.onCore c (onStaged off List.eraseIdx)

/-- Whether a word in error of a staged block, given by a place in it, holds a place. -/
def sameWord (off : Nat) (u : Nat × Bool) : Bool := decide (u.1 / 8 = off % 4096 / 8)

/-- The pass has gone by: the word of a place of instruction staging has no error, or takes one (R297). -/
def setStaged (c off : Nat) (err : Option Bool) (s : State) : State :=
  s.onCore c (onStaged off (fun l i => l.modify i (fun b => { b with upsets := b.upsets.filter (fun u => !sameWord off u) ++
    (err.map (fun d => (off % 4096, d))).toList })))

/-- An issuing context reads its instruction from staging (R297, R298): words with one bit in error are corrected; with two, the block
is discarded, to be fetched and checked again. The flag says that it is gone. -/
def meetStaging (c : Nat) (x : Bool) (pos : Nat) (s : State) : Bool × State :=
  let k := s.core c
  match k.blockAt x pos with
  | none => (false, s)
  | some b =>
    let at_ := ((if x then k.stagedA.length else 0) + (k.staged x).idxOf b) * 4096
    let met := b.upsets.filter (fun u => decide (u.1 / 16 = pos % 4096 / 16))
    match met.find? (fun u => u.2) with
    | some u => (true, dropStaged c at_ (sramReport 3 c (at_ + u.1) 1 s))
    | none => (false, met.foldl (fun s u => sramCorrected (setStaged c (at_ + u.1) none s)) s)

/-- A double-bit error (R298). A core's word stops the core, a word of a collective buffer fails the collectives in hand of its engine,
and a word of a road stays in error and fails what reads it (log 12). -/
def sramDouble (kind inst off : Nat) (s : State) : State :=
  let act := sramAction s kind inst off
  let s1 := sramReport kind inst off act s
  if act = 1 then dropStaged inst off s1
  else if act = 2 then
    match rowAtPlace (s1.drover inst).rows (off - slotOffset s1 inst (if drShared s1 inst then 6 else 3)) with
    | some r => discardRow s1 inst r.id
    | none => s1
  else if act = 3 then
    let s2 := s1.flag MEM_SRAM_ERR MEM_SRAM_ERR_ue_data
    if kind ≤ 4 then s2.coreStop inst 0x06 0x5010
    else if kind = 5 then { s2 with upsets := s2.upsets ++ [⟨kind, inst, off, true⟩] }
    else (s2.engine inst).active.foldl (fun s x => endColl inst x 0x06 0x5010 s) s2
  else (s1.flag MEM_SRAM_ERR MEM_SRAM_ERR_ue_other).msixBoth 0

/-- SRAM_PATROL: the pass finds a word with an error (R297, R298, R317). A kind of 16 and above stands for kind − 16, whose word takes
the error just after the pass has gone by: what reads it next meets it (log 12). -/
def sramPatrol (kindOp inst off : Nat) (double : Bool) (s : State) : State :=
  let kind := kindOp % 16
  if 32 ≤ kindOp ∨ !sramHere s kind inst off then s
  else if 16 ≤ kindOp then (if kind = 3 then setStaged inst off (some double) s else { s with upsets := s.upsets ++ [⟨kind, inst, off, double⟩] })
  else
    let s1 : State := if kind = 3 then setStaged inst off none s
      else { s with upsets := s.upsets.filter (fun u => !u.meets kind inst off 1) }
    if double then (if kind = 9 then bufferDouble inst off s1 else sramDouble kind inst off s1) else sramCorrected s1

/-! ### The placement service (R293 to R296, R348) -/

/-- Whether a pasture is open to the placement service: present, not failed, and open by the PASTURE section (R348). -/
def pastureOpen (s : State) (p : Nat) : Bool :=
  s.has .stack p && decide (s.fld (MEM_STATUS p) MEM_STATUS_state ≠ 2) && (match s.pastures with
    | none => true
    | some b => bitOf (fieldAt b (4 * p) 4) 0)

/-- The pastures that a Fold lists (R348): its near ones without a PASTURE section (R16). -/
def foldPastures (s : State) (f : Nat) : List Nat :=
  match s.pastures with
  | none => [2 * f, 2 * f + 1]
  | some b => ((rangeFrom 0 8).map (fun i => bitsOf (fieldAt b (32 + 4 * f) 4) (4 * i + 3) (4 * i))).takeWhile (fun x => decide (x < 8))

/-- The pastures of a compute die, in ascending number. -/
def diePastures (d : Nat) : List Nat := rangeFrom (4 * d) 4

/-- The pastures that a request tries, in order (R294, R348). -/
def tryOrder (s : State) (pref arg : Nat) (strict : Bool) : List Nat :=
  let first := if pref = 1 then foldPastures s arg else if pref = 2 then [arg] else diePastures 0 ++ diePastures 1
  let die := if pref = 1 then arg / 2 else arg / 4
  let rest := if strict ∨ pref = 0 then [] else (diePastures die ++ diePastures (1 - die)).filter (fun p => !first.contains p)
  (first ++ rest).filter (pastureOpen s)

/-- The free ranges of a pasture between its regions, as base and end; the lowest 64 MiB of pasture 0 are kept (R294).
Structural on the regions. -/
def gaps (limit : Nat) : Nat → List Region → List (Nat × Nat)
  | a, [] => if a < limit then [(a, limit)] else []
  | a, r :: t => (if a < r.base then [(a, r.base)] else []) ++ gaps limit (max a (r.base + r.size)) t

/-- Insertion by ascending base. -/
def regionInsert (r : Region) : List Region → List Region
  | [] => [r]
  | q :: t => if r.base < q.base then r :: q :: t else q :: regionInsert r t

/-- Bytes of the owner array of a slot region (R295). -/
def ownerBytes (size slot : Nat) : Nat := 8 * (size / (slot * 64))

/-- A pasture's regions and the owner arrays that lie in it, by ascending base: no other region may lie over them (R295, log 45). -/
def occupied (s : State) (p : Nat) : List Region :=
  ((regions s p).filter (fun r => decide (r.kind = 3) && decide (pastureOf r.owners = p))).foldl
    (fun l r => regionInsert ⟨r.owners, ownerBytes r.size r.units, 0, 0, 0⟩ l) (regions s p)

/-- The free ranges of a pasture. -/
def freeRanges (s : State) (p : Nat) : List (Nat × Nat) :=
  gaps ((p + 1) * 0x1000000000) (if p = 0 then 0x4000000 else p * 0x1000000000) (occupied s p)

/-- The least multiple of `n` that is not below `a`. -/
def alignUp (n a : Nat) : Nat := (a + n - 1) / n * n

/-- The free range that takes a region of some room and alignment in a pasture: the lowest that fits (log 45). -/
def gapFor (s : State) (p room align : Nat) : Option (Nat × Nat) :=
  if 4096 ≤ s.fld (MEM_REGION_BASE p) MEM_REGION_BASE_entries then none
  else (freeRanges s p).find? (fun g => decide (alignUp align g.1 + room ≤ g.2))

/-- A base for a region of some room and alignment in a pasture (log 45). -/
def placeIn (s : State) (p room align : Nat) : Option Nat := (gapFor s p room align).map (fun g => alignUp align g.1)

/-- The room that a region takes: its bytes, and those of a slot region's owner array (R295, log 45). -/
def roomOf (size kind slot : Nat) : Nat := if kind = 3 then size + ownerBytes size slot else size

/-- Where the service keeps a pasture's region table: in the control kernel's own data, beyond the structure unit's tables, one place
of 128 KiB for each pasture (R294, R295, log 45). -/
def regionArea (p : Nat) : Nat := 0x2F00000 + p * 0x20000

/-- The place of a pasture's region table: the one that MEM_REGION_BASE names, or the service's own where it names none. -/
def regionTable (s : State) (p : Nat) : Nat :=
  let a := s.fld (MEM_REGION_BASE p) MEM_REGION_BASE_address
  if a = 0 then regionArea p else a

/-- Write a pasture's region table (R295); true when a write met an uncorrectable atom. -/
def putRegions (s : State) (p : Nat) (l : List Region) : Bool × State :=
  let a := regionTable s p
  let (ue, s1) := s.writeMem a (l.map Region.bytes).flatten
  (ue, (s1.setFld (MEM_REGION_BASE p) MEM_REGION_BASE_address a).setFld (MEM_REGION_BASE p) MEM_REGION_BASE_entries l.length)

/-- Where an owner array lies: in the free range that took its region, behind the region, at a place of the service's own choosing: a
free value (log 45). -/
def ownersAt (draw : Word) (base size slot limit : Nat) : Nat :=
  base + size + draw.toNat % ((limit - (base + size + ownerBytes size slot)) / 8 + 1) * 8

/-- Place a region in a free range that ends at `limit` (R293 to R295). The slots of a slot region start free (log 45). -/
def placeRegion (s : State) (p base size kind slot limit : Nat) : Bool × State :=
  if kind = 3 then
    let (w, s1) := s.drawWord
    let owners := ownersAt w base size slot limit
    let (ue, s2) := putRegions s1 p (regionInsert ⟨base, size, 3, slot, owners⟩ (regions s1 p))
    let (ue2, s3) := s2.writeMem owners (List.replicate (ownerBytes size slot) 0xFF)
    (ue || ue2, s3)
  else putRegions s p (regionInsert ⟨base, size, kind, 0, 0⟩ (regions s p))

/-- The status of a service that has read and written region tables. -/
def serviceStatus (ue : Bool) : Nat := if ue then 0x06 else 0

/-- The region tables of some pastures, as places and lengths. -/
def regionReads (s : State) (ps : List Nat) : List (Nat × Nat) :=
  ps.map (fun p => (regionTable s p, 32 * s.fld (MEM_REGION_BASE p) MEM_REGION_BASE_entries))

/-- Whether a service that uses the region tables must wait: the service's own area, a table that it uses, or the pasture that it
places in is not serving (R299). -/
def tablesWait (s : State) (ps : List Nat) : Bool :=
  waits s (regionArea 0) || ps.any (fun p => waits s (regionTable s p) || waits s (p * 0x1000000000))

/-- An allocation (R293, R294): status, pasture and base. The tables of the pastures that it tries are read (R295). -/
def allocate (size align kind pref arg slot : Nat) (strict : Bool) (s : State) : Nat × Nat × Nat × State :=
  let n := alignUp 0x200000 size
  let tried := tryOrder s pref arg strict
  let (ue, s1) := s.touch (regionReads s tried)
  if ue then (0x06, 0, 0, s1)
  else match tried.find? (fun p => (placeIn s p (roomOf n kind slot) align).isSome) with
  | none => (0x0B, 0, 0, s1)
  | some p =>
    let b := (placeIn s p (roomOf n kind slot) align).getD 0
    let (ue2, s2) := placeRegion s1 p b n kind slot ((gapFor s p (roomOf n kind slot) align).getD (0, 0)).2
    (serviceStatus ue2, p, b, s2)

/-- A free request (R296): the region is removed at once. A base that names no region is refused (log 45). -/
def freeRegion (base : Nat) (s : State) : Nat × State :=
  let p := pastureOf base
  let (ue, s1) := s.touch (regionReads s [p])
  if ue then (0x06, s1)
  else if s.has .stack p && (regions s p).any (fun r => decide (r.base = base)) then
    let (ue2, s2) := putRegions s1 p ((regions s p).filter (fun r => decide (r.base ≠ base)))
    (serviceStatus ue2, s2)
  else (0x02, s1)

/-- Bytes of the largest free range of a pasture that the service can allocate: none in one whose table is full (R295, R388). -/
def largestFree (s : State) (p : Nat) : Nat :=
  if !pastureOpen s p || decide (4096 ≤ s.fld (MEM_REGION_BASE p) MEM_REGION_BASE_entries) then 0 else
    ((freeRanges s p).map (fun g => (g.2 - alignUp 0x200000 g.1) / 0x200000 * 0x200000)).foldl max 0

end Sys2Proof.Machine
end

