-- ==== Sys2Proof/Machine/Image.lean ====
section
/-! DEFINITION. The structure image as bytes (13_structure_image R342 to R350) and the checks of staging (R352). -/

namespace Sys2Proof.Machine

/-- A section as the directory names it: directory index, type, and its bytes. -/
structure Sect where
  idx : Nat
  ty : Nat
  off : Nat
  bytes : List Byte
  deriving DecidableEq, Repr, Inhabited

/-- Sections in an image (R342). -/
def imgCount (b : List Byte) : Nat := fieldAt b 6 2

/-- The length field, the base epoch. -/
def imgLength (b : List Byte) : Nat := fieldAt b 8 4
def imgBase (b : List Byte) : Nat := fieldAt b 0xC 4

/-- The sections of an image, each with the bytes that its own header's length gives. -/
def sections (b : List Byte) : List Sect :=
  (rangeFrom 0 (min 16 (imgCount b))).map (fun i =>
    let off := fieldAt b (0x40 + 8 * i + 4) 4
    ⟨i, fieldAt b (0x40 + 8 * i) 2, off, (b.drop off).take (fieldAt b (off + 4) 4)⟩)

/-- The body of a section of a type, if the image holds one. -/
def sectionOf? (b : List Byte) (ty : Nat) : Option (List Byte) := ((sections b).find? (fun x => decide (x.ty = ty))).map (·.bytes.drop 16)

/-- 4-byte entry `i` of a body. -/
def ent4 (b : List Byte) (i : Nat) : Nat := fieldAt b (4 * i) 4

/-- Whether a section's check holds: bytes 11:8 of its header, after type, version and length (R343). -/
def sectCheck (x : Sect) : Bool :=
  fieldAt x.bytes 8 4 == crc32c (x.bytes.take 8 ++ List.replicate 4 0 ++ x.bytes.drop 12)

/-- Bytes of a section's body before its padding (R345 to R350). HALL and PHASE say it themselves. -/
def bodyBytes (x : Sect) : Nat :=
  let b := x.bytes.drop 16
  match x.ty with
  | 1 => 128 | 2 => 4096 | 3 => 65536 | 4 => 48 | 5 => 8 + 4 * 96 + 4 * 256 + 4 * 256 | 6 => 16
  | 7 => (rangeFrom 0 8).foldl (fun a m => max a (if fieldAt b (16 * m + 4) 4 = 0 then 128 else fieldAt b (16 * m + 8) 4 - 16 + 2 * fieldAt b (16 * m + 4) 4)) 128
  | 8 => 2 | 9 => 16 + 48 * fieldAt b 0 4
  | _ => 0

/-- Whether the bytes of a PHASE section beside its map headers and rank tables are zero (R342, R350). -/
def phaseGaps (b : List Byte) : Bool :=
  let tables := (rangeFrom 0 8).map (fun m => (fieldAt b (16 * m + 24) 4, 2 * fieldAt b (16 * m + 20) 4))
  ((b.drop 0x90).zip (rangeFrom 0x90 (b.length - 0x90))).all (fun p =>
    decide (p.1 = 0) || tables.any (fun t => decide (t.1 ≤ p.2) && decide (p.2 < t.1 + t.2)))

/-- Whether a section is laid out as R343 states. -/
def sectLaid (len : Nat) (x : Sect) : Bool :=
  decide (1 ≤ x.ty) && decide (x.ty ≤ 9) && decide (x.off % 64 = 0) && decide (0x100 ≤ x.off) && decide (x.off + x.bytes.length ≤ len) &&
    decide (fieldAt x.bytes 0 2 = x.ty) && decide (fieldAt x.bytes 2 2 = 1) && decide (x.bytes.length % 64 = 0) &&
    decide (x.bytes.length = fieldAt x.bytes 4 4) && decide (fieldAt x.bytes 12 4 = 0) && decide (upTo 64 (16 + bodyBytes x) = x.bytes.length) &&
    (x.bytes.drop 12).length ≥ 4 && zeros (x.bytes.drop (16 + bodyBytes x)) && (decide (x.ty ≠ 7) || phaseGaps x.bytes)

/-- Whether sections do not overlap and no type appears twice. -/
def sectsApart : List Sect → Bool
  | [] => true
  | x :: t => t.all (fun y => decide (x.ty ≠ y.ty) && (decide (x.off + x.bytes.length ≤ y.off) || decide (y.off + y.bytes.length ≤ x.off))) && sectsApart t

/-- Whether every byte that nothing lists is zero (R342). -/
def gapsZero (b : List Byte) (l : List Sect) : Bool :=
  zeros ((b.drop 0x10).take 0x30) && zeros ((b.drop 0xC0).take 0x3C) && zeros ((b.drop (0x40 + 8 * imgCount b)).take (8 * (16 - imgCount b))) &&
    l.all (fun x => decide (fieldAt b (0x40 + 8 * x.idx + 2) 2 = 0)) &&
    ((b.drop 0x100).zip (rangeFrom 0x100 (b.length - 0x100))).all (fun p =>
      decide (p.1 = 0) || l.any (fun x => decide (x.off ≤ p.2) && decide (p.2 < x.off + x.bytes.length)))

/-! ### Field values (R345 to R350) -/

/-- In service and split of a core by an image, else as the core has them now. -/
def coreEntry (s : State) (b : List Byte) (c : Nat) : Bool × Nat :=
  match sectionOf? b 1 with
  | some d => (bitOf (ent4 d c) 0, bitsOf (ent4 d c) 2 1)
  | none => ((s.core c).inService, s.fld (COR_ARR_CFG c) COR_ARR_CFG_split)

/-- CORE entries (R345). -/
def coreBodyOk (d : List Byte) : Bool :=
  (rangeFrom 0 32).all (fun c => decide (ent4 d c < 8) && decide (bitsOf (ent4 d c) 2 1 ≠ 3) && (bitOf (ent4 d c) 0 || decide (ent4 d c = 0)))

/-- A QUEUE entry of a core in service (R346). -/
def queueEntOk (e : Nat) : Bool :=
  let p := bitsOf e 3 0
  let q := bitsOf e 7 4
  decide (e < 2 ^ 12) && decide (bitsOf e 9 8 ≠ 0) && decide (p = 0 ∨ p = 5 ∨ p = 6 ∨ p = 7) && decide (q = 0 ∨ q = 5 ∨ q = 6) &&
    (decide (p = 0) || decide (q = 0))

/-- QUEUE entries (R346): those of a core that is not in service are zero. -/
def queueBodyOk (s : State) (b d : List Byte) : Bool :=
  (rangeFrom 0 32).all (fun c => !s.has .core c || (rangeFrom 0 32).all (fun q =>
    if (coreEntry s b c).1 then queueEntOk (ent4 d (32 * c + q)) else decide (ent4 d (32 * c + q) = 0)))

/-- A HOSTQ entry (R347). -/
def hostqEntOk (e : Nat) : Bool :=
  if bitOf e 0 then
    decide (e < 2 ^ 11) && decide (1 ≤ bitsOf e 5 2) && decide (bitsOf e 5 2 ≤ 5) &&
      (if bitsOf e 5 2 = 2 ∨ bitsOf e 5 2 = 5 then decide (bitsOf e 10 6 < 4)
       else if bitsOf e 5 2 = 3 ∨ bitsOf e 5 2 = 4 then decide (bitsOf e 10 6 < 2) else true)
  else decide (e = 0)

/-- The nibbles of a Fold's list: pasture numbers, then 0xF (R348). -/
def foldListOk (e : Nat) : Bool := (rangeFrom 0 8).all (fun i => decide (bitsOf e (4 * i + 3) (4 * i) < 8 ∨ bitsOf e (4 * i + 3) (4 * i) = 15))

/-- The used bits of LNK_CFG and of a route (R349). -/
def linkCfgOk (e : Nat) : Bool := decide (Nat.land e (2 ^ 31 + 127) = e) && decide (e % 128 < 96 ∨ e % 128 = 127)
def routeOk (e : Nat) : Bool :=
  decide (Nat.land e (2 ^ 31 + 2 ^ 30 + 2 ^ 29 + 2 ^ 22 + 127 * 2 ^ 15 + 127) = e) && decide (e % 128 < 96) && decide (bitsOf e 21 15 < 96)

/-- LINK (R349). -/
def linkBodyOk (d : List Byte) : Bool :=
  zeros ((d.drop 2).take 6) && (rangeFrom 0 96).all (fun i => linkCfgOk (fieldAt d (8 + 4 * i) 4)) &&
    (rangeFrom 0 512).all (fun i => routeOk (fieldAt d (8 + 4 * 96 + 4 * i) 4))

/-- A PHASE map header (R350). -/
def phaseHeadOk (d : List Byte) (len m : Nat) : Bool :=
  let h := (d.drop (16 * m)).take 16
  let fl := fieldAt h 0 1
  decide (fl < 8) && zeros ((h.drop 12).take 4) && decide (fieldAt h 1 1 = 0) &&
    (if bitOf fl 2 then decide (fl = 4) && zeros (h.drop 2)
     else decide (fieldAt h 2 2 < 4096) && decide (fieldAt h 4 4 ≤ 65536) &&
       (decide (fieldAt h 4 4 = 0) || (decide (fieldAt h 8 4 % 64 = 0) && decide (0x90 ≤ fieldAt h 8 4) && decide (fieldAt h 8 4 + 2 * fieldAt h 4 4 ≤ len))))

/-- A window in the form of R424. -/
def windowOk (w0 w1 w2 : Nat) : Bool :=
  decide (w0 < 2 ^ 48) && decide (w1 < 2 ^ 48) && decide (w0 % 4096 = 0) && decide (w1 % 4096 = 0) && decide (w1 = 0 ∨ w0 < w1 ∨ !bitOf w2 40) &&
    decide (w2 < 2 ^ 42) && decide (bitsOf w2 39 36 = 0)

/-- A HALL entry (R349). -/
def hallEntOk (h : List Byte) : Bool :=
  decide (fieldAt h 0 2 ≤ 138) && zeros ((h.drop 3).take 13) && windowOk (fieldAt h 16 8) (fieldAt h 24 8) (fieldAt h 32 8) && zeros ((h.drop 40).take 8)

/-- Entry `i` of a HALL body. -/
def hallEnt (d : List Byte) (i : Nat) : List Byte := (d.drop (16 + 48 * i)).take 48

/-- Whether the field values of a section are in range (R352, order 4). -/
def bodyOk (s : State) (b : List Byte) (x : Sect) : Bool :=
  let d := x.bytes.drop 16
  match x.ty with
  | 1 => coreBodyOk d
  | 2 => queueBodyOk s b d
  | 3 => (rangeFrom 0 16384).all (fun i => hostqEntOk (ent4 d i))
  | 4 => (rangeFrom 0 8).all (fun p => decide (ent4 d p < 2)) && (rangeFrom 8 4).all (fun f => foldListOk (ent4 d f))
  | 5 => linkBodyOk d
  | 6 => decide (fieldAt d 0 4 < 2 ^ 24) && decide (fieldAt d 4 4 = 0) && decide (fieldAt d 8 8 < 2 ^ 48) && decide (fieldAt d 8 8 % 16 = 0)
  | 7 => (rangeFrom 0 8).all (phaseHeadOk d x.bytes.length)
  | 8 => decide (900 ≤ fieldAt d 0 2) && decide (fieldAt d 0 2 ≤ 1600)
  | 9 => zeros ((d.drop 4).take 12) && (rangeFrom 0 (fieldAt d 0 4)).all (fun i => hallEntOk (hallEnt d i))
  | _ => false

/-! ### Absent units (R352, order 5) -/

/-- Whether the unit of a master class is absent (R423). -/
def classAbsent (s : State) (c : Nat) : Bool :=
  if 2 ≤ c ∧ c < 34 then !s.has .core (c - 2)
  else if 34 ≤ c ∧ c < 38 then !s.has .drover (c - 34)
  else if c = 38 ∨ c = 39 then !s.has .coll (c - 38)
  else if c = 40 ∨ c = 41 then !s.has .trh (c - 40)
  else if 42 ≤ c ∧ c < 138 then !s.has .link (c - 42)
  else false

/-- An absent unit of a queue pair's or queue end's class (kind, number). -/
def classUnit (s : State) (cls inst : Nat) : Option (Nat × Nat) :=
  if cls = 1 ∧ !s.has .core inst then some (1, inst)
  else if cls = 3 ∧ !s.has .coll inst then some (5, inst)
  else if cls = 4 ∧ !s.has .trh inst then some (6, inst)
  else none

/-- The absent unit that a QUEUE entry names. -/
def queueUnit (s : State) (c e : Nat) : Option (Nat × Nat) :=
  if !s.has .core c then (if e = 0 then none else some (1, c))
  else if (bitsOf e 3 0 = 5 ∨ bitsOf e 7 4 = 5) ∧ !s.has .drover (bitsOf e 11 10) then some (2, bitsOf e 11 10)
  else if (bitsOf e 3 0 = 6 ∨ bitsOf e 7 4 = 6) ∧ !s.has .coll (bitsOf e 11 10) then some (5, bitsOf e 11 10)
  else none

/-- Whether a port has a present link by an image's LINK body. -/
def portThere (s : State) (d : List Byte) (port : Nat) : Bool :=
  (rangeFrom 0 96).any (fun i => s.has .link i && decide (fieldAt d (8 + 4 * i) 4 % 128 = port))

/-- The absent unit that a route names. -/
def routeUnit (s : State) (d : List Byte) (e : Nat) : Option (Nat × Nat) :=
  if bitOf e 31 && !portThere s d (e % 128) then some (4, e % 128)
  else if bitOf e 31 && bitOf e 22 && !portThere s d (bitsOf e 21 15) then some (4, bitsOf e 21 15)
  else none

/-- The first absent unit that a section names: kind and number (R352). -/
def absentUnit (s : State) (x : Sect) : Option (Nat × Nat) :=
  let d := x.bytes.drop 16
  match x.ty with
  | 1 => (rangeFrom 0 32).findSome? (fun c => if ent4 d c ≠ 0 ∧ !s.has .core c then some (1, c) else none)
  | 2 => (rangeFrom 0 1024).findSome? (fun i => queueUnit s (i / 32) (ent4 d i))
  | 3 => (rangeFrom 0 16384).findSome? (fun i => classUnit s (bitsOf (ent4 d i) 5 2) (bitsOf (ent4 d i) 10 6))
  | 4 => (rangeFrom 0 8).findSome? (fun p => if ent4 d p ≠ 0 ∧ !s.has .stack p then some (3, p) else none)
  | 5 =>
    match (rangeFrom 0 96).findSome? (fun i => if bitOf (fieldAt d (8 + 4 * i) 4) 31 ∧ !s.has .link i then some (4, i) else none) with
    | some u => some u
    | none => (rangeFrom 0 512).findSome? (fun i => routeUnit s d (fieldAt d (8 + 4 * 96 + 4 * i) 4))
  | 9 => (rangeFrom 0 (fieldAt d 0 4)).findSome? (fun i =>
      let c := fieldAt (hallEnt d i) 0 2
      if classAbsent s c then some (7, c) else none)
  | _ => none

/-! ### The checks in their order (R352) -/

/-- Whether an image of a length lies as R342 asks: in one pasture, aligned, and no longer than 16 MiB. -/
def imageLies (s : State) (a len : Nat) : Bool :=
  inPasture a && decide (a % 64 = 0) && decide (pastureOf a = pastureOf (a + len - 1)) && inPasture (a + len - 1) && decide (len % 64 = 0) &&
    decide (0x100 ≤ len) && decide (len ≤ 0x1000000) && mapped s a len

/-- The failing check of an image: status, directory index of the section (0xFF for the header), unit kind and number. -/
def imageFault (s : State) (a : Nat) (b : List Byte) : Option (Nat × Nat × Nat × Nat) :=
  let l := sections b
  let len := imgLength b
  let sec (p : Sect → Bool) : Option Nat := (l.find? (fun x => !p x)).map (·.idx)
  if !imageLies s a len then some (0x02, 0xFF, 0, 0)
  else if fieldAt b 0xFC 4 ≠ crc32c (b.take 0xFC) then some (0x03, 0xFF, 0, 0)
  else match sec sectCheck with
    | some i => some (0x03, i, 0, 0)
    | none =>
      if !(fieldAt b 0 4 == 0x52545346 && fieldAt b 4 2 == 1 && decide (1 ≤ imgCount b) && decide (imgCount b ≤ 16) && sectsApart l && gapsZero b l) then
        some (0x02, 0xFF, 0, 0)
      else match sec (sectLaid len) with
        | some i => some (0x02, i, 0, 0)
        | none => match sec (bodyOk s b) with
          | some i => some (0x02, i, 0, 0)
          | none => match l.findSome? (fun x => (absentUnit s x).map (fun u => (x.idx, u))) with
            | some (i, k, n) => some (0x01, i, k, n)
            | none => if s.committed ∧ imgBase b ≠ s.fld STR_EPOCH STR_EPOCH_current then some (0x09, 0xFF, 0, 0) else none

end Sys2Proof.Machine
end

