-- ==== Sys2Proof/Machine/Structure.lean ====
section
/-! DEFINITION. Staging, commit and epochs of the structure image (13_structure_image R351 to R360). -/

namespace Sys2Proof.Machine

/-- The master of the control cores that the structure unit reads with (R351, R423). -/
def ctrlMst (c : Nat) : Mst := ⟨138, c⟩

/-- A write of STR_STAGE (R351). -/
def strStage (w : Word) (s : State) : State :=
  if s.bit STR_STATUS STR_STATUS_staging || s.mixed then s.flag STR_ERR STR_ERR_busy_write
  else
    let s1 := (s.setFld STR_STATUS STR_STATUS_staging 1).setFld STR_STATUS STR_STATUS_staged 0
    { s1 with str := { s1.str with staging := some (fget STR_STAGE_address w), image := none } }

/-- The result of a staging in STR_STATUS. -/
def stageStatus (s : State) (st sec kind num : Nat) : State :=
  ((((s.setFld STR_STATUS STR_STATUS_staging 0).setFld STR_STATUS STR_STATUS_stage_status st).setFld STR_STATUS STR_STATUS_stage_section
    sec).setFld STR_STATUS STR_STATUS_unit_kind kind).setFld STR_STATUS STR_STATUS_unit_number num

/-- A staging that fails (R352). -/
def stageFails (s : State) (st sec kind num : Nat) : State :=
  ((stageStatus s st sec kind num).flag STR_ERR STR_ERR_stage_failed).log 0x8803 0 3 st sec kind num

/-! ### The reserved area (R294, R350, R351; log 46) -/

/-- Rank tables are copied between the largest restore block and the placement service's tables; the upper 16 MiB of the reserved area
take the copy of an image. -/
abbrev tableArea : Nat := 0x2200040
abbrev tableEnd : Nat := 0x2F00000
abbrev copyArea : Nat := 0x3000000

/-- Whether two ranges of bytes share none. -/
def apart (a n b m : Nat) : Bool := decide (a + n ≤ b) || decide (b + m ≤ a) || decide (n = 0) || decide (m = 0)

/-- Whether `n` bytes at a place of the table area share none with some ranges. -/
def tableFits (busy : List (Nat × Nat)) (n a : Nat) : Bool :=
  decide (tableArea ≤ a) && decide (a + n ≤ tableEnd) && busy.all (fun q => apart a n q.1 q.2)

/-- A free place for a rank table: the one drawn, or, where it is taken, the lowest free one behind a table (log 46). -/
def tablePlace (busy : List (Nat × Nat)) (n draw : Nat) : Nat :=
  (([tableArea + draw % 0xCFFFC0 / 64 * 64, tableArea] ++ busy.map (fun (q : Nat × Nat) => alignUp 64 (q.1 + q.2))).find?
    (tableFits busy n)).getD tableArea

/-- The bytes of a phase map's rank table: its place and length. -/
def tableSpan (m z : Word) : Nat × Nat := (fget COL_PHASE_table m, 2 * fget COL_PHASE_SIZE_ranks z)

/-- Ranks in the table of map `m` of a PHASE body. -/
def phaseRanks (d : List Byte) (m : Nat) : Nat := fieldAt d (16 * m + 4) 4

/-- The rank table of map `m` of a PHASE body. -/
def phaseTable (d : List Byte) (m : Nat) : List Byte := (d.drop (fieldAt d (16 * m + 8) 4 - 16)).take (2 * phaseRanks d m)

/-- The rank tables that are in force, that a core still uses, or that a commit waits to put in force (R350). -/
def tablesHeld (s : State) : List (Nat × Nat) :=
  (rangeFrom 0 8).map (fun m => tableSpan (s.reg (COL_PHASE m)) (s.reg (COL_PHASE_SIZE m))) ++
  (rangeFrom 0 32).flatMap (fun c => ((s.core c).maps.getD []).map (fun q => tableSpan q.1 q.2)) ++
  (match s.str.next with
    | some (_, b, ps) => match sectionOf? b 7 with
      | some d => (rangeFrom 0 8).map (fun m => (ps.getD m 0, 2 * phaseRanks d m))
      | none => []
    | none => [])

/-- Copy the rank tables of some maps of a PHASE body, one after the other: their places, by map. Structural on the maps. -/
def copyTables (d : List Byte) : List Nat → List (Nat × Nat) → State → List Nat × State
  | [], _, s => ([], s)
  | m :: t, busy, s =>
    let b := phaseTable d m
    if b = [] then
      let (ps, s1) := copyTables d t busy s
      (0 :: ps, s1)
    else
      let (w, s1) := s.drawWord
      let a := tablePlace busy b.length w.toNat
      let (ps, s2) := copyTables d t ((a, b.length) :: busy) (s1.writeMem a b).2
      (a :: ps, s2)

/-- Copy an image into the reserved area, whole; where it lies there is the structure unit's own choice (R351). -/
def copyImage (b : List Byte) (s : State) : State :=
  let (w, s1) := s.drawWord
  (s1.writeMem (copyArea + w.toNat % (0x1000000 - b.length + 1) / 64 * 64) b).2

/-- A checked image is held, with its rank tables copied (R350, R352). -/
def stageHeld (b : List Byte) (s : State) : State :=
  let (ps, s1) := match sectionOf? b 7 with
    | some d => copyTables d (rangeFrom 0 8) (tablesHeld s) s
    | none => ([], s)
  let s2 := (stageStatus s1 0 0 0 0).setFld STR_STATUS STR_STATUS_staged 1
  { s2 with str := { s2.str with image := some (b, ps) } }

/-- Read an image: its header, and the rest of its length, once the header's length fits; with whether a byte was
uncorrectable. -/
def readImage (a : Nat) (s : State) : List Byte × Bool × State :=
  let (h, ue, s1) := s.readMem a 0x100
  let len := imgLength h
  if ue || !imageLies s a len || !permitted s 138 s.devId a len kRead then (h, ue, s1)
  else
    let (b, ue2, s2) := s1.readMem (a + 0x100) (len - 0x100)
    (h ++ b, ue2, s2)

/-- STAGING_DONE: the image is read, copied and checked (R351, R352). A source that the control cores' windows do not cover
fails the first check, and an image with an uncorrectable atom has status 0x06, which R352 does not list (log 167). Staging waits while a pasture that it reads or writes is not serving (R299). -/
def stagingDone (s : State) : State :=
  match s.str.staging with
  | none => s
  | some a =>
    let s0 : State := { s with str := { s.str with staging := none } }
    if waits s a || waits s copyArea then s
    else if !imageLies s a 0x100 || !permitted s 138 s.devId a 0x100 kRead then stageFails s0 0x02 0xFF 0 0
    else
      let (b, ue, s1) := readImage a s0
      if ue then stageFails s1 0x06 0xFF 0 0
      else if b.length ≠ imgLength b then stageFails s1 0x02 0xFF 0 0
      else
        let s2 := copyImage b s1
        match imageFault s1 a b with
        | some (st, i, k, n) => stageFails s2 st i k n
        | none => stageHeld b s2

/-- A write of STR_COMMIT (R353). -/
def strCommit (w : Word) (s : State) : State :=
  let ep := fget STR_COMMIT_epoch w
  let bad (st : Nat) : State := (s.setFld STR_STATUS STR_STATUS_commit_status st).flag STR_ERR STR_ERR_commit_failed
  match s.str.image with
  | none => bad 0x02
  | some (b, places) =>
    if ep ≠ (imgBase b + 1) % 2 ^ 32 ∨ (s.committed ∧ imgBase b ≠ s.fld STR_EPOCH STR_EPOCH_current) then bad 0x09
    else
      let s1 := (s.setFld STR_STATUS STR_STATUS_commit_status 0).setFld STR_STATUS STR_STATUS_staged 0
      { s1 with str := { s1.str with image := none, next := some (ep, b, places) } }

/-! ### The settings of an image (R345 to R350, R354) -/

/-- The binding that a QUEUE entry gives (R346). -/
def bindOf (inService : Bool) (e : Nat) : QBind :=
  if inService then { prod := bitsOf e 3 0, cons := bitsOf e 7 4, inst := bitsOf e 11 10, cls := bitsOf e 9 8 } else {}

/-- Whether an image changes the CORE or QUEUE entries of a core (R354). -/
def coreChanges (s : State) (b : List Byte) (c : Nat) : Bool :=
  let now : Bool × Nat := ((s.core c).inService, s.fld (COR_ARR_CFG c) COR_ARR_CFG_split)
  decide (coreEntry s b c ≠ now) || (match sectionOf? b 2 with
    | some d => (rangeFrom 0 32).any (fun q => decide (bindOf (coreEntry s b c).1 (ent4 d (32 * c + q)) ≠ (s.core c).bind q))
    | none => false)

/-- The bindings of a core's queues under an image: those of its QUEUE section, or none for a core out of service, else as they
are (R346). -/
def bindsUnder (b : List Byte) (c : Nat) (on : Bool) (k : Core) : Sparse QBind :=
  if !on then []
  else match sectionOf? b 2 with
    | some d => (rangeFrom 0 32).foldl (fun l q => spSet (fun _ => ({} : QBind)) l q (bindOf on (ent4 d (32 * c + q)))) k.binds
    | none => k.binds

/-- Give a core its entries of an image. A change of its split mode resets its planes (R485). -/
def setCoreEntries (b : List Byte) (c : Nat) (s : State) : State :=
  let (on, split) := coreEntry s b c
  let same := decide (s.fld (COR_ARR_CFG c) COR_ARR_CFG_split = split)
  (s.setFld (COR_ARR_CFG c) COR_ARR_CFG_split split).onCore c (fun k => { k with
    inService := on, maps := none, holdA := false, binds := bindsUnder b c on k
    subs := if same then k.subs else [], steals := if same then k.steals else [] })

/-- Whether a core can switch entries: its contexts are idle and its deferred queue is empty (R354). -/
def coreIdle (k : Core) : Bool :=
  k.am.life.over && k.xm.life.over && k.ad.life.over && k.xd.life.over && decide (k.deferQ = []) && decide (k.runs = [])

/-- The access instructions of a core that run. -/
def coreAccess (k : Core) : Bool := k.runs.any (fun r => decide (r.unit = 0))

/-- HOSTQ: the bindings of the queue pairs (R347). -/
def setHostq (d : List Byte) (s : State) : State :=
  (rangeFrom 0 16384).foldl (fun s n =>
    let e := ent4 d n
    ((s.setFld (QUE_STATUS n) QUE_STATUS_port (bitsOf e 1 1)).setFld (QUE_STATUS n) QUE_STATUS_class (bitsOf e 5 2)).setFld (QUE_STATUS n)
      QUE_STATUS_instance (bitsOf e 10 6)) s

/-- LINK: device id, routes, links (R349). -/
def setLinks (d : List Byte) (s : State) : State :=
  let w (i : Nat) : Word := BitVec.ofNat 64 (fieldAt d (8 + 4 * i) 4)
  let s1 := s.setReg LNK_DEVICE_ID (BitVec.ofNat 64 (fieldAt d 0 2))
  let s2 := (rangeFrom 0 256).foldl (fun s g => (s.setReg (LNK_GROUP_ROUTE g) (w (96 + g))).setReg (LNK_MEMBER_ROUTE g) (w (352 + g))) s1
  (rangeFrom 0 96).foldl (fun s n => linkCommit n (w n) s) s2

/-- COLLECTIVE (R349). -/
def setCollective (d : List Byte) (s : State) : State :=
  (s.setReg COL_ROLL_CFG (BitVec.ofNat 64 (fieldAt d 0 4))).setReg COL_GROUP_BASE (BitVec.ofNat 64 (fieldAt d 8 8))

/-- PHASE: maps that are not kept, with their tables in the copies (R350). -/
def setPhase (d : List Byte) (places : List Nat) (s : State) : State :=
  (rangeFrom 0 8).foldl (fun s m =>
    let h := (d.drop (16 * m)).take 16
    let fl := fieldAt h 0 1
    if bitOf fl 2 then s
    else
      (s.setReg (COL_PHASE m) (fset COL_PHASE_valid (fl % 2) <| fset COL_PHASE_translate (fl / 2) <|
        fset COL_PHASE_table (places.getD m 0) 0)).setReg (COL_PHASE_SIZE m)
        (fset COL_PHASE_SIZE_group (fieldAt h 2 2) <| fset COL_PHASE_SIZE_ranks (fieldAt h 4 4) 0)) s

/-- HALL: windows (R349). -/
def setHall (d : List Byte) (s : State) : State :=
  (rangeFrom 0 (fieldAt d 0 4)).foldl (fun s i =>
    let h := hallEnt d i
    (rangeFrom 0 4).foldl (fun s k => s.setWin (fieldAt h 0 2) (fieldAt h 2 1) k (BitVec.ofNat 64 (fieldAt h (16 + 8 * k) 8))) s) s

/-- Apply a section's settings, if the image holds it. -/
def withSection (b : List Byte) (ty : Nat) (f : List Byte → State → State) (s : State) : State :=
  match sectionOf? b ty with
  | some d => f d s
  | none => s

/-- The settings that units take at the switch tick (R354). -/
def setAtTick (b : List Byte) (places : List Nat) (s : State) : State :=
  withSection b 9 setHall <| withSection b 8 (fun d s => s.setFld PWR_STATUS PWR_STATUS_cap_w (fieldAt d 0 2)) <|
  withSection b 7 (fun d s => setPhase d places s) <| withSection b 6 setCollective <| withSection b 5 setLinks <|
  withSection b 4 (fun d s => { s with pastures := some (d.take 48) }) <| withSection b 3 setHostq s

/-- A measurement register extended with data (R446). -/
def State.extend (s : State) (i : Nat) (d : List Byte) : State :=
  { s with meas := listPut 0 s.meas i (Config.shake256 (leBytes 64 (s.meas.getD i 0).toNat ++ d)) }

/-- The last acknowledgement has come (R355). -/
def commitDone (s : State) : State :=
  let s1 := (s.setFld STR_STATUS STR_STATUS_mixed 0).wide STR_COMMITS 1
  let ep := s.fld STR_EPOCH STR_EPOCH_current
  let s2 := s1.log 0x8801 0 3 ep ((s.reg SCH_TICK).toNat - s.str.since) s.str.waited 0
  ({ s2 with str := { s2.str with force := none } } : State).eventAll 6 ep

/-- The cores that wait to switch under an image (R354). -/
def waitingCores (s : State) (b : List Byte) : List Nat :=
  (rangeFrom 0 32).filter (fun c => s.has .core c &&
    (if coreChanges s b c then !coreIdle (s.core c) else (sectionOf? b 7).isSome && coreAccess (s.core c)))

/-- SWITCH_TICK (R353, R354): the epoch changes, units switch, and the cores that must wait keep their old settings. -/
def switchTick (s : State) : State :=
  match s.str.next with
  | none => s
  | some (ep, b, places) =>
    if s.mixed then s else
      let wait := waitingCores s b
      let old : List (Word × Word) := (rangeFrom 0 8).map (fun m => (s.reg (COL_PHASE m), s.reg (COL_PHASE_SIZE m)))
      let mask := wait.foldl (fun a c => a + 2 ^ c) 0
      let s1 := ((s.setReg STR_EPOCH (BitVec.ofNat 64 ep)).setFld STR_STATUS STR_STATUS_mixed 1).setReg STR_PENDING_CORES (BitVec.ofNat 64 mask)
      let s2 : State := { s1 with committed := true, str := { s1.str with next := none, force := some (b, places), since := (s.reg SCH_TICK).toNat, late := false, waited := mask, prev := s.fld STR_EPOCH STR_EPOCH_current } }
      let s3 := (s2.extend 2 (leBytes 4 ep ++ leBytes 64 (Config.shake256 b).toNat)).setFld SEC_MEAS_COUNT SEC_MEAS_COUNT_m2
        (min 0xFFFFFFFF (s2.fld SEC_MEAS_COUNT SEC_MEAS_COUNT_m2 + 1))
      let s4 := wait.foldl (fun s c => s.onCore c (fun k =>
        { k with maps := some (k.maps.getD old), holdA := !coreChanges s3 b c })) s3
      let s5 := ((rangeFrom 0 32).filter (fun c => s.has .core c && !wait.contains c)).foldl (fun s c => setCoreEntries b c s) s4
      let s6 := setAtTick b places s5
      if wait = [] then commitDone s6 else s6

/-- UNIT_SWITCH of a core that waits (R354): it takes its settings and acknowledges. -/
def unitSwitch (c : Nat) (s : State) : State :=
  match s.str.force with
  | none => s
  | some (b, _) =>
    let pend := s.fld STR_PENDING_CORES STR_PENDING_CORES_cores
    if !bitOf pend c then s
    else
      let k := s.core c
      if (if k.holdA then coreAccess k else !coreIdle k) then s
      else
        let s1 := ((setCoreEntries b c s).setReg STR_PENDING_CORES (BitVec.ofNat 64 (pend - 2 ^ c))).onCore c (Core.retry [8])
        if pend - 2 ^ c = 0 then commitDone s1 else s1

/-- STR_TIMEOUT_EXPIRY (R358): reported once for a commit, when the deadline has passed with units waiting. -/
def strTimeout (s : State) : State :=
  let us := s.fld STR_TIMEOUT STR_TIMEOUT_us
  if !s.mixed || s.str.late || decide (us = 0) || decide ((s.reg SCH_TICK).toNat < s.str.since + us) then s
  else ((({ s with str := { s.str with late := true } } : State).flag STR_ERR STR_ERR_timeout).log 0x8804 0 3 (s.fld STR_EPOCH STR_EPOCH_current) (s.fld STR_PENDING_CORES STR_PENDING_CORES_cores)
    ((s.reg STR_PENDING_UNITS).toNat % 2 ^ 32) 0).msixBoth 0 |>.eventAll 6 (s.fld STR_EPOCH STR_EPOCH_current)

/-! ### Requests that a core held until it has switched (R356) -/

/-- A held ADD takes effect as its target has switched (R53, R54, R356). A program that was aborted meanwhile is not stopped. -/
def applyHeld (s : State) (h : HeldAdd) : State :=
  let asked := (s.core h.core).adds.any (fun q => decide (q.1 = h.tag))
  let s0 := s.onCore h.core (fun k => { k with adds := k.adds.filter (fun q => decide (q.1 ≠ h.tag)) })
  let (ok, s1) := s0.tallyAdd h.target h.tally h.n
  if ok then (s1.afterCore h.core).settleStop h.core
  else if asked then (addLimit s1 h.core s.devId h.target h.tally).settleStop h.core
  else s1.violateTally (aMst h.core) s.devId h.target h.tally

/-- The ADDs held at a core, in the order of their coming. -/
def releaseAdds (c : Nat) (s : State) : State :=
  (s.str.heldAdds.filter (fun h => decide (h.target = c))).foldl applyHeld
    { s with str := { s.str with heldAdds := s.str.heldAdds.filter (fun h => decide (h.target ≠ c)) } }

/-- UNIT_SWITCH of a core (R354, R356): once it has switched, it takes the requests that it held. -/
def switchCore (c : Nat) (s : State) : State :=
  let t := unitSwitch c s
  if bitOf (s.fld STR_PENDING_CORES STR_PENDING_CORES_cores) c && !bitOf (t.fld STR_PENDING_CORES STR_PENDING_CORES_cores) c then
    releaseAdds c t else t

/-- COR_CTRL.abort (R46): a core that has still to switch to a commit does so at once (R354, R358). -/
def abortCore (c : Nat) (s : State) : State := switchCore c (s.coreAbort c)

end Sys2Proof.Machine
end

