-- ==== Sys2Proof/Machine/Host.lean ====
section
/-! DEFINITION. Host ports and queue pairs (14_host_interface R362 to R385): doorbells, descriptor fetch and acceptance, BAR4,
privilege, resets of a port, the tally command, the Wydak gather. -/

namespace Sys2Proof.Machine

/-- The direct path of a host port (R423). -/
def barMst (port : Nat) : Mst := ⟨port, 0x3FFF⟩

/-- The privileged port (R367). -/
def owner (s : State) : Nat := s.fld GLB_PRIVILEGE_OWNER GLB_PRIVILEGE_OWNER_port

/-- Whether a master may write privileged registers: the privileged port and the control cores (R367). -/
def privileged (s : State) (m : Mst) : Bool := decide (m.cls = owner s) || decide (m.cls = 138)

/-! ### Queue pairs (R369, R370) -/

/-- The default class of a queue pair; 0 is unbound (R347). -/
def qpClass (s : State) (n : Nat) : Nat := s.fld (QUE_STATUS n) QUE_STATUS_class

/-- Whether a queue pair is bound to the other port than a given one. -/
def boundElsewhere (s : State) (port n : Nat) : Bool := decide (qpClass s n ≠ 0) && decide (s.qpPort n ≠ port)

/-- Whether a queue pair runs. -/
def qpEnabled (s : State) (n : Nat) : Bool := s.bit (QUE_CFG n) QUE_CFG_enable

/-- One of the four indices. -/
def qpIndex (s : State) (n : Nat) (f : Fld) : Nat := s.fld (QUE_INDEX n) f

/-- A doorbell value that is refused (R370). -/
def doorbellBad (s : State) (port n v : Nat) : State :=
  (s.flag (QUE_STATUS n) QUE_STATUS_doorbell_err).log 0x8901 0 4 n port v 0

/-- What every doorbell write passes first: the frozen direct path (R428), the width (R7), the port (R370), the enable. `off`
is the doorbell's place in BAR2. The violation's address is the doorbell's place in BAR2 (log 47). -/
def doorbell (port n off : Nat) (bs : List Byte) (f : Nat → State → State) (s : State) : State :=
  if 16384 ≤ n ∨ portOff s port then s
  else if s.isFrozen (barMst port) then s.frozenCommand (barMst port) 0x05
  else if boundElsewhere s port n then s.violateAddr (barMst port) 0x1006 kWrite off
  else if bs.length ≠ 4 ∨ !qpEnabled s n then s
  else f (leNat bs) s

/-- Submission tail (R370). -/
def sqTail (port n : Nat) (bs : List Byte) (s : State) : State :=
  doorbell port n (16 * n) bs (fun v s =>
    let size : Int := (2 ^ s.fld (QUE_CFG n) QUE_CFG_sq_size : Nat)
    let d := modDiff 16 v (qpIndex s n QUE_INDEX_sq_tail)
    if v < 65536 ∧ 0 < d ∧ modDiff 16 v (qpIndex s n QUE_INDEX_sq_head) ≤ size then s.setFld (QUE_INDEX n) QUE_INDEX_sq_tail v
    else if v < 65536 ∧ d ≤ 0 then s
    else doorbellBad s port n v) s

/-- Completion head (R370). -/
def cqHead (port n : Nat) (bs : List Byte) (s : State) : State :=
  doorbell port n (16 * n + 8) bs (fun v s =>
    if v < 65536 ∧ 0 ≤ modDiff 16 v (qpIndex s n QUE_INDEX_cq_head) ∧ modDiff 16 v (qpIndex s n QUE_INDEX_cq_tail) ≤ 0 then
      s.setFld (QUE_INDEX n) QUE_INDEX_cq_head v
    else doorbellBad s port n v) s

/-- What a read of a doorbell returns: the last accepted tail or head (R370). -/
def doorbellRead (s : State) (n : Nat) (head : Bool) : Nat := qpIndex s n (if head then QUE_INDEX_cq_head else QUE_INDEX_sq_tail)

/-- The size of BAR2 (R363). -/
abbrev bar2Size : Nat := 0x40000

/-- A write at a place of BAR2 (R363, R370): a doorbell at its own address; a write at another byte of a doorbell is discarded (R7), and
is the violation of R370 where its pair is bound to the other port; the rest is unmapped (R22). Which of these a write is goes by its
first byte (log 151). -/
def bar2Write (port x : Nat) (bs : List Byte) (s : State) : State :=
  if bar2Size ≤ x ∨ portOff s port then s
  else if x % 16 = 0 then sqTail port (x / 16) bs s
  else if x % 16 = 8 then cqHead port (x / 16) bs s
  else if s.isFrozen (barMst port) then s.frozenCommand (barMst port) 0x05
  else if x % 8 < 4 then (if boundElsewhere s port (x / 16) then s.violateAddr (barMst port) 0x1006 kWrite x else s)
  else s.violateAddr (barMst port) 0x1002 kWrite x

/-- Writing enable from 0 to 1: the indices are 0 and the phase is 1 (R369). -/
def queueEnable (n : Nat) (s : State) : State :=
  ((s.setFld (QUE_CFG n) QUE_CFG_enable 1).setReg (QUE_INDEX n) 0).setFld (QUE_STATUS n) QUE_STATUS_phase 1

/-- Writing enable to 0: descriptor fetches stop (R369). -/
def queueDisable (n : Nat) (s : State) : State := s.setFld (QUE_CFG n) QUE_CFG_enable 0

/-- A write of QUE_CFG (R369, R380, R385). A queue pair that the image does not bind takes the rest of the write and stays
disabled (log 48). -/
def queCfg (n : Nat) (v : Word) (s : State) : State :=
  let old := s.reg (QUE_CFG n)
  let size (f : Fld) : Bool := decide (4 ≤ fget f v) && decide (fget f v ≤ 15)
  let w := fset QUE_CFG_enable 0 <| fset QUE_CFG_wydak (if n < 256 then fget QUE_CFG_wydak v else 0) <|
    fset QUE_CFG_epoch_check (fget QUE_CFG_epoch_check v) <| fset QUE_CFG_irq_en (fget QUE_CFG_irq_en v) <|
    fset QUE_CFG_cq_loc (fget QUE_CFG_cq_loc v) <| fset QUE_CFG_sq_loc (fget QUE_CFG_sq_loc v) <|
    fset QUE_CFG_cq_size (fget QUE_CFG_cq_size v) <| fset QUE_CFG_sq_size (fget QUE_CFG_sq_size v) <|
    fset QUE_CFG_vector (fget QUE_CFG_vector v) 0
  let bad := s.flag (QUE_STATUS n) QUE_STATUS_cfg_err
  if !size QUE_CFG_cq_size || !size QUE_CFG_sq_size then bad
  else if fbit QUE_CFG_enable old then
    (if w ≠ fset QUE_CFG_enable 0 old then bad else if fbit QUE_CFG_enable v then s else queueDisable n s)
  else if !fbit QUE_CFG_enable v then s.setReg (QUE_CFG n) w
  else if qpClass s n = 0 then (s.setReg (QUE_CFG n) w).flag (QUE_STATUS n) QUE_STATUS_cfg_err
  else queueEnable n (s.setReg (QUE_CFG n) w)

/-- A write of QUE_SQ_BASE, QUE_CQ_BASE (R369): ignored while enabled. -/
def queBase (n off : Nat) (v : Word) (s : State) : State :=
  if qpEnabled s n then s.flag (QUE_STATUS n) QUE_STATUS_cfg_err else s.setReg off (fset QUE_SQ_BASE_address (fget QUE_SQ_BASE_address v) 0)

/-- QUE_CTRL.thaw by a master: the queue pair is thawed under whichever port it was frozen (R377, R429). -/
def queueThaw (n cls : Nat) (s : State) : State := (s.thaw false 0 n cls).thaw false 1 n cls

/-! ### Descriptors (R371 to R374, R380, R381, R388) -/

/-- Code that a Wydak gather is passed to its Drover with; no 64-byte descriptor has it. -/
abbrev wydakCode : Nat := 0x101

/-- Whether all bytes of a descriptor outside its fields are zero. `used` lists the fields as offset and length; the header
takes bytes 7:0. -/
def unlistedZero (used : List (Nat × Nat)) (d : List Byte) : Bool :=
  (d.zip (rangeFrom 0 d.length)).all (fun p =>
    decide (p.1 = 0) || decide (p.2 < 8) || used.any (fun u => decide (u.1 ≤ p.2) && decide (p.2 < u.1 + u.2)))

/-- The fields of a command's body; none for a reserved code (R374, R388). -/
def bodyOf (cls code : Nat) : Option (List (Nat × Nat)) :=
  if cls = 1 then (if code = 1 then some [(8, 8), (0x10, 2)] else if code = 2 then some [(8, 1), (0xC, 4)] else none)
  else if cls = 2 then (if code = 1 then some [(8, 8), (0x10, 8), (0x18, 8), (0x20, 8), (0x28, 4)]
    else if code = 2 then some [(8, 8), (0x10, 8)] else none)
  else if cls = 3 then (if 1 ≤ code ∧ code ≤ 7 then
    some [(8, 8), (0x10, 8), (0x18, 8), (0x20, 8), (0x28, 8), (0x30, 4), (0x34, 2), (0x36, 2), (0x38, 2), (0x3A, 2), (0x3C, 1), (0x3D, 1), (0x3E, 1)]
    else none)
  else if cls = 4 then (if code = 1 ∨ code = 2 then some [(8, 8), (0x10, 4)] else none)
  else match code with
    | 0x01 => some [(8, 8), (0x10, 4), (0x14, 1), (0x15, 1), (0x16, 1), (0x17, 1), (0x18, 1)]
    | 0x02 => some [(8, 8)]
    | 0x10 => some [(8, 8)]
    | 0x11 => some [(8, 8), (0x10, 2)]
    | 0x12 => some [(8, 8), (0x10, 2), (0x18, 8)]
    | 0x13 => some [(8, 4)]
    | 0x14 => some [(8, 1)]
    | _ => none

/-- Whether the fields that a collective's descriptor gives lie in their stated ranges (R331, R374); ROLL has the fence flag alone. -/
def collRanges (code : Nat) (d : List Byte) : Bool :=
  decide (fieldAt d 0x3E 1 < 4) && (decide (code = 7) ||
    (decide (fieldAt d 0x34 2 < 4096) && decide (fieldAt d 0x3D 1 ≤ 4) && decide (fieldAt d 0x36 2 % 256 ≤ 2) && (elemOf (fieldAt d 0x3C 1)).isSome))

/-- Whether the fields of a command lie in their stated ranges (R197, R264, R293, R374, R388). What a unit checks against its own
state or memory it checks when it serves the command. -/
def rangesOk (cls code : Nat) (d : List Byte) : Bool :=
  let f (o n : Nat) : Nat := fieldAt d o n
  if cls = 1 then code != 2 || decide (f 8 1 < 48)
  else if cls = 2 then code != 1 || (decide (f 0x20 8 < 2 ^ 40) && decide (1 ≤ f 0x28 4) && decide (f 0x28 4 ≤ 2 ^ 20))
  else if cls = 3 then collRanges code d
  else if cls = 4 then decide (1 ≤ f 0x10 4) && decide (f 0x10 4 ≤ 4096)
  else if cls = 5 ∧ code = 1 then
    decide (21 ≤ f 0x14 1) && decide (f 0x14 1 ≤ 30) && decide (1 ≤ f 0x15 1) && decide (f 0x15 1 ≤ 5) && decide (f 0x16 1 ≤ 2) &&
      decide (f 0x17 1 < (if f 0x16 1 = 1 then 4 else if f 0x16 1 = 2 then 8 else 256)) && decide (f 0x18 1 ≤ 1) &&
      (if f 0x15 1 = 3 then decide (f 0x10 4 ≠ 0) else true)
  else if cls = 5 ∧ code = 0x13 then decide (f 8 4 ≠ 0)
  else if cls = 5 ∧ code = 0x14 then decide (f 8 1 < 8)
  else if cls = 5 ∧ (code = 0x11 ∨ code = 0x12) then inMmio (f 8 8)
  else true

/-- Class and instance that a target byte names for a queue pair (R372). -/
def targetOf (s : State) (n t : Nat) : Nat × Nat :=
  if t = 0 then (qpClass s n, s.fld (QUE_STATUS n) QUE_STATUS_instance) else (t / 32, t % 32)

/-- Instances of a class; an instance beyond them is a field outside its range (log 49). -/
def instances (cls : Nat) : Nat := if cls = 1 then 32 else if cls = 2 ∨ cls = 5 then 4 else 2

/-- Whether a target is reserved (R372). -/
def targetBad (cls inst : Nat) : Bool := decide (cls = 0) || decide (5 < cls) || decide (instances cls ≤ inst)

/-- Whether a target's unit is absent (R4, R373). -/
def targetAbsent (s : State) (cls inst code : Nat) (d : List Byte) : Bool :=
  if cls = 1 then !s.has .core inst || !(s.core inst).inService
  else if cls = 3 then !s.has .coll inst
  else if cls = 4 then !s.has .trh inst
  else if cls = 5 then decide (code = 0x14) && decide (fieldAt d 8 1 < 8) && !s.has .stack (fieldAt d 8 1)
  else false

/-- The master whose requests a command makes (R13, R428). A command of the control kernel needs no control core at its acceptance: R13 names
the Fold alone, not which of its control cores will serve (log 158). -/
def neededMst (s : State) (cls inst code : Nat) : Option Mst :=
  if cls = 1 then (if code = 1 then some (aMst inst) else none)
  else if cls = 2 then some (drMst (droverOf s.grade inst))
  else if cls = 3 then some (engMst inst)
  else if cls = 4 then some (trMst inst)
  else none

/-- A command names an absent unit (R4, R378): the queue pair is frozen with record 0x1004, whose parameter 1 holds the code
in bits 7:0 and the target in bits 15:8 (log 50). Such a violation is no request: the kind in HMN_VIOL and the address in
HMN_VIOL_ADDR are free values. -/
def absentCommand (s : State) (n code t : Nat) : State :=
  let (a, s1) := s.drawWord
  let (k, s2) := s1.drawWord
  s2.violate (s.qpMst n) 0x1004 (k.toNat % 16) a.toNat (code + t * 256) 0 0

/-- A running unit of an engine class takes a command: one in recess wakes (R19). -/
def wakeRest (r : Nat) : Nat := if r = 1 then 0 else r

/-- Pass a command to its unit, which wakes from recess (R19, R371, R373, R396, R458). -/
def passCmd (s : State) (cls inst : Nat) (m : Cmd) (ring : Nat) : State :=
  if cls = 1 then s.onCore inst (fun k => wakeCore { k with inbox := k.inbox ++ [m] })
  else if cls = 2 then
    let d := droverOf s.grade inst
    let k := s.drover d
    s.setDrover d { k with inbox := k.inbox ++ [(inst, m)], rest := wakeRest k.rest }
  else if cls = 3 then
    let k := s.engine inst
    s.setEngine inst { k with inbox := k.inbox ++ [m], rest := wakeRest k.rest }
  else if cls = 4 then
    let k := s.trh inst
    s.setTrh inst { k with inbox := k.inbox ++ [m], rest := wakeRest k.rest }
  else
    let s1 : State := { s with svcs := s.svcs ++ [{ fold := inst, ring := ring, cmd := m, tick := (s.reg SCH_TICK).toNat }] }
    s1.event inst 0 (m.ref.qp % 2 ^ 14 + ring * 2 ^ 16)

/-- The group whose sequence a descriptor counts in: that of a collective among the group's members (R332). -/
def countsIn (cls code : Nat) (d : List Byte) : Option Nat :=
  let g := fieldAt d 0x34 2
  if cls = 3 ∧ 1 ≤ code ∧ code ≤ 6 ∧ g < 4096 then some g else none

/-- A collective is submitted: it counts in its group's sequence in the order of submission, whatever becomes of it (R332, log 157). -/
def countColl (s : State) (cls code : Nat) (d : List Byte) : State :=
  match countsIn cls code d with
  | some g => { s with collSeq := spSet (fun _ => 0) s.collSeq g (s.groupSeq g + 1) }
  | none => s

/-- The checks at acceptance in the order of R13, and the passing on (R371, R373, R377). -/
def acceptOf (s : State) (n ring : Nat) (d : List Byte) (seq : Nat) : State :=
  let code := fieldAt d 0 1
  let t := fieldAt d 1 1
  let (cls, inst) := targetOf s n t
  let ref : CmdRef := ⟨n, fieldAt d 2 2, (s.qp n).gen⟩
  let bad := targetBad cls inst
  if !bad && targetAbsent s cls inst code d then (absentCommand s n code t).complete ref 0x01 0 0x1004 0
  else if s.qpFrozen n then (s.frozenCommand (s.qpMst n) 0x05).complete ref 0x05 0 0x1007 0
  else
    let need := if bad then none else neededMst s cls inst code
    if need.any s.isFrozen then (s.frozenCommand (need.getD default) 0x05).complete ref 0x05 0 0x1007 0
    else if bad || !((bodyOf cls code).any (fun u => unlistedZero u d) && rangesOk cls code d) then s.complete ref 0x02 0 0 0
    else if s.bit (QUE_CFG n) QUE_CFG_epoch_check && decide (fieldAt d 4 4 ≠ s.fld STR_EPOCH STR_EPOCH_current) then
      s.complete ref 0x09 0 0 0
    else passCmd s cls inst { ref := ref, code := code, desc := d, seq := seq } ring

/-- A descriptor is accepted: a collective counts in its group's sequence, and the checks follow (R13, R332, R371). -/
def accept (s : State) (n ring : Nat) (d : List Byte) : State :=
  let code := fieldAt d 0 1
  let cls := (targetOf s n (fieldAt d 1 1)).1
  acceptOf (countColl s cls code d) n ring d (((countsIn cls code d).map s.groupSeq).getD 0)

/-- Whether a Wydak descriptor is well formed (R381). -/
def wydakOk (d : List Byte) : Bool :=
  let rb := fieldAt d 2 2
  fieldAt d 0 1 == 1 && fieldAt d 1 1 == 0 && fieldAt d 30 2 == 0 && decide (16 ≤ rb) && decide (rb ≤ 4096) && decide (rb % 16 = 0) &&
    decide (1 ≤ fieldAt d 4 4) && decide (fieldAt d 4 4 ≤ 2 ^ 24) && decide (fieldAt d 8 8 % 4 = 0) && decide (fieldAt d 16 8 % 16 = 0)

/-- Acceptance of a Wydak descriptor (R380, R383). -/
def acceptWydak (s : State) (n ring : Nat) (d : List Byte) : State :=
  let inst := s.fld (QUE_STATUS n) QUE_STATUS_instance
  let ref : CmdRef := ⟨n, fieldAt d 28 2, (s.qp n).gen⟩
  let mst := drMst (droverOf s.grade inst)
  if s.qpFrozen n then (s.frozenCommand (s.qpMst n) 0x05).complete ref 0x05 0 0x1007 0
  else if qpClass s n = 2 ∧ s.isFrozen mst then (s.frozenCommand mst 0x05).complete ref 0x05 0 0x1007 0
  else if qpClass s n ≠ 2 ∨ 4 ≤ inst ∨ !wydakOk d then s.complete ref 0x02 0 0 0
  else passCmd s 2 inst { ref := ref, code := wydakCode, desc := d } ring

/-- Whether a queue pair may fetch: it runs, a descriptor waits, the completion ring has room for one more record beside
those owed (R371), no commit is mixed (R355), and the port of a ring in host memory is not in reset (R475). -/
def mayFetch (s : State) (n : Nat) : Bool :=
  decide (n < 16384) && qpEnabled s n && !s.mixed && decide (qpIndex s n QUE_INDEX_sq_head ≠ qpIndex s n QUE_INDEX_sq_tail) &&
    (s.bit (QUE_CFG n) QUE_CFG_sq_loc || !portOff s (s.qpPort n)) &&
    decide ((qpIndex s n QUE_INDEX_cq_tail + 2 ^ 16 - qpIndex s n QUE_INDEX_cq_head) % 2 ^ 16 + (s.qp n).owed < 2 ^ s.fld (QUE_CFG n) QUE_CFG_cq_size)

/-- A descriptor is taken from the ring: indices and counts move, and a record is owed (R371). -/
def advanceRing (s : State) (n : Nat) : State :=
  let s1 := (s.setFld (QUE_INDEX n) QUE_INDEX_sq_head (qpIndex s n QUE_INDEX_sq_head + 1)).wide (QUE_COMMANDS n) 1
  s1.setQp n { s1.qp n with owed := (s1.qp n).owed + 1 }

/-- A fetched descriptor is taken and accepted. -/
def fetched (s : State) (n : Nat) (d : List Byte) : State :=
  let ring := qpIndex s n QUE_INDEX_sq_head % 2 ^ s.fld (QUE_CFG n) QUE_CFG_sq_size
  let s2 := advanceRing s n
  if s.bit (QUE_CFG n) QUE_CFG_wydak then acceptWydak s2 n ring d else accept s2 n ring d

/-- A descriptor whose read met an uncorrectable error: its command completes UNCORRECTABLE and is not executed (R286). The command id
is among the undefined bytes. -/
def fetchLost (s : State) (n : Nat) (d : List Byte) : State :=
  let s1 := advanceRing s n
  let id := if s.bit (QUE_CFG n) QUE_CFG_wydak then fieldAt d 28 2 else fieldAt d 2 2
  s1.complete ⟨n, id, (s.qp n).gen⟩ 0x06 0 0x5001 0

/-- DESCRIPTOR_FETCH of queue pair n: a local ring is read here, a ring in host memory answers with `host` (R371). The reads
of a ring in a pasture are checked under the queue pair's class: one that violates freezes the queue pair and fetches nothing, and
one that is uncorrectable loses its command; a frozen queue pair keeps fetching (R377, R425, log 51). -/
def descriptorFetch (n : Nat) (host : List Byte) (s : State) : State :=
  let len := if s.bit (QUE_CFG n) QUE_CFG_wydak then 32 else 64
  let a := (s.reg (QUE_SQ_BASE n)).toNat + qpIndex s n QUE_INDEX_sq_head % 2 ^ s.fld (QUE_CFG n) QUE_CFG_sq_size * len
  if !mayFetch s n then s
  else if !s.bit (QUE_CFG n) QUE_CFG_sq_loc then fetched s n (padTo len 0 host)
  else match localRead (s.qpMst n) a len s with
    | .held => s
    | .bad _ s1 => s1
    | .done b ue s1 => if ue then fetchLost s1 n b else fetched s1 n b

/-- An error is reported through a port's AER: the first one sets the first-error pointer and the header log, whose four words, the
header of a packet of the link, are free values (R362, R365, log 5). -/
def State.aer (s : State) (port code : Nat) : State :=
  let p := s.port port
  let p1 : PortCfg := { p with aer := p.aer ++ [code] }
  if p.first.isSome then s.setPortCfg port p1
  else ({ s with free := s.free + 4 } : State).setPortCfg port { p1 with first := some code, header := (rangeFrom s.free 4).map Config.freeWord }

/-- Whether a queue pair has requests on the link that can fail: fetches while it is enabled, and completion writes while it is enabled
or owes records (R365, R369). -/
def usesLink (s : State) (n : Nat) : Bool :=
  decide (n < 16384) && ((qpEnabled s n && !s.bit (QUE_CFG n) QUE_CFG_sq_loc) ||
    ((qpEnabled s n || decide ((s.qp n).owed ≠ 0)) && !s.bit (QUE_CFG n) QUE_CFG_cq_loc))

/-- The AER report of a poisoned TLP that was received: its bit in the uncorrectable error status of the PCI Express specification
(log 5). -/
abbrev aerPoisoned : Nat := 12

/-- The command whose descriptor came poisoned fails UNCORRECTABLE (R362); its id was among the bytes that are lost (log 141). -/
def poisonedFetch (n : Nat) (s : State) : State :=
  if mayFetch s n && !s.bit (QUE_CFG n) QUE_CFG_sq_loc then
    fetchLost { s with free := s.free + 1 } n ((rangeFrom 0 64).map (Config.freeByte s.free))
  else s

/-- A failed fetch or completion write on the link fails the queue pair (R365): the error is reported, the pair is frozen, and 0x8902 is
recorded (log 141). A fetch whose completion is poisoned fails its command too (R362). -/
def pcieFailed (n code : Nat) (s : State) : State :=
  let m := s.qpMst n
  if !usesLink s n then s
  else
    let s1 : State := if s.isFrozen m then s else { s with frozen := s.frozen ++ [{ mst := m }] }
    let s2 := (s1.aer (s.qpPort n) code).log 0x8902 0 4 n (s.qpPort n) code 0
    if code = aerPoisoned then poisonedFetch n s2 else s2

/-! ### Ports (R362, R368, R379, R475) -/

/-- The queue pairs bound to a port. -/
def portQps (s : State) (port : Nat) : List Nat :=
  (rangeFrom 0 16384).filter (fun n => decide (qpClass s n ≠ 0) && decide (s.qpPort n = port))

/-- A function level reset disables one queue pair and disowns its records, those that wait for a pasture too (R379). -/
def flrQp (s : State) (n : Nat) : State :=
  let q := s.qp n
  let mine (r : HeldRec) : Bool := decide (r.mst = s.qpMst n)
  let s1 := (queueDisable n { s with heldRecs := s.heldRecs.filter (fun r => !mine r) }).setQp n { gen := q.gen + 1, owed := 0 }
  if q.owed = 0 ∧ s.heldRecs.all (fun r => !mine r) then s1 else s1.flag (QUE_STATUS n) QUE_STATUS_flr_lost

/-- FUNCTION_LEVEL_RESET of a port (R379): its configuration returns to its reset values. -/
def functionReset (port : Nat) (s : State) : State := ((portQps s port).foldl flrQp s).setPortCfg port { low := (s.port port).low }

/-- The link of a port as GLB_PORT_STATUS shows it. A trained port has its reference: CLK_STATUS.pcie_ref is 1 while a port is
trained (R468, log 56). -/
def setPort (s : State) (port width rate : Nat) : State :=
  let t := if port = 0 then (s.setFld GLB_PORT_STATUS GLB_PORT_STATUS_width0 width).setFld GLB_PORT_STATUS GLB_PORT_STATUS_rate0 rate
    else (s.setFld GLB_PORT_STATUS GLB_PORT_STATUS_width1 width).setFld GLB_PORT_STATUS GLB_PORT_STATUS_rate1 rate
  t.setFld CLK_STATUS CLK_STATUS_pcie_ref (b2n (decide (t.fld GLB_PORT_STATUS GLB_PORT_STATUS_width0 ≠ 0 ∨
    t.fld GLB_PORT_STATUS GLB_PORT_STATUS_width1 ≠ 0)))

/-- The largest size of BAR4 that a port offers, as a power of two: the least that covers the present pastures (R363). -/
def bar4Largest (s : State) : Nat :=
  match firstIdx (fun k => (rangeFrom 0 8).all (fun p => !s.has .stack p || decide ((p + 1) * 0x1000000000 ≤ 2 ^ (30 + k)))) (rangeFrom 0 9) with
  | some k => 30 + k
  | none => 39

/-- Bytes of a port's BAR4 (R363). -/
def bar4Size (s : State) (port : Nat) : Nat :=
  2 ^ (if (s.port port).bar4 = 0 then bar4Largest s else (s.port port).bar4)

/-- The vectors of a port's MSI-X table that its host masks: a free set (R366, log 5). -/
def maskedBy (draw : Nat) : List Nat := (rangeFrom 0 2048).filter (fun v => decide ((Config.freeByte draw v).toNat % 2 = 1))

/-- The configuration that a host gives its port once the link is up, which no command carries: a BAR4 size among those offered, and
the MSI-X masks, both free (R362, R363, R366, log 5). -/
def configurePort (port : Nat) (s : State) : State :=
  let (w, s1) := s.drawWord
  s1.setPortCfg port { s.port port with bar4 := 30 + w.toNat % (bar4Largest s - 29), masked := maskedBy s.free }

/-- PERSTn_N changes: low holds the port in reset, and high lets its link train, whose width and rate come with the event, and what the
host then sets up is free (R475). The level is kept while the units do not run; SYS_RST_N does not reach the ports (R400). -/
def perst (port : Nat) (low : Bool) (width rate : Nat) (s : State) : State :=
  if 2 ≤ port then s
  else
    let s1 := s.setPortCfg port { s.port port with low := low }
    if !({ s with sysRst := false } : State).live then s1
    else if low then setPort (functionReset port s1) port 0 0 else setPort (configurePort port s1) port width rate

/-- A change of the privileged port (R368): method 1 handshake, 2 sideband. -/
def changeOwner (s : State) (new method : Nat) : State :=
  let old := owner s
  ((s.setFld GLB_PRIVILEGE_OWNER GLB_PRIVILEGE_OWNER_port new).setFld GLB_PRIV_OFFER GLB_PRIV_OFFER_offer 0).log 0x3101 0 0 old new method 0

/-- A write of GLB_PRIV_OFFER by a master (R368): offer takes the written value from the owner only; refused is W1C. -/
def privOffer (m : Mst) (v : Word) (s : State) : State :=
  let s1 := if fbit GLB_PRIV_OFFER_refused v then s.setFld GLB_PRIV_OFFER GLB_PRIV_OFFER_refused 0 else s
  if m.cls = owner s then s1.setFld GLB_PRIV_OFFER GLB_PRIV_OFFER_offer (fget GLB_PRIV_OFFER_offer v) else s1

/-- A write of GLB_PRIV_ACCEPT by a master (R368): from the other port it takes privilege while an offer stands. -/
def privAccept (m : Mst) (v : Word) (s : State) : State :=
  if !fbit GLB_PRIV_ACCEPT_accept v || decide (1 < m.cls) || decide (m.cls = owner s) then s
  else if s.bit GLB_PRIV_OFFER GLB_PRIV_OFFER_offer then changeOwner s m.cls 1
  else s.flag GLB_PRIV_OFFER GLB_PRIV_OFFER_refused

/-! ### BAR4 (R363) -/

/-- What the device answered to the latest read from outside: BAR4 and BAR0 reads, the sideband, the test port. -/
def State.reply (s : State) (b : List Byte) : State := { s with answer := b }

/-- A read at a place of BAR2 (R363, R370): a doorbell returns its last accepted value, and the rest is unmapped (R22). -/
def bar2Read (port x n : Nat) (s : State) : State :=
  if bar2Size < x + n then s
  else if s.isFrozen (barMst port) then (s.frozenCommand (barMst port) 0x05).reply (List.replicate n 0)
  else if x % 8 < 4 then
    s.reply ((rangeFrom x n).map (fun y =>
      if y % 8 < 4 then ((BitVec.ofNat 64 (doorbellRead s (y / 16) (decide (8 ≤ y % 16)))) >>> (8 * (y % 8))).setWidth 8 else 0))
  else (s.violateAddr (barMst port) 0x1002 kRead x).reply (List.replicate n 0)

/-- A read at a place of BAR0 (R7, R10, R363, R425): the registers, whose units wake (R19). -/
def bar0Read (port x n : Nat) (s : State) : State :=
  if 0x4000000 < x + n then s
  else if s.isFrozen (barMst port) then (s.frozenCommand (barMst port) 0x05).reply (List.replicate n 0)
  else match localRead (barMst port) (mmioBase + x) n s with
    | .held => s
    | .bad _ s1 => s1.reply (List.replicate n 0)
    | .done b _ s1 => s1.reply b

/-- HOST_BAR4_READ: offset x is local address x; a violating read returns zero (R363, R428). A port operand of 2 and 3 is a read of BAR2 of
port 0 and 1, and of 4 and 5 one of BAR0, for which the table has no row (log 5). -/
def bar4Read (port a n : Nat) (s : State) : State :=
  if 6 ≤ port ∨ portOff s (port % 2) then s
  else if 4 ≤ port then bar0Read (port % 2) a n s
  else if 2 ≤ port then bar2Read (port % 2) a n s
  else if bar4Size s port < a + n then s
  else if s.isFrozen (barMst port) then (s.frozenCommand (barMst port) 0x05).reply (List.replicate n 0)
  else match localRead (barMst port) a n s with
    | .held => s
    | .bad _ s1 => s1.reply (List.replicate n 0)
    | .done b _ s1 => s1.reply b

/-- HOST_BAR4_WRITE: a violating write is dropped (R363, R428). Bit 1 of the port operand is the poison bit of the write's TLP: a
poisoned write is discarded and reported (R362, log 5). -/
def bar4Write (port a : Nat) (bs : List Byte) (s : State) : State :=
  if 4 ≤ port ∨ portOff s (port % 2) ∨ bar4Size s (port % 2) < a + bs.length then s
  else if 2 ≤ port then s.aer (port % 2) aerPoisoned
  else if s.isFrozen (barMst port) then s.frozenCommand (barMst port) 0x05
  else match localStore (barMst port) a bs s with
    | .held => s
    | .bad _ s1 => s1
    | .done _ _ s1 => s1

/-! ### TALLY_ADD (R54, R374) -/

/-- TALLY_ADD: the command at the head of a core's commands, in the order of acceptance (R371, R374, log 52). An ADD that breaks
the limit is the violation of R54 with the queue pair as the master. -/
def tallyAddCmd (c : Nat) (s : State) : State :=
  let k := s.core c
  match k.inbox with
  | [] => s
  | m :: rest =>
    if m.code ≠ 2 ∨ s.mixed ∨ !s.has .core c then s else
      let t := fieldAt m.desc 8 1
      let s0 := s.setCore c { k with inbox := rest }
      let (ok, s1) := s0.tallyAdd c t (fieldAt m.desc 0xC 4)
      if ok then s1.complete m.ref 0 0 0 0
      else (s1.violateTally (s.qpMst m.ref.qp) s.devId c t).complete m.ref 0x0B 0 0x1003 0

end Sys2Proof.Machine
end

