-- ==== Sys2Proof/Machine/Power.lean ====
section
/-! DEFINITION. The Logbook's flush (17_reliability_and_logbook R431, R433 to R437) and power, clocks and thermal
(19_power_clocks_thermal R454 to R468). -/

namespace Sys2Proof.Machine

/-! ### Flush (R436, R437) -/

/-- Begin a flush: it reaches LOG_SRAM_HEAD as it stands. -/
def beginFlush (cause : Nat) (s : State) : State :=
  ({ s with flush := some (cause, (s.reg LOG_SRAM_HEAD).toNat) } : State).setFld LOG_STATUS LOG_STATUS_flushing 1

/-- Request a flush: one that finds another running is served when that one completes (R436). The causes are those of
LOG_STATUS.last_flush: 1 fatal fault, 2 PWR_FAIL_N, 3 software, 4 reset. -/
def requestFlush (cause : Nat) (s : State) : State :=
  if s.flush.isSome then { s with flushes := s.flushes ++ [cause] } else beginFlush cause s

/-- Copy slots to the MRAM ring, leaving out and counting those that fail twice (R437). Structural on the slots. -/
def copySlots (skip : List Nat) : List Nat → State → State
  | [], s => s
  | i :: t, s =>
    if skip.contains i then copySlots skip t (s.count LOG_DROPPED 1)
    else
      let h := (s.reg LOG_MRAM_HEAD).toNat
      copySlots skip t (({ s with mram := spSet (fun _ => 0) s.mram (h % 262144) (logSlot s.sram (i % 32768)) } : State).wide LOG_MRAM_HEAD 1)

/-- FLUSH_DONE: the slots are copied, the cause is recorded, source 3 is raised unless the flush followed PWR_FAIL_N, and the
next request is served (R436). `failed` says that a write failed its verification, `skip` which slots failed again. The
Logbook code in source 3's argument is not stated for a flush: a free value. -/
def flushDone (failed : Bool) (skip : List Nat) (s : State) : State :=
  match s.flush with
  | none => s
  | some (cause, upto) =>
    let from_ := (s.reg LOG_SRAM_FLUSHED).toNat
    let s1 := copySlots skip (rangeFrom from_ (upto - from_)) s
    let s2 := if failed || decide (skip ≠ []) then s1.flag LOG_STATUS LOG_STATUS_mram_fail else s1
    let s3 := ((s2.setReg LOG_SRAM_FLUSHED (BitVec.ofNat 64 upto)).setFld LOG_STATUS LOG_STATUS_flushing 0).setFld LOG_STATUS
      LOG_STATUS_last_flush cause
    let s4 : State := { s3 with flush := none }
    let (w, s5) := s4.drawWord
    let s6 := if cause = 2 then s4 else s5.eventAll 3 (w.toNat % 2 ^ 16)
    match s6.flushes with
    | [] => s6
    | c :: t => beginFlush c { s6 with flushes := t }

/-- LOG_CTRL.clear_counts (R440). -/
def logClear (s : State) : State := (s.clearCount LOG_LOST).clearCount LOG_DROPPED

/-! ### The tick (R394, R431) -/

/-- One tick of 1 µs of the always-on domain: SCH_TICK advances, and every thousandth tick LOG_MS, which returns to 0 as
LOG_HOURS rises (R394, R431). -/
def tick (s : State) : State :=
  let s1 := s.wide SCH_TICK 1
  if (s1.reg SCH_TICK).toNat % 1000 ≠ 0 then s1
  else
    let ms := s1.fld LOG_MS LOG_MS_ms
    if ms + 1 < 3600000 then s1.setFld LOG_MS LOG_MS_ms (ms + 1) else (s1.setFld LOG_MS LOG_MS_ms 0).wide LOG_HOURS 1

/-! ### Power manager records (R366, R396) -/

/-- What a record of the power manager raises: vector 3 and source 4, where the units that they go to run (R465, R466). -/
def pwrNote (code : Nat) (s : State) : State := if s.live then (s.msixBoth 3).eventAll 4 code else s

/-- A record of the power manager. -/
def pwrLog (s : State) (code p0 p1 p2 p3 : Nat) : State := pwrNote code (s.log code 0 1 p0 p1 p2 p3)

/-- A record of the power manager whose parameters the manual does not state: free values (log 3). -/
def pwrLogFree (s : State) (code : Nat) : State := pwrNote code (s.logFree code 0 1)

/-- A fatal fault flushes the Logbook (R419, R436). -/
def fatal (s : State) : State := requestFlush 1 s

/-! ### Rails, regulators, PLLs (R455, R456, R460) -/

/-- RAILS_GOOD: the units leave reset, stack training begins, and the PLLs run locked (R455, R460, log 56). -/
def railsGood (s : State) : State :=
  let s1 : State := (s.setFld PWR_STATUS PWR_STATUS_rails_good 1)
  if s.released then s1
  else
    let s2 : State := { s1 with released := true }
    s2.setReg CLK_STATUS (fset CLK_STATUS_link_ref 1 <| fset CLK_STATUS_control 1 <| fset CLK_STATUS_fabric 1 <|
      fset CLK_STATUS_core (coreMask s.grade) (s2.reg CLK_STATUS))

/-- RAIL_FAULT: a rail falls out of tolerance, a fatal fault while the device runs (R455). The manual states no parameters of 0x2008 for a
rail, and the event does not say whether the rail is VIO: free values (log 6). -/
def railFault (s : State) : State :=
  let (vio, s1) := s.drawBool
  let s2 := ({ s1 with vioDown := s.vioDown || vio } : State).setFld PWR_STATUS PWR_STATUS_rails_good 0
  if s.live then fatal (pwrLogFree s2 0x2008) else s2

/-- A unit whose domain is cut stops until the next reset (R456, log 57): 0 a core, 1 a Drover, 3 a collective engine, 4 a Transhumance
engine. -/
def cutUnit (kind inst : Nat) (s : State) : State :=
  if kind = 0 then (if s.has .core inst then s.onCore inst (fun k => { k with cut := true }) else s)
  else if kind = 1 then (if s.has .drover inst then s.setDrover inst { s.drover inst with rest := 3 } else s)
  else if kind = 3 then (if s.has .coll inst then s.setEngine inst { s.engine inst with rest := 3 } else s)
  else if s.has .trh inst then s.setTrh inst { s.trh inst with rest := 3 } else s

/-- A Fold's control complex and crossbar are cut: its control cores and its scheduler stop, and so do the cores and the Drover behind the
crossbar, which reach nothing without it (R15 to R17, R456, log 57). -/
def cutFold (f : Nat) (s : State) : State :=
  let s1 := s.setSched f { s.sched f with cut := true }
  cutUnit 1 f ((rangeFrom (8 * f) 8).foldl (fun s c => cutUnit 0 c s) s1)

/-- A die's fabric is cut: the Folds of a compute die, and the engines of an IO die, stop, and what stands beyond the fabric is not reached
(R15, R456, log 57). -/
def cutFabric (die : Nat) (s : State) : State :=
  let s1 : State := { s with fabricCut := die :: s.fabricCut }
  if die < 2 then cutFold (2 * die + 1) (cutFold (2 * die) s1) else cutUnit 4 (die - 2) (cutUnit 3 (die - 2) s1)

/-- A regulator cuts its domain (R456, log 57): 0 a core, 1 a Drover, 2 a Fold's control complex and crossbar, 3 a collective engine, 4 a
Transhumance engine, 5 a die fabric (0, 1 compute dies, 2, 3 IO dies). -/
def cutDomain (kind inst : Nat) (s : State) : State :=
  if kind = 2 then (if inst < 4 then cutFold inst s else s)
  else if kind = 5 then (if inst < 4 then cutFabric inst s else s)
  else if kind < 5 then cutUnit kind inst s
  else s

/-- REGULATOR_FAULT: fault 1 overcurrent, 2 overvoltage, 3 regulation. The numbers of the domain kinds in the record are not
stated: parameter 0 is a free value (R456). -/
def regulatorFault (kind inst fault : Nat) (s : State) : State :=
  let (w, s1) := (cutDomain kind inst s).drawWord
  fatal (pwrLog s1 0x2008 (w.toNat % 2 ^ 32) inst fault 0)

/-- PLL_LOSS_OF_LOCK: kind 1 core, 2 fabric, 3 control, 4 SerDes (R460). -/
def pllLost (kind inst : Nat) (s : State) : State :=
  let s1 := if kind = 1 then s.setFld CLK_STATUS CLK_STATUS_core ((Nat.land (s.fld CLK_STATUS CLK_STATUS_core) (2 ^ 32 - 1 - 2 ^ (inst % 32))))
    else if kind = 2 then s.setFld CLK_STATUS CLK_STATUS_fabric 0
    else if kind = 3 then s.setFld CLK_STATUS CLK_STATUS_control 0 else s
  fatal (pwrLog s1 0x2009 kind inst 0 0)

/-! ### Holiday and standby (R457 to R459) -/

/-- Whether a command that has reached a core cancels its entry into holiday (R458). -/
def Core.called (k : Core) : Bool := decide (k.inbox ≠ []) || k.starting.isSome

/-- HOLIDAY_ENTRY of a unit in recess beyond its idle timer (R457, R458): 0 core, 1 Drover, 2 collective engine, 3 Transhumance
engine. An idle core (R28, R345) and an engine that has had no work take their holiday as they are (log 152). A timer of 0 means
never. -/
def holidayEntry (kind n : Nat) (s : State) : State :=
  let core := s.fld PWR_IDLE PWR_IDLE_core_us
  let eng := s.fld PWR_IDLE PWR_IDLE_engine_us
  let may (now settled : Nat) : Bool := decide (now = 1 ∨ settled = 1)
  if kind = 0 then
    (if s.has .core n && decide ((s.core n).state = .recess ∨ (s.core n).state = .idle) && decide (core ≠ 0) && !(s.core n).called then
      s.onCore n (fun k => { k with state := .holiday, slept := k.state }) else s)
  else if eng = 0 then s
  else if kind = 1 then
    (if s.has .drover n && may (s.drover n).rest (s.drover n).settle.rest then s.setDrover n { s.drover n with rest := 2 } else s)
  else if kind = 2 then
    (if s.has .coll n && may (s.engine n).rest (s.engine n).settle.rest then s.setEngine n { s.engine n with rest := 2 } else s)
  else if s.has .trh n && may (s.trh n).rest (s.trh n).settle.rest then s.setTrh n { s.trh n with rest := 2 } else s

/-- Whether the device is in standby. -/
def standby (s : State) : Bool := s.bit PWR_STATUS PWR_STATUS_standby

/-- HOLIDAY_WAKE, 20 µs after a wake event (R457): outside standby, the unit runs. -/
def holidayWake (kind n : Nat) (s : State) : State :=
  if standby s then s
  else if kind = 0 then
    (if s.has .core n && decide ((s.core n).state = .holiday) then s.onCore n (fun k => { k with state := wakeState k }) else s)
  else if kind = 1 then (if (s.drover n).rest = 2 then s.setDrover n { s.drover n with rest := 0 } else s)
  else if kind = 2 then (if (s.engine n).rest = 2 then s.setEngine n { s.engine n with rest := 0 } else s)
  else if (s.trh n).rest = 2 then s.setTrh n { s.trh n with rest := 0 } else s

/-- Put a core to sleep, or wake it as it was. -/
def sleepCore (s : State) (c : Nat) : State :=
  if s.has .core c && decide ((s.core c).state ≠ .holiday) then s.onCore c (fun k => { k with state := .holiday, slept := k.state }) else s

/-- Every engine's rest by a function. -/
def mapRest (f : Nat → Nat) (s : State) : State :=
  let s1 := (rangeFrom 0 4).foldl (fun s n => if s.has .drover n then s.setDrover n { s.drover n with rest := f (s.drover n).rest } else s) s
  let s2 := (rangeFrom 0 2).foldl (fun s n => if s.has .coll n then s.setEngine n { s.engine n with rest := f (s.engine n).rest } else s) s1
  (rangeFrom 0 2).foldl (fun s n => if s.has .trh n then s.setTrh n { s.trh n with rest := f (s.trh n).rest } else s) s2

/-- Every present stack that has not failed enters self-refresh (R274, R459, R466): state 3; one in training breaks it off. -/
def restStacks (s : State) : State :=
  (rangeFrom 0 8).foldl (fun s p =>
    let st := s.fld (MEM_STATUS p) MEM_STATUS_state
    if !s.has .stack p || decide (st ≠ 0 ∧ st ≠ 1) then s
    else
      let s1 := s.setFld (MEM_STATUS p) MEM_STATUS_state 3
      if st = 0 then { s1 with untrained := p :: s1.untrained } else s1) s

/-- Every stack leaves self-refresh: ready, or, where its training was broken off, in training again (R299, log 57). -/
def wakeStacks (s : State) : State :=
  let t := (rangeFrom 0 8).foldl (fun s p =>
    if s.has .stack p && decide (s.fld (MEM_STATUS p) MEM_STATUS_state = 3) then
      s.setFld (MEM_STATUS p) MEM_STATUS_state (if s.untrained.contains p then 0 else 1) else s) s
  { t with untrained := [] }

/-- A write of PWR_CTRL (R459): standby 1 is refused while a queue pair is enabled, and 0 leaves the device to STANDBY_EXIT. -/
def standbyWrite (v : Word) (s : State) : State :=
  if !fbit PWR_CTRL_standby v then s.setFld PWR_CTRL PWR_CTRL_standby 0
  else if (rangeFrom 0 16384).any (qpEnabled s) then s.flag PWR_ERR PWR_ERR_busy_write
  else
    let s1 := (s.setFld PWR_CTRL PWR_CTRL_standby 1).setFld PWR_STATUS PWR_STATUS_standby 1
    restStacks (mapRest (fun r => if r = 3 then 3 else 2) ((rangeFrom 0 32).foldl sleepCore s1))

/-- STANDBY_EXIT: by a doorbell, a link request or a write of 0 (R459). The units come back as they slept; an engine in
recess. -/
def standbyExit (s : State) : State :=
  if !standby s then s
  else
    let s1 := (rangeFrom 0 32).foldl (fun s c =>
      if s.has .core c && decide ((s.core c).state = .holiday) then s.onCore c (fun k => { k with state := k.slept }) else s) s
    releaseRecs (wakeStacks (mapRest (fun r => if r = 2 then 1 else r) (s1.setFld PWR_STATUS PWR_STATUS_standby 0)))

/-! ### Frequency, power cap (R461, R462) -/

/-- The frequency that a core should have, in 100 MHz: the lowest of its three limits (R461). -/
def coreTarget (s : State) (n : Nat) : Nat :=
  min (s.fld (CLK_CORE n) CLK_CORE_max) (min (s.fld PWR_STATUS PWR_STATUS_cap_limit) (s.fld (CLK_CORE n) CLK_CORE_thermal))

/-- FREQUENCY_STEP: one step towards the target (R461). -/
def frequencyStep (n : Nat) (s : State) : State :=
  let c := s.fld (CLK_CORE n) CLK_CORE_current
  let t := coreTarget s n
  if !s.has .core n then s
  else if c < t then s.setFld (CLK_CORE n) CLK_CORE_current (c + 1)
  else if t < c then s.setFld (CLK_CORE n) CLK_CORE_current (c - 1)
  else s

/-- Set the cap limit and the flag that says it is below 2.1 GHz. -/
def setCapLimit (s : State) (l : Nat) : State :=
  (s.setFld PWR_STATUS PWR_STATUS_cap_limit l).setFld PWR_STATUS PWR_STATUS_limiting (b2n (decide (l < 21)))

/-- POWER_SAMPLE of package power in mW (R462). The run of samples below 97 % starts again after each rise, and cap_floor
clears with the first sample that is not above the cap (log 58). -/
def powerSample (mw : Nat) (s : State) : State :=
  let cap := s.fld PWR_STATUS PWR_STATUS_cap_w
  let l := s.fld PWR_STATUS PWR_STATUS_cap_limit
  let xs := (mw :: s.pwr.samples).take 100
  let below := if mw * 100 < cap * 1000 * 97 then s.pwr.below + 1 else 0
  let s1 := ({ s with pwr := { samples := xs, below := if below = 100 then 0 else below } } : State).setFld PWR_POWER PWR_POWER_mw
    (xs.foldl (· + ·) 0 / max 1 xs.length)
  if cap * 1000 < mw then
    if 8 < l then
      let s2 := setCapLimit s1 (l - 1)
      if l = 21 then pwrLog s2 0x2001 cap (mw / 1000) ((l - 1) * 100) 0 else s2
    else if s.bit PWR_STATUS PWR_STATUS_cap_floor then s1
    else pwrLogFree (s1.setFld PWR_STATUS PWR_STATUS_cap_floor 1) 0x2003
  else
    let s2 := s1.setFld PWR_STATUS PWR_STATUS_cap_floor 0
    if below = 100 ∧ l < 21 then
      let s3 := setCapLimit s2 (l + 1)
      if l + 1 = 21 then pwrLog s3 0x2002 cap (mw / 1000) 2100 0 else s3
    else s2

/-! ### Temperature (R463 to R465) -/

/-- A platform event, sent when a receiver is set, and none after VIO falls (R478): 1 alert with its sensor, 2 trip, 3 power failure. -/
def platformEvent (s : State) (kind sensor : Nat) : State :=
  if s.mgt.receiver.isSome && !s.vioDown then { s with mgt := { s.mgt with sent := s.mgt.sent ++ [(kind, sensor)] } } else s

/-- One sensor is read; a crossing of the alert threshold is reported once (R464). -/
def readSensor (s : State) (p : Nat × Nat) : State :=
  let t := p.2 % 1024
  let old := s.reg (THM_SENSOR p.1)
  let lim := 4 * s.fld THM_CFG THM_CFG_alert
  let s1 := s.setReg (THM_SENSOR p.1) (fset THM_SENSOR_valid 1 <| fset THM_SENSOR_temp t old)
  if lim ≤ t ∧ fget THM_SENSOR_temp old < lim then
    platformEvent (pwrLogFree (s1.flag THM_STATUS THM_STATUS_alert) 0x2006) 1 p.1
  else s1

/-- A sensor's reading in 0.25 °C. -/
def sensorTemp (s : State) (i : Nat) : Nat := s.fld (THM_SENSOR i) THM_SENSOR_temp

/-- The hottest of some sensors; the lowest number on a tie. -/
def hottest (s : State) (l : List Nat) : Nat :=
  (l.foldl (fun o i => match o with
    | none => some i
    | some j => if sensorTemp s j < sensorTemp s i then some i else some j) none).getD 0

/-- THERMAL_SAMPLE: all sensors are read (R463). -/
def thermalSample (temps : List Nat) (s : State) : State :=
  let s1 := ((rangeFrom 0 64).zip (padTo 64 0 temps)).foldl readSensor s
  let h := hottest s1 (rangeFrom 0 64)
  (s1.setFld THM_STATUS THM_STATUS_hottest h).setFld THM_STATUS THM_STATUS_hottest_t (sensorTemp s1 h)

/-- The thermal limit of a compute die, as its first present core shows it. -/
def thermalLimit (s : State) (die : Nat) : Nat := s.fld (CLK_CORE (16 * die)) CLK_CORE_thermal

/-- Set the thermal limit of a die. -/
def setThermal (s : State) (die l : Nat) : State :=
  (rangeFrom (16 * die) 16).foldl (fun s n => if s.has .core n then s.setFld (CLK_CORE n) CLK_CORE_thermal l else s) s

/-- THROTTLE_STEP of a compute die (R464): down a step while its hottest sensor is at or above throttle, not below 0.8 GHz; up
a step once it is at least hyst below. Throttling begins with the first step down and ends with the return to 2.1 GHz, or, where a device
reset returned the limit to 2.1 GHz, with the first step at which the die is cool (log 59). -/
def throttleStep (die : Nat) (s : State) : State :=
  let h := hottest s (rangeFrom (24 * die) 24)
  let t := sensorTemp s h
  let l := thermalLimit s die
  let thr := s.fld THM_CFG THM_CFG_throttle
  let f := if die = 0 then THM_STATUS_throttle_0 else THM_STATUS_throttle_1
  if 2 ≤ die then s
  else if 4 * thr ≤ t then
    let s1 := if 8 < l then setThermal s die (l - 1) else s
    if s.bit THM_STATUS f then s1 else pwrLog (s1.setFld THM_STATUS f 1) 0x2004 die h t ((if 8 < l then l - 1 else l) * 100)
  else if t + 4 * s.fld THM_CFG THM_CFG_hyst ≤ 4 * thr then
    let s1 := if l < 21 then setThermal s die (l + 1) else s
    if 20 ≤ l ∧ s.bit THM_STATUS f then pwrLog (s1.setFld THM_STATUS f 0) 0x2005 die h t 2100 else s1
  else s

/-- THERMAL_TRIP at a sensor of a die with its temperature in 0.25 °C (R465): at 110 °C every clock but the always-on clock
stops, which leaves the record and the flush, and THERMTRIP_N is asserted (log 60). -/
def thermalTrip (die sensor temp : Nat) (s : State) : State :=
  if temp < 440 ∨ s.bit THM_STATUS THM_STATUS_tripped then s
  else platformEvent (fatal (({ s with thermTrip := true } : State).setFld THM_STATUS THM_STATUS_tripped 1 |>.log 0x2007 0 1 die sensor temp 0)) 2 sensor

/-- POWER_FAIL with the state of the rails (R466): after its record the Logbook accepts no other, the stacks enter self-refresh,
and the flush begins. -/
def powerFail (rails : Nat) (s : State) : State :=
  if s.powerFailed then s
  else
    let s1 := s.log 0x200A 0 1 rails 0 0 0
    platformEvent (requestFlush 2 (restStacks { s1 with powerFailed := true, logClosed := true })) 3 0

end Sys2Proof.Machine
end

