-- ==== Sys2Proof/Machine/Security.lean ====
section
/-! DEFINITION. The security controller (18_security R441 to R453) and the firmware load (15_control_and_scheduler R398,
R399). -/

namespace Sys2Proof.Machine

/-- The anti-rollback floor. -/
def svnFloor (s : State) : Nat := s.fld SEC_FUSE SEC_FUSE_svn_floor

/-! ### The firmware image (R398, R399, R442, R443) -/

/-- A write of SCH_FW_LOAD (R398): in state 1 verification begins; in any other state it is ignored, and SCH_ERR.fw_write is
set in every Fold (log 61). -/
def fwLoad (v : Word) (s : State) : State :=
  if fwState s ≠ 1 then [0, 1, 2, 3].foldl (fun s f => s.flag (SCH_ERR f) SCH_ERR_fw_write) s
  else
    ((s.setReg SCH_FW_LOAD v).setFld SCH_FW_STATUS SCH_FW_STATUS_attempts (min 255 (s.fld SCH_FW_STATUS SCH_FW_STATUS_attempts + 1))).setFld
      SCH_FW_STATUS SCH_FW_STATUS_state 2

/-- The first check of R443: length, magic, version, svn, body_len, entry and the zero bytes of R442. -/
def imageForm (len : Nat) (b : List Byte) : Bool :=
  let bl := fieldAt b 8 4
  let e := fieldAt b 0xC 4
  decide (4096 ≤ len) && decide (len ≤ 0x2000000) && decide (len % 64 = 0) && fieldAt b 0 4 == 0x57465842 && fieldAt b 4 2 == 1 &&
    decide (fieldAt b 6 1 ≤ 64) && decide (0 < bl) && decide (bl % 64 = 0) && decide (len = 0x800 + bl + 3328) && decide (e % 4 = 0) &&
    decide (e < bl) && zeros ((b.drop 7).take 1) && zeros ((b.drop 0x10).take 0x30) && zeros ((b.drop 0x7E0).take 0x20) &&
    zeros (b.drop (0x800 + bl + 3309))

/-- The result of the checks of R443 as last_status and last_reason. -/
def imageCheck (len floor : Nat) (b : List Byte) : Nat × Nat :=
  let bl := fieldAt b 8 4
  let key := (b.drop 0x40).take 1952
  if !imageForm len b then (0x02, 1)
  else if Config.shake256 key ≠ Config.rootHash then (0x03, 2)
  else if !Config.verifies key (b.take (0x800 + bl)) ((b.drop (0x800 + bl)).take 3309) then (0x03, 2)
  else if fieldAt b 6 1 < floor then (0x02, 3)
  else (0, 0)

/-- The result in SCH_FW_STATUS. -/
def fwResult (s : State) (st reason state : Nat) : State :=
  ((s.setFld SCH_FW_STATUS SCH_FW_STATUS_last_status st).setFld SCH_FW_STATUS SCH_FW_STATUS_last_reason reason).setFld SCH_FW_STATUS
    SCH_FW_STATUS_state state

/-- FW_VERIFY_DONE: verification ends (R399, R443). An image that passes is measured into M1. -/
def fwVerifyDone (s : State) : State :=
  if fwState s ≠ 2 then s
  else
    let len := (s.reg SCH_FW_LOAD).toNat
    let (b, _, s1) := s.readMem 0 (min len 0x2000000)
    let svn := fieldAt b 6 1
    let bl := fieldAt b 8 4
    match imageCheck len (svnFloor s) b with
    | (0, _) =>
      let s2 := (fwResult s1 0 0 3).extend 1 (leBytes 64 (Config.shake256 (b.take (0x800 + bl))).toNat)
      ({ s2 with sec := { s2.sec with fwSvn := some svn } } : State).log 0x3001 0 0 svn bl (svnFloor s) 0
    | (st, reason) => (fwResult s1 st reason 1).log 0x3002 0 0 reason svn (svnFloor s) 0

/-! ### Reports and attestation (R447 to R450) -/

/-- Bytes 0x000 to 0x36F of a report with a nonce (R447). -/
def reportBody (s : State) (nonce : List Byte) : List Byte :=
  let flags := b2n s.mixed + 2 * b2n (s.bit SEC_STATUS SEC_STATUS_unlocked) + 4 * b2n (decide (fwState s = 3))
  let core (n : Nat) : List Byte :=
    leBytes 8 (readReg s (COR_PROG_BASE n)).toNat ++ leBytes 2 (readReg s (COR_PROG_GEN n)).toNat ++ leBytes 6 0
  leBytes 4 0x54525041 ++ leBytes 2 1 ++ leBytes 2 flags ++ leBytes 4 4189 ++ leBytes 4 0 ++ padTo 32 0 nonce ++
    leBytes 16 Config.serial.toNat ++ leBytes 4 (readReg s GLB_ID).toNat ++ leBytes 1 (svnFloor s) ++ leBytes 1 (s.sec.fwSvn.getD 0xFF) ++
    leBytes 2 0 ++ leBytes 4 (s.fld STR_EPOCH STR_EPOCH_current) ++ leBytes 4 0 ++ leBytes 8 (s.reg SCH_TICK).toNat ++
    leBytes 8 (s.reg LOG_POWER_CYCLES).toNat ++ ((s.meas.map (fun m => leBytes 64 m.toNat)).flatten) ++
    leBytes 8 (s.reg SEC_MEAS_COUNT).toNat ++ leBytes 8 0 ++ ((rangeFrom 0 32).map core).flatten

/-- A response message: code, status, length in units of 4 bytes, body (R449). -/
def secMessage (code status : Nat) (body : List Byte) : List Byte :=
  leBytes 1 code ++ leBytes 1 status ++ leBytes 2 ((body.length + 3) / 4) ++ body

/-- An attestation request (R449): status, body and state. A GET_MEAS names no nonce: the nonce bytes are free values. -/
def attest (code arg : Nat) (nonce : List Byte) (s : State) : Nat × List Byte × State :=
  if code = 1 ∧ arg = 0 then
    let b := reportBody s nonce
    (0, b ++ leBytes 3309 (Config.sign s.free b).toNat, { s with free := s.free + 1 })
  else if code = 2 ∧ arg ≤ 2 then (0, Config.certificate arg, s)
  else if code = 3 ∧ arg = 0 then
    (0, reportBody s ((rangeFrom 0 32).map (Config.freeByte s.free)), { s with free := s.free + 1 })
  else (0x02, [], s)

/-! ### Test access (R451) -/

/-- JTAG_CHALLENGE: 32 random bytes and the serial. -/
def jtagChallenge (s : State) : Nat × List Byte × State :=
  let c := Config.challenge s.free
  (0, leBytes 32 c.toNat ++ leBytes 16 Config.serial.toNat,
    ({ s with free := s.free + 1, sec := { s.sec with challenge := some c } } : State).setFld SEC_STATUS SEC_STATUS_challenge 1)

/-- The standing challenge is used up or has expired. -/
def dropChallenge (s : State) : State :=
  ({ s with sec := { s.sec with challenge := none } } : State).setFld SEC_STATUS SEC_STATUS_challenge 0

/-- The status of a refusal whose code the spec does not state: a free choice among the failures of R12 and R13 (0x01 to
0x0B without FORWARDED and SKIPPED_NONFINITE, log 135). -/
def freeFailure (w : Word) : Nat := [1, 2, 3, 4, 5, 6, 7, 9, 11].getD (w.toNat % 9) 1

/-- A refused response: 0x3202 with its reason. The status that it is answered with is not stated: a free failure. -/
def jtagRefused (reason : Nat) (s : State) : Nat × List Byte × State :=
  let (w, s1) := s.drawWord
  (freeFailure w, [], (s1.flag SEC_ERR SEC_ERR_jtag_refused).log 0x3202 0 0 reason 0 0 0)

/-- JTAG_RESPONSE with a key and a signature. -/
def jtagResponse (key sig : List Byte) (s : State) : Nat × List Byte × State :=
  match s.sec.challenge with
  | none => jtagRefused 1 s
  | some c =>
    let s1 := dropChallenge s
    if Config.shake256 key ≠ Config.debugHash then jtagRefused 2 s1
    else if !Config.verifies key (leBytes 32 c.toNat ++ leBytes 16 Config.serial.toNat) sig then jtagRefused 3 s1
    else (0, [], (s1.setFld SEC_STATUS SEC_STATUS_unlocked 1).logFree 0x3201 0 0)

/-! ### The SEC mailbox (R444, R453) -/

/-- Bytes of the data window. -/
def windowBytes (s : State) (off n : Nat) : List Byte :=
  (rangeFrom off n).map (fun i => (s.secWord (i / 8) >>> (8 * (i % 8))).setWidth 8)

/-- Write bytes at the start of the data window. -/
def putWindow (s : State) (b : List Byte) : State :=
  let ws := chunksOf 8 b
  (ws.zip (rangeFrom 0 (min 1024 ws.length))).foldl (fun s p => s.setSecWord p.2 (BitVec.ofNat 64 (leNat (padTo 8 0 p.1)))) s

/-- A mailbox command has completed: its response, with the response header, is in the data window (R453, log 62). -/
def mailboxDone (code : Nat) (r : Nat × List Byte × State) : State :=
  let m := secMessage code r.1 r.2.1
  ((putWindow r.2.2 m).setFld SEC_STATUS SEC_STATUS_status r.1).setFld SEC_STATUS SEC_STATUS_length m.length

/-- SVN_COMMIT (R444): fuse steps follow one by one. Outside state 3 it is not permitted, and the status is not stated: a free
value. -/
def svnCommit (s : State) : State :=
  if fwState s ≠ 3 then
    let (w, s1) := s.drawWord
    mailboxDone 0x10 (freeFailure w, [], s1)
  else
    let t := s.sec.fwSvn.getD 0
    if t ≤ svnFloor s then mailboxDone 0x10 (0, [], s)
    else ({ s with sec := { s.sec with blow := some t } } : State).setFld SEC_STATUS SEC_STATUS_busy 1

/-- A write of SEC_CMD (R453). -/
def secCommand (v : Word) (s : State) : State :=
  let code := fget SEC_CMD_code v
  if s.bit SEC_STATUS SEC_STATUS_busy then s.flag SEC_ERR SEC_ERR_busy_write
  else if code = 0x10 then svnCommit s
  else if code = 0x11 then mailboxDone code (jtagChallenge s)
  else if code = 0x12 then mailboxDone code (jtagResponse (windowBytes s 0 1952) (windowBytes s 1952 3309) s)
  else mailboxDone code (attest code (fget SEC_CMD_arg v) (windowBytes s 0 32) s)

/-- A write of a word of the data window (R453). -/
def secWindowWrite (i : Nat) (w : Word) (s : State) : State :=
  if s.bit SEC_STATUS SEC_STATUS_busy then s.flag SEC_ERR SEC_ERR_busy_write else s.setSecWord i w

/-- SECURITY_FAULT: a fatal fault (R452). -/
def securityFault (check : Nat) (s : State) : State := fatal ((s.log 0x3301 0 0 check 0 0 0).msixBoth 0)

end Sys2Proof.Machine
end

