-- ==== Sys2Proof/Machine/Reset.lean ====
section
/-! DEFINITION. The resets of the device (15_control_and_scheduler R400, 19_power_clocks_thermal R455, 20_package_and_management
R475) and the fuse steps that hold one up (18_security R444). -/

namespace Sys2Proof.Machine

/-- The registers that a device reset keeps (R288, R400, R441, R482): the always-on domain's, SCH_TICK, the fuses, the memory
marks, the state of the ports' links; the ports' configuration and MSI-X tables stand in State.ports. -/
def keptReg (off : Nat) : Bool :=
  match regAt off with
  | none => false
  | some r => match r.blk with
    | .log => true
    | .mgt => true
    | .thm => true
    | .sec => decide (off = SEC_FUSE)
    | .mem => (rangeFrom 0 64).any (fun c => decide (off = MEM_MARK r.unit c))
    | _ => decide (off = SCH_TICK) || decide (off = GLB_PORT_STATUS)

/-- A memory address whose contents a device reset keeps (R294, R400). -/
def keptAddr (a : Nat) : Bool := decide (0x4000000 ≤ a) && inPasture a

/-- The state after a device reset (R294, R400). The rails stay good and the PLLs locked (log 63). -/
def afterReset (s : State) : State :=
  let f := State.fresh s.grade
  let t : State := { f with
    pending := s.pending, free := s.free, sram := s.sram, mram := s.mram, logClosed := s.logClosed, flush := s.flush,
    flushes := s.flushes, mgt := s.mgt, sysRst := s.sysRst, released := s.released, powerFailed := s.powerFailed, answer := s.answer,
    msix := s.msix, ports := s.ports, thermTrip := s.thermTrip, vioDown := s.vioDown, hostOut := s.hostOut, lineOut := s.lineOut,
    regs := s.regs.filter (fun r => keptReg r.1),
    mem := s.mem.filter (fun c => keptAddr c.1),
    atomErrs := s.atomErrs.filter (fun a => keptAddr (a.1 * 64)),
    stamp := s.stamp + 1 }
  (t.setFld PWR_STATUS PWR_STATUS_rails_good (s.fld PWR_STATUS PWR_STATUS_rails_good)).setReg CLK_STATUS (s.reg CLK_STATUS)

/-- A device reset by a master class, or by SYS_RST_N as class 0xFF (R400). The reset waits for a fuse step that is being blown
(R444). -/
def deviceReset (cls : Nat) (s : State) : State :=
  if s.sec.blow.isSome then { s with sec := { s.sec with heldReset := some cls } }
  else requestFlush 4 (afterReset (s.log 0x8102 0 5 cls (s.fld STR_EPOCH STR_EPOCH_current) 0 0))

/-- The TAP instructions that need SYS_RST_N low (R481). -/
def needsReset (op : Nat) : Bool := [0x00, 0x04, 0x05, 0x06, 0x07].contains op

/-- SYS_RST_N changes (R475, R481). -/
def sysReset (low : Bool) (s : State) : State :=
  if low then (if s.sysRst then s else deviceReset 0xFF { s with sysRst := true })
  else
    let t := if needsReset s.mgt.tap then 1 else s.mgt.tap
    { s with sysRst := false, mgt := { s.mgt with tap := t } }

/-- The registers that last without power (R431, R441): the MRAM's and the fuses. -/
def lastingReg (off : Nat) : Bool := [LOG_MRAM_HEAD, LOG_POWER_CYCLES, LOG_HOURS, LOG_MS, SEC_FUSE].contains off

/-- POWER_ON: the always-on domain leaves power-on reset and counts the power cycle (R431, R455). -/
def powerOn (s : State) : State :=
  let f := State.fresh s.grade
  let t : State := { f with
    pending := s.pending, free := s.free, mram := s.mram, sysRst := s.sysRst, msix := s.msix, hostOut := s.hostOut, lineOut := s.lineOut,
    answer := s.answer, ports := [0, 1].foldl (fun l p => spSet (fun _ => ({} : PortCfg)) l p { low := (s.port p).low }) []
    regs := s.regs.filter (fun r => lastingReg r.1) }
  (t.setReg MGT_STATUS mgtStrapped).wide LOG_POWER_CYCLES 1

/-- FUSE_STEP_BLOWN: the step is recorded; a reset that waited follows, which ends the command; else the next step begins, or the
command completes (R444). -/
def fuseStep (s : State) : State :=
  match s.sec.blow with
  | none => s
  | some t =>
    let old := svnFloor s
    let s1 := (s.setFld SEC_FUSE SEC_FUSE_svn_floor (old + 1)).log 0x3003 0 0 old (old + 1) (s.sec.fwSvn.getD 0xFF) 0
    match s1.sec.heldReset with
    | some cls => deviceReset cls { s1 with sec := { s1.sec with blow := none, heldReset := none } }
    | none =>
      if old + 1 < t then s1
      else mailboxDone 0x10 (0, [], ({ s1 with sec := { s1.sec with blow := none } } : State).setFld SEC_STATUS SEC_STATUS_busy 0)

end Sys2Proof.Machine
end

