-- ==== Sys2Proof/Machine/Manage.lean ====
section
/-! DEFINITION. The management sideband and the test access port (20_package_and_management R475 to R482), and the transports of
attestation beside the SEC mailbox (18_security R448 to R451). -/

namespace Sys2Proof.Machine

/-! ### The bus (R476) -/

/-- The mode that a bus fixes: 1 I3C, 2 SMBus. -/
def busMode (b : Bus) : Nat := if b.smbus then 2 else 1

/-- The answer to an MCTP message leaves in packets of the baseline transmission unit, 64 bytes (R477), and is counted. -/
def mctpReply (b : List Byte) (s : State) : State :=
  let t := (s.wide MGT_MESSAGES 1).reply b
  { t with mgt := { t.mgt with packets := chunksOf 64 b } }

/-- The answer to a control or PLDM command: the command's number in the model and the values that the manual states (log 64). -/
def mctpSay (cmd : Nat) (vals : List Nat) (s : State) : State := mctpReply (Config.sidebandBody cmd vals) s

/-- A malformed message, or one of an unsupported type, is flagged; it is answered too (R477, R482, log 64). -/
def mctpBad (cmd : Nat) (s : State) : State := mctpSay cmd [] (s.flag MGT_ERR MGT_ERR_malformed)

/-- Whether a transfer carries a message of a type that the device does not support (R477). -/
def strangeMsg (b : Bus) : Bool := b.mty.any (fun t => !([0x00, 0x01, 0x7E].contains t))

/-- A sideband transfer: nothing is seen of it once VIO has fallen (R475); the first one after power-on fixes the mode, one of the other
mode is not seen, one that fails its PEC or parity is discarded (R476, R482); a message of an unsupported type is flagged (R477). -/
def sideband (b : Bus) (f : State → State) (s : State) : State :=
  let now := s.fld MGT_STATUS MGT_STATUS_mode
  if s.vioDown || decide (now ≠ 0 ∧ now ≠ busMode b) then s
  else
    let s1 := s.setFld MGT_STATUS MGT_STATUS_mode (busMode b)
    if !b.good then s1.flag MGT_ERR MGT_ERR_pec else if strangeMsg b then mctpBad 0 s1 else f s1

/-- SB_ALERT_N is pulled low (R476). -/
def sbAlert (s : State) : Bool :=
  decide (s.fld MGT_STATUS MGT_STATUS_mode = 2) &&
    (s.bit MGT_ERR MGT_ERR_refused || s.bit MGT_ERR MGT_ERR_malformed || s.bit MGT_ERR MGT_ERR_pec || s.bit THM_STATUS THM_STATUS_tripped)

/-- SETDASA, addressed by the static address: the controller gives a dynamic address (R476, log 153). -/
def setDasa (a : Nat) (s : State) : State := s.setFld MGT_STATUS MGT_STATUS_dyn_addr a

/-- ENTDAA: the controller gives a dynamic address (R476). -/
def entDaa (a : Nat) (s : State) : State := s.setFld MGT_STATUS MGT_STATUS_dyn_addr a

/-- The Alert Response Address is answered with the device's address while it alerts (R476). -/
def alertResponse (s : State) : State :=
  if sbAlert s then s.reply (leBytes 1 (s.fld MGT_STATUS MGT_STATUS_static_addr * 2)) else s

/-! ### MCTP control and PLDM (R477, R478) -/

/-- SET_ENDPOINT_ID: 0 and 0xFF are no endpoint ids (DSP0236, log 153). -/
def setEid (eid : Nat) (s : State) : State :=
  if eid % 256 = 0 ∨ eid % 256 = 0xFF then mctpBad 1 s else mctpSay 1 [eid % 256] (s.setFld MGT_STATUS MGT_STATUS_eid eid)

/-- GET_ENDPOINT_ID. -/
def getEid (s : State) : State := mctpSay 2 [s.fld MGT_STATUS MGT_STATUS_eid] s

/-- GET_MCTP_VERSION_SUPPORT of a message type, or, by 0xFF, of the base specification (DSP0236, log 153). -/
def getMctpVersion (ty : Nat) (s : State) : State := if [0x00, 0x01, 0x7E, 0xFF].contains ty then mctpSay 4 [ty] s else mctpBad 4 s

/-- GET_MESSAGE_TYPE_SUPPORT: types 0x00, 0x01 and 0x7E (R477). -/
def getMessageTypes (s : State) : State := mctpSay 5 [0x00, 0x01, 0x7E] s

/-- GET_VENDOR_DEFINED_MSG_SUPPORT: the Barvos Vendor ID is the one vendor (R477). -/
def getVendorSupport (sel : Nat) (s : State) : State := if sel = 0 then mctpSay 6 [Config.vendorId.toNat] s else mctpBad 6 s

/-- GETTID. -/
def getTid (s : State) : State := mctpSay 0x102 [] s

/-- GETPLDMVERSION of a type: 0 and 2 are supported (R478). -/
def getPldmVersion (ty : Nat) (s : State) : State := if ty = 0 ∨ ty = 2 then mctpSay 0x103 [ty] s else mctpBad 0x103 s

/-- GETPLDMTYPES (R478). -/
def getPldmTypes (s : State) : State := mctpSay 0x104 [0, 2] s

/-- GETPLDMCOMMANDS of a type: the commands of R478 by the model's numbers. -/
def getPldmCommands (ty : Nat) (s : State) : State :=
  if ty = 0 then mctpSay 0x105 [0x102, 0x103, 0x104, 0x105] s
  else if ty = 2 then mctpSay 0x105 [0x204, 0x211, 0x221, 0x250, 0x251] s else mctpBad 0x105 s

/-- The readings of the numeric sensors, in the order of R478: the hottest sensor of each of the four dies, each present stack's
temperature, package power, the cap in force. -/
def numericSensors (s : State) : List Nat :=
  ([(0, 24), (24, 24), (48, 8), (56, 8)].map (fun p => sensorTemp s (hottest s (rangeFrom p.1 p.2)))) ++
    ((presentStacks s).map (fun p => s.fld (MEM_STATUS p) MEM_STATUS_temp)) ++
    [s.fld PWR_POWER PWR_POWER_mw, s.fld PWR_STATUS PWR_STATUS_cap_w]

/-- The readings of the four state sensors (R478). -/
def stateSensors (s : State) : List Nat :=
  [b2n (s.bit THM_STATUS THM_STATUS_tripped), b2n s.powerFailed, s.fld PWR_STATUS PWR_STATUS_rails_good, fwState s]

/-- Records of the PDR repository: one per sensor (R478). -/
def pdrCount (s : State) : Nat := (numericSensors s).length + 4

/-- GETPDRREPOSITORYINFO. -/
def getPdrInfo (s : State) : State := mctpSay 0x250 [pdrCount s] s

/-- GETPDR of a record. -/
def getPdr (n : Nat) (s : State) : State := if n < pdrCount s then mctpSay 0x251 [n, pdrCount s] s else mctpBad 0x251 s

/-- GETSENSORREADING of a numeric sensor. -/
def getSensor (n : Nat) (s : State) : State :=
  match (numericSensors s)[n]? with
  | some v => mctpSay 0x211 [n, v] s
  | none => mctpBad 0x211 s

/-- GETSTATESENSORREADINGS of a state sensor. -/
def getStateSensor (n : Nat) (s : State) : State :=
  match (stateSensors s)[n]? with
  | some v => mctpSay 0x221 [n, v] s
  | none => mctpBad 0x221 s

/-- SETEVENTRECEIVER: events are sent while a receiver is set (R478). -/
def setReceiver (r : Option Nat) (s : State) : State := mctpSay 0x204 r.toList { s with mgt := { s.mgt with receiver := r } }

/-! ### Vendor messages (R450, R479, R480) -/

/-- A vendor message's answer in the header format of R449; one that is answered MALFORMED is flagged (R482). -/
def vendorReply (code status : Nat) (body : List Byte) (s : State) : State :=
  mctpReply (secMessage code status body) (if status = 0x02 then s.flag MGT_ERR MGT_ERR_malformed else s)

/-- A management command answered FROZEN. -/
def vendorRefused (code : Nat) (s : State) : State := vendorReply code 0x05 [] (s.flag MGT_ERR MGT_ERR_refused)

/-- Whether the units are held in reset: before the rails are good, and by SYS_RST_N (R455, R475). -/
def heldInReset (s : State) : Bool := !s.released || s.sysRst

/-- FORCE_OWNER of a port (R368, R479, R480). Port 0 stays the owner while the device is held in reset (R400, log 153). -/
def forceOwner (port : Nat) (s : State) : State :=
  if !s.bit MGT_CFG MGT_CFG_sb_control then vendorRefused 0x20 s
  else if 2 ≤ port then vendorReply 0x20 0x02 [] s
  else vendorReply 0x20 0 [] (if heldInReset s then s else changeOwner s port 2)

/-- THAW (R429, R479). -/
def sidebandThaw (cls sub : Nat) (all : Bool) (s : State) : State :=
  if !s.bit MGT_CFG MGT_CFG_sb_control then vendorRefused 0x21 s else vendorReply 0x21 0 [] (s.thaw all cls sub 0xFF)

/-- Whether a register belongs to the always-on domain: the LOG, MGT and THM blocks and SCH_TICK (R479). -/
def alwaysOn (off : Nat) : Bool :=
  let within (a b : Nat) : Bool := decide (a ≤ off) && decide (off < b)
  within 0x200000 0x400000 || within 0x3020000 0x3030000 || within 0x3800000 0x4000000 || within SCH_TICK (SCH_TICK + 8)

/-- READ_REG (R479). -/
def sidebandRead (off : Nat) (s : State) : State :=
  if (s.bit THM_STATUS THM_STATUS_tripped || s.powerFailed) && !alwaysOn off then vendorReply 0x22 0x07 (leBytes 8 0) s
  else vendorReply 0x22 0 (readRegs s off 8) (rouseRead s off 8)

/-! ### Attestation and unlocking by their transports (R448 to R451) -/

/-- Whether a port's DOE mailbox answers: the units run (R455, R465), and the port is not in reset (R475). -/
def doeAnswers (port : Nat) (s : State) : Bool := decide (port < 2) && s.live && !portOff s port

/-- An attestation message by a transport beside the mailbox: DOE of a port, or the sideband. Test access carries none. -/
def attestBy (via : Via) (code arg : Nat) (nonce : List Byte) (s : State) : State :=
  let go (f : Nat → List Byte → State → State) (s : State) : State :=
    let (st, b, s1) := attest code arg nonce s
    f st b s1
  match via with
  | .doe port => if doeAnswers port s then go (fun st b s => s.reply (secMessage code st b)) s else s
  | .sideband bus => sideband bus (go (vendorReply code)) s
  | _ => s

/-- An unlock message by SEC_ACCESS; a DOE or a sideband message of its code is answered MALFORMED (R449, R451). -/
def unlockBy (via : Via) (code : Nat) (r : State → Nat × List Byte × State) (s : State) : State :=
  match via with
  | .tap =>
    if s.mgt.tap = 0x40 then
      let (st, b, s1) := r s
      s1.reply (secMessage code st b)
    else s
  | .doe port => if doeAnswers port s then s.reply (secMessage code 0x02 []) else s
  | .sideband bus => sideband bus (vendorReply code 0x02 []) s
  | .mailbox _ _ => s

/-- DOE_DISCOVERY: entry 0 is type 0x00 under the PCI-SIG Vendor ID, entry 1 type 0x01 under the Barvos Vendor ID (R450, log
64). -/
def doeDiscovery (port index : Nat) (s : State) : State :=
  if !doeAnswers port s then s
  else if index = 0 then s.reply (leBytes 2 0x0001 ++ leBytes 1 0x00 ++ leBytes 1 1)
  else s.reply (leBytes 2 Config.vendorId.toNat ++ leBytes 1 0x01 ++ leBytes 1 0)

/-! ### The test access port (R481) -/

/-- The TAP instructions that select the boundary register and capture the contacts in it (R481). -/
def capturing (op : Nat) : Bool := [0x00, 0x02, 0x06, 0x07].contains op

/-- An instruction is loaded; outside its condition it acts as BYPASS (R481). What the boundary register captures, and what is then shifted
into it, comes from the contacts and the test port's host: a free value (log 153). -/
def tapLoad (op : Nat) (s : State) : State :=
  let held := if needsReset op && !s.sysRst then 0xFF else op
  if capturing held then
    let (w, s1) := s.drawWord
    { s1 with mgt := { s1.mgt with tap := held, boundary := w } }
  else { s with mgt := { s.mgt with tap := held } }

/-- IDCODE is selected, and its register reads 0x1465_8B47 (R481). -/
def tapIdcode (s : State) : State := (tapLoad 0x01 s).reply (leBytes 4 0x14658B47)

/-- TAP_RESET selects IDCODE (R481). -/
def tapReset (s : State) : State := { s with mgt := { s.mgt with tap := 0x01 } }

end Sys2Proof.Machine
end

