-- ==== Sys2Proof/Machine/RegWrite.lean ====
section
/-! DEFINITION. Writes of registers by a master (00_scope R7, R8, R10; 14_host_interface R363, R367): the access checks, the action
of each register that is more than storage, and the restore block that the control kernel adopts (16_failure_and_replay
R409). -/

namespace Sys2Proof.Machine

/-! ### Which master may write (R367, R401) -/

/-- Whether a register is written by the privileged port and the control cores alone (R351, R367, R398, R401, R453, R482). -/
def privReg (r : RegAt) : Bool :=
  match r.blk with
  | .hmn => true
  | .sec => true
  | .str => decide (r.desc.off = 0x0) || decide (r.desc.off = 0x8) || decide (r.desc.off = 0x28)
  | .schd => decide (r.desc.off = 0x8) || decide (r.desc.off = 0x18)
  | .que => decide (r.desc.off = 0x30)
  | .mgt => decide (r.desc.off = 0x8)
  | _ => false

/-- Whether a master may not write a register: a privileged one, one of a queue pair bound to the other port, one of another
control core, kernel_ready (R367, R399, R401). -/
def barred (s : State) (m : Mst) (r : RegAt) : Bool :=
  if privReg r then !privileged s m
  else match r.blk with
    | .que => decide (m.cls < 2) && boundElsewhere s m.cls r.unit
    | .schc => decide (m ≠ ctrlMst r.unit)
    | _ => false

/-- Whether a write of some bytes touches a register that the master may not write; the check applies to writes that R7
discards, too. -/
def writeBarred (s : State) (m : Mst) (off n : Nat) : Bool :=
  (rangeFrom off n).any (fun a => (regHolding a).any (barred s m) || (inSecWindow (a / 8 * 8) && !privileged s m))

/-! ### Registers of the units -/

/-- COR_CTRL (R46, R483): clear_counts in every combination; abort before halt before resume. -/
def corCtrl (c : Nat) (v : Word) (s : State) : State :=
  let s1 := if fbit COR_CTRL_clear_counts v then
    [COR_SPARSE_OVERFULL c, COR_SPARSE_PRUNED c, COR_INDEX_DROPPED c].foldl State.clearCount s else s
  if fbit COR_CTRL_abort v then abortCore c s1
  else if fbit COR_CTRL_halt v then s1.coreHalt c
  else if fbit COR_CTRL_resume v then s1.coreResume c else s1

/-- Whether a core is idle or halted (R39, R65); a core in holiday counts as what it was (R19). -/
def corQuiet (s : State) (c : Nat) : Bool :=
  let k := s.core c
  let st := if k.state = .holiday then k.slept else k.state
  decide (st = .idle) || decide (st = .halted)

/-- COR_MODE and the limit of a tally (R39, R65). -/
def corQuietWrite (c : Nat) (f : State → State) (s : State) : State :=
  if corQuiet s c then f s else s.flag (COR_ERR c) COR_ERR_busy_write

/-- COR_NAN_FIRST: a 1 clears the record and arms it (R160). -/
def nanClear (c : Nat) (v : Word) (s : State) : State :=
  if fbit COR_NAN_FIRST_valid v then (s.setReg (COR_NAN_FIRST c) 0).setReg (COR_NAN_FIRST_ADDR c) 0 else s

/-- COR_ARR_CTRL (R137). -/
def arrCtrl (c : Nat) (v : Word) (s : State) : State :=
  if fbit COR_ARR_CTRL_clear_counts v then
    [COR_ARR_TILES_SPARSE c, COR_ARR_TILES_DENSE c, COR_ARR_ROWS_MASKED c, COR_ARR_STEAL_CHUNKS c].foldl State.clearCount s
  else s

/-- A control register with halt, resume and abort, in the combinations of R483; clear_counts in every one. -/
def unitCtrl (v : Word) (clear abort halt resume : State → State) (s : State) : State :=
  let s1 := if bitOf v.toNat 3 then clear s else s
  if bitOf v.toNat 2 then abort s1 else if bitOf v.toNat 0 then halt s1 else if bitOf v.toNat 1 then resume s1 else s1

/-- Whether a Drover takes configuration writes: its state reads idle or halted, or would if it were not at rest (R222, log 66). -/
def drvQuiet (s : State) (d : Nat) : Bool :=
  let st := droverCode { s.drover d with rest := 0 }
  decide (st = 0) || decide (st = 3)

/-- A configuration write of a Drover (R222). -/
def drvConfig (d : Nat) (f : State → State) (s : State) : State :=
  if drvQuiet s d then f s else s.flag (DRV_ERR d) DRV_ERR_busy_write

/-- DRV_SHARE_CFG.lanes_own (R222). -/
def drvShare (d : Nat) (v : Word) (s : State) : State :=
  let n := fget DRV_SHARE_CFG_lanes_own v
  if drShared s d && decide (8 ≤ n) && decide (n ≤ 56) && decide (n % 8 = 0) then s.setFld (DRV_SHARE_CFG d) DRV_SHARE_CFG_lanes_own n else s

/-- DRV_STAGING_CFG: the hash area and the slots must fit (R222). -/
def drvStaging (d : Nat) (v : Word) (s : State) : State :=
  let h := fget DRV_STAGING_CFG_hash_units v
  let u := fget DRV_STAGING_CFG_slot_units v
  if 512 < h + (if drShared s d then 6 else 3) * u then s.flag (DRV_ERR d) DRV_ERR_busy_write
  else s.setReg (DRV_STAGING_CFG d) (fset DRV_STAGING_CFG_slot_units u <| fset DRV_STAGING_CFG_hash_units h 0)

/-- A field whose named values are ignored keeps what it holds; the register's other fields are written (R222, R244, R321, R341,
log 65). -/
def writeOr (off : Nat) (f : Fld) (ok : Nat → Bool) (d : RDesc) (v : Word) (s : State) : State :=
  let old := s.reg off
  let v1 := if ok (fget f v) then v else fset f (fget f old) v
  s.setReg off (writeFields true v1 d old)

/-- Whether COL_SEED and COL_STEP may be written: no ROLL is pending and no collective accepted and not complete (R341). -/
def colQuiet (s : State) : Bool :=
  decide (s.roll.waiting = []) && [0, 1].all (fun n => decide ((s.engine n).active = []) && decide ((s.engine n).inbox = []))

/-- Every present Drover sees the step counter as it now is (R222). -/
def droversSee (s : State) : State :=
  (rangeFrom 0 4).foldl (fun s d =>
    if s.has .drover d then setTopo (s.setFld (DRV_STATUS d) DRV_STATUS_step_low ((s.reg COL_STEP).toNat % 2 ^ 32)) d else s) s

/-- A write of COL_SEED or COL_STEP (R341). -/
def colWrite (off : Nat) (v : Word) (s : State) : State :=
  if colQuiet s then (if off = COL_STEP then droversSee (s.setReg off v) else s.setReg off v) else s.flag COL_ERR COL_ERR_busy_write

/-- A configuration write of the recorder (R418). -/
def recWriteReg (off : Nat) (d : RDesc) (v : Word) (s : State) : State :=
  if recState s ≠ 0 then s.flag REC_ERR REC_ERR_busy_write
  else if off = REC_CFG then
    recStart (decide (fget REC_CFG_mode v = 2)) (writeOr off REC_CFG_mode (fun m => decide (m ≠ 3)) d v s)
  else if off = REC_BASE then writeOr off REC_BASE_size_gib (fun g => decide (1 ≤ g) && decide (g ≤ 16)) d v s
  else recStart false (s.setReg off (writeFields true v d (s.reg off)))

/-- A configuration write of EMB while every present applier is idle (R272). -/
def embConfig (off : Nat) (d : RDesc) (v : Word) (s : State) : State :=
  if (presentStacks s).all (fun p => decide (s.fld (EMB_STATUS p) EMB_STATUS_state = 0)) then
    s.setReg off (writeFields true v d (s.reg off))
  else s.flag EMB_ERR EMB_ERR_busy_write

/-- HMN_WIN_WRITE: the staged words become a window (R427). -/
def hmnWinWrite (v : Word) (s : State) : State :=
  let c := fget HMN_WIN_WRITE_class v
  if 138 < c then s
  else (rangeFrom 0 4).foldl (fun s k => s.setWin c (fget HMN_WIN_WRITE_index v) k (s.reg (HMN_WIN_STAGE k))) s

/-- HMN_THAW (R429). -/
def hmnThaw (m : Mst) (v : Word) (s : State) : State :=
  s.thaw (fbit HMN_THAW_all v) (fget HMN_THAW_class v) (fget HMN_THAW_sub v) m.cls

/-- LOG_CTRL (R436, R440). -/
def logCtrl (v : Word) (s : State) : State :=
  let s1 := if fbit LOG_CTRL_clear_counts v then logClear s else s
  if fbit LOG_CTRL_flush v then requestFlush 3 s1 else s1

/-- SCH_ACK of control core c (R391 to R393). -/
def schAck (c : Nat) (v : Word) (s : State) : State :=
  match fget SCH_ACK_action v with
  | 0 => s
  | 1 => schTake c s
  | 2 => schDone c s
  | _ => schYield c s

/-! ### The restore block (R409) -/

/-- Where the restore block lies. -/
abbrev restoreAt : Nat := 0x2000000

/-- The entries of a restore block as regions, if it is valid. -/
def restoreRegions (s : State) : Option (List Region) :=
  if s.num restoreAt 4 ≠ 0x54534552 then none
  else
    let n := s.num (restoreAt + 4) 4
    let b := s.bytes (restoreAt + 16) (32 * min n 65536)
    if s.num (restoreAt + 8) 4 = crc32c b ∧ s.num (restoreAt + 12) 4 = 0 ∧ n ≤ 65536 then some ((chunksOf 32 b).map regionOf) else none

/-- Adopt regions at their recorded bases (R409). -/
def adopt (s : State) (l : List Region) : State :=
  l.foldl (fun s r => (putRegions s (pastureOf r.base) (regionInsert r (regions s (pastureOf r.base)))).2) s

/-- The control kernel starts: a valid restore block is adopted and its magic zeroed; one that fails its check is recorded as
0x8103. The manual states no parameters for it: free values (R409, log 3). -/
def kernelStart (s : State) : State :=
  let (ue, s1) := s.touch [(restoreAt, 16)]
  if !ue && decide (s.num restoreAt 4 ≠ 0x54534552) then s1
  else
    let (ue2, s2) := s1.touch [(restoreAt + 16, 32 * min (s.num (restoreAt + 4) 4) 65536)]
    match (if ue || ue2 then none else restoreRegions s) with
    | some l => ((adopt s2 l).writeMem restoreAt (leBytes 4 0)).2
    | none => s2.logFree 0x8103 0 5

/-- A write of SCH_FW_STATUS by a control core: kernel_ready, after the restore block has been adopted (R399, R409). -/
def kernelReady (m : Mst) (v : Word) (s : State) : State :=
  if m.cls ≠ 138 then s
  else
    let on := fbit SCH_FW_STATUS_kernel_ready v
    let s1 := if on && !s.bit SCH_FW_STATUS SCH_FW_STATUS_kernel_ready then kernelStart s else s
    s1.setFld SCH_FW_STATUS SCH_FW_STATUS_kernel_ready (b2n on)

/-! ### The write -/

/-- Whether the register stores what its fields take, and nothing more; `none` where it does, else its action. -/
def regAction (m : Mst) (r : RegAt) (off : Nat) (v : Word) : Option (State → State) :=
  let n := r.unit
  match r.blk, r.desc.off with
  | .glb, 0x48 => some (privOffer m v)
  | .glb, 0x50 => some (privAccept m v)
  | .hmn, 0x0 => some (fun s => if fbit HMN_CTRL_clear_counts v then s.clearCount HMN_VIOLATIONS else s)
  | .hmn, 0x20 => some (hmnThaw m v)
  | .hmn, 0x120 => some (hmnWinWrite v)
  | .hmn, 0x128 => if 138 < fget HMN_WIN_SEL_class v then some id else none
  | .log, 0x0 => some (logCtrl v)
  | .log, 0x100 => if 16 < fget ⟨52, 48⟩ v then some id else none
  | .str, 0x0 => some (strStage v)
  | .str, 0x8 => some (strCommit v)
  | .que, 0x0 => some (queBase n off v)
  | .que, 0x8 => some (queBase n off v)
  | .que, 0x10 => some (queCfg n v)
  | .que, 0x30 => some (fun s => if fbit QUE_CTRL_thaw v then queueThaw n m.cls s else s)
  | .cor, 0x8 => some (corCtrl n v)
  | .cor, 0x18 => some (corQuietWrite n (fun s => s.setReg off (writeFields true v r.desc (s.reg off))))
  | .cor, 0x50 => some (fun s => s.coreRetire n (fget COR_RETIRE_generation v))
  | .cor, 0x68 => some (nanClear n v)
  | .cor, 0x100 => some (corQuietWrite n (fun s => s.setReg off (writeFields true v r.desc (s.reg off))))
  | .cor, 0x10018 => some (arrCtrl n v)
  | .drv, 0x8 => some (unitCtrl v (drClear n) (drAbort n) (drHalt n) (drResume n))
  | .drv, 0x18 => some (writeOr off DRV_SPEC_CFG_depth (fun d => decide (d ≠ 3)) r.desc v)
  | .drv, 0x20 => some (drvConfig n (drvShare n v))
  | .drv, 0x28 => some (drvConfig n (drvStaging n v))
  | .drv, 0x70 => some (drvConfig n (fun s => setTopo (s.setReg off (writeFields true v r.desc (s.reg off))) n))
  | .mem, 0x10008 => some (fun s => if fbit NSR_CTRL_clear_pop v then clearPop n s else s)
  | .mem, 0x10010 => some (writeOr off NSR_CFG_mode (fun d => decide (d ≠ 3)) r.desc v)
  | .mem, 0x8 => some (fun s =>
      let s1 := if fbit MEM_CTRL_clear_counts v then memClear n s else s
      if fbit MEM_CTRL_scrub_now v then scrubNow n s1 else s1)
  | .mem, 0x100 => some (markWrite n r.idx v)
  | .sram, 0x0 => some (fun s => if fbit MEM_SRAM_CTRL_clear_counts v then sramClear s else s)
  | .lnk, 0x8 => some (fun s =>
      let s1 := if fbit LNK_CTRL_clear_counts v then lnkClear s n else s
      if fbit LNK_CTRL_retrain v then retrain s1 n else s1)
  | .lnk, 0x18 => some (fun s => linkCommit n (writeFields true v r.desc (s.reg off)) s)
  | .lnk, 0x20 => some (writeOr off LNK_RETRY_CFG_deadline_ns (fun d => decide (500 ≤ d) && decide (d ≤ 1000)) r.desc v)
  | .col, 0x0 => some (colWrite off v)
  | .col, 0x8 => some (colWrite off v)
  | .col, 0x50 => some (fun s => if fbit COL_CTRL_clear_counts v then colClear s else s)
  | .eng, 0x8 => some (unitCtrl (v &&& 7) id (engAbort n) (engHalt n) (engResume n))
  | .rcd, 0x0 => some (fun s =>
      let s1 := if fbit REC_CTRL_clear_counts v then recClear s else s
      if fbit REC_CTRL_abort v then recAbort s1 else s1)
  | .rcd, 0x8 => some (recWriteReg off r.desc v)
  | .rcd, 0x10 => some (recWriteReg off r.desc v)
  | .rcd, 0x18 => some (recWriteReg off r.desc v)
  | .trh, 0x8 => some (unitCtrl v (trClear n) (fun s => rollRetry (trAbort n s)) (trHalt n) (trResume n))
  | .trh, 0x20 => if 4096 < fget TRH_LIMITS_max_rows v then some (fun s => s.flag (TRH_ERR n) TRH_ERR_busy_write) else none
  | .trh, 0x30 => some (fun s => beginReclass n (s.setReg off v))
  | .emb, 0x0 => some (fun s => if fbit EMB_CTRL_clear_counts v then embClear s else s)
  | .emb, 0x10 => some (embConfig off r.desc v)
  | .emb, 0x100 => some (embConfig off r.desc v)
  | .schf, 0x38 => some (fun s => if fbit SCH_CTRL_clear_counts v then schClear n s else s)
  | .schf, 0x100 => some (fun s => schSettle n (s.setReg off (writeFields true v r.desc (s.reg off))))
  | .schd, 0x8 => some (fwLoad v)
  | .schd, 0x10 => some (kernelReady m v)
  | .schd, 0x18 => some (fun s => if fget SCH_RESET_key v = 0xC0DE0001 then deviceReset m.cls s else s)
  | .schc, 0x8 => some (schPost n v)
  | .schc, 0x28 => some (schAck n v)
  | .schc, 0x30 => some (schCancel n v)
  | .pwr, 0x0 => some (standbyWrite v)
  | .clk, 0x100 => some (writeOr off ⟨4, 0⟩ (fun d => decide (8 ≤ d) && decide (d ≤ 21)) r.desc v)
  | .thm, 0x0 =>
    let a := fget THM_CFG_alert v
    let h := fget THM_CFG_hyst v
    let t := fget THM_CFG_throttle v
    if 70 ≤ a ∧ a ≤ 105 ∧ 1 ≤ h ∧ h ≤ 15 ∧ 80 ≤ t ∧ t ≤ 100 then none else some id
  | .sec, 0x8 => some (secCommand v)
  | _, _ => none

/-- Whether RWL fields are locked: from the first accepted STR_COMMIT on (R8). -/
def rwlShut (s : State) : Bool := s.committed || s.str.next.isSome

/-- A write to an RWL register after the first commit is ignored and recorded (R8, R357). -/
def rwlLocked (m : Mst) (off : Nat) (s : State) : State :=
  (s.flag STR_ERR STR_ERR_rwl_locked).log 0x8802 0 3 off m.cls (s.fld STR_EPOCH STR_EPOCH_current) 0

/-- What a write of a register at its own address and width does to a unit that is awake (R7, R8). A write of LNK_DEVICE_ID before
the first commit is stored as of any RWL field, and the device id stays 0x0000 until that commit (R26, R314, log 127). -/
def regStore (m : Mst) (r : RegAt) (off : Nat) (v : Word) (s : State) : State :=
  if r.desc.hasRwl && rwlShut s then rwlLocked m off s
  else match regAction m r off v with
    | some f => f s
    | none => s.setReg off (writeFields true v r.desc (s.reg off))

/-- A write of a register at its own address and width: ignored at an absent unit (R3), and a unit at rest wakes first (R19, log 142). In
standby it is held, and its master presents it again (R459). -/
def regWrite (m : Mst) (r : RegAt) (off : Nat) (v : Word) (s : State) : State :=
  if !blkPresent s.grade r || (atRest r s && s.bit PWR_STATUS PWR_STATUS_standby) then s else regStore m r off v (rouseReg r s)

/-- A write of bytes at an offset of the register space by a master whose windows permit it: the privilege checks, then the
register (R7, R367). -/
def mmioWrite (m : Mst) (off : Nat) (bs : List Byte) (s : State) : State :=
  if writeBarred s m off bs.length then s.violateAddr m 0x1006 kMmio (s.gaddr (mmioBase + off))
  else if inSecWindow off && decide (bs.length = 8) then secWindowWrite ((off - 0x3402000) / 8) (BitVec.ofNat 64 (leNat bs)) s
  else match regAt off with
    | none => s
    | some r => if bs.length * 8 = r.desc.width then regWrite m r off (BitVec.ofNat 64 (leNat bs)) s else s

/-- Whether the frozen direct path of a port still accepts a write (R429): HMN_THAW and HMN_CTRL. -/
def thawPath (off : Nat) : Bool := decide (off = HMN_THAW) || decide (off = HMN_CTRL)

/-- Whether a frozen master's write of the register space is dropped: the direct path of a host port (R428, R429). -/
def pathFrozen (s : State) (m : Mst) (off : Nat) : Bool := decide (m.sub = 0x3FFF) && decide (m.cls < 2) && s.isFrozen m && !thawPath off

/-- Whether a master can make no request at all: a control core that is held in reset, frozen, or in a complex that is cut, and a host
beyond a port in reset (R398, R428, R456, R475). -/
def mute (s : State) (m : Mst) : Bool :=
  (decide (m.cls = 138) && (decide (fwState s ≠ 3) || s.isFrozen m || (s.sched (m.sub / 2)).cut)) || (decide (m.cls < 2) && portOff s m.cls)

/-- A write of the register space by a master, through BAR0 or the MMIO mirror: a master that can make none, the frozen direct path,
the Hall monitor, the write (R363, R425, R428). -/
def busWrite (m : Mst) (off : Nat) (bs : List Byte) (s : State) : State :=
  if mute s m then s
  else if pathFrozen s m off then s.frozenCommand m 0x05
  else if !inMmio (mmioBase + off) then s
  else if !permitted s m.cls s.devId (mmioBase + off) bs.length kMmio then
    s.violateAddr m 0x1001 kMmio (s.gaddr (mmioBase + off))
  else mmioWrite m off bs s

/-- A write of a register at its own address and width. -/
def writeOwn (m : Mst) (off v : Nat) (s : State) : State := busWrite m off (leBytes (regBytes off) v) s

/-! ### Requests of a local master (R22, R425) -/

/-- A write of local memory or of the MMIO mirror by a local master; `passed` as in `localStoreAs`. -/
def localWriteAs (passed : Bool) (m : Mst) (a : Nat) (bs : List Byte) (s : State) : Access :=
  if inMmio a then
    let n := bs.length
    if gated s m then .held
    else if !mapped s a n then .bad 0x1002 (s.violateAddr m 0x1002 (reqKind a true) (s.gaddr a))
    else if !permitted s m.cls s.devId a n (reqKind a true) then
      .bad 0x1001 (s.violateAddr m 0x1001 (reqKind a true) (s.gaddr a))
    else .done [] false (mmioWrite m (a - mmioBase) bs s)
  else localStoreAs passed m a bs s

/-- A write by a local master that makes its request now. -/
def localWrite (m : Mst) (a : Nat) (bs : List Byte) (s : State) : Access := localWriteAs false m a bs s

end Sys2Proof.Machine
end

