-- ==== Sys2Proof/Machine/CoreIssue.lean ====
section
/-! DEFINITION. How a context issues an instruction, how a running instruction goes on, and the memory accesses of the
A-stream (02_compute_core R29 to R46, 03_instruction_set R70 to R101). -/

namespace Sys2Proof.Machine

/-! ### Issue (R83 to R86, R101) -/

/-- The staged block of a position becomes the most recently used (R43): staged blocks stand least recently used first. -/
def touchBlock (x : Bool) (pos : Nat) (k : Core) : Core :=
  match k.blockAt x pos with
  | none => k
  | some b =>
    let l := (k.staged x).erase b ++ [b]
    if x then { k with stagedX := l } else { k with stagedA := l }

/-- An issue of the instruction with an opcode by a context. The context's next instruction comes from a block that has
passed its check; another valid instruction is left to its own event; a condition of R101 stops the context before the
instruction, once the instructions it issued before have completed. An instruction whose staged word cannot be corrected is fetched
anew (R298). A frozen A-stream issues nothing (R428), and one that has
to switch its phase maps issues no access instruction (R354). -/
def issueOp (op : Nat) (f : Code → State → State) (c : Nat) (x d : Bool) (s : State) : State :=
  let k := s.core c
  if !s.has .core c || !k.mayIssue x d || (!x && s.isFrozen (aMst c)) then s else
    match k.wordAt x (k.ctx x d).pos with
    | none => (s.stall c x d 3).afterCore c
    | some w =>
      if opcode w ≠ op ∧ opAllowed x (opcode w) then s
      else if !x && k.holdA && decide (opcode w < 0x10) then s
      else match meetStaging c x (k.ctx x d).pos s with
        | (true, s1) => (s1.stall c x d 3).afterCore c
        | (false, s1) => match issueTrap s1 c x d w with
          | some (st, code) => if k.busy x d then s else s1.coreTrap c st code (k.ctx x d).pos
          | none => (f w (s1.onCore c (touchBlock x (k.ctx x d).pos))).afterCore c

/-- Start a running instruction on a unit: it takes its place, and the context goes on (R83, R85). -/
def startRun (w : Code) (unit : Nat) (bases nums : List Nat) (c : Nat) (x d : Bool) (s : State) : State :=
  (s.onCore c (fun k => { k with
    nextRid := k.nextRid + 1
    runs := k.runs ++ [{ rid := k.nextRid, unit := unit, deferred := d, word := w, addr := (k.ctx x d).pos,
                         bases := bases, nums := nums }] })).advance c x d

/-! ### Going on (R31 to R33) -/

/-- A running number of a run, by its place. -/
def Run.num (r : Run) (i : Nat) : Nat := r.nums.getD i 0

/-- Set a running number. -/
def Run.setNum (r : Run) (i v : Nat) : Run := { r with nums := listPut 0 r.nums i v }

/-- What one row of a running instruction comes to: more to do, a stall by the codes of `Run.wcode`, the end, or a stop of the core. -/
inductive RowRes where
  | more (s : State) (r : Run)
  | wait (s : State) (r : Run) (code : Nat)
  | done (s : State) (r : Run)
  | stop (s : State)
  deriving Repr

/-- Put a running instruction back. -/
def putRun (s : State) (c : Nat) (r : Run) : State :=
  s.onCore c (fun k => { k with runs := k.runs.map (fun q => if q.rid = r.rid then r else q) })

/-- Take a running instruction away. -/
def dropRun (s : State) (c : Nat) (r : Run) : State :=
  s.onCore c (fun k => { k.endSteals r.rid with runs := k.runs.filter (fun q => decide (q.rid ≠ r.rid)) })

/-- Whether a running instruction belongs to the X-stream. -/
def Run.x (r : Run) : Bool := decide (r.unit ≠ 0)

/-- The chk bit of an access instruction (R74 to R76). -/
def Run.chk (r : Run) : Bool := decide (r.unit = 0) && cbit r.word 118

/-- The check table slot of an access instruction (R74 to R76). -/
def slotOf (w : Code) : Nat :=
  if opcode w = opLOAD ∨ opcode w = opSTORE then cb w 30 23
  else if opcode w = opCOPY ∨ opcode w = opTLOAD then cb w 35 28 else cb w 41 34

/-- A check takes its place in the stream lane, in the order of issue (R56). -/
def addCheck (t : XferCheck) (l : List XferCheck) : List XferCheck :=
  l.filter (fun u => decide (u.rid < t.rid)) ++ t :: l.filter (fun u => decide (t.rid ≤ u.rid))

/-- An instruction completes: an uncorrectable error in an operand stops the core (R101), a transfer with chk goes to
the stream lane (R56), and a NaN of a class set to halt stops the core (R159). `target` is its check's target address. -/
def finishRun (target : Nat) (s : State) (c : Nat) (r : Run) : State :=
  let s1 := (dropRun s c r).onCore c (Core.retry [8])
  if r.ue then s1.coreStop c 0x06 0
  else
    let s2 := if r.chk then s1.onCore c (fun k => { k with
      checks := addCheck ⟨r.rid, r.deferred, r.addr, slotOf r.word, target, r.taken⟩ k.checks }) else s1
    if r.nan.isSome then (s2.flag (COR_ERR c) COR_ERR_nan_trap).coreTrap c 0x04 0x6007 r.addr else s2

/-- A word of an SRAM of the core that a row has met was uncorrectable: the instruction fails (R101, R298). -/
def metWord (s : State) (c : Nat) (r : Run) : State × Run :=
  if (s.core c).badWord then (s.onCore c (fun k => { k with badWord := false }), { r with ue := true }) else (s, r)

/-- Drive a running instruction row by row until it waits or ends. Structural on the fuel, which is above its rows. -/
def driveRun (f : State → Nat → Run → RowRes) (target : Nat) : Nat → State → Nat → Run → State
  | 0, s, c, r => putRun s c r
  | n + 1, s, c, r =>
    match f s c r with
    | .more s1 r1 => driveRun f target n (metWord s1 c r1).1 c (metWord s1 c r1).2
    | .wait s1 r1 code => putRun s1 c { r1 with wcode := code }
    | .done s1 r1 => finishRun target (metWord s1 c r1).1 c (metWord s1 c r1).2
    | .stop s1 => s1.abandon c r

/-- Rows that any instruction can take, for the fuel of `driveRun`. -/
def runFuel : Nat := 2 ^ 36

/-- An instruction that outlived its core's stop is abandoned if it stalls on a queue (R45). -/
def dropStalled (s : State) (c rid : Nat) : State :=
  let k := s.core c
  match k.runs.find? (fun q => decide (q.rid = rid)) with
  | some q => if k.state = .stopped ∧ k.stuck q then s.abandon c q else s
  | none => s

/-- Go on with a running instruction of an opcode, if the core is up or halting, or has stopped and completes it (R45, R63). -/
def goOn (op : Nat) (f : State → Nat → Run → RowRes) (tgt : State → Nat → Run → Nat) (c slot : Nat) (s : State) : State :=
  let k := s.core c
  match k.runs[slot]? with
  | none => s
  | some r =>
    if opcode r.word ≠ op ∨ !(k.up || (k.state == .stopped && !k.cut)) then s
    else
      let s1 := putRun (s.onCore c wakeCore) c (if r.resp.isSome then { r with await := none, resp := none } else r)
      (dropStalled (driveRun f (tgt s c r) runFuel s1 c r) c r.rid).afterCore c

/-- Start an instruction on a unit and drive it as far as it goes. -/
def startAndGo (f : State → Nat → Run → RowRes) (tgt : State → Nat → Run → Nat) (w : Code) (unit : Nat)
    (bases nums : List Nat) (c : Nat) (x d : Bool) (s : State) : State :=
  let rid := (s.core c).nextRid
  let s1 := startRun w unit bases nums c x d s
  match (s1.core c).runs.find? (fun r => decide (r.rid = rid)) with
  | some r => driveRun f (tgt s1 c r) runFuel s1 c r
  | none => s1

/-! ### Queue rows (R33) -/

/-- Row size of a queue in bytes. -/
def DQueue.size (q : DQueue) : Nat := q.units * 16

/-- Where row `i` of a queue lies in the data queues' SRAM: 64 KiB a queue, its rows one after the other from the head (R31, log 12). -/
def queuePlace (s : State) (c q i : Nat) : Nat := q * 65536 + i * ((s.core c).queue q).size

/-- Append a row to a queue that has room; the row wakes the core, and an instruction that waited for it may go on (R19, R33). -/
def pushRow (s : State) (c q : Nat) (row : List Byte) : State :=
  (cleanWords c 2 (queuePlace s c q ((s.core c).queue q).rows.length) ((s.core c).queue q).size s).onCore c (fun k =>
    ((wakeCore k).setQueue q { k.queue q with rows := (k.queue q).rows ++ [row] }).free (wRow q))

/-- The words in error of a queue whose head row has gone: those of the row are gone, and the others lie nearer to the head. -/
def queueMoved (s : State) (c q : Nat) (l : List Upset) : List Upset :=
  let n := ((s.core c).queue q).size
  l.filterMap (fun u => if u.kind = 2 ∧ u.inst = c ∧ u.off / 65536 = q then
    (if u.off % 65536 < n then none else some { u with off := u.off - n }) else some u)

/-- Take the head row of a queue, whose words are read; an instruction that waited for room may go on. -/
def popRow (s : State) (c q : Nat) : State :=
  let s1 := s.meetCore c [(2, queuePlace s c q 0, ((s.core c).queue q).size)]
  ({ s1 with upsets := queueMoved s c q s1.upsets } : State).onCore c (fun k =>
    (k.setQueue q { k.queue q with rows := (k.queue q).rows.drop 1 }).free (wRoom q))

/-- The head row of a queue, as a read delivers it. -/
def headRow (s : State) (c q : Nat) : Option (List Byte) :=
  ((s.core c).queue q).rows.head?.map (fun row =>
    if s.upsets = [] then row else (row.zip (rangeFrom (queuePlace s c q 0) row.length)).map (fun p => coreByte s c 2 p.2 p.1))

/-- A push of the wrong row type: discarded, and the core stops (R33, R101). -/
def wrongRow (s : State) (c addr : Nat) : State := (s.flag (COR_ERR c) COR_ERR_queue_type).coreTrap c 0x02 0x6004 addr

/-! ### The first-NaN record (R157 to R159) -/

/-- Whether a NaN of a class halts the core (R159): 1 G, 2 C, else neither. -/
def nanHalts (s : State) (c cls : Nat) : Bool :=
  s.bit (COR_NAN_CTRL c) (if cls = 1 then COR_NAN_CTRL_halt_class_g else if cls = 2 then COR_NAN_CTRL_halt_class_c
    else COR_NAN_CTRL_halt_other)

/-- The first NaN of the core is recorded if no record is held (R158). -/
def nanRecord (s : State) (c : Nat) (r : Run) (idx : Nat) : State :=
  if s.bit (COR_NAN_FIRST c) COR_NAN_FIRST_valid then s else
    let w := fset COR_NAN_FIRST_valid 1 <| fset COR_NAN_FIRST_stream (b2n r.x) <|
      fset COR_NAN_FIRST_deferred (b2n r.deferred) <| fset COR_NAN_FIRST_core c <|
      fset COR_NAN_FIRST_generation (s.core c).prog.gen <| fset COR_NAN_FIRST_element idx 0
    (s.setReg (COR_NAN_FIRST c) w).setReg (COR_NAN_FIRST_ADDR c) (BitVec.ofNat 64 r.addr)

/-- Note the NaNs of an output row of codes of a format: its first NaN's index is `base` plus its place. -/
def noteNan (s : State) (c : Nat) (r : Run) (cls base : Nat) (nans : List Bool) : State × Run :=
  match firstIdx id nans with
  | none => (s, r)
  | some i => (nanRecord s c r (base + i), if nanHalts s c cls then { r with nan := some (base + i) } else r)

/-- Whether codes of a format are NaN. -/
def nanCodes (f : FFmt) (cs : List Nat) : List Bool := cs.map (fun x => (decodeF f x).isNan)

/-! ### A-stream accesses (R72, R337) -/

/-- A violation by the A-stream at an address: the master is frozen and the core stops (R22, R101). -/
def astreamBad (s : State) (c code kind g : Nat) : State := s.coreViolation c code kind g

/-- What an answer with a failure does to the core that asked (R25, R101): FROZEN is a violation reported back, and any
other status stops the core with that status. -/
def answerStop (s : State) (c status kind g : Nat) : State :=
  if status = 0x05 then astreamBad s c 0x1001 kind g else s.coreStop c status 0

/-- The request of a run is held: it has been accepted, unless the A-stream's port is gated (R427, R428, log 150). -/
def Run.accepted (r : Run) (s : State) (c : Nat) : Run := { r with passed := r.passed || !gated s (aMst c) }

/-- What a step of an A-stream access comes to. -/
inductive Fetch where
  | got (bs : List Byte) (s : State) (r : Run)
  | again (s : State) (r : Run)
  | hold (s : State) (r : Run)
  | stop (s : State)
  deriving Repr

/-- A read of `n` bytes at a place, `g` naming it: at once when they are here; else by READ requests of at most 4,096 bytes
each, whose answers the run collects (R304, R305). -/
def fetchAt (s : State) (c : Nat) (r : Run) (place : Reach) (g n : Nat) : Fetch :=
  match r.await, r.resp with
  | some _, none => .hold s r
  | some _, some (st, _, bs) =>
    let r1 := { r with await := none, resp := none }
    if st = 0x06 ∨ st = 0 then
      let got := r1.part ++ padTo (min 4096 (n - r1.part.length)) 0 bs
      let r2 := { r1 with part := got, ue := r1.ue || decide (st = 0x06) }
      if n ≤ got.length then .got (got.take n) s { r2 with part := [] } else .again s r2
    else .stop (answerStop (putRun s c r1) c st kRead g)
  | none, _ =>
    match place with
    | .off a => .stop (astreamBad s c 0x1002 kRead a)
    | .here a =>
      match localReadAs r.passed (aMst c) a n s with
      | .done bs ue s1 => .got bs s1 { r with ue := r.ue || ue, passed := false }
      | .held => .hold s (r.accepted s c)
      | .bad code s1 => .stop (s1.coreStop c 0x05 code)
    | .there dev a =>
      let have_ := r.part.length
      let m := min 4096 (n - have_)
      if gated s (aMst c) then .hold s r
      else if !permitted s (2 + c) dev a n (reqKind a false) then
        .stop (astreamBad s c 0x1001 (reqKind a false) (dev * 2 ^ 48 + a))
      else
        let (tag, s1) := s.request 0x01 dev (dev * 2 ^ 48 + a + have_) [m] [] (.run c r.rid)
        .hold s1 { r with await := some tag, resp := none }

/-- The entry of the rank table that an address is translated by is read as a request begins (R285, R286, R337); one in a pasture that is
not serving holds the request (R299). -/
def withRank (s : State) (c : Nat) (r : Run) (isLoc begun : Bool) (g : Nat) (k : State → Run → Fetch) : Fetch :=
  match (if begun || r.await.isSome || r.passed || gated s (aMst c) then none else rankEntry s c isLoc g) with
  | none => k s r
  | some a =>
    if waits s a then .hold s r
    else
      let (ue, s1) := s.touch [(a, 2)]
      k s1 { r with ue := r.ue || ue }

/-- A read of `n` bytes at an address of the A-stream. -/
def fetchBytes (s : State) (c : Nat) (r : Run) (isLoc : Bool) (g n : Nat) : Fetch :=
  withRank s c r isLoc (decide (r.part ≠ [])) g (fun s r => fetchAt s c r (reach s c isLoc g) g n)

/-- A write of the bytes that the run has in hand: at once when the target is here; else by WRITE requests of at most
4,096 bytes, each answered when it is performed (R278, R307). -/
def storeAt (s : State) (c : Nat) (r : Run) (place : Reach) (g : Nat) : Fetch :=
  match r.await, r.resp with
  | some _, none => .hold s r
  | some _, some (st, _, _) =>
    let r1 := { r with await := none, resp := none }
    if st = 0x06 ∨ st = 0 then
      let r2 := { r1 with part := r1.part.drop 4096, stage := r1.stage + min 4096 r1.part.length,
                          ue := r1.ue || decide (st = 0x06) }
      if r2.part = [] then .got [] s { r2 with stage := 0 } else .again s r2
    else .stop (answerStop (putRun s c r1) c st kWrite g)
  | none, _ =>
    match place with
    | .off a => .stop (astreamBad s c 0x1002 kWrite a)
    | .here a =>
      match localWriteAs r.passed (aMst c) a r.part s with
      | .done _ ue s1 => .got [] s1 { r with ue := r.ue || ue, part := [], stage := 0, passed := false }
      | .held => .hold s (r.accepted s c)
      | .bad code s1 => .stop (s1.coreStop c 0x05 code)
    | .there dev a =>
      if gated s (aMst c) then .hold s r
      else if !permitted s (2 + c) dev a r.part.length (reqKind a true) then
        .stop (astreamBad s c 0x1001 (reqKind a true) (dev * 2 ^ 48 + a))
      else
        let (tag, s1) := s.request 0x02 dev (dev * 2 ^ 48 + a + r.stage) [] (r.part.take 4096) (.run c r.rid)
        .hold s1 { r with await := some tag, resp := none }

/-- A write of the bytes that the run has in hand at an address of the A-stream. -/
def storeBytes (s : State) (c : Nat) (r : Run) (isLoc : Bool) (g : Nat) : Fetch :=
  withRank s c r isLoc (decide (r.stage ≠ 0)) g (fun s r => storeAt s c r (reach s c isLoc g) g)

/-- What an answer to a run's request brings it. -/
def answerRun (s : State) (c rid status : Nat) (args : List Nat) (bs : List Byte) : State :=
  s.onCore c (fun k => { k with
    runs := k.runs.map (fun r => if r.rid = rid ∧ r.await.isSome then { r with resp := some (status, args, bs) } else r) })

end Sys2Proof.Machine
end

