-- ==== Sys2Proof/Machine/CoreA.lean ====
section
/-! DEFINITION. The A-stream's instructions but for gathers (R74 to R79, R83, R84, R86, R87, R51 to R62): LOAD, STORE, COPY,
TLOAD, the tally operations, address registers, FENCE, PHASE, RETIRE, DEFER, and the control instructions of both
streams. -/

namespace Sys2Proof.Machine

/-- Access instructions of both contexts that run. -/
def Core.accesses (k : Core) : Nat := (k.runs.filter (fun r => decide (r.unit = 0))).length

/-- The queue of an access instruction, where it names one (R74, R76). -/
def accessQueue (w : Code) : Option Nat :=
  if opcode w = opCOPY ∨ opcode w = opTLOAD then none else some (cb w 111 107)

/-- Whether an access instruction may issue (R56, R83): fewer than four run, none names its queue, and a transfer with
chk has a place in the stream lane. -/
def accessFree (k : Core) (w : Code) : Bool :=
  decide (k.accesses < 4) &&
    !(k.runs.any (fun r => decide (r.unit = 0) && (accessQueue w).isSome && accessQueue r.word == accessQueue w))

/-- Whether the stream lane has a place for one more check (R56). -/
def laneFree (k : Core) (w : Code) : Bool :=
  !cbit w 118 || decide (k.laneUsed < 8)

/-- Issue an access instruction: its addresses are formed, its base register is post-incremented, and it runs. -/
def issueAccess (f : State → Nat → Run → RowRes) (tgt : State → Nat → Run → Nat) (bases : Ctx → Code → List Nat)
    (post : Ctx → Code → Ctx) (c : Nat) (d : Bool) (w : Code) (s : State) : State :=
  let k := s.core c
  if !accessFree k w then s.stall c false d 8
  else if !laneFree k w then s.stall c false d 9
  else
    let v := k.ctx false d
    let s1 := s.onCore c (fun k => k.setCtx false d (post v w))
    startAndGo f tgt w 0 (bases v w) [] c false d s1

/-- The local address that a transfer check takes for an address (R421). -/
def checkTarget (s : State) (c : Nat) (w : Code) (g : Nat) : Nat :=
  match reach s c (cbit w 117) g with
  | .here a => a
  | .there _ a => a
  | .off a => a % 2 ^ 48

/-- The target address of a check whose bytes go to a queue (R421). -/
def queueTarget (c q : Nat) : Nat := 0xFFFF000000000000 + c * 256 + q

/-! ### LOAD and STORE (R74, R87) -/

/-- The address of row `i` of LOAD or STORE (R74). -/
def rowAddr (k : Core) (r : Run) (i : Nat) : Nat := (r.bases.getD 0 0 + i * rowPitch k r.word) % 2 ^ 64

/-- The base register after the instruction (R74). -/
def postInc (v : Ctx) (w : Code) : Ctx :=
  v.setAx (cb w 106 103) (wrapInt 64 ((v.axr (cb w 106 103) : Int) + signedOf 23 (cb w 22 0) * 16))

/-- One row of LOAD: read row i and push it. -/
def rowLoad (s : State) (c : Nat) (r : Run) : RowRes :=
  let k := s.core c
  let q := cb r.word 111 107
  if cb r.word 70 47 ≤ r.row then .done s r
  else if (k.queue q).full then .wait s r (wRoom q)
  else match fetchBytes s c r (cbit r.word 117) (rowAddr k r r.row) (k.queue q).size with
    | .got bs s1 r1 => .more (pushRow s1 c q bs) { r1 with row := r1.row + 1, taken := if r1.chk then r1.taken ++ bs else [] }
    | .again s1 r1 => .more s1 r1
    | .hold s1 r1 => .wait s1 r1 1
    | .stop s1 => .stop s1

/-- One row of STORE: pop a row and write it. -/
def rowStore (s : State) (c : Nat) (r : Run) : RowRes :=
  let k := s.core c
  let q := cb r.word 111 107
  if cb r.word 70 47 ≤ r.row ∧ r.part = [] then .done s r
  else
    match (if r.part = [] then headRow s c q else some r.part) with
    | none => .wait s r (wRow q)
    | some row =>
      let fresh := decide (r.part = [])
      let s0 := if fresh then popRow s c q else s
      let r0 := if fresh then { r with part := row, taken := if r.chk then r.taken ++ row else [] } else r
      match storeBytes s0 c r0 (cbit r.word 117) (rowAddr k r r.row) with
      | .got _ s1 r1 => .more s1 { r1 with row := r1.row + 1 }
      | .again s1 r1 => .more s1 r1
      | .hold s1 r1 => .wait s1 r1 1
      | .stop s1 => .stop s1

/-- The target of LOAD's check. -/
def tgtLoad (_ : State) (c : Nat) (r : Run) : Nat := queueTarget c (cb r.word 111 107)

/-- The target of STORE's check. -/
def tgtStore (s : State) (c : Nat) (r : Run) : Nat := checkTarget s c r.word (r.bases.getD 0 0)

/-- What an event of a running instruction does: issue it, or go on with the one in a slot. -/
def actOn (op : Nat) (issue : Code → State → State) (f : State → Nat → Run → RowRes) (tgt : State → Nat → Run → Nat)
    (c : Nat) (x d : Bool) (a : Act) (s : State) : State :=
  match a with
  | .issue => issueOp op issue c x d s
  | .cont slot => goOn op f tgt c slot s

/-- LOAD (R87). -/
def execLoad (c : Nat) (d : Bool) (a : Act) (s : State) : Out :=
  whileLive (actOn opLOAD (issueAccess rowLoad tgtLoad (fun v w => [rowBase v w]) postInc c d) rowLoad tgtLoad c false d a) s

/-- STORE (R87). -/
def execStore (c : Nat) (d : Bool) (a : Act) (s : State) : Out :=
  whileLive (actOn opSTORE (issueAccess rowStore tgtStore (fun v w => [rowBase v w]) postInc c d) rowStore tgtStore c false d a) s

/-! ### COPY and TLOAD (R75, R87) -/

/-- Source and destination registers at issue. -/
def copyBases (v : Ctx) (w : Code) : List Nat := [v.axr (cb w 111 108), v.axr (cb w 107 104)]

/-- Rows and columns of COPY and TLOAD. -/
def tRows (w : Code) : Nat := cb w 103 95 + 1
def tCols (w : Code) : Nat := cb w 94 86 + 1

/-- One step of COPY: read source row i (an even stage count), then write it. Stage 1 and above of `nums` marks the
row as read. -/
def rowCopy (s : State) (c : Nat) (r : Run) : RowRes :=
  let w := r.word
  let isLoc := cbit w 117
  if tRows w ≤ r.row then .done s r
  else if r.nums = [] then
    match fetchBytes s c r isLoc ((r.bases.getD 0 0 + r.row * cb w 83 60) % 2 ^ 64) (tCols w * eSize w) with
    | .got bs s1 r1 => .more s1 { r1 with part := bs, nums := [1], taken := if r1.chk then r1.taken ++ bs else [] }
    | .again s1 r1 => .more s1 r1
    | .hold s1 r1 => .wait s1 r1 1
    | .stop s1 => .stop s1
  else
    match storeBytes s c r isLoc ((r.bases.getD 1 0 + r.row * cb w 59 36) % 2 ^ 64) with
    | .got _ s1 r1 => .more s1 { r1 with row := r1.row + 1, nums := [] }
    | .again s1 r1 => .more s1 r1
    | .hold s1 r1 => .wait s1 r1 1
    | .stop s1 => .stop s1

/-! ### The transposing loaders (R291, R292) -/

/-- Bytes of a source row of TLOAD. -/
def tBytes (w : Code) : Nat := tCols w * eSize w

/-- Tiles of a TLOAD: row blocks of 64 rows by column blocks of 64 source bytes. -/
def tilesAcross (w : Code) : Nat := (tBytes w + 63) / 64
def tileCount (w : Code) : Nat := (tRows w + 63) / 64 * tilesAcross w

/-- The tile in hand: its first source row, its rows, its first source byte and its bytes of a row. -/
def tileOf (w : Code) (t : Nat) : Nat × Nat × Nat × Nat :=
  let i := 64 * (t / tilesAcross w)
  let b := 64 * (t % tilesAcross w)
  (i, min 64 (tRows w - i), b, min 64 (tBytes w - b))

/-- The stack whose loader performs a TLOAD: that of its pasture side. -/
def loaderOf (r : Run) : Nat := pastureOf (r.bases.getD (if cbit r.word 116 then 1 else 0) 0 % 2 ^ 48) % 8

/-- The TLOADs that have reached a stack's loader, in order, and still run. -/
def State.atLoader (s : State) (p : Nat) : List (Nat × Nat) :=
  (spGet (fun _ => []) s.loaders p).filter (fun q => (s.core q.1).runs.any (fun r => decide (r.rid = q.2)))

/-- A TLOAD has reached its loader. -/
def reachLoader (s : State) (c : Nat) (r : Run) : State :=
  let l := s.atLoader (loaderOf r)
  if l.contains (c, r.rid) then s else { s with loaders := spSet (fun _ => []) s.loaders (loaderOf r) (l ++ [(c, r.rid)]) }

/-- A TLOAD leaves its loader. -/
def leaveLoader (s : State) (c : Nat) (r : Run) : State :=
  { s with loaders := spSet (fun _ => []) s.loaders (loaderOf r) ((s.atLoader (loaderOf r)).filter (fun q => decide (q ≠ (c, r.rid)))) }

/-- The source bytes that a TLOAD has read, row by row. -/
def readSeg (r : Run) (i : Nat) (bs : List Byte) : List (List Byte) := listPut [] r.hand i (r.hand.getD i [] ++ bs)

/-- One step of the tile in hand: read its source row segments, then write its destination rows, element (i, j) of the source at place
i of destination row j (R87, R291). -/
def tileStep (s : State) (c : Nat) (r : Run) : RowRes :=
  let w := r.word
  let isLoc := cbit w 117
  let e := eSize w
  let (i0, n, b0, m) := tileOf w (r.num 0)
  let k := r.outRows.length
  if k < n then
    match fetchBytes s c r isLoc ((r.bases.getD 0 0 + (i0 + k) * cb w 83 60 + b0) % 2 ^ 64) m with
    | .got bs s1 r1 => .more s1 { r1 with outRows := r1.outRows ++ [bs], hand := readSeg r1 (i0 + k) bs }
    | .again s1 r1 => .more s1 r1
    | .hold s1 r1 => .wait s1 r1 1
    | .stop s1 => .stop s1
  else if m / e ≤ r.row then .more s { r.setNum 0 (r.num 0 + 1) with outRows := [], row := 0 }
  else
    let bs := r.outRows.flatMap (fun row => (row.drop (r.row * e)).take e)
    match storeBytes s c { r with part := bs } isLoc ((r.bases.getD 1 0 + (b0 / e + r.row) * cb w 59 36 + i0 * e) % 2 ^ 64) with
    | .got _ s1 r1 => .more s1 { r1 with row := r1.row + 1 }
    | .again s1 r1 => .more s1 r1
    | .hold s1 r1 => .wait s1 r1 1
    | .stop s1 => .stop s1

/-- The bytes of a TLOAD's check: destination row by destination row (R421). -/
def transposed (r : Run) : List Byte :=
  (rangeFrom 0 (tCols r.word)).flatMap (fun j => (r.hand.take (tRows r.word)).flatMap (fun row => (row.drop (j * eSize r.word)).take (eSize r.word)))

/-- One step of TLOAD: its loader takes the TLOADs that reach it one at a time, in order, and works tile by tile (R291). -/
def rowTload (s : State) (c : Nat) (r : Run) : RowRes :=
  if tileCount r.word ≤ r.num 0 then .done (leaveLoader s c r) { r with taken := if r.chk then transposed r else [] }
  else
    let s1 := reachLoader s c r
    if (s1.atLoader (loaderOf r)).head? = some (c, r.rid) then tileStep s1 c r
    else .wait s1 r 1

/-- The target of COPY's and TLOAD's check: the first byte written. -/
def tgtCopy (s : State) (c : Nat) (r : Run) : Nat := checkTarget s c r.word (r.bases.getD 1 0)

/-- COPY (R87). -/
def execCopy (c : Nat) (d : Bool) (a : Act) (s : State) : Out :=
  whileLive (actOn opCOPY (issueAccess rowCopy tgtCopy copyBases (fun v _ => v) c d) rowCopy tgtCopy c false d a) s

/-- TLOAD (R87, R291). -/
def execTload (c : Nat) (d : Bool) (a : Act) (s : State) : Out :=
  whileLive (actOn opTLOAD (issueAccess rowTload tgtCopy copyBases (fun v _ => v) c d) rowTload tgtCopy c false d a) s

/-! ### Tally operations (R51 to R54, R77, R84) -/

/-- Whether every earlier access of an A-stream context has completed and its writes are performed (R84): a STORE, a COPY
and a SCATTER_ADD end here only when their writes and records have been answered. -/
def fenced (k : Core) (d : Bool) : Bool := !k.busy false d

/-- Stall a tally operation (R53). -/
def addWaiter (w : Waiter) (k : Core) : Core := { k with waiters := k.waiters ++ [w] }

/-- WAIT_GE (R52): n = 0 or a met condition completes; else the context stalls. -/
def waitGe (c : Nat) (d : Bool) (w : Code) (s0 : State) : State :=
  let t := cb w 111 106
  let n := cb w 105 74
  let s := s0.meetTally c t
  if n ≤ s.tally c t then s.advance c false d
  else (s.onCore c (addWaiter ⟨t, n, false, d⟩)).stall c false d 5

/-- SUB (R52, R53): served behind stalled SUBs of its tally. -/
def subOp (c : Nat) (d : Bool) (w : Code) (s0 : State) : State :=
  let t := cb w 111 106
  let n := cb w 105 74
  let s := s0.meetTally c t
  if n = 0 then s.advance c false d
  else if n ≤ s.tally c t ∧ !(s.core c).waiters.any (fun v => decide (v.tally = t) && v.isSub) then
    ((s.setFld (COR_TALLY c t) COR_TALLY_count (s.tally c t - n)).advance c false d).tallyChanged c t
  else (s.onCore c (addWaiter ⟨t, n, true, d⟩)).stall c false d 5

/-- A local ADD (R52, R54). -/
def addLocal (c : Nat) (d : Bool) (t n : Nat) (s : State) : State :=
  let (ok, s1) := s.tallyAdd c t n
  if ok then s1.advance c false d else addLimit s1 c s.devId c t

/-- Whether a core of this device holds a request of another: the request's stamp is newer than its own epoch (R356). -/
def holdsAdd (s : State) (c target : Nat) : Bool := decide (0 < modDiff 32 (coreEpoch s c) (coreEpoch s target))

/-- An ADD is held at its target; its context's end waits for it (R86, R356). -/
def holdAdd (c : Nat) (d : Bool) (core t n : Nat) (s : State) : State :=
  let s1 : State := { s with nextTag := (s.nextTag + 1) % 65536,
                             str := { s.str with heldAdds := s.str.heldAdds ++ [⟨c, d, s.nextTag, core, t, n⟩] } }
  (s1.onCore c (fun k => { k with adds := k.adds ++ [(s.nextTag, d)] })).advance c false d

/-- A remote ADD (R323, R425): checked at its source; across the fabric to a core of this device, or as a TALLY_ADD to
another device, whose answer the context's end waits for (R86). -/
def addRemote (c : Nat) (d : Bool) (dev core t n : Nat) (s : State) : State :=
  if !permitted s (2 + c) dev (mmioBase + COR_TALLY core t) 8 kTally then
    s.coreViolation c 0x1001 kTally (tallyAddr dev core t)
  else if dev = s.devId then
    if holdsAdd s c core then holdAdd c d core t n s else
    let (ok, s1) := s.tallyAdd core t n
    if ok then s1.advance c false d else addLimit s1 c dev core t
  else
    let (tag, s1) := s.request 0x03 dev (tallyAddr dev core t) [core, t, n] [] (.add c d)
    (s1.onCore c (fun k => { k with adds := k.adds ++ [(tag, d)] })).advance c false d

/-- ADD (R52 to R54, R77, R84): after every earlier write of its context. -/
def addOp (c : Nat) (d : Bool) (w : Code) (s : State) : State :=
  if !fenced (s.core c) d then s.stall c false d 8
  else if cbit w 118 then addRemote c d (cb w 73 58) (cb w 57 53) (cb w 111 106) (cb w 105 74) s
  else addLocal c d (cb w 111 106) (cb w 105 74) s

/-- WAIT_GE (R52). -/
def execWaitGe (c : Nat) (d : Bool) (s : State) : Out := whileLive (issueOp opWAIT (waitGe c d) c false d) s

/-- ADD (R52). -/
def execAdd (c : Nat) (d : Bool) (s : State) : Out := whileLive (issueOp opADD (addOp c d) c false d) s

/-- SUB (R52). -/
def execSub (c : Nat) (d : Bool) (s : State) : Out := whileLive (issueOp opSUB (subOp c d) c false d) s

/-! ### Address registers, FENCE, PHASE, RETIRE, DEFER (R79, R84, R47, R59, R87) -/

/-- SETX and ADDX on a context. -/
def setxCtx (add : Bool) (w : Code) (v : Ctx) : Ctx :=
  let i := cb w 111 108
  v.setAx i ((if add then v.axr i else 0) + cb w 107 44)

/-- SETX and ADDX (R79). -/
def setxOp (add : Bool) (c : Nat) (d : Bool) (w : Code) (s : State) : State :=
  (s.onCore c (fun k => k.setCtx false d (setxCtx add w (k.ctx false d)))).advance c false d

/-- FENCE (R84). -/
def fenceOp (c : Nat) (d : Bool) (_ : Code) (s : State) : State :=
  if fenced (s.core c) d then s.advance c false d else s.stall c false d 8

/-- PHASE (R87). -/
def phaseOp (c : Nat) (d : Bool) (w : Code) (s : State) : State :=
  if (s.core c).busy false d then s.stall c false d 8
  else (s.onCore c (fun k => { k with phase := cb w 111 109 })).advance c false d

/-- RETIRE (R47): of a generation that no context of the core executes. -/
def retireOp (c : Nat) (d : Bool) (w : Code) (s : State) : State :=
  (s.onCore c (fun k => k.discardGen (cb w 111 96))).advance c false d

/-- DEFER (R59, R87): stalls while 64 entries are held. -/
def deferOp (c : Nat) (d : Bool) (w : Code) (s : State) : State :=
  let k := s.core c
  if 64 ≤ k.deferQ.length then s.stall c false d 6
  else
    let e : DeferEnt := ⟨k.prog.base + cb w 111 88 * 16, k.prog.base + cb w 87 64 * 16, k.prog.gen, cb w 63 58⟩
    (s.onCore c (fun k => { k with deferQ := k.deferQ ++ [e] })).advance c false d

/-- SETX (R79). -/
def execSetx (c : Nat) (d : Bool) (s : State) : Out := whileLive (issueOp opSETX (setxOp false c d) c false d) s

/-- ADDX (R79). -/
def execAddx (c : Nat) (d : Bool) (s : State) : Out := whileLive (issueOp opADDX (setxOp true c d) c false d) s

/-- FENCE (R84). -/
def execFence (c : Nat) (d : Bool) (s : State) : Out := whileLive (issueOp opFENCE (fenceOp c d) c false d) s

/-- PHASE (R87, R337). -/
def execPhase (c : Nat) (d : Bool) (s : State) : Out := whileLive (issueOp opPHASE (phaseOp c d) c false d) s

/-- RETIRE (R47, R48). -/
def execRetire (c : Nat) (d : Bool) (s : State) : Out := whileLive (issueOp opRETIRE (retireOp c d) c false d) s

/-- DEFER (R59). -/
def execDefer (c : Nat) (d : Bool) (s : State) : Out := whileLive (issueOp opDEFER (deferOp c d) c false d) s

/-! ### Control instructions of both streams (R78, R86) -/

/-- JUMP on a context. -/
def jumpCtx (base : Nat) (w : Code) (v : Ctx) : Ctx := { v with pos := base + cb w 111 88 * 16, stall := 1 }

/-- LOOP with a count on a context: the entry goes on the loop stack, or a count of 0 skips the body. -/
def loopCtx (n : Nat) (w : Code) (v : Ctx) : Ctx :=
  let last := v.pos + cb w 79 64 * 16
  if n = 0 then
    let (p, l) := afterBody last v.loops
    { v with pos := p, loops := l, stall := 1 }
  else { v with pos := v.pos + 16, loops := ⟨v.pos + 16, last, n⟩ :: v.loops, stall := 1 }

/-- JUMP (R86). -/
def jumpOp (c : Nat) (x d : Bool) (w : Code) (s : State) : State :=
  s.onCore c (fun k => (wakeCore k).setCtx x d (jumpCtx k.prog.base w (k.ctx x d)))

/-- LOOP (R86): an indirect count is read once, at the local address in cax. -/
def loopOp (c : Nat) (x d : Bool) (w : Code) (s : State) : State :=
  if cbit w 118 then
    let g := ((s.core c).ctx x d).axr (cb w 63 60)
    match localRead (aMst c) (g % 2 ^ 48) 4 s with
    | .done bs ue s1 =>
      let s2 := s1.onCore c (fun k => (wakeCore k).setCtx x d (loopCtx (leNat bs) w (k.ctx x d)))
      if ue then s2.coreStop c 0x06 0 else s2
    | .held => s.stall c x d 8
    | .bad code s1 => s1.coreStop c 0x05 code
  else s.onCore c (fun k => (wakeCore k).setCtx x d (loopCtx (cb w 111 80) w (k.ctx x d)))

/-- END (R86): the context issues nothing after it. -/
def endOp (c : Nat) (x d : Bool) (_ : Code) (s : State) : State :=
  s.onCore c (fun k => (wakeCore k).setCtx x d { k.ctx x d with life := .ending, stall := 1 })

/-- NOP (R78). -/
def nopOp (c : Nat) (x d : Bool) (_ : Code) (s : State) : State := s.advance c x d

/-- NOP (R78). -/
def execNop (c : Nat) (x d : Bool) (s : State) : Out := whileLive (issueOp opNOP (nopOp c x d) c x d) s

/-- END (R86). -/
def execEnd (c : Nat) (x d : Bool) (s : State) : Out := whileLive (issueOp opEND (endOp c x d) c x d) s

/-- JUMP (R86). -/
def execJump (c : Nat) (x d : Bool) (s : State) : Out := whileLive (issueOp opJUMP (jumpOp c x d) c x d) s

/-- LOOP (R86). -/
def execLoop (c : Nat) (x d : Bool) (s : State) : Out := whileLive (issueOp opLOOP (loopOp c x d) c x d) s

end Sys2Proof.Machine
end

