-- ==== Sys2Proof/Machine/CoreG.lean ====
section
/-! DEFINITION. GATHER and SCATTER_ADD (03_instruction_set R76, R88, R89; 08_gather_scatter R223 to R239, R486;
09_embedding_tables R245 to R254). -/

namespace Sys2Proof.Machine

/-! ### Running values

The running numbers of a gather, by their place: 0 phase, 1 records done, 2 destination slot (of a scatter, rows popped), 3
destination, 4 n_d, 5 refusals, 6 directory entry + 1, 7 key + 1, 8 and 9 segments and segment, 10 road base, 11 step within a slot,
12 companion rows popped, 13 whether the result is complete, 14 first record of the destination, 15 road step. -/

/-- Bytes in hand of a run, by their place: 0 table descriptor, 1 hop header, 2 companion elements, 3 gradient row. -/
def Run.inHand (r : Run) (i : Nat) : List Byte := r.hand.getD i []

/-- Set bytes in hand. -/
def Run.setHand (r : Run) (i : Nat) (b : List Byte) : Run := { r with hand := listPut [] r.hand i b }

/-- Fields of the format (R76). -/
def gQueue (w : Code) : Nat := cb w 111 107
def gCount (w : Code) : Nat := cb w 98 67
def gRoad (w : Code) : Bool := cbit w 117
def gAgg (w : Code) : Nat := if opcode w = opGATHER then cb w 116 114 else 0
def gWin (w : Code) : Bool := if opcode w = opGATHER then cbit w 113 else cbit w 116

/-- Local address that the index register holds. -/
def gIdx (r : Run) : Nat := r.bases.getD 0 0 % 2 ^ 48

/-- The table that a run has in hand. -/
def gTable (r : Run) : Table := tableOf (r.bases.getD 1 0 % 2 ^ 48) (r.inHand 0)

/-- Elements of the sub-row (R76, R88). -/
def gCols (r : Run) : Nat := if cb r.word 54 42 = 0 then (gTable r).elems - cb r.word 66 55 else cb r.word 54 42

/-- First element of the sub-row. -/
def gCol0 (r : Run) : Nat := cb r.word 66 55

/-- Whether the sub-row names elements that the row does not hold (R88). -/
def gBeyond (r : Run) : Bool :=
  decide ((gTable r).elems ≤ gCol0 r) || decide ((gTable r).elems < gCol0 r + gCols r)

/-- Note a refusal: bit 0 by an NSR, 1 of the descriptor, 2 of the columns, 3 of a record. -/
def Run.refuse (r : Run) (bit : Nat) : Run := r.setNum 5 (Nat.lor (r.num 5) (2 ^ bit))

/-- Whether no row of the table may be used (R88, R246). -/
def gBarred (r : Run) : Bool := bitOf (r.num 5) 1 || bitOf (r.num 5) 2

/-- Logbook code of the refusal that stops the context (R243, R246, R88, R254). -/
def refusalCode (n : Nat) : Nat :=
  if bitOf n 1 then 0x7013 else if bitOf n 2 then 0x7014 else if bitOf n 0 then 0x5801 else 0x7011

/-- The end of a gather or scatter: after a refusal the context stops with MALFORMED (R243). -/
def gatherEnd (s : State) (c : Nat) (r : Run) : RowRes :=
  if r.num 5 = 0 then .done s r else .stop ((dropRun s c r).coreStop c 0x02 (refusalCode (r.num 5)))

/-- A violation of R226 or R237, or a malformed road (R486): the context stops before the instruction. -/
def roadTrap (s : State) (c : Nat) (r : Run) : RowRes :=
  .stop ((putRun s c { r with await := none, resp := none }).coreTrap c 0x02 0x600B r.addr)

/-- A local read, and what follows it. -/
def aRead (s : State) (c : Nat) (r : Run) (a n : Nat) (k : List Byte → State → Run → RowRes) : RowRes :=
  match localReadAs r.passed (aMst c) a n s with
  | .done b ue s1 => k b s1 { r with ue := r.ue || ue, passed := false }
  | .held => .wait s (r.accepted s c) 1
  | .bad code s1 => .stop (s1.coreStop c 0x05 code)

/-- What follows a step of a read. -/
def onFetch (k : List Byte → State → Run → RowRes) : Fetch → RowRes
  | .got b s1 r1 => k b s1 r1
  | .again s1 r1 => .more s1 r1
  | .hold s1 r1 => .wait s1 r1 1
  | .stop s1 => .stop s1

/-- A read at a place, and what follows it. -/
def aFetch (s : State) (c : Nat) (r : Run) (place : Reach) (g n : Nat) (k : List Byte → State → Run → RowRes) : RowRes :=
  onFetch k (fetchAt s c r place g n)

/-! ### The companion queue (R232) -/

/-- Whether the issuing context holds an end of a queue. -/
def holdsProd (k : Core) (d : Bool) (q : Nat) : Bool := decide (q < 32) && decide ((k.queue q).prod = endCode false d)
def holdsCons (k : Core) (d : Bool) (q : Nat) : Bool := decide (q < 32) && decide ((k.queue q).cons = endCode false d)

/-- What an instruction does with its companion queue: 0 nothing, 1 push, 2 pop. -/
def companion (k : Core) (d : Bool) (w : Code) : Nat :=
  let q := gQueue w + 1
  if opcode w = opSCATTER then (if gRoad w && holdsCons k d q then 2 else 0)
  else if gAgg w = 2 then (if holdsProd k d q then 1 else 0)
  else if gAgg w = 5 then (if holdsCons k d q then 2 else if holdsProd k d q then 1 else 0)
  else if gWin w && holdsProd k d q then 1 else 0

/-- Whether the companion breaks R232: a required end that is not held, or a wrong format. -/
def companionBad (k : Core) (d : Bool) (w : Code) : Bool :=
  let q := gQueue w + 1
  let u := companion k d w
  let win := gWin w && (gRoad w || decide (opcode w = opGATHER))
  (win && decide (u = 0)) ||
    (decide (u ≠ 0) &&
      (if win then k.fmtOf q != some .u32
       else if u = 1 then k.fmtOf q != some (.flt .fp32 false)
       else !aggFmt k q))

/-- What R226 and R237 require, with the hop header in hand. -/
def roadViolation (k : Core) (d : Bool) (w : Code) (edges : Nat) : Bool :=
  (if opcode w = opSCATTER then decide (gCount w ≠ edges) || !aggFmt k (gQueue w)
   else if gAgg w = 0 then decide (edges < gCount w)
   else decide (gCount w ≠ edges) || !aggFmt k (gQueue w)) || companionBad k d w

/-- Elements of a per-record companion row. -/
def perRow (k : Core) (q : Nat) : Nat := max 1 ((k.queue q).size / (match k.fmtOf q with | some e => e.bits / 8 | none => 4))

/-- Add FP32 codes to the companion's row in hand; full rows go out. -/
def pushComp (k : Core) (r : Run) (codes : List Nat) : Run :=
  let q := gQueue r.word + 1
  let z := (k.queue q).size
  let b := r.inHand 2 ++ codes.flatMap (leBytes 4)
  let full := b.length / z
  { r.setHand 2 (b.drop (full * z)) with outs := r.outs ++ ((chunksOf z (b.take (full * z))).map (fun x => (q, x))) }

/-- The rest of the companion's last row, filled with +0.0. -/
def flushComp (k : Core) (r : Run) : Run :=
  let q := gQueue r.word + 1
  if r.inHand 2 = [] then r
  else { r.setHand 2 [] with outs := r.outs ++ [(q, padTo (k.queue q).size 0 (r.inHand 2))] }

/-- Take the next companion row in hand. -/
def popComp (s : State) (c : Nat) (r : Run) : RowRes :=
  let q := gQueue r.word + 1
  match headRow s c q with
  | none => .wait s r (wRow q)
  | some row => .more (popRow s c q) ((r.setHand 2 row).setNum 12 (r.num 12 + 1))

/-- Element `i` of the companion row in hand as an FP32 value: coefficients are widened exactly (R227, R237). -/
def compElem (k : Core) (r : Run) (i : Nat) : FVal :=
  match k.fmtOf (gQueue r.word + 1) with
  | some (.flt f _) => decodeF f ((rowElems f.bits (r.inHand 2)).getD i 0)
  | _ => .zero

/-! ### Table, road, indices (R88, R211, R223, R245 to R250) -/

/-- The road slot of a Drover's staging that holds an address; slot 0 where none does (log 71). -/
def slotOfAddr (s : State) (d a : Nat) : Nat :=
  let off := a - staging d
  ((rangeFrom 0 6).find? (fun k => decide (slotOffset s d k ≤ off) && decide (off < slotOffset s d (k + 1)))).getD 0

/-- Phase 0: what the instruction requires, and the hop header of a road, which waits for the road's step (R217, R226,
R237). -/
def gatherHeader (s : State) (c : Nat) (r : Run) : RowRes :=
  let k := s.core c
  let w := r.word
  if !gRoad w then (if gAgg w = 0 then .more s (r.setNum 0 1) else roadTrap s c r)
  else
    let d := droverOf s.grade (c / 8)
    let n := slotOfAddr s d (gIdx r)
    let step := (s.reg (DRV_ROAD_STEP d n)).toNat
    if step ≠ noRoad ∧ (s.reg COL_STEP).toNat < step then .wait s r 7
    else aRead s c r (gIdx r) 64 (fun b s r =>
      if roadViolation k r.deferred w (fieldAt b 4 4) then roadTrap s c r
      else .more s ((((r.setHand 1 b).setNum 10 (staging d + slotOffset s d n)).setNum 15 step).setNum 0 1))

/-- Phase 1: the table descriptor, read once (R246, R247). -/
def gatherTable (s : State) (c : Nat) (r : Run) : RowRes :=
  let g := r.bases.getD 1 0
  onFetch (fun b s r =>
    let r1 := (r.setHand 0 b).setNum 0 2
    if !tableGood b then .more ((s.flag EMB_ERR EMB_ERR_descriptor).logFree 0x7013 1 c) (r1.refuse 1)
    else if gBeyond r1 then .more ((s.flag EMB_ERR EMB_ERR_columns).logFree 0x7014 1 c) (r1.refuse 2)
    else .more s r1) (fetchBytes s c r false g 64)

/-- The hop header's fields (R211). -/
def hopUnique (r : Run) : Nat := fieldAt (r.inHand 1) 0 4
def hopSlots (r : Run) : Nat := fieldAt (r.inHand 1) 8 4
def hopFrontier (r : Run) : Nat := fieldAt (r.inHand 1) 0xC 4
def hopUniqueAt (r : Run) : Nat := r.num 10 + fieldAt (r.inHand 1) 0x18 8
def hopSlotAt (r : Run) : Nat := r.num 10 + fieldAt (r.inHand 1) 0x20 8
def hopEdgeAt (r : Run) : Nat := r.num 10 + fieldAt (r.inHand 1) 0x28 8

/-- Edge record `n` of the road: source index, destination slot, FP16 weight (R211, R486). -/
def withEdge (s : State) (c : Nat) (r : Run) (n : Nat) (k : Nat → Nat → Nat → State → Run → RowRes) : RowRes :=
  aRead s c r (hopEdgeAt r + 16 * n) 16 (fun b s r =>
    let src := fieldAt b 0 4
    let slot := fieldAt b 4 4
    if hopSlots r ≤ slot ∨ hopUnique r ≤ src then roadTrap s c r else k src slot (fieldAt b 14 2) s r)

/-- A destination table entry: segments, segment, frontier index (R211, R486). -/
def withDest (s : State) (c : Nat) (r : Run) (slot : Nat) (k : Nat → Nat → Nat → State → Run → RowRes) : RowRes :=
  aRead s c r (hopSlotAt r + 8 * slot) 8 (fun b s r =>
    let dest := fieldAt b 0 4
    if hopFrontier r ≤ dest then roadTrap s c r else k (fieldAt b 6 2) (fieldAt b 4 2) dest s r)

/-- The key of the row in hand, read once. -/
def keyed (r : Run) (key : Nat) : Run := r.setNum 7 (key + 1)

/-- The key of a road's source: src itself or the node of its unique-list entry (R223). -/
def withSource (s : State) (c : Nat) (r : Run) (src : Nat) (k : Nat → State → Run → RowRes) : RowRes :=
  match r.num 7 with
  | n + 1 => k n s r
  | 0 =>
    if (gTable r).key then k src s (keyed r src)
    else aRead s c r (hopUniqueAt r + 8 * src) 8 (fun b s r => k (fieldAt b 0 5) s (keyed r (fieldAt b 0 5)))

/-- Index `n` of the index tensor (R88). -/
def withIndex (s : State) (c : Nat) (r : Run) (n : Nat) (k : Nat → State → Run → RowRes) : RowRes :=
  match r.num 7 with
  | m + 1 => k m s r
  | 0 =>
    let z := if cbit r.word 33 then 8 else 4
    aRead s c r (gIdx r + n * z) z (fun b s r => k (leNat b) s (keyed r (leNat b)))

/-- The row in hand is left. -/
def leaveRow (r : Run) : Run := (r.setNum 6 0).setNum 7 0

/-- The range table of a ranged table is read before the entry, once (R248, R250). -/
def withRanges (s : State) (c : Nat) (r : Run) (k : State → Run → RowRes) : RowRes :=
  if (gTable r).ranged && r.await.isNone && !r.passed then aRead s c r (gTable r).ranges (16 * (gTable r).rangeCount) (fun _ s r => k s r)
  else k s r

/-- The directory entry of the row in hand, read once; an unplaced row, and one that no range holds, is dropped (R250). -/
def withEntry (s : State) (c : Nat) (r : Run) (key : Nat) (drop : State → Run → RowRes) (k : DirEnt → State → Run → RowRes) :
    RowRes :=
  match r.num 6 with
  | n + 1 => k (dirEnt n) s r
  | 0 => withRanges s c r (fun s r => match entryAt s (gTable r) key with
    | none => drop s r
    | some (dev, a) => aFetch s c r (toDev s dev a) (dev * 2 ^ 48 + a) 8 (fun b s r =>
        if (dirEnt (leNat b)).unplaced then drop s r else k (dirEnt (leNat b)) s (r.setNum 6 (leNat b + 1))))

/-- A source is dropped (R88, R231). -/
def dropIndex (s : State) (c : Nat) : State := s.count (COR_INDEX_DROPPED c) 1

/-- The command reports FORWARDED (R12, R13, R223). -/
def noteForward (s : State) (c : Nat) : State :=
  s.onCore c (fun k => { k with cmd := k.cmd.map (fun m => { m with forwarded := true }) })

/-- The command reports LIMIT when the program ends, unless an earlier failure stands (R255). -/
def noteLimit (s : State) (c : Nat) : State :=
  s.onCore c (fun k => { k with cmd := k.cmd.map (fun m => if m.failed = 0 then { m with failed := 0x0B, detail := 0x7010 } else m) })

/-- A prefetched row that serves a key, of the Drover that serves the core (R218, R219, R223). -/
def prefetched (s : State) (c : Nat) (r : Run) (key : Nat) : Option PfRow :=
  if !gRoad r.word then none else
    (s.drover (droverOf s.grade (c / 8))).rows.find? (fun p =>
      decide (p.step = r.num 15) && decide (p.fold = c / 8) && decide (p.desc = r.bases.getD 1 0) && decide (p.key = key) &&
        decide (p.elems = (gTable r).elems) && decide (p.col0 ≤ gCol0 r) && decide (gCol0 r + gCols r ≤ p.col0 + p.ncols))

/-- The sub-row of a prefetched row. -/
def PfRow.vals (p : PfRow) (col0 n : Nat) : List FVal :=
  let e := dirEnt p.entry
  ((rowVals e.addr e.cls p.elems p.col0 p.ncols p.bytes).drop (col0 - p.col0)).take n

/-- A violation by a request for the values of a placed row, if any (R22, R425). -/
def rowBad (s : State) (c kind : Nat) (e : DirEnt) (elems col0 n : Nat) : Option Nat :=
  let (lo, hi) := colSpan e.cls col0 n
  if !rowPlaced e.addr e.cls elems then none
  else if e.dev = s.devId ∧ !mapped s (e.addr + lo) (hi - lo) then some 0x1002
  else if !permitted s (2 + c) e.dev (e.addr + lo) (hi - lo) kind then some 0x1001
  else none

/-! ### Rows without aggregation (R224, R225, R252) -/

/-- The row in hand has moved: the new entry is learnt, and the row is asked for again (R223, R268); an entry whose atom is
uncorrectable fails the instruction (R279). -/
def rowMoved (s : State) (c : Nat) (r : Run) (key entry : Nat) : RowRes :=
  let (ue, s1) := learnEntry s (gTable r) key entry
  .more (noteForward s1 c) ({ r with await := none, resp := none, ue := r.ue || ue }.setNum 6 (entry + 1))

/-- Ask for the row in hand at its home. -/
def askRow (s : State) (c : Nat) (r : Run) (key : Nat) (e : DirEnt) (refused : State → Run → RowRes)
    (k : List FVal → State → Run → RowRes) : RowRes :=
  let t := gTable r
  let g := e.dev * 2 ^ 48 + e.addr
  let vals (b : List Byte) : List FVal := rowVals e.addr e.cls t.elems (gCol0 r) (gCols r) b
  match r.await, r.resp with
  | some _, none => .wait s r 1
  | some _, some (st, args, b) =>
    let r1 := { r with await := none, resp := none }
    if st = 0 ∨ st = 0x06 then k (vals b) s { r1 with ue := r1.ue || decide (st = 0x06) }
    else if st = 0x0A then rowMoved s c r1 key (args.getD 0 0)
    else if st = 0x02 then refused s (r1.refuse 0)
    else .stop (answerStop (putRun s c r1) c st kRead g)
  | none, _ =>
    if gated s (aMst c) then .wait s r 1
    else match rowBad s c kRead e t.elems (gCol0 r) (gCols r) with
    | some code => .stop (astreamBad s c code kRead g)
    | none =>
      if e.dev = s.devId then
        if waits s e.addr then .wait s r 1
        else match nsrRow s s.devId e.addr e.cls t.elems (gCol0 r) (gCols r) with
          | .got b ue s1 => k (vals b) s1 { r with ue := r.ue || ue }
          | .moved w s1 => rowMoved s1 c r key w
          | .refused s1 => refused s1 (r.refuse 0)
      else
        let (tag, s1) := s.request 0x04 e.dev g [e.cls, t.elems, gCol0 r, gCols r] [] (.run c r.rid)
        .wait s1 { r with await := some tag, resp := none } 1

/-- The format of a queue's elements. -/
def qFmt (k : Core) (q : Nat) : FFmt := match k.fmtOf q with | some (.flt f _) => f | _ => .fp32

/-- A row of a queue that begins with codes; the rest is +0.0, and what is beyond the row is not delivered (R88). -/
def codesRow (k : Core) (q : Nat) (codes : List Nat) : List Byte := padTo (k.queue q).size 0 (rowBytes (qFmt k q).bits codes)

/-- Push the row of the index in hand. -/
def deliverRow (s : State) (c : Nat) (r : Run) (vals : List FVal) : RowRes :=
  let k := s.core c
  let q := gQueue r.word
  let row := codesRow k q (vals.map (convF (qFmt k q) .rne true 0))
  .more (pushRow s c q row) (leaveRow { r with row := r.row + 1, taken := if r.chk then r.taken ++ row else [] })

/-- The row of a key: dropped, prefetched, or asked for. -/
def gatherKey (key : Nat) (s : State) (c : Nat) (r : Run) : RowRes :=
  let drop (s : State) (r : Run) : RowRes := deliverRow (dropIndex s c) c r []
  if bitOf (r.num 5) 1 then deliverRow s c r []
  else if (gTable r).rows ≤ key then drop s r
  else if gBarred r then deliverRow s c r []
  else match (if r.num 6 = 0 ∧ r.await = none then prefetched s c r key else none) with
    | some p => if p.check = 3 then deliverRow s c r (p.vals (gCol0 r) (gCols r)) else .wait s r 7
    | none => withEntry s c r key drop (fun e s r => askRow s c r key e (fun s r => deliverRow s c r []) (fun v s r => deliverRow s c r v))

/-- One row of a GATHER with agg 0. -/
def gatherPlain (s : State) (c : Nat) (r : Run) : RowRes :=
  if gCount r.word ≤ r.row then gatherEnd s c r
  else if ((s.core c).queue (gQueue r.word)).full then .wait s r (wRoom (gQueue r.word))
  else if gRoad r.word then
    withEdge s c r r.row (fun src _ _ s r => withSource s c r src (fun key s r => gatherKey key s c r))
  else withIndex s c r r.row (fun key s r => gatherKey key s c r)

/-! ### Aggregation (R226 to R236) -/

/-- Push what has been formed, then go on. -/
def drainOuts (s : State) (c : Nat) (r : Run) (k : State → Run → RowRes) : RowRes :=
  match r.outs with
  | [] => k s r
  | (q, row) :: t =>
    if ((s.core c).queue q).full then .wait s r (wRoom q)
    else .more (pushRow s c q row) { r with outs := t, taken := if r.chk ∧ q = gQueue r.word then r.taken ++ row else r.taken }

/-- The record in hand is done; a pushed stream of weights takes its weight (R232). -/
def nextRecord (k : Core) (r : Run) (weight : Nat) : Run :=
  let r1 := (leaveRow r).setNum 1 (r.num 1 + 1)
  if gAgg r.word = 5 ∧ companion k r.deferred r.word = 1 then pushComp k r1 [rneF .fp32 (decodeF .fp16 weight)] else r1

/-- A record is left: a weight that its companion stream takes is an element that the gather writes, and may be a NaN; its index is the
record's number (R157, log 144). -/
def leaveRecord (s : State) (c : Nat) (r : Run) (n weight : Nat) : RowRes :=
  let k := s.core c
  let r1 := nextRecord k r weight
  if gAgg r.word = 5 ∧ companion k r.deferred r.word = 1 then
    let (s2, r2) := noteNan s c r1 (k.bind (gQueue r.word + 1)).cls n (nanCodes .fp32 [rneF .fp32 (decodeF .fp16 weight)])
    .more s2 r2
  else .more s r1

/-- The FP32 code of a record's weight (R227). -/
def termWeight (k : Core) (r : Run) (n weight : Nat) : Nat :=
  if companion k r.deferred r.word = 2 then rneF .fp32 (compElem k r (n % perRow k (gQueue r.word + 1)))
  else rneF .fp32 (decodeF .fp16 weight)

/-- Take one record of the segment in hand: dropped, taken from a prefetched row, or listed to be asked for. -/
def collectRecord (s : State) (c : Nat) (r : Run) (n src weight : Nat) : RowRes :=
  let k := s.core c
  let agg := gAgg r.word
  let leave (s : State) (r : Run) : RowRes := leaveRecord s c r n weight
  if agg = 5 ∧ companion k r.deferred r.word = 2 ∧ r.num 12 ≤ n / perRow k (gQueue r.word + 1) then popComp s c r
  else if bitOf (r.num 5) 1 then leave s r
  else withSource s c r src (fun key s r =>
    let drop (s : State) (r : Run) : RowRes := leave (dropIndex s c) r
    if (gTable r).rows ≤ key then drop s r
    else if gBarred r then leave s r
    else match (if r.num 6 = 0 ∧ r.await = none then prefetched s c r key else none) with
      | some p =>
        if p.check = 3 then
          leave s ({ r with cols := takeRow agg r.cols (p.vals (gCol0 r) (gCols r)) (f32 (termWeight k r n weight)) n }.setNum 4 (r.num 4 + 1))
        else .wait s r 7
      | none => withEntry s c r key drop (fun e s r =>
        leave s (({ r with srcs := r.srcs ++ [⟨e.dev, key, ⟨e.addr, e.cls, n, termWeight k r n weight⟩⟩] } : Run).setNum 4 (r.num 4 + 1))))

/-- Sources that a request to another device lists at most: a packet carries 4,096 bytes (R304, log 96). -/
abbrev sourcesPerPacket : Nat := 200

/-- The request of the segment in hand that is sent next: the sources of the first one's home pasture, on another device as many as a
packet lists (R233, R304). `own` is this device's id. -/
def groupOf (own : Nat) (r : Run) : List Asked :=
  match r.srcs with
  | [] => []
  | x :: _ =>
    let l := r.srcs.filter (fun y => decide (y.dev = x.dev) && decide (pastureOf y.src.slot = pastureOf x.src.slot))
    if x.dev = own then l else l.take sourcesPerPacket

/-- Whether a request holds every contributing source of a one-segment destination (R233). -/
def isComplete (own : Nat) (r : Run) : Bool := decide (r.num 8 ≤ 1) && decide ((groupOf own r).length = r.num 4)

/-- A request's answer is combined (R236). -/
def combineAns (own : Nat) (r : Run) (form : Nat) (d : List Byte) : Run :=
  let g := groupOf own r
  let cols := answerCols (gAgg r.word) (gTable r).elems (gCol0 r) (gCols r) form (g.map (·.src)) d
  { r with cols := if form = 0 then cols else joinCols (gAgg r.word) r.cols cols
           srcs := r.srcs.filter (fun x => !g.contains x) }.setNum 13 (if form = 0 then 1 else r.num 13)

/-- The entry that a list of record and entry pairs gives a record. -/
def entryFor (n : Nat) : List Nat → Option Nat
  | a :: b :: t => if a = n then some b else entryFor n t
  | _ => none

/-- Sources that have moved take their new entries (R223, R268); an entry whose atom is uncorrectable fails the instruction (R279). -/
def groupMoved (s : State) (c : Nat) (r : Run) (l : List Nat) : RowRes :=
  let (ue, s1) := r.srcs.foldl (fun (p : Bool × State) x => match entryFor x.src.num l with
    | some w => let (lost, t) := learnEntry p.2 (gTable r) x.row w; (p.1 || lost, t)
    | none => p) (r.ue, s)
  let r1 := { r with ue := ue, srcs := r.srcs.map (fun x => match entryFor x.src.num l with
    | some w => ⟨(dirEnt w).dev, x.row, { x.src with slot := (dirEnt w).addr, cls := (dirEnt w).cls }⟩
    | none => x) }
  .more (noteForward s1 c) r1

/-- Sources that an NSR refuses contribute nothing (R243). -/
def groupRefused (s : State) (r : Run) (l : List Nat) : RowRes :=
  let keep := r.srcs.filter (fun x => !l.contains x.src.num)
  .more s (({ r with srcs := keep }.setNum 4 (r.num 4 - (r.srcs.length - keep.length))).refuse 0)

/-- The arguments of a reduce request (log 20). -/
def reduceArgs (own : Nat) (r : Run) : List Nat :=
  let g := groupOf own r
  [gAgg r.word, b2n (isComplete own r), if isComplete own r then r.num 4 else 0, gCol0 r, gCols r, (gTable r).elems, g.length] ++
    g.flatMap (fun x => [x.src.slot, x.src.cls, x.src.num, x.src.weight])

/-- Ask one group of the segment in hand (R233 to R236). -/
def askGroup (s : State) (c : Nat) (r : Run) (x : Asked) : RowRes :=
  let t := gTable r
  let g := groupOf s.devId r
  let at_ := x.dev * 2 ^ 48 + x.src.slot
  match r.await, r.resp with
  | some _, none => .wait s r 1
  | some _, some (st, args, b) =>
    let r1 := { r with await := none, resp := none }
    if st = 0 ∨ st = 0x06 then .more s (combineAns s.devId { r1 with ue := r1.ue || decide (st = 0x06) } (args.getD 0 0) b)
    else if st = 0x0A then groupMoved s c r1 args
    else if st = 0x02 then groupRefused s r1 args
    else .stop (answerStop (putRun s c r1) c st kRead at_)
  | none, _ =>
    if gated s (aMst c) then .wait s r 1
    else match g.findSome? (fun y =>
        (rowBad s c kRead ⟨y.dev, pastureOf y.src.slot, y.src.cls, y.src.slot % 0x1000000000 / 64, 0⟩ t.elems (gCol0 r) (gCols r)).map
          (fun code => (code, y.dev * 2 ^ 48 + y.src.slot))) with
    | some (code, a) => .stop (astreamBad s c code kRead a)
    | none =>
      if x.dev = s.devId then
        if waits s x.src.slot then .wait s r 1
        else match nsrReduce s (pastureOf x.src.slot) s.devId (gAgg r.word) t.elems (gCol0 r) (gCols r) (isComplete s.devId r) (r.num 4)
            (g.map (·.src)) with
          | .got form d ue s1 => .more s1 (combineAns s.devId { r with ue := r.ue || ue } form d)
          | .moved l s1 => groupMoved s1 c r l
          | .refused l s1 => groupRefused s1 r l
      else
        let (tag, s1) := s.request 0x05 x.dev at_ (reduceArgs s.devId r) [] (.run c r.rid)
        .wait s1 { r with await := some tag, resp := none } 1

/-- 1 / n_d in FP32, +0.0 for none (R232). -/
def recipOf (n : Nat) : Nat := if n = 0 then 0 else rneF .fp32 (divV FVal.one (ofInt false n 0))

/-- The row of a destination, all of whose segments are joined: the result in the queue's format, the NaNs that it delivers, its
companion (R88, R157, R228 to R232). -/
def finishDest (s : State) (c : Nat) (r : Run) : RowRes :=
  let k := s.core c
  let w := r.word
  let agg := gAgg w
  let q := gQueue w
  let f := qFmt k q
  let codes := (r.cols.map (fun x => if r.num 13 = 1 then x.code else x.final agg (r.num 4))).map (fun x => convF f .rne false 0 (f32 x))
  let (s1, r1) := noteNan s c r (k.bind q).cls (r.num 3 * gCols r) (nanCodes f (codes.take ((k.queue q).size * 8 / f.bits)))
  let r2 := { r1 with outs := r1.outs ++ [(q, codesRow k q codes)] }
  let r3 :=
    if companion k r.deferred w ≠ 1 then r2
    else if agg = 2 then pushComp k r2 (List.replicate (r.num 1 - r.num 14) (recipOf (r.num 4)))
    else if agg = 3 ∨ agg = 4 then
      { r2 with outs := r2.outs ++ [(q + 1, padTo (k.queue (q + 1)).size 0 ((r.cols.map (·.winner)).flatMap (leBytes 4)))] }
    else r2
  .more s1 ((r3.setNum 2 (r.num 2 + 1)).setNum 11 0)

/-- A destination slot begins: a destination's first segment starts its columns anew. -/
def beginSlot (r : Run) (nseg seg dest : Nat) : Run :=
  let r1 := (((r.setNum 11 1).setNum 8 nseg).setNum 9 seg).setNum 3 dest
  if seg = 0 then { ((r1.setNum 4 0).setNum 13 0).setNum 14 (r.num 1) with cols := noCols (gCols r) } else r1

/-- One step of an aggregating GATHER: its slots in order, of each slot its records, then its requests, then its row. -/
def gatherAgg (s : State) (c : Nat) (r : Run) : RowRes :=
  drainOuts s c r (fun s r =>
    let j := r.num 2
    if r.num 11 = 0 then
      if hopSlots r ≤ j then
        (if (flushComp (s.core c) r).outs = [] then gatherEnd s c r
         else if companion (s.core c) r.deferred r.word = 1 then .more s (flushComp (s.core c) r) else gatherEnd s c r)
      else withDest s c r j (fun nseg seg dest s r => .more s (beginSlot r nseg seg dest))
    else if r.num 11 = 1 then
      if gCount r.word ≤ r.num 1 then .more s (r.setNum 11 2)
      else withEdge s c r (r.num 1) (fun src slot weight s r =>
        if slot ≠ j then .more s (r.setNum 11 2) else collectRecord s c r (r.num 1) src weight)
    else match r.srcs with
      | x :: _ => askGroup s c r x
      | [] => if r.num 9 + 1 < r.num 8 then .more s ((r.setNum 2 (j + 1)).setNum 11 0) else finishDest s c r)

/-- One step of a GATHER. -/
def rowGather (s : State) (c : Nat) (r : Run) : RowRes :=
  if r.num 0 = 0 then gatherHeader s c r
  else if r.num 0 = 1 then gatherTable s c r
  else if gAgg r.word = 0 then gatherPlain s c r
  else gatherAgg s c r

/-! ### SCATTER_ADD (R89, R237 to R239, R253 to R255) -/

/-- The record in hand is done. -/
def nextScatter (r : Run) : Run := (leaveRow r).setNum 1 (r.num 1 + 1)

/-- Columns that a record to another device covers at most: a packet carries its 16 bytes and 4,080 more (R253, R304, log 96). -/
abbrev colsPerPacket : Nat := 1020

/-- What a row applier's answer to a record comes to (R254, R255, R268). A record to another device that did not cover the row's last
column is followed by one of the next columns. -/
def recordAnswer (s : State) (c : Nat) (r : Run) (key st word g : Nat) (bs : List Byte) (left : Bool) : RowRes :=
  let r0 : Run := { r with taken := if r.chk then r.taken ++ bs else [] }
  let done (s : State) (r : Run) : RowRes := .more s (nextScatter { r with stage := 0 })
  if st = 0 then (if left then .more s { r0 with stage := r.stage + colsPerPacket } else done s r0)
  else if st = 0x0B then done (noteLimit s c) r0
  else if st = 0x0A then rowMoved s c r key word
  else if st = 0x02 then done s (r0.refuse 3)
  else .stop (answerStop (putRun s c r) c st kWrite g)

/-- Send the gradient record of a row (R253, R254). Values of an FP64 queue, which no FP32 code holds exactly, are rounded to nearest even
(R89, log 160). -/
def sendRecord (s : State) (c : Nat) (r : Run) (key : Nat) (e : DirEnt) (vals : List FVal) : RowRes :=
  let g := e.dev * 2 ^ 48 + e.addr
  let n := if e.dev = s.devId then gCols r - r.stage else min colsPerPacket (gCols r - r.stage)
  let codes := ((vals.map (rneF .fp32)).drop r.stage).take n
  let bs := gradBytes ⟨s.devId, (gTable r).id, c, key, gCol0 r + r.stage, n, s.stepLo⟩ codes
  let left := decide (r.stage + n < gCols r)
  match r.await, r.resp with
  | some _, none => .wait s r 1
  | some _, some (st, args, _) => recordAnswer s c { r with await := none, resp := none } key st (args.getD 0 0) g r.part left
  | none, _ =>
    if gated s (aMst c) then .wait s r 1
    else match rowBad s c kWrite e (gTable r).elems (gCol0 r) (gCols r) with
    | some code => .stop (astreamBad s c code kWrite g)
    | none =>
      let s0 := if codes.any (fun x => !(f32 x).finite) then s.setFld COL_STEP_FLAGS COL_STEP_FLAGS_nonfinite 1 else s
      if e.dev = s.devId then
        if waits s e.addr ∨ tableWaits s (gTable r).id then .wait s r 1
        else
          let (st, w, s1) := recordIn s0 e.addr s.devId bs
          recordAnswer s1 c r key st w g bs left
      else
        let (tag, s1) := s0.request 0x07 e.dev g [] bs (.run c r.rid)
        .wait s1 { r with await := some tag, resp := none, part := bs } 1

/-- The gradient record of a key, of values in hand. -/
def scatterKey (key : Nat) (s : State) (c : Nat) (r : Run) (vals : List FVal) : RowRes :=
  let drop (s : State) (r : Run) : RowRes := .more (dropIndex s c) (nextScatter r)
  if bitOf (r.num 5) 1 then .more s (nextScatter r)
  else if (gTable r).rows ≤ key then drop s r
  else if gBarred r then .more s (nextScatter r)
  else withEntry s c r key drop (fun e s r => sendRecord s c { r with part := if r.await.isSome then r.part else [] } key e vals)

/-- The gradient row in hand, widened to FP32; missing values are +0.0, and those beyond the sub-row are ignored (R89). -/
def gradVals (k : Core) (r : Run) : List FVal :=
  let f := qFmt k (gQueue r.word)
  padTo (gCols r) FVal.zero ((rowElems f.bits (r.inHand 3)).map (decodeF f))

/-- Take the next gradient row in hand, and with win its winner row (R237). -/
def popGrad (s : State) (c : Nat) (r : Run) : RowRes :=
  let q := gQueue r.word
  let withWin := gRoad r.word && gWin r.word
  match headRow s c q, (if withWin then headRow s c (q + 1) else some []) with
  | some row, some wr =>
    let s1 := popRow s c q
    .more (if withWin then popRow s1 c (q + 1) else s1) (((r.setHand 3 row).setHand 2 (if withWin then wr else r.inHand 2)).setNum 2 (r.num 2 + 1))
  | none, _ => .wait s r (wRow q)
  | _, none => .wait s r (wRow (q + 1))

/-- One record of a SCATTER_ADD with road 1, of edge record `n` (R237, R238). -/
def scatterEdge (s : State) (c : Nat) (r : Run) (n : Nat) : RowRes :=
  let k := s.core c
  let q := gQueue r.word
  let e := perRow k (q + 1)
  let pops := companion k r.deferred r.word = 2 ∧ !gWin r.word
  withEdge s c r n (fun src slot _ s r => withDest s c r slot (fun _ _ dest s r =>
    if r.num 2 = 0 ∨ dest + r.num 2 < hopFrontier r then popGrad s c r
    else if pops ∧ (r.num 12 = 0 ∨ n / e + r.num 12 < (gCount r.word - 1) / e + 1) then popComp s c r
    else
      let g := gradVals k r
      let win := rowElems 32 (r.inHand 2)
      let vals : List FVal :=
        if gWin r.word then (g.zip (rangeFrom 0 g.length)).map (fun p => if win.getD p.2 0xFFFFFFFF = n then p.1 else FVal.zero)
        else if pops then g.map (fun x => r32 (mulV x (compElem k r (n % e))))
        else g
      if gWin r.word && !(rangeFrom 0 g.length).any (fun i => decide (win.getD i 0xFFFFFFFF = n)) then .more s (nextScatter r)
      else withSource s c r src (fun key s r => scatterKey key s c r vals)))

/-- One step of a SCATTER_ADD's main phase. -/
def scatterMain (s : State) (c : Nat) (r : Run) : RowRes :=
  let i := r.num 1
  if gRoad r.word then
    if gCount r.word ≤ i then (if r.num 2 < hopFrontier r then popGrad s c r else gatherEnd s c r)
    else scatterEdge s c r (gCount r.word - 1 - i)
  else if gCount r.word ≤ i then gatherEnd s c r
  else if r.num 2 ≤ i then popGrad s c r
  else withIndex s c r i (fun key s r => scatterKey key s c r (gradVals (s.core c) r))

/-- One step of a SCATTER_ADD. -/
def rowScatter (s : State) (c : Nat) (r : Run) : RowRes :=
  if r.num 0 = 0 then gatherHeader s c r
  else if r.num 0 = 1 then gatherTable s c r
  else scatterMain s c r

/-- Index and table registers at issue. -/
def gatherBases (v : Ctx) (w : Code) : List Nat := [v.axr (cb w 106 103), v.axr (cb w 102 99)]

/-- The target of the check of a GATHER or SCATTER_ADD (R421). -/
def tgtGather (_ : State) (c : Nat) (r : Run) : Nat := queueTarget c (gQueue r.word)

/-- GATHER (R88, R223 to R236). -/
def execGather (c : Nat) (d : Bool) (a : Act) (s : State) : Out :=
  whileLive (actOn opGATHER (issueAccess rowGather tgtGather gatherBases (fun v _ => v) c d) rowGather tgtGather c false d a) s

/-- SCATTER_ADD (R89, R237 to R239). -/
def execScatterAdd (c : Nat) (d : Bool) (a : Act) (s : State) : Out :=
  whileLive (actOn opSCATTER (issueAccess rowScatter tgtGather gatherBases (fun v _ => v) c d) rowScatter tgtGather c false d a) s

end Sys2Proof.Machine
end

