-- ==== Sys2Proof/Machine/CoreX.lean ====
section
/-! DEFINITION. The X-stream's units: rows popped and pushed one at a time, the interlock on accumulator rows (R113 to
R115), and the array's instructions MLOAD, MSWAP, MSTREAM and EPI (R90 to R92, R104 to R135), with work stealing (R132 to
R134). -/

namespace Sys2Proof.Machine

/-! ### Interlock (R114) -/

/-- Accumulator rows that a running instruction touches: bank, first row, number, and whether it writes them. -/
structure Touch where
  bank : Nat
  row : Nat
  n : Nat
  wr : Bool
  deriving DecidableEq, Repr, Inhabited

/-- The rows of an operand. -/
def touchOp (n : Nat) (wr : Bool) : Opnd → List Touch
  | .acc b r => [⟨b, r, n, wr⟩]
  | _ => []

/-- The latched epilogue words and other values of an MSTREAM: its count taken, its count, its class, epilogue words 0 to
3, mask rows popped, the exchange made, one more than the row whose spill found no record, and the rows broadcast. -/
abbrev mnTaken : Nat := 0
abbrev mnCount : Nat := 1
abbrev mnCls : Nat := 2
abbrev mnEpi : Nat := 3
abbrev mnMask : Nat := 7
abbrev mnSwap : Nat := 8
abbrev mnSpill : Nat := 9
abbrev mnShown : Nat := 10

/-- The rows of the statistics of a whole-mode epilogue (R123). -/
def statRow (w0 i : Nat) : Nat := (bitsOf w0 31 21 + i / 256) % 2048

/-- The rows that a running X-stream instruction touches (R114, R134, R135): class C in normal service writes the
compensation in bank B as well (R38). An MSTREAM whose count is not taken may write any row of its statistics. -/
def touches (split : Nat) (shadow : Bool) (r : Run) : List Touch :=
  let w := r.word
  let op := opcode w
  if op = opMSTREAM then
    let n := if r.num mnTaken = 0 then 2048 - cb w 62 52 else r.num mnCount
    if !cbit w 118 then
      let done := r.num mnTaken ≠ 0 ∧ r.num mnCount ≤ r.row
      let other := (shadow && !cbit w 117 && cb w 51 51 == 0) || (!shadow && classed (cb w 50 48) && decide (r.num mnCls = 2))
      if done then []
      else ⟨cb w 51 51, cb w 62 52, n, true⟩ :: (if other then [⟨1, cb w 62 52, n, true⟩] else [])
    else if cbit w 114 then
      (if split = 0 then
        (if r.num mnTaken = 0 then [⟨0, 0, 2048, true⟩]
         else (rangeFrom 0 (min 2048 ((n + 255) / 256))).map (fun k => ⟨0, statRow (r.num mnEpi) (256 * k), 1, true⟩))
       else
        let w2 := r.num (mnEpi + 2)
        (if bitOf (r.num mnEpi) 0 then [⟨bitsOf w2 31 31, bitsOf w2 30 20, 1, false⟩] else []) ++
          (if bitOf (r.num mnEpi) 1 then [⟨bitsOf w2 19 19, bitsOf w2 18 8, 1, false⟩] else []))
    else []
  else if vecOps.contains op then
    touchOp (vRows w) false (opA w) ++ (if isUnary op then [] else touchOp (vRows w) false (opB w)) ++
      touchOp (vRows w) true (opD w)
  else if op = opCVT then touchOp (vRows w) false (opA w) ++ touchOp (vRows w) true (opD w)
  else if op = opREDUCE then
    touchOp (vRows w) false (opA w) ++ touchOp (if cbit w 114 then (vRows w + 511) / 512 else 1) true (opD w)
  else []

/-- Whether two sets of rows overlap with a write among them. -/
def clash (a b : Touch) : Bool :=
  (a.wr || b.wr) && decide (0 < a.n) && decide (0 < b.n) && decide (a.bank = b.bank) && decide (a.row < b.row + b.n) && decide (b.row < a.row + a.n)

/-- Whether an instruction must wait for an older one of another unit (R114). -/
def interlocked (s : State) (c : Nat) (r : Run) : Bool :=
  let k := s.core c
  let split := splitOf s c
  let shadow := s.bit (COR_MODE c) COR_MODE_service
  let mine := touches split shadow r
  k.runs.any (fun o => decide (o.rid < r.rid) && decide (o.unit ≠ r.unit) && o.x &&
    (touches split shadow o).any (fun a => mine.any (clash a)))

/-! ### One row of an X-stream instruction -/

/-- Push what has been formed, then pop what the next row needs, then let the body form its rows (R33). `qs` are the
queues popped for a row, in order. A row of the wrong size stops the core at the push; formats are settled at issue (R139). -/
def xStep (total : Nat) (qs : List Nat) (ready : Bool)
    (body : State → Run → RowRes) (s : State) (c : Nat) (r : Run) : RowRes :=
  let k := s.core c
  match r.outs with
  | (q, row) :: t =>
    if row.length ≠ (k.queue q).size then .stop (wrongRow s c r.addr)
    else if (k.queue q).full then .wait s r (wRoom q)
    else .more (pushRow s c q row) { r with outs := t }
  | [] =>
    if total ≤ r.row then .done s r
    else if !ready then .wait s { r with stage := 4 } 1
    else match qs[r.hand.length]? with
      | some q =>
        match headRow s c q with
        | some row => .more (popRow s c q) { r with hand := r.hand ++ [row], stage := 0 }
        | none => .wait s { r with stage := 0 } (wRow q)
      | none => body s { r with stage := 0 }

/-- The element codes of a row in a queue's format. -/
def Core.elems (k : Core) (q : Nat) (row : List Byte) : List Nat :=
  match k.fmtOf q with
  | some e => rowElems e.bits row
  | none => []

/-! ### MLOAD (R104, R106, R108, R126 to R131, R145) -/

/-- Value rows that an MLOAD of a plane takes in all: 128 of a dense tile or a sparse-capable one, 256 of a dense-marked
one. -/
def Plane.rowsIn (p : Plane) : Nat := if p.tile24 && !p.sparseKind then 256 else 128

/-- Value rows between two scale rows of a plane (R126, R145). -/
def Plane.rowsPerScale (p : Plane) : Nat := if p.tile24 && p.sparseKind then 16 else 32

/-- What the fill of a plane pops next, up to the given numbers of value and metadata rows: 0 a metadata row, 1 a scale
row, 2 a value row; none when it is complete. -/
def fillNext (w : Code) (p : Plane) (vals metas : Nat) : Option Nat :=
  if p.meta24.length < metas then some 0
  else if cbit w 115 && decide (p.scales.length < p.vals.length / p.rowsPerScale) then some 1
  else if p.vals.length < vals then some 2
  else none

/-- The queue of a fill step. -/
def fillQueue (w : Code) (what : Nat) : Nat :=
  if what = 0 then cb w 106 102 else if what = 1 then cb w 101 97 else cb w 111 107

/-- Invalid metadata entries of a row of a sparse-capable tile (R128). -/
def badMeta (width : Nat) (row : List Byte) : Nat :=
  ((padTo width 0 (rowElems 4 row)).filter (fun e => decide (e / 4 ≤ e % 4))).length

/-- Add a popped row to a plane. -/
def Plane.take (p : Plane) (what : Nat) (row : List Byte) : Plane :=
  if what = 0 then { p with meta24 := p.meta24 ++ [row] }
  else if what = 1 then { p with scales := p.scales ++ [row] }
  else { p with vals := p.vals ++ [row] }

/-- One row of a fill: pop it and put it in place; invalid entries count 2 each in COR_INDEX_DROPPED. -/
def fillRow (shadow : Bool) (vals metas : Nat) (s : State) (c sub : Nat) (r : Run) (w : Code) : RowRes :=
  let x := (s.core c).sub sub
  let p := if shadow then x.shadow else x.active
  match fillNext w p vals metas with
  | none => .done s r
  | some what =>
    match headRow s c (fillQueue w what) with
    | none => .wait s r (wRow (fillQueue w what))
    | some row =>
      let p1 := p.take what row
      let s1 := (popRow s c (fillQueue w what)).onCore c (fun k =>
        k.setSub sub (if shadow then { k.sub sub with shadow := p1 } else { k.sub sub with active := p1 }))
      let s2 := if what = 0 ∧ p.sparseKind then s1.count (COR_INDEX_DROPPED c) (2 * badMeta (widthOf s c) row) else s1
      .more s2 r

/-- The format class of a value format (R105): 4, 8 or 16. -/
def fmtClass (code : Nat) : Nat :=
  match baseFmt code with
  | .p4 => 4
  | .e4m3 => 8
  | .e5m2 => 8
  | _ => 16

/-- The break-even field of a format class (R130). -/
def breakEven (s : State) (c code : Nat) : Nat :=
  let f := if fmtClass code = 4 then COR_ARR_SEL_be_4 else if fmtClass code = 8 then COR_ARR_SEL_be_8 else COR_ARR_SEL_be_16
  s.fld (COR_ARR_SEL c) f

/-- Whether a 2:4 tile is served dense (R130). -/
def servedDense (s : State) (c : Nat) (w : Code) (code kind nnz : Nat) : Bool :=
  decide (kind = 1) || decide (cb w 117 116 = 1) ||
    (decide (cb w 117 116 = 0) && s.bit (COR_ARR_SEL c) COR_ARR_SEL_policy &&
      decide (nnz < breakEven s c code * widthOf s c))

/-- Whether a density descriptor is good for a sub-array (R126, R128). -/
def descGood (w : Nat) (row : List Byte) : Bool :=
  decide (fieldAt row 0 1 = 0xD4) && decide (fieldAt row 1 1 ≤ 1) &&
    decide (fieldAt row 2 2 = if fieldAt row 1 1 = 0 then 128 else 256) && decide (fieldAt row 16 2 = w)

/-- A tile's descriptor: its service is decided and counted (R128, R130). -/
def takeDescriptor (s : State) (c sub : Nat) (r : Run) : RowRes :=
  let w := r.word
  let mq := cb w 106 102
  match headRow s c mq with
  | none => .wait s r (wRow mq)
  | some row =>
    let s1 := popRow s c mq
    if !descGood (widthOf s c) row then .stop (s1.coreTrap c 0x02 0x6003 r.addr)
    else
      let code := ((s.core c).queue (cb w 111 107)).fmt
      let dense := servedDense s c w code (fieldAt row 1 1) (fieldAt row 4 4)
      let s2 := s1.onCore c (fun k => k.setSub sub { k.sub sub with
        shadow := { (k.sub sub).shadow with tile24 := true, sparseKind := decide (fieldAt row 1 1 = 0), dense := dense } })
      .more (s2.count (if dense then COR_ARR_TILES_DENSE c else COR_ARR_TILES_SPARSE c) 1) { r with row := 1 }

/-- One step of an MLOAD: the descriptor first for a 2:4 tile, then its rows; a dense-served 2:4 tile takes the half of
groups 0 to 31 here and the rest at the MSWAP (R131). -/
def rowMload (s : State) (c : Nat) (r : Run) : RowRes :=
  let w := r.word
  let sub := subOf w
  if cbit w 118 && decide (r.row = 0) then takeDescriptor s c sub r
  else
    let p := ((s.core c).sub sub).shadow
    let half := p.tile24 && p.dense
    match fillRow true (if half then p.rowsIn / 2 else p.rowsIn) (if p.tile24 then (if half then 32 else 64) else 0)
        s c sub r w with
    | .done s1 r1 =>
      .done (s1.onCore c (fun k => k.setSub sub { k.sub sub with filled := true })) r1
    | x => x

/-- No check's target. -/
def tgtNone (_ : State) (_ : Nat) (_ : Run) : Nat := 0

/-- Whether an MSTREAM in a semiring mode gives a plane dense service (R120, R131). -/
def Plane.denseIn (p : Plane) (semi : Nat) : Bool := p.dense || (p.tile24 && decide (semi ≠ 0))

/-- The steal within the core that a lane makes. -/
def Core.stealOf (k : Core) (sub : Nat) : Option Steal := k.steals.find? (fun z => !z.cross && decide (z.lane = sub))

/-- Whether a steal's chunk is still to be delivered (R133). -/
def Core.owes (k : Core) (z : Steal) : Bool := k.runs.any (fun r => decide (r.rid = z.rid) && decide (r.row < z.limit))

/-- An instruction that names a sub-array whose lane steals waits until the chunk in hand has been delivered; the steal then
ends (R133). While the core steals from another, every sub-array waits (R134, log 145). -/
def onLane (c sub : Nat) (d : Bool) (f : State → State) (s : State) : State :=
  if s.stealsAcross c then s.stall c true d 8 else
  match (s.core c).stealOf sub with
  | none => f s
  | some z => if (s.core c).owes z then s.stall c true d 8 else f (s.onCore c (fun k => k.endSteal z))

/-- Whether no MLOAD of a sub-array may issue for the sake of its active tile in dense service (R120, R131): until the stream
lane has popped the last input row for it. An MSWAP that waits for a fill ends the tile (log 124). -/
def tileHeld (k : Core) (sub : Nat) : Bool :=
  let p := (k.sub sub).active
  match k.runs.find? (fun r => decide (r.unit = 1 + sub) && !r.streamed) with
  | some r => if opcode r.word = opMSTREAM then p.denseIn (cb r.word 50 48) else p.dense && decide (r.row ≠ 0)
  | none => p.dense && !p.used

/-- Issue of MLOAD: its fill lane is free, no filled tile waits, and the active tile does not hold it back (R108, R131). -/
def mloadOp (c : Nat) (d : Bool) (w : Code) (s : State) : State :=
  let sub := subOf w
  onLane c sub d (fun s =>
    let k := s.core c
    let x := k.sub sub
    if k.runs.any (fun r => decide (r.unit = 5 + sub)) || x.filled || tileHeld k sub then s.stall c true d 8
    else
      let p : Plane := { fmt := (k.queue (cb w 111 107)).fmt,
                         scaleFmt := if cbit w 115 then (k.queue (cb w 101 97)).fmt else 0, feed := some w }
      startAndGo rowMload tgtNone w (5 + sub) [] [] c true d (s.onCore c (fun k => k.setSub sub { x with shadow := p }))) s

/-- MLOAD (R90). -/
def execMload (c : Nat) (d : Bool) (a : Act) (s : State) : Out :=
  whileLive (actOn opMLOAD (mloadOp c d) rowMload tgtNone c true d a) s

/-! ### MSWAP (R109, R131) -/

/-- One step of an MSWAP: it waits for the fill, exchanges the planes, and takes K-block 1 of a dense-served 2:4 tile. -/
def rowMswap (s : State) (c : Nat) (r : Run) : RowRes :=
  let sub := subOf r.word
  let x := (s.core c).sub sub
  if r.row = 0 then
    (if x.filled then
      .more (s.onCore c (fun k => k.setSub sub { active := x.shadow })) { r with row := 1, stage := 5 }
    else .wait s { r with stage := 3 } 1)
  else match x.active.feed with
    | some w => if x.active.dense then fillRow false x.active.rowsIn 64 s c sub r w else .done s r
    | none => .done s r

/-- Whether the stream lane of a sub-array is busy: with an MSTREAM until its last pop (R110). -/
def laneBusy (k : Core) (sub : Nat) : Bool := k.runs.any (fun r => decide (r.unit = 1 + sub) && !r.streamed)

/-- Issue of MSWAP. -/
def mswapOp (c : Nat) (d : Bool) (w : Code) (s : State) : State :=
  onLane c (subOf w) d (fun s =>
    if laneBusy (s.core c) (subOf w) then s.stall c true d 8
    else startAndGo rowMswap tgtNone w (1 + subOf w) [] [] c true d s) s

/-- MSWAP (R90). -/
def execMswap (c : Nat) (d : Bool) (a : Act) (s : State) : Out :=
  whileLive (actOn opMSWAP (mswapOp c d) rowMswap tgtNone c true d a) s

/-! ### EPI (R121, R135) -/

/-- An EPI that writes word 3 discards the rest of a head row of cnt_q that has been partly taken (R135). The row is that
of the queue the word named before. -/
def dropCounts (s : State) (c w3 : Nat) : State :=
  let q := bitsOf w3 62 58
  if bitOf w3 63 ∧ 0 < ((s.core c).queue q).cntPos then
    (popRow s c q).onCore c (fun k => k.setQueue q { k.queue q with cntPos := 0 })
  else s

/-- EPI: one configuration word. -/
def epiOp (c : Nat) (d : Bool) (w : Code) (s : State) : State :=
  let sub := subOf w
  let word := cb w 94 93
  onLane c sub d (fun s =>
    if laneBusy (s.core c) sub then s.stall c true d 8
    else
      let off := COR_ARR_EPI c (sub * 4 + word)
      let s1 := if word = 3 then dropCounts s c (s.reg off).toNat else s
      (s1.setReg off (BitVec.ofNat 64 (cb w 63 0))).advance c true d) s

/-- EPI (R90, R121). -/
def execEpi (c : Nat) (d : Bool) (s : State) : Out := whileLive (issueOp opEPI (epiOp c d) c true d) s

/-! ### MSTREAM (R90 to R92, R110 to R125) -/

/-- Take a count from cnt_q (R135): its row is popped when its last element has been taken. -/
def takeCount (s : State) (c q : Nat) : Option (Nat × State) :=
  let k := s.core c
  match headRow s c q with
  | none => none
  | some row =>
    let es := rowElems 32 row
    let p := (k.queue q).cntPos
    let v := es.getD p 0
    let s1 := if p + 1 < es.length then s.onCore c (fun k => k.setQueue q { k.queue q with cntPos := p + 1 })
      else (popRow s c q).onCore c (fun k => k.setQueue q { k.queue q with cntPos := 0 })
    some (v, s1)

/-- The active tile has had its last input row (R131). -/
def useTile (s : State) (c : Nat) (w : Code) : State :=
  s.onCore c (fun k => k.setSub (subOf w) { k.sub (subOf w) with active := { (k.sub (subOf w)).active with used := true } })

/-- What an MSTREAM settles before its first row: its count, where 0 ends it at once, the accumulator range, the class of the
segments it adds to, and the exchange of R125. It waits behind an older one of its lane whose outputs are not yet pushed
(R110, log 124). None when all is settled. -/
def mstreamHead (s : State) (c : Nat) (r : Run) : Option RowRes :=
  let w := r.word
  let k := s.core c
  let shadow := s.bit (COR_MODE c) COR_MODE_service
  let bank := cb w 51 51
  let row := cb w 62 52
  let n := r.num mnCount
  if r.num mnTaken = 0 then
    match takeCount s c (bitsOf (r.num (mnEpi + 3)) 62 58) with
    | none => some (.wait s r (wRow (bitsOf (r.num (mnEpi + 3)) 62 58)))
    | some (v, s1) =>
      if !cbit w 118 ∧ row + v > 2048 then some (.stop (s1.coreTrap c 0x02 0x6005 r.addr))
      else some (.more s1 ((r.setNum mnTaken 1).setNum mnCount v))
  else if n = 0 then some (.done (useTile s c w) r)
  else if k.runs.any (fun o => decide (o.rid < r.rid) && decide (o.unit = r.unit) && decide (o.outs ≠ [])) then
    some (.wait s { r with stage := 4 } 1)
  else if interlocked s c r then some (.wait s { r with stage := 4 } 1)
  else if r.num mnSwap = 0 then
    if !cbit w 118 && cbit w 117 && classed (cb w 50 48) && !k.prog.wydak &&
        (rangeFrom row n).any (fun i => !classFits k bank i (subOf w) (r.num mnCls)) then
      some (.stop (s.coreTrap c 0x02 0x6005 r.addr))
    else
      let s1 := if !cbit w 118 && !cbit w 117 && shadow && bank == 0 then
          (rangeFrom row n).foldl (exchangeSeg (subOf w) c) s else s
      some (.more s1 (r.setNum mnSwap 1))
  else none

/-- Deliver the values of an output row to an accumulator row segment. A NaN is looked for before a spill takes the values
(R157, R171). -/
def toAcc (s : State) (c : Nat) (r : Run) (i : Nat) (vs : List FVal) : State × Run :=
  let w := r.word
  let bank := cb w 51 51
  let row := cb w 62 52 + i
  let sub := subOf w
  let semi := cb w 50 48
  let add := cbit w 117
  let wd := widthOf s c
  let wy := (s.core c).prog.wydak
  let s1 :=
    if wy then
      (if add then putAcc (s.meetCore c [accWords bank row (sub * wd) wd]) c bank row (sub * wd) (vs.map (rneF .fp32))
       else (putAcc s c bank row (sub * wd) (vs.map (rneF .fp32))).onCore c (fun k => k.setSeg bank row sub {}))
    else if classed semi then (if add then segAdd s c bank row sub (r.num mnCls) vs else segOverwrite s c bank row sub (r.num mnCls) vs)
    else segCombine s c bank row sub semi add vs
  let (s2, r2) := noteNan s1 c r (r.num mnCls) (i * 512 + sub * wd) (nanCodes .fp32 (accCodes s1 c bank row (sub * wd) wd))
  let (ok, s3) := if classed semi && add && !wy then segSpill s2 c bank row sub (r.num mnCls) else (true, s2)
  (s3, if ok then r2 else r2.setNum mnSpill (row + 1))

/-- Write the statistics pair of row i (R123): a vector write of its two columns. -/
def putStats (s : State) (c : Nat) (r : Run) (i : Nat) (m v : Nat) : State × Run :=
  let row := statRow (r.num mnEpi) i
  let col := 2 * (i % 256)
  let wd := widthOf s c
  let s1 := (putAcc s c 0 row col [m, v]).onCore c (fun k => k.setSeg 0 row (col / wd) {})
  noteNan s1 c r (r.num mnCls) (i / 256 * 512 + col) (nanCodes .fp32 [m, v])

/-- The destination format of an epilogue. -/
def qoutFmt (k : Core) (w : Code) : FFmt := baseFmt (k.queue (cb w 106 102)).fmt

/-- Deliver the values of an output row to qout: raw, or through the split-mode or the whole-mode epilogue (R121 to
R123). -/
def toQout (s : State) (c : Nat) (r : Run) (i : Nat) (vs : List FVal) : State × Run :=
  let w := r.word
  let q := cb w 106 102
  let wd := widthOf s c
  let f := qoutFmt (s.core c) w
  let cls := r.num mnCls
  let w0 := r.num mnEpi
  let w1 := r.num (mnEpi + 1)
  let w2 := r.num (mnEpi + 2)
  if !cbit w 114 then
    let cs := vs.map (rneF .fp32)
    noteNan s c { r with outs := [(q, rowBytes 32 cs)] } cls (i * wd) (nanCodes .fp32 cs)
  else if splitOf s c ≠ 0 then
    let s1 := if bitOf w0 0 then finalRow s c (bitsOf w2 31 31) (bitsOf w2 30 20) wd else s
    let s2 := if bitOf w0 1 then finalRow s1 c (bitsOf w2 19 19) (bitsOf w2 18 8) wd else s1
    let cs := accCodes s2 c (bitsOf w2 31 31) (bitsOf w2 30 20) 0 wd
    let bs := accCodes s2 c (bitsOf w2 19 19) (bitsOf w2 18 8) 0 wd
    let es := (vs.zip (rangeFrom 0 wd)).map (fun p => epiSplit s2 c w0 w1 w2 f cs bs p.2 (i * wd + p.2) p.1)
    noteNan s2 c { r with outs := [(q, rowBytes f.bits es)] } cls (i * wd) (nanCodes f es)
  else
    let ys := vs.map (fun v => if bitOf w0 4 then r32 (mulV v (f32 (bitsOf w0 63 32))) else v)
    let es := (ys.zip (rangeFrom 0 wd)).map (fun p => epiConv s c f (bitsOf w0 3 2) (bitsOf w2 63 32) (i * wd + p.2) p.1)
    let (s1, r1) := noteNan s c { r with outs := [(q, rowBytes f.bits es)] } cls (i * wd) (nanCodes f es)
    let row := statRow w0 i
    let col := 2 * (i % 256)
    let s2 := if bitOf w0 20 then s1 else finalRow s1 c 0 row (col + 2)
    let old := accCodes s2 c 0 row col 2
    let (m0, v0) := if bitOf w0 20 then (0xFF800000, 0) else (old.getD 0 0, old.getD 1 0)
    let valid := if bitsOf w1 9 0 = 0 then 512 else bitsOf w1 9 0
    let (m, v) := epiStats m0 v0 (ys.take valid)
    putStats s2 c r1 i m v

/-- Cycles that an input row takes (R105, R118, R131), in halves. -/
def rowHalfCycles (k : Core) (w : Code) : Nat :=
  let p := (k.sub (subOf w)).active
  let a := fmtClass (k.queue (cb w 111 107)).fmt
  let b := fmtClass p.fmt
  let m := max a b
  let base := if m = 16 then 4 else if m = 8 ∨ cb w 50 48 ≠ 0 then 2 else 1
  (if p.dense || (p.tile24 && decide (cb w 50 48 ≠ 0)) then 2 else 1) * (if k.prog.wydak then 8 else 1) * base

/-- Whether an input row is masked (R91). -/
def maskedAt (r : Run) (i : Nat) : Bool := cbit r.word 112 && bitOf (leNat r.taken) (i % max 1 (8 * r.taken.length))

/-- Count an input row: masked, or broadcast in its cycles, of which one that two rows share counts once (R105, R136,
R137). Cycles in which two lanes broadcast at once count once for each (log 164). -/
def showRow (s : State) (c : Nat) (r : Run) (masked : Bool) : State × Run :=
  if masked then (s.count (COR_ARR_ROWS_MASKED c) 1, r)
  else
    let h := rowHalfCycles (s.core c) r.word
    let n := r.num mnShown
    (s.wide (COR_ARR_ACTIVE_CYCLES c) ((h * (n + 1) + 1) / 2 - (h * n + 1) / 2), r.setNum mnShown (n + 1))

/-- The output values of input row `i`, with its value and scale rows in hand, against a plane. -/
def streamVals (s : State) (c : Nat) (r : Run) (i : Nat) (p : Plane) (hand : List (List Byte)) : List FVal :=
  let w := r.word
  let k := s.core c
  let wd := widthOf s c
  let inp : InRow := { fmt := (k.queue (cb w 111 107)).fmt, row := hand.getD 0 [],
                       scaleFmt := if cbit w 113 then (k.queue (cb w 101 97)).fmt else 0, scales := hand.getD 1 [] }
  let thr := f32 (bitsOf (r.num (mnEpi + 3)) 31 0)
  if k.prog.wydak then
    let start := if !cbit w 118 && cbit w 117 then
        (accCodes s c (cb w 51 51) (cb w 62 52 + i) (subOf w * wd) wd).map f32 else List.replicate wd FVal.zero
    (start.zip (rangeFrom 0 wd)).map (fun q => wydakVal (cb w 50 48) thr p inp q.2 q.1)
  else arrayRow (cb w 50 48) thr p inp wd

/-- Deliver output row `i`: a masked row is +0.0, and with op ADD leaves its accumulator row as it is (R91). -/
def deliverOut (s : State) (c : Nat) (r : Run) (i : Nat) (o : Option (List FVal)) : State × Run :=
  let vs := o.getD (List.replicate (widthOf s c) FVal.zero)
  if cbit r.word 118 then toQout s c r i vs
  else if o.isNone && cbit r.word 117 then (s, r)
  else toAcc s c r i vs

/-- Output row `i` is delivered; after the last one the tile is done with. -/
def outRow (s : State) (c : Nat) (r : Run) (o : Option (List FVal)) : RowRes :=
  let (s1, r1) := deliverOut s c { r with hand := [], row := r.row + 1 } r.row o
  .more (if r.num mnCount ≤ r.row + 1 then useTile s1 c r.word else s1) r1

/-- One input row of an MSTREAM: masked rows are not streamed (R91, R136). -/
def mstreamRow (s : State) (c : Nat) (r : Run) : RowRes :=
  let masked := maskedAt r r.row
  let (s1, r1) := showRow s c r masked
  outRow s1 c r1 (if masked then none
    else some (streamVals s1 c r1 r.row ((s.core c).sub (subOf r.word)).active r.hand))

/-- The chunk, dealt to a thief, that holds the next row of an MSTREAM (R132). -/
def chunkAt (k : Core) (r : Run) : Option Steal :=
  k.steals.find? (fun z => decide (z.rid = r.rid) && decide (z.first ≤ r.row) && decide (r.row < z.limit))

/-- Whether the next row of a chunk needs a mask row, and what it waits for: the first of its rows that is not there, else its thief. -/
def chunkMask (k : Core) (r : Run) (z : Steal) : Bool :=
  cbit r.word 112 && decide (r.num mnMask ≤ (z.first + z.buf.length) / max 1 (8 * (k.queue (cb r.word 47 43)).size))

@[inherit_doc chunkMask]
def chunkWait (k : Core) (r : Run) (z : Steal) : Nat :=
  let qs := (if chunkMask k r z then [cb r.word 47 43] else []) ++ [cb r.word 111 107] ++ (if cbit r.word 113 then [cb r.word 101 97] else [])
  match qs.find? (fun q => decide ((k.queue q).rows = [])) with
  | some q => wRow q
  | none => 1

/-- The next row of an MSTREAM lies in a thief's chunk: from the partial buffer it is delivered in its place (R133); rows that
another core has taken are passed over, and are combined when they arrive (R134). -/
def stolenRow (s : State) (c : Nat) (r : Run) (z : Steal) : RowRes :=
  if z.cross then
    (if z.buf.length < z.limit - z.first then .wait s r (chunkWait (s.core c) r z)
     else .more (if r.num mnCount ≤ z.limit then useTile s c r.word else s) { r with row := z.limit })
  else match z.buf[r.row - z.first]? with
    | some o => outRow s c r (o.map (fun l => l.map f32))
    | none => .wait s r (chunkWait (s.core c) r z)

/-- The end of an MSTREAM: it waits for rows that another core still holds (R134), and a spill that found no record stops the
X-stream after it (R176). -/
def mstreamEnd (s : State) (c : Nat) (r : Run) : RowRes :=
  if (s.core c).steals.any (fun z => z.cross && decide (z.rid = r.rid)) then .wait s { r with stage := 1 } 1
  else if r.num mnSpill = 0 then .done s r
  else .stop ((((dropRun s c r).log 0x600A 1 c c (s.core c).prog.gen (r.num mnSpill - 1) (subOf r.word)).msixBoth 0).coreStop c
    0x0B 0x600A)

/-- The next row of an MSTREAM that its own lane takes: its mask row, its input row and scales, its output. -/
def ownRow (s : State) (c : Nat) (r : Run) : RowRes :=
  let w := r.word
  let bits := max 1 (8 * ((s.core c).queue (cb w 47 43)).size)
  if cbit w 112 && decide (r.outs = []) && decide (r.num mnMask ≤ r.row / bits) then
    match headRow s c (cb w 47 43) with
    | none => .wait s r (wRow (cb w 47 43))
    | some row => .more (popRow s c (cb w 47 43)) ({ r with taken := row }.setNum mnMask (r.num mnMask + 1))
  else xStep (r.num mnCount) ([cb w 111 107] ++ (if cbit w 113 then [cb w 101 97] else [])) true
    (fun s r => mstreamRow s c r) s c r

/-- One step of an MSTREAM: its outputs in hand, its head, then its next row. -/
def rowMstream (s : State) (c : Nat) (r : Run) : RowRes :=
  if r.outs ≠ [] then ownRow s c r
  else match mstreamHead s c r with
    | some x => x
    | none =>
      if r.num mnCount ≤ r.row then mstreamEnd s c r
      else match chunkAt (s.core c) r with
        | some z => stolenRow s c r z
        | none => ownRow s c r

/-- Issue of MSTREAM: its semiring mode, class and epilogue words are latched (R110). -/
def mstreamOp (c : Nat) (d : Bool) (w : Code) (s : State) : State :=
  let sub := subOf w
  onLane c sub d (fun s =>
    if laneBusy (s.core c) sub then s.stall c true d 8
    else
      let e (k : Nat) : Nat := (s.reg (COR_ARR_EPI c (sub * 4 + k))).toNat
      let cnt := bitOf (e 3) 63
      startAndGo rowMstream tgtNone w (1 + sub) []
        [b2n (!cnt), if cnt then 0 else mRows w, streamClass (s.core c) w, e 0, e 1, e 2, e 3, 0, 0, 0, 0] c true d s) s

/-- MSTREAM (R90). -/
def execMstream (c : Nat) (d : Bool) (a : Act) (s : State) : Out :=
  whileLive (actOn opMSTREAM (mstreamOp c d) rowMstream tgtNone c true d a) s

/-! ### Work stealing (R132 to R134) -/

/-- The MSTREAM whose rows a lane streams. -/
def laneStream (k : Core) (sub : Nat) : Option Run :=
  k.runs.find? (fun r => decide (r.unit = 1 + sub) && decide (opcode r.word = opMSTREAM) && !r.streamed)

/-- Whether a lane is idle for stealing (R132): no MSTREAM of its own runs, its fill lane is not busy, and the next X-stream
instruction does not name its sub-array. One whose active tile is in dense service may steal too, and keeps its tile whole (R131, log
162). -/
def laneIdle (k : Core) (sub : Nat) : Bool :=
  let d := k.xDef
  let next := k.wordAt true (k.ctx true d).pos
  !k.runs.any (fun r => decide (r.unit = 1 + sub) && decide (opcode r.word = opMSTREAM)) &&
    !k.runs.any (fun r => decide (r.unit = 5 + sub)) && !(k.sub sub).filled &&
    (match next with
     | some w => !([opMLOAD, opMSWAP, opMSTREAM, opEPI].contains (opcode w) && decide (subOf w = sub))
     | none => true)

/-- The first row of an MSTREAM that is not yet popped nor dealt. -/
def nextRow (k : Core) (r : Run) : Nat :=
  (k.steals.filter (fun z => decide (z.rid = r.rid))).foldl (fun a z => max a z.limit) r.row

/-- Whether the next chunk of an MSTREAM can be dealt: its count is taken, it has no row in hand, and every chunk before has
been popped (R132). -/
def dealable (k : Core) (r : Run) : Bool :=
  decide (r.num mnTaken = 1) && decide (r.hand = []) && decide (nextRow k r < r.num mnCount) &&
    (k.steals.filter (fun z => decide (z.rid = r.rid))).all (fun z => decide (z.buf.length = z.limit - z.first))

/-- Whether a running MSTREAM qualifies as a victim (R132): enough rows not yet popped, on a tile not in dense service. -/
def victimOf (s : State) (c : Nat) (r : Run) : Bool :=
  let k := s.core c
  decide (s.fld (COR_ARR_STEAL c) COR_ARR_STEAL_min_rows + nextRow k r ≤ r.num mnCount) && dealable k r &&
    !(k.sub (subOf r.word)).active.denseIn (cb r.word 50 48)

/-- The victim of an idle lane of a split core: lane s + 1, then lane s − 1, modulo the lanes (R132). -/
def stealVictim (s : State) (c sub : Nat) : Option Run :=
  let k := s.core c
  let n := nSubs (splitOf s c)
  let pick (i : Nat) : Option Run := match laneStream k i with
    | some r => if victimOf s c r then some r else none
    | none => none
  if n < 2 then none else
    match pick ((sub + 1) % n) with
    | some r => some r
    | none => pick ((sub + n - 1) % n)

/-- The next row of a chunk: its mask, value and scale rows leave their queues, and its output values go into the partial
buffer. None while a row of it is not there. -/
def chunkRow (s : State) (c : Nat) (r : Run) (z : Steal) : Option (State × Run × Steal) :=
  let k := s.core c
  let w := r.word
  let i := z.first + z.buf.length
  let need := chunkMask k r z
  match (if need then headRow s c (cb w 47 43) else some r.taken), headRow s c (cb w 111 107),
      (if cbit w 113 then headRow s c (cb w 101 97) else some []) with
  | some m, some row, some sc =>
    let r1 := if need then { r with taken := m }.setNum mnMask (r.num mnMask + 1) else r
    let s1 := popRow (if need then popRow s c (cb w 47 43) else s) c (cb w 111 107)
    let s2 := if cbit w 113 then popRow s1 c (cb w 101 97) else s1
    let masked := maskedAt r1 i
    let (s3, r2) := showRow s2 c r1 masked
    some (s3, r2, { z with buf := z.buf ++ [if masked then none else some ((streamVals s3 c r2 i z.plane [row, sc]).map (rneF .fp32))] })
  | _, _, _ => none

/-- Pop rows of a chunk while they are there. Structural on the rows left. -/
def fillChunk : Nat → State → Nat → Run → Steal → State × Run × Steal
  | 0, s, _, r, z => (s, r, z)
  | n + 1, s, c, r, z =>
    if z.limit ≤ z.first + z.buf.length then (s, r, z)
    else match chunkRow s c r z with
      | some (s1, r1, z1) => fillChunk n s1 c r1 z1
      | none => (s, r, z)

/-- Put a steal in the place of its lane's, or of its core's; a lane holds the plane copy in its shadow plane (R132). -/
def putSteal (z : Steal) (k : Core) : Core :=
  { (if z.cross then k else k.setSub z.lane { k.sub z.lane with shadow := z.plane }) with steals := k.steals.filter (fun y => !(decide (y.thief = z.thief) && decide (y.lane = z.lane) && (y.cross == z.cross))) ++ [z] }

/-- A step of a victim's MSTREAM up to a row. -/
def rowsTo (limit : Nat) (s : State) (c : Nat) (r : Run) : RowRes :=
  if r.outs = [] ∧ limit ≤ r.row ∧ r.row < r.num mnCount then .wait s r 1 else rowMstream s c r

/-- Deliver what the partial buffer holds, as far as the rows before it have been delivered (R133). -/
def deliverChunk (s : State) (c rid limit : Nat) : State :=
  match (s.core c).runs.find? (fun r => decide (r.rid = rid)) with
  | some r => ((driveRun (rowsTo limit) 0 runFuel s c r).onCore c (Core.retry [8])).afterCore c
  | none => s

/-- A thief goes on with the chunk in hand. -/
def workChunk (s : State) (c : Nat) (r : Run) (z : Steal) : State :=
  let (s1, r1, z1) := fillChunk 64 s c r z
  deliverChunk (putRun (s1.onCore c (putSteal z1)) c r1) c r.rid z.limit

/-- A thief takes the next chunk of up to 64 rows of an MSTREAM; the chunk begins, and is counted, when a row of it has been
popped (R132, R133). -/
def takeChunk (s : State) (c : Nat) (r : Run) (z : Steal) : State :=
  let n := nextRow (s.core c) r
  let (s1, r1, z1) := fillChunk 64 s c r { z with rid := r.rid, first := n, limit := min (n + 64) (r.num mnCount), buf := [] }
  if z1.buf = [] then s
  else deliverChunk (putRun ((s1.count (COR_ARR_STEAL_CHUNKS z.thief) 1).onCore c (putSteal z1)) c r1) c r.rid z1.limit

/-- STEAL by a lane (R132, R133): a steal in progress goes on with its chunk, or takes its next one; an idle lane begins one by
copying the victim's active plane into its shadow plane. -/
def steal (c sub : Nat) (s : State) : State :=
  let k := s.core c
  let free := s.bit (COR_ARR_STEAL c) COR_ARR_STEAL_enable && !k.prog.wydak && laneIdle k sub && !s.stealsAcross c
  if !(s.has .core c && k.up && decide (sub < nSubs (splitOf s c))) then s
  else match k.stealOf sub with
    | some z =>
      match k.runs.find? (fun r => decide (r.rid = z.rid)) with
      | none => s.onCore c (fun k => k.endSteal z)
      | some r =>
        if k.owes z then workChunk s c r z
        else if free && dealable k r then takeChunk s c r z
        else s
    | none =>
      match (if free then stealVictim s c sub else none) with
      | some r => takeChunk s c r { thief := c, lane := sub, cross := false, rid := r.rid, plane := (k.sub (subOf r.word)).active }
      | none => s

/-- STEAL (R132). -/
def execSteal (c sub : Nat) (s : State) : Out := whileLive (steal c sub) s

/-- Whether another core of the Fold may steal from a running MSTREAM (R134): dest 0, op ADD, class G or unclassed.
Each chunk asks for the least number of unpopped rows anew (R132, log 163). -/
def crossVictim (s : State) (c : Nat) (r : Run) : Bool :=
  opcode r.word == opMSTREAM && !cbit r.word 118 && cbit r.word 117 && r.num mnCls != 2 && victimOf s c r

/-- Whether a core's array is idle (R134): none of its lanes runs, holds a filled tile or steals, in the core or from another. -/
def arrayIdle (s : State) (c : Nat) : Bool :=
  let k := s.core c
  !s.stealsAcross c && !k.runs.any (fun r => decide (1 ≤ r.unit) && decide (r.unit ≤ 8)) && (rangeFrom 0 4).all (fun i => !(k.sub i).filled && !k.stealsBy i)

/-- Stolen rows arrive: they are combined into the victim's rows (R134). -/
def chunkArrives (s : State) (c : Nat) (r : Run) (z : Steal) : State :=
  let (s1, r1) := (z.buf.zip (rangeFrom z.first z.buf.length)).foldl (fun (a : State × Run) p =>
    match p.1 with
    | some l => toAcc a.1 c a.2 p.2 (l.map f32)
    | none => a) (s, r)
  (deliverChunk (putRun (s1.onCore c (fun k => k.endSteal z)) c r1) c r.rid r.row).onCore z.thief (Core.retry [8])

/-- CROSS_CORE_STEAL: core `thief`, whose array is idle, takes a chunk of an MSTREAM of core `c` of its Fold, with
cross_core set on both (R134); the next such command brings the chunk's rows, once popped, to the victim (log 126). -/
def crossSteal (thief c : Nat) (s : State) : State :=
  let k := s.core c
  if !(s.has .core thief && s.has .core c && decide (thief ≠ c) && decide (thief / 8 = c / 8) && k.up) then s
  else match k.steals.find? (fun z => z.cross && decide (z.thief = thief)) with
    | some z =>
      match k.runs.find? (fun r => decide (r.rid = z.rid)) with
      | none => (s.onCore c (fun k => k.endSteal z)).onCore z.thief (Core.retry [8])
      | some r => if z.buf.length < z.limit - z.first then workChunk s c r z else chunkArrives s c r z
    | none =>
      match (if s.bit (COR_ARR_STEAL thief) COR_ARR_STEAL_cross_core && s.bit (COR_ARR_STEAL c) COR_ARR_STEAL_cross_core &&
          !k.prog.wydak && arrayIdle s thief then k.runs.find? (crossVictim s c) else none) with
      | some r => takeChunk s c r { thief := thief, lane := 0, cross := true, rid := r.rid, plane := (k.sub (subOf r.word)).active }
      | none => s

/-- CROSS_CORE_STEAL (R134). -/
def execCrossCoreSteal (thief c : Nat) (s : State) : Out := whileLive (crossSteal thief c) s

end Sys2Proof.Machine
end

