-- ==== Sys2Proof/Machine/CoreV.lean ====
section
/-! DEFINITION. The vector engine (R85): EXPERT (R93), the vector instructions (R94, R95), CVT (R96, R149 to R155),
COMPRESS24 (R97, R127), REDUCE (R98, R178) and UPDATE (R99, R100, R179 to R181). -/

namespace Sys2Proof.Machine

/-- Whether the vector engine is busy. -/
def vecBusy (k : Core) : Bool := k.runs.any (fun r => decide (r.unit = 9))

/-- Issue an instruction of the vector engine. -/
def vecIssue (f : State → Nat → Run → RowRes) (nums : List Nat) (c : Nat) (d : Bool) (w : Code) (s : State) : State :=
  if vecBusy (s.core c) then s.stall c true d 8 else startAndGo f tgtNone w 9 [] nums c true d s

/-- An event of a vector-engine instruction. -/
def vecAct (op : Nat) (f : State → Nat → Run → RowRes) (nums : List Nat) (c : Nat) (d : Bool) (a : Act) (s : State) : Out :=
  whileLive (actOn op (vecIssue f nums c d) f tgtNone c true d a) s

/-! ### Operands (R71, R94) -/

/-- The queue of an operand. -/
def opQueue : Opnd → List Nat
  | .queue q => [q]
  | _ => []

/-- The element format of an operand: accumulator rows hold FP32 (R139). -/
def opElem (k : Core) : Opnd → Elem
  | .queue q => (k.fmtOf q).getD (.flt .fp32 false)
  | _ => .flt .fp32 false

/-- Elements of a row of an operand: of a queue's row, or 512 (R94). -/
def opCount (k : Core) : Opnd → Nat
  | .queue q => (k.queue q).size * 8 / max 1 ((k.fmtOf q).getD (.flt .fp32 false)).bits
  | .acc _ _ => 512
  | .none => 0

/-- Elements per row of an instruction (R94): the destination queue's, else the largest of the sources'. -/
def elemsPerRow (k : Core) (srcs : List Opnd) (dst : Opnd) : Nat :=
  match dst with
  | .queue _ => opCount k dst
  | _ => (srcs.map (opCount k)).foldl max 0

/-- Finalise the first `n` columns of the accumulator rows that a source of `g` rows names before they are read (R166). -/
def finalOp (s : State) (c i g n : Nat) : Opnd → State
  | .acc b r => finalRows s c b (r + i) g n
  | _ => s

/-- The first `n` element codes of a source row: accumulator rows from memory, queue rows from the row in hand; missing
elements are zero patterns (R94). -/
def srcCodes (s : State) (c i n : Nat) (o : Opnd) (row : List Byte) : List Nat :=
  match o with
  | .acc b r => padTo n 0 (accCodes s c b (r + i) 0 (min n 512))
  | .queue _ => padTo n 0 (rowElems (opElem (s.core c) o).bits row)
  | .none => []

/-- Deliver element codes of an output row: to a queue, or as a vector write to accumulator rows (R95). -/
def deliverVec (s : State) (c i : Nat) (r : Run) (o : Opnd) (bits : Nat) (es : List Nat) : State × Run :=
  match o with
  | .queue q => (s, { r with outs := r.outs ++ [(q, rowBytes bits es)] })
  | .acc b row => (vecWrite s c b (row + i) es, r)
  | .none => (s, r)

/-- The class of a producing instruction without a class field (R159): its destination queue's default, else neither. -/
def dstClass (k : Core) : Opnd → Nat
  | .queue q => (k.bind q).cls
  | _ => 3

/-! ### Vector instructions (R94, R95) -/

/-- A comparison of VCMP (R148). -/
def cmpHolds (m : Nat) (a b : FVal) : Bool :=
  let un := a.isNan || b.isNan
  if m = 0 then eqV a b else if m = 1 then un || !eqV a b else if m = 2 then ltV a b
  else if m = 3 then ltV a b || eqV a b else un

/-- The result of an arithmetic vector instruction on element codes of the working format. -/
def vecElem (f : FFmt) (op m imm a b d : Nat) : Nat :=
  let va := decodeF f a
  let vb := decodeF f b
  if op = opVADD then rneF f (addV va vb)
  else if op = opVSUB then rneF f (subV va vb)
  else if op = opVMUL then rneF f (mulV va vb)
  else if op = opVFMA then rneF f (fmaV va vb (decodeF f d))
  else if op = opVAXPY then rneF f (fmaV (f32 imm) va vb)
  else if op = opVMAX then rneF f (maxV va vb)
  else if op = opVMIN then rneF f (minV va vb)
  else if op = opVABS then a % f.signBit
  else if op = opVNEG then Nat.xor a f.signBit
  else if op = opVMOV then a
  else if op = opVEXP then vexp f a
  else if op = opVRCP then vrcp f a
  else if op = opVRSQRT then vrsqrt f a
  else if op = opVCMP then (if cmpHolds m va vb then rneF .fp32 FVal.one else 0)
  else if op = opVAND then Nat.land a b
  else if op = opVOR then Nat.lor a b
  else if op = opVXOR then Nat.xor a b
  else if op = opVIADD then (a + b) % 2 ^ 32
  else 0

/-- Whether an opcode moves or alters bits without computing, so that it produces no NaN (R157); VIADD, which adds
integers, counts among them (R138, log 166). -/
def movesBits (op : Nat) : Bool := [opVABS, opVNEG, opVMOV, opVAND, opVOR, opVXOR, opVIADD].contains op

/-- Codes of a source in the working format: accumulator rows widened exactly to FP64 with f64 (R94). -/
def workCodes (f : FFmt) (o : Opnd) (cs : List Nat) : List Nat :=
  match o, f with
  | .acc _ _, .fp64 => cs.map (fun x => rneF .fp64 (f32 x))
  | _, _ => cs

/-- One row of a vector instruction (R94). An accumulator row takes 512 elements at most (log 123). -/
def vecRow (s : State) (c : Nat) (r : Run) : RowRes :=
  let w := r.word
  let op := opcode w
  let i := r.row
  let k := s.core c
  let (a, b, dst) := (opA w, opB w, opD w)
  let fma := decide (op = opVFMA)
  let n := elemsPerRow k (if isUnary op then [a] else [a, b]) dst
  let n := match dst with | .acc _ _ => min n 512 | _ => n
  let f : FFmt := if cbit w 118 && !isBitwise op && vecOps.contains op then .fp64 else .fp32
  let s1 := finalOp (finalOp s c i 1 n a) c i 1 n (if isUnary op then .none else b)
  let s1 := if fma then finalOp s1 c i 1 n dst else s1
  let ra := r.hand.getD 0 []
  let rb := r.hand.getD (opQueue a).length []
  let ca := workCodes f a (srcCodes s1 c i n a ra)
  let cb' := workCodes f b (srcCodes s1 c i n b rb)
  let cd := if fma then workCodes f dst (srcCodes s1 c i n dst []) else []
  let es := (rangeFrom 0 n).map (fun j => vecElem f op (cb w 117 115) (cb w 31 0) (ca.getD j 0) (cb'.getD j 0) (cd.getD j 0))
  let outF : FFmt := if op = opVCMP then .fp32 else f
  let (es, wf) : List Nat × FFmt := match dst with
    | .acc _ _ => (if outF = .fp64 then es.map (fun x => rneF .fp32 (decodeF .fp64 x)) else es, .fp32)
    | _ => (es, outF)
  let (s2, r2) := deliverVec s1 c i { r with hand := [], row := i + 1 } dst wf.bits es
  if movesBits op then .more s2 r2
  else
    let per := match dst with | .acc _ _ => 512 | _ => n
    let (s3, r3) := noteNan s2 c r2 (dstClass k dst) (i * per) (nanCodes wf es)
    .more s3 r3

/-- One step of a vector instruction. -/
def rowVec (s : State) (c : Nat) (r : Run) : RowRes :=
  let w := r.word
  let qs := opQueue (opA w) ++ (if isUnary (opcode w) then [] else opQueue (opB w))
  xStep (vRows w) qs (!interlocked s c r) (fun s r => vecRow s c r) s c r

/-- VADD (R94). -/
def execVadd (c : Nat) (d : Bool) (a : Act) (s : State) : Out := vecAct opVADD rowVec [] c d a s
/-- VSUB (R94). -/
def execVsub (c : Nat) (d : Bool) (a : Act) (s : State) : Out := vecAct opVSUB rowVec [] c d a s
/-- VMUL (R94). -/
def execVmul (c : Nat) (d : Bool) (a : Act) (s : State) : Out := vecAct opVMUL rowVec [] c d a s
/-- VFMA (R94). -/
def execVfma (c : Nat) (d : Bool) (a : Act) (s : State) : Out := vecAct opVFMA rowVec [] c d a s
/-- VAXPY (R94). -/
def execVaxpy (c : Nat) (d : Bool) (a : Act) (s : State) : Out := vecAct opVAXPY rowVec [] c d a s
/-- VMAX (R94, R147). -/
def execVmax (c : Nat) (d : Bool) (a : Act) (s : State) : Out := vecAct opVMAX rowVec [] c d a s
/-- VMIN (R94, R147). -/
def execVmin (c : Nat) (d : Bool) (a : Act) (s : State) : Out := vecAct opVMIN rowVec [] c d a s
/-- VABS (R94, R142). -/
def execVabs (c : Nat) (d : Bool) (a : Act) (s : State) : Out := vecAct opVABS rowVec [] c d a s
/-- VNEG (R94, R142). -/
def execVneg (c : Nat) (d : Bool) (a : Act) (s : State) : Out := vecAct opVNEG rowVec [] c d a s
/-- VMOV (R94, R142). -/
def execVmov (c : Nat) (d : Bool) (a : Act) (s : State) : Out := vecAct opVMOV rowVec [] c d a s
/-- VEXP (R94). -/
def execVexp (c : Nat) (d : Bool) (a : Act) (s : State) : Out := vecAct opVEXP rowVec [] c d a s
/-- VRCP (R94). -/
def execVrcp (c : Nat) (d : Bool) (a : Act) (s : State) : Out := vecAct opVRCP rowVec [] c d a s
/-- VRSQRT (R94). -/
def execVrsqrt (c : Nat) (d : Bool) (a : Act) (s : State) : Out := vecAct opVRSQRT rowVec [] c d a s
/-- VCMP (R94, R148). -/
def execVcmp (c : Nat) (d : Bool) (a : Act) (s : State) : Out := vecAct opVCMP rowVec [] c d a s
/-- VAND (R94). -/
def execVand (c : Nat) (d : Bool) (a : Act) (s : State) : Out := vecAct opVAND rowVec [] c d a s
/-- VOR (R94). -/
def execVor (c : Nat) (d : Bool) (a : Act) (s : State) : Out := vecAct opVOR rowVec [] c d a s
/-- VXOR (R94). -/
def execVxor (c : Nat) (d : Bool) (a : Act) (s : State) : Out := vecAct opVXOR rowVec [] c d a s
/-- VIADD (R94). -/
def execViadd (c : Nat) (d : Bool) (a : Act) (s : State) : Out := vecAct opVIADD rowVec [] c d a s

/-! ### CVT (R96, R149 to R155) -/

/-- The rounding mode of CVT. -/
def cvtRnd (w : Code) : Rnd := rndOf (cb w 117 116)

/-- Values per row group of a CVT: with column blocks 32 rows go together (R145, R149). -/
def cvtGroup (w : Code) : Nat := if cbit w 115 && cbit w 114 then 32 else 1

/-- Whether an operand's queue is block-scaled. -/
def bsOperand (k : Core) (o : Opnd) : Bool := match opElem k o with | .flt _ b => b | _ => false

/-- Decoded values of `g` source rows of a CVT, with block scales where the source has them; a scale beyond the last block of the source's
rows is ignored (R144, R145). -/
def cvtVals (s : State) (c : Nat) (r : Run) (g n : Nat) : List (List FVal) :=
  let w := r.word
  let k := s.core c
  let a := opA w
  let e := opElem k a
  let isQ := (opQueue a).length = 1
  let sfmt := match opB w with | .queue q => (k.queue q).fmt | _ => 0
  let sc := if bsOperand k a then r.hand.getD g [] else []
  (rangeFrom 0 g).map (fun t =>
    let cs := srcCodes s c (r.row + t) n a (if isQ then r.hand.getD t [] else [])
    let have_ := opCount k a
    (cs.zip (rangeFrom 0 n)).map (fun p =>
      let v := decodeElem e p.1
      if bsOperand k a && decide ((if cbit w 114 then p.2 else p.2 / 32 * 32) < have_) then
        mulV v (scaleAt sfmt sc (if cbit w 114 then p.2 else p.2 / 32))
      else v))

/-- The code of a block's scale in a scale queue's format (R154). -/
def scaleCode (sfmt : Nat) (base : FFmt) (vs : List FVal) : Nat :=
  if sfmt = 0x04 then chooseFp16 base (amaxOf vs) else chooseE8 base.emax (amaxOf vs)

/-- A scale row with zero bytes after its last scale, in a queue's row size (R145); scales beyond that size are dropped (log 165). -/
def scaleRow (size bits : Nat) (cs : List Nat) : List Byte := padTo size 0 (rowBytes bits cs)

/-- Column `j` of rows. -/
def column (j : Nat) (rows : List (List FVal)) : List FVal := rows.map (fun l => l.getD j FVal.zero)

/-- Blocks of 32 of a row's values; values beyond a multiple of 32 form a last, short block with a scale of its own (R145, log 165). -/
def blocksOf (l : List FVal) : List (List FVal) := chunksOf 32 l

/-- One group of rows of CVT. The element index of CVT.SR is i × n + j for element j of output row i (R96, log 123). -/
def cvtRow (s : State) (c : Nat) (r : Run) : RowRes :=
  let w := r.word
  let k := s.core c
  let (a, dst) := (opA w, opD w)
  let g := cvtGroup w
  let n := elemsPerRow k [a] dst
  let n := match dst with | .acc _ _ => min n 512 | _ => n
  let s1 := finalOp s c r.row g n a
  let rows := cvtVals s1 c r g n
  let e := opElem k dst
  let base : FFmt := match e with | .flt f _ => f | _ => .fp32
  let sq := match opB w with | .queue q => q | _ => 0
  let sfmt := (k.queue sq).fmt
  let sbits := if sfmt = 0x04 then 16 else 8
  let ssize := (k.queue sq).size
  let toBs := bsOperand k dst
  -- scale codes: per row for row blocks, per column for column blocks
  let colScales := if toBs && cbit w 114 then (rangeFrom 0 n).map (fun j => scaleCode sfmt base (column j rows)) else []
  let rowScales (vs : List FVal) : List Nat :=
    if toBs && !cbit w 114 then (blocksOf vs).map (scaleCode sfmt base) else []
  let decodeS (code : Nat) : FVal := decodeElem ((elemOf sfmt).getD .e8) code
  let step := (s.core c).step
  let enc (i : Nat) (vs : List FVal) : List Nat :=
    let rs := rowScales vs
    (vs.zip (rangeFrom 0 n)).map (fun p =>
      let j := p.2
      let v := if toBs then divV p.1 (decodeS (if cbit w 114 then colScales.getD j 127 else rs.getD (j / 32) 127)) else p.1
      convElem e (cvtRnd w) (cbit w 113) (drawAt (seedOf s) step (cb w 31 0) (i * n + j)) v)
  let r0 := { r with hand := [], row := r.row + g }
  let per := match dst with | .acc _ _ => 512 | _ => n
  let put (acc : State × Run) (t : Nat) : State × Run :=
    let i := r.row + t
    let vs := rows.getD t []
    let es := enc i vs
    let (s2, r2) := deliverVec acc.1 c i acc.2 dst e.bits es
    let r3 := if toBs && !cbit w 114 then { r2 with outs := r2.outs ++ [(sq, scaleRow ssize sbits (rowScales vs))] } else r2
    match e with
    | .flt f _ => noteNan s2 c r3 (dstClass k dst) (i * per) (nanCodes f es)
    | _ => (s2, r3)
  let (s3, r3) := (rangeFrom 0 g).foldl put (s1, r0)
  .more s3 (if toBs && cbit w 114 then { r3 with outs := r3.outs ++ [(sq, scaleRow ssize sbits colScales)] } else r3)

/-- One step of CVT: a group's value rows, then its scale row when the source is block-scaled (R145). -/
def rowCvt (s : State) (c : Nat) (r : Run) : RowRes :=
  let w := r.word
  let k := s.core c
  let a := opA w
  let qs := (List.replicate (cvtGroup w) (opQueue a)).flatten ++ (if bsOperand k a then opQueue (opB w) else [])
  xStep (vRows w) qs (!interlocked s c r) (fun s r => cvtRow s c r) s c r

/-- CVT (R96). -/
def execCvt (c : Nat) (d : Bool) (a : Act) (s : State) : Out := vecAct opCVT rowCvt [] c d a s

/-! ### COMPRESS24 (R97, R127) -/

/-- Rank of a value's magnitude for the choice of the two largest; a NaN's rank is open (log 33). -/
def magRank (tag code : Nat) (v : FVal) : FVal :=
  match v with
  | .nan => .num false (Config.pickUlp 0xB1 tag code) 0
  | x => x.abs

/-- The indices of the non-zero values of a group of four. -/
def nonZeros (vs : List FVal) : List Nat :=
  (rangeFrom 0 4).filter (fun i => !(vs.getD i FVal.zero).isZero)

/-- The indices of the two largest magnitudes, ties to the lower index, in ascending order (R97). -/
def topTwo (code : Nat) (vs : List FVal) : Nat × Nat :=
  let rank (i : Nat) : FVal := magRank i code (vs.getD i FVal.zero)
  let best (skip : Option Nat) : Nat :=
    ((rangeFrom 0 4).filter (fun i => skip ≠ some i)).foldl (fun (o : Option Nat) i =>
      match o with
      | none => some i
      | some b => if ltV (rank b) (rank i) then some i else some b) none |>.getD 0
  let b1 := best none
  let b2 := best (some b1)
  (min b1 b2, max b1 b2)

/-- The two kept indices of a group with at most two non-zeros (R127). -/
def keptTwo (nz : List Nat) : Nat × Nat :=
  match nz with
  | i :: j :: _ => (i, j)
  | [i] => if i = 0 then (0, 1) else (0, i)
  | [] => (0, 1)

/-- A column of a group: its four codes after PRUNE, the kept indices, whether it stays over-full, and values removed. -/
structure GroupCol where
  codes : List Nat
  idx : Nat × Nat
  overfull : Bool
  removed : Nat
  deriving DecidableEq, Repr, Inhabited

/-- Compress one column of one group. -/
def groupCol (f : FFmt) (prune : Bool) (codes : List Nat) : GroupCol :=
  let vs := codes.map (decodeF f)
  let nz := nonZeros vs
  if nz.length ≤ 2 then ⟨codes, keptTwo nz, false, 0⟩
  else if prune then
    let (i, j) := topTwo (codes.getD 0 0) vs
    ⟨(codes.zip (rangeFrom 0 4)).map (fun p => if p.2 = i ∨ p.2 = j then p.1 else 0), (i, j), false, nz.length - 2⟩
  else ⟨codes, keptTwo nz, true, 0⟩

/-- One tile of COMPRESS24: 256 input rows to a descriptor, 64 metadata rows and the tile's value rows. A NaN leaves as the
default NaN (R142). The metadata that a dense-marked tile pushes for a group of three or four non-zeros is open, as a function
of the group (R188, log 33). -/
def compressTile (s : State) (c : Nat) (r : Run) : RowRes :=
  let w := r.word
  let k := s.core c
  let (qa, qb, qd) := ((opQueue (opA w)).headD 0, (opQueue (opB w)).headD 0, (opQueue (opD w)).headD 0)
  let f := baseFmt (k.queue qa).fmt
  let n := opCount k (opA w)
  let plain (x : Nat) : Nat := if (decodeF f x).isNan then f.nan else x
  let rows := r.hand.map (fun row => (padTo n 0 (rowElems f.bits row)).map plain)
  let tile := r.row / 256
  let groups := (rangeFrom 0 64).map (fun m => (rangeFrom 0 n).map (fun j =>
    groupCol f (cbit w 118) ((rangeFrom 0 4).map (fun t => (rows.getD (4 * m + t) []).getD j 0))))
  let excess := (groups.map (fun g => (g.filter (·.overfull)).length)).foldl (· + ·) 0
  let removed := (groups.map (fun g => (g.map (·.removed)).foldl (· + ·) 0)).foldl (· + ·) 0
  let dense := decide (0 < excess)
  let outRows := (rangeFrom 0 64).flatMap (fun m =>
    let g := groups.getD m []
    if dense then (rangeFrom 0 4).map (fun t => g.map (fun x => x.codes.getD t 0))
    else [g.map (fun x => x.codes.getD x.idx.1 0), g.map (fun x => x.codes.getD x.idx.2 0)])
  let nnz := (groups.map (fun g => (g.map (fun x => (x.codes.filter (fun q => !(decodeF f q).isZero)).length)).foldl (· + ·) 0)).foldl (· + ·) 0
  let desc := padTo (k.queue qb).size 0 (leBytes 1 0xD4 ++ leBytes 1 (b2n dense) ++ leBytes 2 (if dense then 256 else 128) ++
    leBytes 4 nnz ++ leBytes 4 excess ++ leBytes 4 ((cb w 31 0 + tile) % 2 ^ 32) ++ leBytes 2 n ++ List.replicate 14 0)
  let metas := groups.map (fun g => rowBytes 4 (g.map (fun x =>
    if x.overfull then Config.openMeta x.codes % 16 else x.idx.1 + 4 * x.idx.2)))
  let s2 := (s.count (COR_SPARSE_OVERFULL c) excess).count (COR_SPARSE_PRUNED c) removed
  let vrows := outRows.map (fun es => (qd, rowBytes f.bits es))
  let r1 := { r with hand := [], row := r.row + 256, outs := (qb, desc) :: metas.map (fun m => (qb, m)) ++ vrows,
                     vals := [[(r.vals.getD 0 []).getD 0 0 + outRows.length]] }
  let (s3, r3) := noteNan s2 c r1 (dstClass k (opD w)) ((r.vals.getD 0 []).getD 0 0 * n) (nanCodes f outRows.flatten)
  .more s3 r3

/-- One step of COMPRESS24. -/
def rowCompress (s : State) (c : Nat) (r : Run) : RowRes :=
  xStep (vRows r.word) (List.replicate 256 (opQueue (opA r.word))).flatten true (fun s r => compressTile s c r) s c r

/-- COMPRESS24 (R97). -/
def execCompress24 (c : Nat) (d : Bool) (a : Act) (s : State) : Out := vecAct opCOMPRESS rowCompress [] c d a s

/-! ### EXPERT (R93) -/

/-- Ids not yet dropped at their positions: stable order by id. -/
def expertPerm (ids : List Nat) (nids : Nat) : List Nat :=
  (rangeFrom 0 nids).flatMap (fun e => (ids.zip (rangeFrom 0 ids.length)).filterMap (fun p => if p.1 = e then some p.2 else none))

/-- 32-bit entries in rows of a size, zero after the last entry (R93). -/
def packRows (q size : Nat) (es : List Nat) : List (Nat × List Byte) :=
  (chunksOf (size / 4) es).map (fun l => (q, padTo size 0 (rowBytes 32 l)))

/-- Take the ids of a route row; when all are read, form the permutation and the counts. -/
def expertRow (s : State) (c : Nat) (r : Run) : RowRes :=
  let w := r.word
  let k := s.core c
  let ids := (r.vals.getD 0 []) ++ (r.hand.getD 0 []).map (·.toNat)
  let total := xRows w
  let nids := cb w 62 55 + 1
  if ids.length < total then .more s { r with hand := [], vals := [ids] }
  else
    let ids := ids.take total
    let qp := cb w 106 102
    let qc := cb w 101 97
    let dropped := (ids.filter (fun e => decide (nids ≤ e))).length
    let outs := packRows qp (k.queue qp).size (expertPerm ids nids) ++
      packRows qc (k.queue qc).size ((rangeFrom 0 nids).map (fun e => (ids.filter (fun x => decide (x = e))).length))
    .more (s.count (COR_INDEX_DROPPED c) dropped) { r with hand := [], row := 1, vals := [], outs := outs }

/-- One step of EXPERT. -/
def rowExpert (s : State) (c : Nat) (r : Run) : RowRes :=
  xStep 1 [cb r.word 111 107] true (fun s r => expertRow s c r) s c r

/-- EXPERT (R93). -/
def execExpert (c : Nat) (d : Bool) (a : Act) (s : State) : Out := vecAct opEXPERT rowExpert [] c d a s

/-! ### REDUCE (R98, R178) -/

/-- The working format of a REDUCE. -/
def reduceFmt (w : Code) : FFmt := if cbit w 118 then .fp64 else .fp32

/-- The term of an element (R98, R178). -/
def reduceTerm (f : FFmt) (op : Nat) (v : FVal) : FVal :=
  if op = 3 then decodeF f (rneF f (mulV v v))
  else if op = 4 then (if v.finite then FVal.zero else FVal.one)
  else v

/-- A running value with its compensation. -/
abbrev Pair : Type := FVal × FVal

/-- Combine two running values: by operator and class, the lower position on the left. `draw` is the class G draw. -/
def combine (f : FFmt) (op cls draw : Nat) (a b : Pair) : Pair :=
  let rd (v : FVal) : FVal := decodeF f (rneF f v)
  if op = 1 then (maxV a.1 b.1, FVal.zero)
  else if op = 2 then (minV a.1 b.1, FVal.zero)
  else if op = 4 then (addV a.1 b.1, FVal.zero)
  else if cls = 1 then (f32 (sr16 draw (addV a.1 b.1)), FVal.zero)
  else if cls = 2 then
    let (t, e) := addC rd a.1 a.2 b.1
    (t, if t.finite then rd (addV e b.2) else FVal.zero)
  else (rd (addV a.1 b.1), FVal.zero)

/-- The value of a running pair in the working format: a class C sum takes its compensation in; a count, a maximum and a minimum are
exact (R178). -/
def pairValue (f : FFmt) (op cls : Nat) (p : Pair) : FVal :=
  if cls = 2 ∧ (op = 0 ∨ op = 3) then decodeF f (rneF f (addV p.1 p.2)) else p.1

/-- One level of the pairwise tree over positions: neighbours combine at nodes numbered from `base` (R98). -/
def treeLevel (comb : Nat → Pair → Pair → Pair) : Nat → List Pair → List Pair
  | _, [] => []
  | _, [a] => [a]
  | i, a :: b :: t => comb i a b :: treeLevel comb (i + 1) t

/-- The pairwise tree of a group of up to 128 elements by levels from the leaves: level `l` numbers its nodes from
2^l − 1. Structural on the levels. -/
def groupTree (comb : Nat → Pair → Pair → Pair) : Nat → List Pair → List Pair
  | 0, l => l
  | l + 1, ps => groupTree comb l (treeLevel comb (2 ^ l - 1) ps)

/-- Axis 1: a row reduced to one value (R98, R178). -/
def reduceRowAxis1 (f : FFmt) (op cls : Nat) (draw : Nat → Nat) (vs : List FVal) : FVal :=
  let groups := chunksOf 128 (vs.map (fun v => (reduceTerm f op v, FVal.zero)))
  let g := groups.length
  let tops := (groups.zip (rangeFrom 0 g)).map (fun p =>
    (groupTree (fun i => combine f op cls (draw (127 * p.2 + i))) 7 p.1).headD (FVal.zero, FVal.zero))
  match tops with
  | [] => FVal.zero
  | t :: ts =>
    let r := (ts.zip (rangeFrom 0 ts.length)).foldl (fun a p => combine f op cls (draw (127 * g + p.2)) a p.1) t
    pairValue f op cls r

/-- The code of a reduced value in a destination's format. Operator 4 gives an integer, in FP32 destinations its value
(log 34). -/
def reduceCode (e : Elem) (op : Nat) (v : FVal) : Nat :=
  match e with
  | .flt f _ => rneF f v
  | e => if op = 4 then (match v with | .num _ m x => (scaleDiv m x 0).1 % 2 ^ 32 | _ => 0) else convElem e .rne false 0 v

/-- Limit of additions of a running value of REDUCE (R178). -/
def reduceLimit (op cls : Nat) : Nat := if op ≠ 0 ∧ op ≠ 3 then 0 else if cls = 1 ∨ cls = 2 then clsLimit cls else 0

/-- Values held as FP64 codes, which hold every FP32 and FP64 value exactly. -/
def keep64 (l : List FVal) : List Nat := l.map (rneF .fp64)
def held64 (l : List Nat) : List FVal := l.map (decodeF .fp64)

/-- The levels of a REDUCE's segments (R173, R178): level values as lists of FP64 codes, valid where not empty;
structural on the levels left. -/
def regCarry (cls : Nat) : Nat → List (List Nat) → List FVal → List (List Nat)
  | 0, lv, v => match lv with
    | [] :: t => keep64 v :: t
    | l :: t => keep64 (l2Sum cls (held64 l) v) :: t
    | [] => [keep64 v]
  | n + 1, lv, v => match lv with
    | [] :: t => keep64 v :: t
    | l :: t => [] :: regCarry cls n t (l2Sum cls (held64 l) v)
    | [] => [keep64 v]

/-- The fold of a REDUCE's segments over its valid levels (R174). -/
def regFold (cls : Nat) (lv : List (List Nat)) (v : List FVal) : List FVal :=
  lv.foldl (fun a l => if l = [] then a else l2Sum cls (held64 l) a) v

/-- One row of REDUCE on axis 0: the running pairs are `vals` 0 and 1, the levels the rest; `nums` 0 is the count of the
current segment. -/
def reduceRow0 (s : State) (c : Nat) (r : Run) : RowRes :=
  let w := r.word
  let k := s.core c
  let op := cb w 117 115
  let f := reduceFmt w
  let cls := r.num 1
  let a := opA w
  let dst := opD w
  let n := elemsPerRow k [a] dst
  let n := match dst with | .acc _ _ => min n 512 | _ => n
  let s1 := finalOp s c r.row 1 n a
  let vs := (workCodes f a (srcCodes s1 c r.row n a (r.hand.getD 0 []))).map (decodeF f)
  let terms := vs.map (reduceTerm f op)
  let draw (j : Nat) : Nat := philox (seedOf s) k.step (cb w 31 0) j r.row
  let sum := decide (op = 0 ∨ op = 3)
  let cur := (held64 (r.vals.getD 0 [])).zip (held64 (r.vals.getD 1 []))
  let next : List Pair :=
    if r.row = 0 then (terms.zip (rangeFrom 0 n)).map (fun p =>
      (if sum && cls == 1 then f32 (sr16 (draw p.2) p.1) else p.1, FVal.zero))
    else ((cur.zip terms).zip (rangeFrom 0 n)).map (fun p => combine f op cls (draw p.2) p.1.1 (p.1.2, FVal.zero))
  let cnt := if r.row = 0 then 0 else r.num 0 + 1
  let lv := r.vals.drop 2
  let spill := decide (cnt ≠ 0) && decide (cnt = reduceLimit op cls)
  let live (p : Pair) : FVal := if cls = 2 then r64 (addV p.1 p.2) else p.1
  let lv1 := if spill then regCarry cls 15 lv (next.map live) else lv
  let next1 : List Pair := if spill then next.map (fun _ => (FVal.zero, FVal.zero)) else next
  let r1 := ({ r with hand := [], row := r.row + 1,
                      vals := keep64 (next1.map (fun (p : Pair) => p.1)) :: keep64 (next1.map (fun (p : Pair) => p.2)) :: lv1 }).setNum 0 (if spill then 0 else cnt)
  if r.row + 1 < vRows w then .more s1 r1
  else
    let vals := if lv1.all (fun l => decide (l = [])) then next1.map (pairValue f op cls) else regFold cls lv1 (next1.map live)
    let e := match dst with | .queue _ => opElem k dst | _ => .flt .fp32 false
    let es := vals.map (reduceCode e op)
    let (s2, r2) := deliverVec s1 c 0 r1 dst e.bits es
    match e with
    | .flt g _ => let (s3, r3) := noteNan s2 c r2 cls 0 (nanCodes g es); .more s3 r3
    | _ => .more s2 r2

/-- One row of REDUCE on axis 1: one element, packed into rows of the destination; the last row is filled with zeros (R98), an
accumulator row too (log 123). -/
def reduceRow1 (s : State) (c : Nat) (r : Run) : RowRes :=
  let w := r.word
  let k := s.core c
  let op := cb w 117 115
  let f := reduceFmt w
  let cls := r.num 1
  let a := opA w
  let dst := opD w
  let n := opCount k a
  let s1 := finalOp s c r.row 1 n a
  let vs := (workCodes f a (srcCodes s1 c r.row n a (r.hand.getD 0 []))).map (decodeF f)
  let v := reduceRowAxis1 f op cls (fun q => philox (seedOf s) k.step (cb w 31 0) r.row q) vs
  let e := match dst with | .queue _ => opElem k dst | _ => .flt .fp32 false
  let code := reduceCode e op v
  let acc := (r.vals.getD 0 []) ++ [code]
  let per := opCount k dst
  let last := decide (r.row + 1 = vRows w)
  let r1 := { r with hand := [], row := r.row + 1, vals := [acc] }
  let (s2, r2) : State × Run := match e with
    | .flt g _ => noteNan s1 c r1 cls r.row (nanCodes g [code])
    | _ => (s1, r1)
  if acc.length = per ∨ last then
    let (s3, r3) := deliverVec s2 c (r.row / max 1 per) { r2 with vals := [] } dst e.bits (padTo per 0 acc)
    .more s3 r3
  else .more s2 r2

/-- One step of REDUCE. -/
def rowReduce (s : State) (c : Nat) (r : Run) : RowRes :=
  let w := r.word
  let r := if r.nums = [] then { r with nums := [0, reduceClass (s.core c) w] } else r
  xStep (vRows w) (opQueue (opA w)) (!interlocked s c r)
    (fun s r => if cbit w 114 then reduceRow1 s c r else reduceRow0 s c r) s c r

/-- REDUCE (R98). -/
def execReduce (c : Nat) (d : Bool) (a : Act) (s : State) : Out := vecAct opREDUCE rowReduce [] c d a s

/-! ### Updates (R99, R100, R179 to R181) -/

/-- Roles of an UPDATE's input rows in hand: weights, gradients, remainders, first and second state (R99). -/
def updRow (s : State) (c : Nat) (r : Run) : RowRes :=
  let w := r.word
  let k := s.core c
  let q := cb w 111 107
  let opt := cb w 106 104
  let rem := cbit w 118
  let par := r.vals.getD 0 []
  let wf := baseFmt (k.queue q).fmt
  let gf := baseFmt (k.queue (q + 1)).fmt
  let wRow := r.hand.getD 0 []
  let gRow := r.hand.getD 1 []
  let rRow := if rem then r.hand.getD 2 [] else []
  let o := if rem then 3 else 2
  let mRow := if opt ≥ 1 then r.hand.getD o [] else []
  let vRow := if opt = 2 then r.hand.getD (o + 1) [] else []
  let r0 := { r with hand := [], row := r.row + 1 }
  let outsOf (a b m v : List Byte) : List (Nat × List Byte) :=
    [(q + 6, a)] ++ (if rem then [(q + 7, b)] else []) ++ (if opt ≥ 1 then [(q + 8, m)] else []) ++
      (if opt = 2 then [(q + 9, v)] else [])
  if r.num 0 = 1 then .more s { r0 with outs := outsOf wRow rRow mRow vRow }
  else
    let ws := rowElems wf.bits wRow
    let n := ws.length
    let b := if rRow.length ≥ 2 * n then 16 else 8
    let gs := padTo n 0 (rowElems gf.bits gRow)
    let rs := padTo n 0 (rowElems b rRow)
    let ms := padTo n 0 (rowElems 32 mRow)
    let vs := padTo n 0 (rowElems 32 vRow)
    let one (j : Nat) : Nat × Nat × Nat × Nat :=
      let wc := ws.getD j 0
      let w0 := decodeF wf wc
      let win := if rem then r32 (addV w0 (remDec b (rs.getD j 0) (spacing wf wc))) else w0
      let (wn, m1, v1) := updArith par (cb w 63 32) opt (decodeF gf (gs.getD j 0)) win (f32 (ms.getD j 0)) (f32 (vs.getD j 0))
      let out := if wf = .fp32 then rneF .fp32 wn
        else convF wf (if rem then .rne else .sr) true (drawAt (seedOf s) k.step (cb w 31 0) (r.row * n + j)) wn
      let rout := if wn.finite then remEnc b (subV wn (decodeF wf out)) (spacing wf out) else 0
      (out, rout, rneF .fp32 m1, rneF .fp32 v1)
    let res := (rangeFrom 0 n).map one
    let outs := outsOf (rowBytes wf.bits (res.map (·.1))) (rowBytes b (res.map (·.2.1)))
      (rowBytes 32 (res.map (·.2.2.1))) (rowBytes 32 (res.map (·.2.2.2)))
    let (s1, r1) := noteNan s c { r0 with outs := outs } (k.bind (q + 6)).cls (r.row * n) (nanCodes wf (res.map (·.1)))
    if (nanCodes wf (res.map (·.1))).contains true then .more s1 r1
    else
      let (s2, r2) := noteNan s1 c r1 (k.bind (q + 6)).cls (r.row * n) (nanCodes .fp32 (if opt ≥ 1 then res.map (·.2.2.1) else []))
      let (s3, r3) := noteNan s2 c r2 (k.bind (q + 6)).cls (r.row * n) (nanCodes .fp32 (if opt = 2 then res.map (·.2.2.2) else []))
      .more s3 r3

/-- One step of UPDATE: it waits for the step's delivered flag, marks its command when the flag is set, takes the
parameter row, then its rows (R99, R100). `nums` is empty until the flag is known. -/
def rowUpdate (s : State) (c : Nat) (r : Run) : RowRes :=
  let w := r.word
  let k := s.core c
  let q := cb w 111 107
  let opt := cb w 106 104
  if r.nums = [] then
    match k.flag with
    | none => .wait s r 1
    | some true =>
      .more (s.onCore c (fun k => { k with cmd := k.cmd.map (fun m => { m with skipped := true }) })) { r with nums := [1] }
    | some false => .more s { r with nums := [0] }
  else if r.vals = [] then
    match headRow s c (q + 2) with
    | none => .wait s r (wRow (q + 2))
    | some row => .more (popRow s c (q + 2)) { r with vals := [rowElems 32 row] }
  else
    let qs := [q, q + 1] ++ (if cbit w 118 then [q + 3] else []) ++ (if opt ≥ 1 then [q + 4] else []) ++
      (if opt = 2 then [q + 5] else [])
    xStep (cb w 103 72) qs true (fun s r => updRow s c r) s c r

/-- UPDATE (R99). -/
def execUpdate (c : Nat) (d : Bool) (a : Act) (s : State) : Out := vecAct opUPDATE rowUpdate [] c d a s

end Sys2Proof.Machine
end

