-- ==== Sys2Proof/Machine/CoreProg.lean ====
section
/-! DEFINITION. Program starts, block fetches, transfer checks, the stall limit and deferred work (02_compute_core R34, R42
to R62, 03_instruction_set R66, R67, R374). -/

namespace Sys2Proof.Machine

/-! ### START and the program header (R66, R67, R374) -/

/-- Take the head command of a core's inbox. -/
def State.dropInbox (s : State) (c : Nat) : State := s.onCore c (fun k => { k with inbox := k.inbox.drop 1 })

/-- START: the head command of an idle core's inbox is taken; a core that a commit has taken out of service completes it ABSENT
(R345, log 128), and a frozen A-stream completes it FROZEN (R374, R428). -/
def startCmd (c : Nat) (s : State) : State :=
  let k := s.core c
  match k.inbox with
  | [] => s
  | m :: _ =>
    if m.code ≠ 1 ∨ k.state ≠ .idle ∨ k.cmd.isSome ∨ k.cut ∨ s.mixed ∨ !s.has .core c then s
    else if !k.inService then (s.dropInbox c).complete m.ref 0x01 0 0 0
    else if s.isFrozen (aMst c) then ((s.dropInbox c).frozenCommand (aMst c) 0x05).complete m.ref 0x05 0 0x1007 0
    else (s.dropInbox c).onCore c (fun k => { k with
      cmd := some { ref := m.ref }, starting := some (fieldAt m.desc 8 8, fieldAt m.desc 0x10 2) })

/-- START (R374). -/
def execStart (c : Nat) (s : State) : Out := whileLive (startCmd c) s

/-- A header's declaration of queue `q`: format, row units, producer, consumer, flags, and its zero bytes (R66). -/
structure QDecl where
  fmt : Nat
  units : Nat
  prod : Nat
  cons : Nat
  declared : Bool
  zero : Nat
  deriving DecidableEq, Repr, Inhabited

/-- Read a queue declaration. -/
def qDecl (h : List Byte) (q : Nat) : QDecl :=
  let o := 0x150 + q * 8
  ⟨fieldAt h o 1, fieldAt h (o + 1) 2, fieldAt h (o + 3) 1, fieldAt h (o + 4) 1, fieldAt h (o + 5) 1 % 2 = 1, fieldAt h (o + 6) 2⟩

/-- Whether a declaration gives a stream end to an end that the structure image binds to an engine (R32). -/
def qConflict (k : Core) (h : List Byte) (q : Nat) : Bool :=
  let e := qDecl h q
  let b := k.bind q
  e.declared && ((decide (e.prod ≠ 0) && decide (b.prod ≠ 0)) || (decide (e.cons ≠ 0) && decide (b.cons ≠ 0)))

/-- The header bytes that R66 does not list. -/
def headerZero (h : List Byte) : Bool :=
  ((h.drop 0x3C).take 4 ++ (h.drop 0x48).take 8 ++ (h.drop 0x3D0).take (0xFFC - 0x3D0)).all (fun b => decide (b = 0))

/-- Whether a header is refused (R67). -/
def headerBad (s : State) (c gen : Nat) (addr : Nat) (h : List Byte) : Bool :=
  let k := s.core c
  let flags := fieldAt h 0x2C 4
  let t (i : Nat) : Nat × Nat := (fieldAt h (0x250 + 8 * i) 4, fieldAt h (0x254 + 8 * i) 4)
  fieldAt h 0xFFC 4 != blockCheck addr (fieldAt h 6 2) (h.take 0xFFC) || fieldAt h 0 4 != 0x48505846 ||
    fieldAt h 4 2 != 1 || fieldAt h 6 2 != gen || bitsOf flags 2 1 != splitOf s c ||
    bitsOf flags 3 3 != s.fld (COR_MODE c) COR_MODE_service ||
    (rangeFrom 0 32).any (qConflict k h) ||
    (rangeFrom 0 48).any (fun i => decide ((t i).2 ≠ 0) && decide ((t i).2 < (t i).1)) || fieldAt h 6 2 == 0 ||
    !headerZero h || decide (flags / 16 ≠ 0) || (rangeFrom 0 32).any (fun q => decide ((qDecl h q).zero ≠ 0))

/-- The queues at a program start: the header sets the type and the stream ends of those it declares, and the others are left
without; rows that a queue holds stay, and counts are taken from the head row's element 0 again (R32, R135, log 89). -/
def startQueues (h : List Byte) (k : Core) : Core :=
  (rangeFrom 0 32).foldl (fun k q =>
    let e := qDecl h q
    let x := k.queue q
    k.setQueue q (if e.declared then { x with fmt := e.fmt, units := e.units, prod := e.prod, cons := e.cons, cntPos := 0 }
      else { x with fmt := 0, units := 0, prod := 0, cons := 0, cntPos := 0 })) k

/-- The tallies that a header declares (R51). -/
def startTallies (c : Nat) (h : List Byte) (s : State) : State :=
  (rangeFrom 0 48).foldl (fun s i =>
    let lim := fieldAt h (0x254 + 8 * i) 4
    if lim = 0 then s
    else s.setReg (COR_TALLY c i)
      (fset COR_TALLY_limit lim (fset COR_TALLY_count (fieldAt h (0x250 + 8 * i) 4) (s.reg (COR_TALLY c i))))) s

/-- The running program's fields from its header (R66). -/
def progOf (addr : Nat) (h : List Byte) : Prog :=
  { header := addr, gen := fieldAt h 6 2, base := fieldAt h 8 8, aFirst := fieldAt h 0x10 4, aBlocks := fieldAt h 0x14 4,
    xFirst := fieldAt h 0x18 4, xBlocks := fieldAt h 0x1C 4, checkTable := fieldAt h 0x20 8, xferTable := fieldAt h 0x28 4,
    wydak := fieldAt h 0x2C 4 % 2 = 1, l2Off := fieldAt h 0x30 4, l2Size := fieldAt h 0x34 4 }

/-- The core at a program start: contexts, epilogue state, planes, accumulator states, the latched step (R67, R73, R121,
R163, R167, R337, R485). -/
def startCore (s : State) (p : Prog) (h : List Byte) (k : Core) : Core :=
  let k1 := (startQueues h k).discardShadows
  { k1 with
    state := .running, starting := none, prog := p
    am := { life := .live, pos := p.base + p.aFirst * 4096, stall := 1 }
    xm := if p.xBlocks = 0 then { life := .ended } else { life := .live, pos := p.base + p.xFirst * 4096, stall := 1 }
    ad := {}, xd := {}, aDef := false, xDef := false, segs := [], phase := 0, maps := none, lost := [], steals := [], badWord := false
    step := (s.reg COL_STEP).toNat }

/-- All epilogue words of a core become zero (R121). -/
def clearEpi (c : Nat) (s : State) : State := (rangeFrom 0 16).foldl (fun s i => s.setReg (COR_ARR_EPI c i) 0) s

/-- A start that is refused: the core stays idle. -/
def refuseStart (s : State) (c status : Nat) : State :=
  (s.onCore c (fun k => { k with starting := none })).endCmd c status 0 0

/-- A start whose header or generation differs from the core's last start is measured into M3; the count saturates (R446). -/
def measureStart (c addr : Nat) (h : List Byte) (s : State) : State :=
  let gen := fieldAt h 6 2
  if (s.core c).lastStart = some (addr, gen) then s
  else
    let s1 := s.extend 3 (leBytes 1 c ++ leBytes 8 addr ++ leBytes 2 gen ++ leBytes 4 (fieldAt h 0xFFC 4))
    (s1.setFld SEC_MEAS_COUNT SEC_MEAS_COUNT_m3 (min 0xFFFFFFFF (s.fld SEC_MEAS_COUNT SEC_MEAS_COUNT_m3 + 1))).onCore c
      (fun k => { k with lastStart := some (addr, gen) })

/-- PROGRAM_START: the header is read, checked, and the program begins (R67). A header address that is not 4 KiB aligned, or
lies in no pasture, is refused MALFORMED (log 90). -/
def programStart (c : Nat) (s : State) : State :=
  match (s.core c).starting with
  | none => s
  | some (addr, gen) =>
    if s.mixed then s
    else if !(s.core c).inService then refuseStart s c 0x01
    else if addr % 4096 ≠ 0 ∨ addr ≥ 0x8000000000 then refuseStart s c 0x02
    else match localRead (aMst c) addr 4096 s with
      | .held => s
      | .bad code s1 => (s1.onCore c (fun k => { k with starting := none })).coreStop c 0x05 code
      | .done h ue s1 =>
        if ue then refuseStart s1 c 0x06
        else if headerBad s1 c gen addr h then refuseStart s1 c 0x02
        else
          let p := progOf addr h
          let s2 := (clearEpi c (startTallies c h s1)).setFld (COR_ARR_CFG c) COR_ARR_CFG_wydak (b2n p.wydak)
          measureStart c addr h (s2.onCore c (startCore s2 p h))

/-! ### BLOCK_FETCH (R42 to R45, R103) -/

/-- The instructions of a block. -/
def codeOf (bs : List Byte) : List Code := (chunksOf 16 bs).map (fun l => BitVec.ofNat 128 (leNat l))

/-- Whether a block may be fetched now: in its stream's range, not staged, and the issuing position's own block of one of the
stream's contexts, or the next one in address order within 8 blocks ahead of it (R43). -/
def wanted (k : Core) (x : Bool) (b : Nat) : Bool :=
  let p := k.prog
  let first := if x then p.xFirst else p.aFirst
  let n := if x then p.xBlocks else p.aBlocks
  let near (d : Bool) : Bool :=
    let pos := ((k.ctx x d).pos - p.base) / 4096
    decide ((k.ctx x d).life = .live) && decide (pos ≤ b) && decide (b ≤ pos + 8) &&
      (rangeFrom pos (b - pos)).all (fun a => (k.blockAt x (p.base + a * 4096)).isSome)
  decide (first ≤ b) && decide (b < first + n) && (k.blockAt x (p.base + b * 4096)).isNone && (near false || near true)

/-- Stage a block: with 64 staged, the least recently used block that holds no issuing position makes room (R43). A context that has
issued END has no issuing position, and a block of another generation holds none. -/
def stage (k : Core) (x : Bool) (b : Staged) : Core :=
  let at_ (d : Bool) (t : Staged) : Bool := (k.ctx x d).life == .live && (k.ctx x d).pos / 4096 * 4096 == t.addr
  let holds (t : Staged) : Bool := t.gen == k.prog.gen && (at_ false t || at_ true t)
  let l := k.staged x
  let l := if l.length < 64 then l else match l.find? (fun t => !holds t) with
    | some t => l.erase t
    | none => l
  if x then { k with stagedX := l ++ [b] } else { k with stagedA := l ++ [b] }

/-- BLOCK_FETCH of a region block by a stream. A block whose fetch meets an uncorrectable error fails its check (R286, log 111). -/
def blockFetch (c : Nat) (x : Bool) (b : Nat) (s : State) : State :=
  let k := s.core c
  if !(s.has .core c && k.up && wanted k x b) || s.isFrozen (aMst c) then s
  else
    let a := k.prog.base + b * 4096
    match localRead (aMst c) (k.prog.checkTable + 4 * b) 4 s with
    | .held => s
    | .bad code s1 => s1.coreStop c 0x05 code
    | .done e ue1 s1 =>
      match localRead (aMst c) a 4096 s1 with
      | .held => s
      | .bad code s2 => s2.coreStop c 0x05 code
      | .done bs ue2 s2 =>
        let v := blockCheck a k.prog.gen bs
        let blk : Staged := { addr := a, gen := k.prog.gen, ok := !(ue1 || ue2) && v == leNat e, code := codeOf bs, expected := leNat e,
                              actual := v, ue := ue1 || ue2 }
        ((s2.wide (COR_FETCH_BLOCKS c) 1).onCore c (fun k => (stage k x blk).retry [3])).afterCore c

/-- BLOCK_FETCH (R42 to R45). -/
def execBlockFetch (c : Nat) (x : Bool) (b : Nat) (s : State) : Out := whileLive (blockFetch c x b) s

/-! ### TRANSFER_CHECK (R56, R57, R420 to R422) -/

/-- The stream lane checks the transfer at its head: the oldest one in the order of issue, once it has delivered its data
(R56). A mismatch that is found after the core has stopped sets the flag and the three registers, and makes no record
(R57, log 121). An entry that holds an uncorrectable word fails as one (R298). -/
def transferChecked (c : Nat) (s0 : State) : State :=
  let k := s0.core c
  match k.checks with
  | [] => s0
  | t :: rest =>
    if k.runs.any (fun r => r.chk && decide (r.rid < t.rid)) then s0 else
    let (e, ue, s) := s0.readMem (scratchBase + c * 0x2000000 + k.prog.xferTable + 16 * t.slot) 16
    let v := transferCheck t.target (fieldAt e 8 4) t.bytes
    let n := t.bytes.length
    let s1 := s.onCore c (fun k => { k.retry [9] with checks := rest })
    if ue then s1.coreStop c 0x06 0x5010
    else if checkMeets n v (fieldAt e 0 8) then s1.afterCore c
    else
      ((((s1.flag (COR_ERR c) COR_ERR_cvu_transfer).setReg (COR_CVU_MISMATCH_ADDR c) (BitVec.ofNat 64 (t.target % 2 ^ 48))).setReg
        (COR_CVU_EXPECTED c) (BitVec.ofNat 64 (if n ≤ 65536 then fieldAt e 0 4 else fieldAt e 0 8))).setReg (COR_CVU_ACTUAL c)
          (BitVec.ofNat 64 v)).coreTrap c 0x03 0x6002 t.addr

/-- TRANSFER_CHECK (R57). -/
def execTransferCheck (c : Nat) (s : State) : Out := whileLive (transferChecked c) s

/-! ### The stall limit (R34), deferred work (R60), RETIRE (R47) -/

/-- STALL_TIMEOUT: the limit has passed while every context of the core is stalled (R34). -/
def stallTimeout (c : Nat) (s : State) : State :=
  let k := s.core c
  if s.has .core c && (k.up || k.state == .holiday) && k.allRest && decide (s.fld (COR_STALL_LIMIT c) COR_STALL_LIMIT_cycles ≠ 0) then
    (s.flag (COR_ERR c) COR_ERR_stall_timeout).coreTrap c 0x07 0x6006 (stopAddr k.atStop false)
  else s

/-- STALL_TIMEOUT (R34). -/
def execStallTimeout (c : Nat) (s : State) : Out := whileLive (stallTimeout c) s

/-- Whether a context's next instruction is a yield point (R60, R68). -/
def atYield (k : Core) (x d : Bool) : Bool :=
  match k.wordAt x (k.ctx x d).pos with
  | some w => cbit w 119
  | none => false

/-- DEFER_SWITCH of a stream (R60): to the deferred context of the head entry at a yield point of the main context whose
next instruction has been stalled for the threshold (log 99); back at a yield point of
the deferred context when the main instruction can issue, or when the deferred context has ended. -/
def deferSwitch (c : Nat) (x : Bool) (s : State) : State :=
  let k := s.core c
  let inDef := if x then k.xDef else k.aDef
  let put (v : Bool) (k : Core) : Core := if x then { k with xDef := v } else { k with aDef := v }
  if !(s.has .core c && k.up) then s
  else if inDef then
    let v := k.ctx x true
    if decide ((k.ctx x false).life = .live) && ((v.life == .live && atYield k x true && decide ((k.ctx x false).stall ≤ 1)) ||
        v.life == .ending || v.life == .ended) then s.onCore c (put false) else s
  else
    let k1 := startDeferred k
    if decide (s.fld (COR_DEFER_CTRL c) COR_DEFER_CTRL_stall_threshold ≠ 0) && decide (k.deferQ ≠ []) &&
        (k.ctx x false).life == .live && decide (2 ≤ (k.ctx x false).stall) && atYield k x false &&
        (k1.ctx x true).life == .live then
      s.setCore c (put true k1)
    else s

/-- DEFER_SWITCH (R60). -/
def execDeferSwitch (c : Nat) (x : Bool) (s : State) : Out := whileLive (deferSwitch c x) s

/-- RETIRE_COMPLETE (R47). -/
def execRetireComplete (c : Nat) (s : State) : Out := whileLive (fun s => s.retireDone c) s

end Sys2Proof.Machine
end

