-- ==== Sys2Proof/Machine/RowsCollective.lean ====
section
/-! DEFINITION. The commands of collective engines and Roll call (12_collectives_and_mapping): one meaning each, over the shared operations. -/

namespace Sys2Proof.Machine

/-- ALL_REDUCE: The head command of a collective engine starts (R331 to R336). -/
def execAllReduce (n : Nat) (s : State) : Out := whileLive (collStart 1 n) s

/-- REDUCE_SCATTER: The head command of a collective engine starts (R331 to R336). -/
def execReduceScatter (n : Nat) (s : State) : Out := whileLive (collStart 2 n) s

/-- ALL_GATHER: The head command of a collective engine starts (R331 to R336). -/
def execAllGather (n : Nat) (s : State) : Out := whileLive (collStart 3 n) s

/-- ALL_TO_ALL: The head command of a collective engine starts (R331 to R336). -/
def execAllToAll (n : Nat) (s : State) : Out := whileLive (collStart 4 n) s

/-- BROADCAST: The head command of a collective engine starts (R331 to R336). -/
def execBroadcast (n : Nat) (s : State) : Out := whileLive (collStart 5 n) s

/-- PERMUTE: The head command of a collective engine starts (R331 to R336, R340). -/
def execPermute (n : Nat) (s : State) : Out := whileLive (collStart 6 n) s

/-- ROLL: The head ROLL of an engine arrives (R326). -/
def execRoll (n : Nat) (s : State) : Out := whileLive (rollCmd n) s

/-- COLLECTIVE_COMPLETE: An active collective completes (R336). -/
def execCollectiveComplete (n : Nat) (i : Nat) (s : State) : Out := whileLive (collComplete n i) s

/-- COLLECTIVE_TIMEOUT: A collective whose peers do not answer (R336). -/
def execCollectiveTimeout (n : Nat) (i : Nat) (s : State) : Out := whileLive (collTimeout n i) s

/-- ROLL_TIMEOUT: A ROLL that is not released in time (R330). -/
def execRollTimeout (s : State) : Out := whileLive rollTimeout s

/-- COL_HALT: A write of COL_ENG_CTRL (R330, R483). -/
def execColHalt (cls : Nat) (sub : Nat) (n : Nat) (s : State) : Out := whileLive (writeOwn ⟨cls, sub⟩ (COL_ENG_CTRL n) 1) s

/-- COL_RESUME: A write of COL_ENG_CTRL (R330, R483). -/
def execColResume (cls : Nat) (sub : Nat) (n : Nat) (s : State) : Out := whileLive (writeOwn ⟨cls, sub⟩ (COL_ENG_CTRL n) 2) s

/-- COL_ABORT: A write of COL_ENG_CTRL (R330, R483). -/
def execColAbort (cls : Nat) (sub : Nat) (n : Nat) (s : State) : Out := whileLive (writeOwn ⟨cls, sub⟩ (COL_ENG_CTRL n) 4) s

/-- COL_CLEAR_COUNTS: A write of COL_CTRL (R341). -/
def execColClearCounts (cls : Nat) (sub : Nat) (s : State) : Out := whileLive (writeOwn ⟨cls, sub⟩ COL_CTRL 1) s

end Sys2Proof.Machine
end

