-- ==== Sys2Proof/Machine/RowsCore.lean ====
section
/-! DEFINITION. The commands of core programs and the control registers of a core (02_compute_core): one meaning each, over the shared operations. -/

namespace Sys2Proof.Machine

/-- PROGRAM_START: A START that was taken starts its program on an idle core (R67). -/
def execProgramStart (c : Nat) (s : State) : Out := whileLive (programStart c) s

/-- COR_RETIRE: A write of COR_RETIRE (R47). -/
def execCorRetire (cls : Nat) (sub : Nat) (c : Nat) (g : Nat) (s : State) : Out :=
  whileLive (writeOwn ⟨cls, sub⟩ (COR_RETIRE c) g) s

/-- COR_HALT: A write of COR_CTRL (R46, R64, R483). -/
def execCorHalt (cls : Nat) (sub : Nat) (c : Nat) (s : State) : Out := whileLive (writeOwn ⟨cls, sub⟩ (COR_CTRL c) 1) s

/-- COR_RESUME: A write of COR_CTRL (R46, R64, R483). -/
def execCorResume (cls : Nat) (sub : Nat) (c : Nat) (s : State) : Out := whileLive (writeOwn ⟨cls, sub⟩ (COR_CTRL c) 2) s

/-- COR_ABORT: A write of COR_CTRL (R46, R64, R483). -/
def execCorAbort (cls : Nat) (sub : Nat) (c : Nat) (s : State) : Out := whileLive (writeOwn ⟨cls, sub⟩ (COR_CTRL c) 4) s

/-- COR_CLEAR_COUNTS: A write of COR_CTRL (R46, R64, R483). -/
def execCorClearCounts (cls : Nat) (sub : Nat) (c : Nat) (s : State) : Out := whileLive (writeOwn ⟨cls, sub⟩ (COR_CTRL c) 8) s

/-- ARR_CLEAR_COUNTS: A write of COR_ARR_CTRL (R137). -/
def execArrClearCounts (cls : Nat) (sub : Nat) (c : Nat) (s : State) : Out :=
  whileLive (writeOwn ⟨cls, sub⟩ (COR_ARR_CTRL c) 1) s

end Sys2Proof.Machine
end

