-- ==== Sys2Proof/Machine/RowsDrover.lean ====
section
/-! DEFINITION. The commands of Drovers (07_drover_sampling): one meaning each, over the shared operations. -/

namespace Sys2Proof.Machine

/-- SAMPLE: The head SAMPLE of a Drover is accepted (R197, R198). -/
def execSample (d : Nat) (s : State) : Out := whileLive (sampleCmd d) s

/-- SAMPLE_START: A held SAMPLE starts (R213, R217). -/
def execSampleStart (d : Nat) (s : State) : Out := whileLive (sampleStart d) s

/-- SAMPLE_COMPLETE: A built road is written and its SAMPLE completes (R197, R211). -/
def execSampleComplete (d : Nat) (s : State) : Out := whileLive (sampleComplete d) s

/-- TOPO_SWITCH: The head TOPO_SWITCH of a Drover (R216). -/
def execTopoSwitch (d : Nat) (s : State) : Out := whileLive (topoSwitch d) s

/-- PREFETCH: A Drover takes up to n steps of its prefetch (R218). -/
def execPrefetch (d : Nat) (n : Nat) (s : State) : Out := whileLive (prefetch d n) s

/-- ROW_CHECK: The version check of a prefetched row (R219). -/
def execRowCheck (d : Nat) (id : Nat) (s : State) : Out := whileLive (rowCheck d id) s

/-- REMOTE_SAMPLE_TIMEOUT: A remote sample request has not been answered in time (R207). -/
def execRemoteSampleTimeout (d : Nat) (serial : Nat) (s : State) : Out := whileLive (sampleTimeout d serial) s

/-- DRV_HALT: A write of DRV_CTRL (R220, R222, R483). -/
def execDrvHalt (cls : Nat) (sub : Nat) (d : Nat) (s : State) : Out := whileLive (writeOwn ⟨cls, sub⟩ (DRV_CTRL d) 1) s

/-- DRV_RESUME: A write of DRV_CTRL (R220, R222, R483). -/
def execDrvResume (cls : Nat) (sub : Nat) (d : Nat) (s : State) : Out := whileLive (writeOwn ⟨cls, sub⟩ (DRV_CTRL d) 2) s

/-- DRV_ABORT: A write of DRV_CTRL (R220, R222, R483). -/
def execDrvAbort (cls : Nat) (sub : Nat) (d : Nat) (s : State) : Out := whileLive (writeOwn ⟨cls, sub⟩ (DRV_CTRL d) 4) s

/-- DRV_CLEAR_COUNTS: A write of DRV_CTRL (R220, R222, R483). -/
def execDrvClearCounts (cls : Nat) (sub : Nat) (d : Nat) (s : State) : Out := whileLive (writeOwn ⟨cls, sub⟩ (DRV_CTRL d) 8) s

end Sys2Proof.Machine
end

