-- ==== Sys2Proof/Machine/Wydak.lean ====
section
/-! DEFINITION. The Wydak gather of a queue pair (14_host_interface R380 to R383). -/

namespace Sys2Proof.Machine

/-! ### The Wydak gather (R380 to R383) -/

/-- What a Wydak gather comes to: done, held, or failed with a status and a detail. -/
inductive WydakRes where
  | done (s : State)
  | held
  | failed (status detail : Nat) (s : State)
  deriving Repr

/-- The rows of a Wydak gather: `es` are the entries that are left, with the place of each row (R382). Structural on the
entries. -/
def wydakRows (m : Mst) (base rb bias : Nat) : List (Nat × Nat) → State → WydakRes
  | [], s => .done s
  | (w, dst) :: t, s =>
    let e := w % 2 ^ 24
    let a := base + (e + bias) % 2 ^ 24 * rb
    let row : Access :=
      if e = 0xFFFFFF then .done (List.replicate rb 0) false s
      else if 0x8000000000 < a + rb then .bad 0x1002 (s.violateAddr m 0x1002 kRead (s.gaddr a))
      else localRead m a rb s
    match row with
    | .held => .held
    | .bad c s1 => .failed 0x05 c s1
    | .done b ue s1 =>
      if ue then .failed 0x06 0x5001 s1 else
        match localWrite m dst b s1 with
        | .held => .held
        | .bad c s2 => .failed 0x05 c s2
        | .done _ ue2 s2 => if ue2 then .failed 0x06 0x5001 s2 else wydakRows m base rb bias t s2

/-- WYDAK_GATHER: the head command of a Drover, served whole with the queue pair as the master (R382, R383). -/
def wydakGather (d : Nat) (s : State) : State :=
  match drHead s d wydakCode with
  | none => s
  | some (_, c) =>
    let n := c.ref.qp
    let m := s.qpMst n
    let rb := fieldAt c.desc 2 2
    let count := fieldAt c.desc 4 4
    let fin (st det : Nat) (s : State) : State := (s.setDrover d (s.drover d).settle).complete c.ref st 0 det 0
    let s0 := s.dropDr d
    if s.isFrozen (drMst d) then fin 0x05 0x1007 (s0.frozenCommand (drMst d) 0x05)
    else match localRead m (fieldAt c.desc 8 8) (4 * count) s0 with
      | .held => s
      | .bad code s1 => fin 0x05 code s1
      | .done l ue s1 =>
        if ue then fin 0x06 0x5001 s1 else
          let es := (rangeFrom 0 count).map (fun k => (fieldAt l (4 * k) 4, fieldAt c.desc 16 8 + k * rb))
          match wydakRows m (s.fld (QUE_WYDAK_BASE n) QUE_WYDAK_BASE_base * 2 ^ 26) rb (fieldAt c.desc 24 4) es s1 with
          | .held => s
          | .done s2 => fin 0 0 s2
          | .failed st det s2 => fin st det s2

end Sys2Proof.Machine
end

