-- ==== Sys2Proof/Machine/RowsHost.lean ====
section
/-! DEFINITION. The commands of registers, queues, ports and what queues carry (01_architecture, 14_host_interface): one meaning each, over the shared operations. -/

namespace Sys2Proof.Machine

/-- REGISTER_WRITE: A master writes bytes at an offset of the register space; for a port, BAR2 follows BAR0's 64 MiB (R7, R363, R425,
log 5). -/
def execRegisterWrite (cls : Nat) (sub : Nat) (off : Nat) (bytes : List Byte) (s : State) : Out :=
  whileLive (fun s => if cls < 2 ∧ 0x4000000 ≤ off then bar2Write cls (off - 0x4000000) bytes s else busWrite ⟨cls, sub⟩ off bytes s) s

/-- SQ_TAIL_DOORBELL: A submission tail doorbell (R370). -/
def execSqTailDoorbell (port : Nat) (n : Nat) (bytes : List Byte) (s : State) : Out := whileLive (sqTail port n bytes) s

/-- CQ_HEAD_DOORBELL: A completion head doorbell (R370). -/
def execCqHeadDoorbell (port : Nat) (n : Nat) (bytes : List Byte) (s : State) : Out := whileLive (cqHead port n bytes) s

/-- DESCRIPTOR_FETCH: A queue pair fetches and accepts its next descriptor; `host` is what host memory holds (R371, R372). -/
def execDescriptorFetch (n : Nat) (host : List Byte) (s : State) : Out := whileLive (descriptorFetch n host) s

/-- QUEUE_ENABLE: A write of QUE_CFG with enable set (R369). -/
def execQueueEnable (cls : Nat) (sub : Nat) (n : Nat) (v : Nat) (s : State) : Out :=
  whileLive (writeOwn ⟨cls, sub⟩ (QUE_CFG n) (v % 2 ^ 31 + 2 ^ 31)) s

/-- QUEUE_DISABLE: A write of QUE_CFG with enable clear (R369). -/
def execQueueDisable (cls : Nat) (sub : Nat) (n : Nat) (v : Nat) (s : State) : Out :=
  whileLive (writeOwn ⟨cls, sub⟩ (QUE_CFG n) (v % 2 ^ 31)) s

/-- QUEUE_THAW: A write of QUE_CTRL.thaw (R377). -/
def execQueueThaw (cls : Nat) (sub : Nat) (n : Nat) (s : State) : Out := whileLive (writeOwn ⟨cls, sub⟩ (QUE_CTRL n) 1) s

/-- FUNCTION_LEVEL_RESET: A function level reset of a port (R379). -/
def execFunctionLevelReset (port : Nat) (s : State) : Out :=
  whileLive (fun s => if portOff s port then s else functionReset port s) s

/-- PERST: PERSTn_N of a port changes (R475). -/
def execPerst (port : Nat) (low : Bool) (width : Nat) (rate : Nat) (s : State) : Out :=
  .next (perst port low width rate s)

/-- PRIVILEGE_OFFER: A write of GLB_PRIV_OFFER (R368). -/
def execPrivilegeOffer (cls : Nat) (sub : Nat) (on : Bool) (s : State) : Out :=
  whileLive (writeOwn ⟨cls, sub⟩ GLB_PRIV_OFFER (b2n on)) s

/-- PRIVILEGE_ACCEPT: A write of GLB_PRIV_ACCEPT (R368). -/
def execPrivilegeAccept (cls : Nat) (sub : Nat) (s : State) : Out := whileLive (writeOwn ⟨cls, sub⟩ GLB_PRIV_ACCEPT 1) s

/-- HOST_BAR4_READ: A host reads BAR4 (R363). -/
def execHostBar4Read (port : Nat) (a : Nat) (n : Nat) (s : State) : Out := whileLive (bar4Read port a n) s

/-- HOST_BAR4_WRITE: A host writes BAR4 (R363). -/
def execHostBar4Write (port : Nat) (a : Nat) (bytes : List Byte) (s : State) : Out :=
  whileLive (bar4Write port a bytes) s

/-- WYDAK_GATHER: A Drover serves a Wydak descriptor (R380 to R383). -/
def execWydakGather (d : Nat) (s : State) : Out := whileLive (wydakGather d) s

/-- TALLY_ADD: A core serves a TALLY_ADD descriptor (R374). -/
def execTallyAdd (c : Nat) (s : State) : Out := whileLive (tallyAddCmd c) s

/-- PCIE_COMPLETION_TIMEOUT: A fetch or completion write of a queue pair fails on the link (R365). -/
def execPcieCompletionTimeout (n : Nat) (code : Nat) (s : State) : Out := whileLive (pcieFailed n code) s

end Sys2Proof.Machine
end

