-- ==== Sys2Proof/Machine/Kernel.lean ====
section
/-! DEFINITION. The services of the control kernel class (15_control_and_scheduler R388, 10_memory_system R293 to R296), and
management requests that arrive from other devices (01_architecture R25). -/

namespace Sys2Proof.Machine

/-- Whether the control kernel works: its cores are released, it has set kernel_ready, and no commit is mixed (R355, R398, R399, log
69). -/
def kernelUp (s : State) : Bool := decide (fwState s = 3) && s.bit SCH_FW_STATUS SCH_FW_STATUS_kernel_ready && !s.mixed

/-- The argument of a service command's item: queue pair and ring index (R396). -/
def Svc.arg (v : Svc) : Nat := v.cmd.ref.qp % 2 ^ 14 + v.ring * 2 ^ 16

/-- The command with a code that control core c serves: its running item carries the command's argument (R371, R391, R396). -/
def served (s : State) (c code : Nat) : Option Svc :=
  if !kernelUp s || (s.sched (c / 2)).cut then none else
    match s.slot c with
    | none => none
    | some z =>
      if !z.taken then none
      else s.svcs.find? (fun v => decide (v.fold = c / 2) && decide (v.phase = 0) && decide (v.cmd.code = code) && decide (v.arg = z.item.arg))

/-- A service command completes. -/
def finishSvc (v : Svc) (status result : Nat) (s : State) : State :=
  ({ s with svcs := s.svcs.erase v } : State).complete v.cmd.ref status result 0 0

/-- A service command ends in a violation of its control core, whose Logbook code is the record's detail (R375). -/
def frozenSvc (v : Svc) (code : Nat) (s : State) : State :=
  ({ s with svcs := s.svcs.erase v } : State).complete v.cmd.ref 0x05 0 code 0

/-- A service command goes on waiting in another phase from now. -/
def parkSvc (v : Svc) (phase tick : Nat) (s : State) : State :=
  { s with svcs := s.svcs.map (fun w => if w = v then { v with phase := phase, tick := tick } else w) }

/-- A service that is done at once: status and result; it goes on waiting while what it uses is not serving (R299). -/
def serveNow (c code : Nat) (wait : List Byte → State → Bool) (f : List Byte → State → Nat × Nat × State) (s : State) : State :=
  match served s c code with
  | none => s
  | some v =>
    if wait v.cmd.desc s then s
    else
      let (st, res, s1) := f v.cmd.desc s
      finishSvc v st res s1

/-- ALLOC waits for the tables of the pastures that it tries. -/
def allocWaits (d : List Byte) (s : State) : Bool :=
  tablesWait s (tryOrder s (fieldAt d 0x16 1) (fieldAt d 0x17 1) (fieldAt d 0x18 1 = 1))

/-- FREE and PASTURE_FREE wait for the table of one pasture. -/
def freeWaits (p : Nat) (s : State) : Bool := tablesWait s [p]

/-- ALLOC (R293, R294): the result names the pasture in bits 63:48 and the base below. -/
def allocSvc (d : List Byte) (s : State) : Nat × Nat × State :=
  let (st, p, b, s1) := allocate (fieldAt d 8 8) (2 ^ fieldAt d 0x14 1) (fieldAt d 0x15 1) (fieldAt d 0x16 1) (fieldAt d 0x17 1)
    (fieldAt d 0x10 4) (fieldAt d 0x18 1 = 1) s
  (st, if st = 0 then p * 2 ^ 48 + b else 0, s1)

/-- FREE (R296). -/
def freeSvc (d : List Byte) (s : State) : Nat × Nat × State :=
  let (st, s1) := freeRegion (fieldAt d 8 8) s
  (st, 0, s1)

/-- ECHO. -/
def echoSvc (d : List Byte) (s : State) : Nat × Nat × State := (0, fieldAt d 8 8, s)

/-- PASTURE_FREE. -/
def pastureFreeSvc (d : List Byte) (s : State) : Nat × Nat × State :=
  let (ue, s1) := s.touch (regionReads s [fieldAt d 8 1])
  if ue then (0x06, 0, s1) else (0, largestFree s (fieldAt d 8 1), s1)

/-- DELAY: due the given ticks after acceptance (R388). -/
def delayStart (c : Nat) (s : State) : State :=
  match served s c 0x13 with
  | none => s
  | some v => parkSvc v 2 (v.tick + fieldAt v.cmd.desc 8 4) s

/-- DELAY_EXPIRY of a waiting command: at the first tick at or after its due tick. -/
def delayExpiry (i : Nat) (s : State) : State :=
  match s.svcs[i]? with
  | none => s
  | some v => if v.phase = 2 ∧ (s.sched v.fold).cut = false ∧ v.tick ≤ (s.reg SCH_TICK).toNat then finishSvc v 0 0 s else s

/-! ### Remote accesses (R25, R314, R388) -/

/-- A management request of a service: before the first commit on a named link (R314), else by its route. -/
def mgmtRequest (s : State) (link ty dst addr : Nat) (data : List Byte) (o : ReqOwner) : State :=
  if s.committed then (s.request ty dst addr [8] data o).2
  else
    let p := s.mkPacket ty 3 dst addr s.nextTag 0 [8] data
    let r : Req := { tag := s.nextTag, dst := dst, owner := o, addr := addr, crc := crc32c p.payload, len := p.payload.length, ty := ty }
    (({ s with nextTag := (s.nextTag + 1) % 65536, reqs := s.reqs ++ [r] } : State).sendOn link p)

/-- An access of the kernel's own by control core c on a named link: before the first commit the kernel discovers the wiring so, as the
runtime asks it to, and no queue pair carries a command (R314, R387). Which register it accesses and what it writes are free values (log 154). -/
def discover (c link : Nat) (wr : Bool) (s : State) : State :=
  if s.committed || !kernelUp s || mute s (ctrlMst c) then s
  else
    let (a, s1) := s.drawWord
    let (v, s2) := s1.drawWord
    let g := mmioBase + a.toNat % 0x800000 * 8
    if !permitted s 138 0 g 8 kMmio then s2.violateAddr (ctrlMst c) 0x1001 kMmio g
    else mgmtRequest s2 link (if wr then 0xC2 else 0xC1) 0 g (if wr then leBytes 8 v.toNat else []) .other

/-- A read or a write of a register by control core c: the own device's registers are accessed here (R24); another device's
by a management request, which the Hall monitor checks first (R425). A write gives the register its own width (log 70). -/
def remoteAccess (c link : Nat) (wr : Bool) (s : State) : State :=
  let code := if wr then 0x12 else 0x11
  match served s c code with
  | none => discover c link wr s
  | some v =>
    let d := v.cmd.desc
    let a := fieldAt d 8 8
    let dev := fieldAt d 0x10 2
    let m := ctrlMst c
    if s.isFrozen m then frozenSvc v 0x1007 (s.frozenCommand m 0x05)
    else if !permitted s 138 dev a 8 kMmio then
      frozenSvc v 0x1001 (s.violateAddr m 0x1001 kMmio (dev * 2 ^ 48 + a))
    else if dev = s.devId then
      if wr then
        let s1 := mmioWrite m (a - mmioBase) (leBytes (regBytes (a - mmioBase)) (fieldAt d 0x18 8)) s
        if s1.isFrozen m then frozenSvc v 0x1006 s1 else finishSvc v 0 0 s1
      else finishSvc v 0 (leNat (readRegs s (a - mmioBase) 8)) (rouseRead s (a - mmioBase) 8)
    else
      let s1 := parkSvc v 1 (s.reg SCH_TICK).toNat s
      mgmtRequest s1 link (if wr then 0xC2 else 0xC1) dev (dev * 2 ^ 48 + a) (if wr then leBytes 8 (fieldAt d 0x18 8) else [])
        (.service v.fold v.arg)

/-- The service command that awaits an answer with an argument in a Fold. -/
def awaiting (s : State) (f arg : Nat) : Option Svc :=
  s.svcs.find? (fun v => decide (v.fold = f) && decide (v.arg = arg) && decide (v.phase = 1))

/-- The answer to a remote access. -/
def serviceAnswered (s : State) (f arg status : Nat) (data : List Byte) : State :=
  match awaiting s f arg with
  | none => s
  | some v => finishSvc v status (if v.cmd.code = 0x11 ∧ status = 0 then fieldAt data 0 8 else 0) s

/-- REMOTE_ACCESS_TIMEOUT of a waiting command: 10 ms after its request (R388). -/
def remoteTimeout (i : Nat) (s : State) : State :=
  match s.svcs[i]? with
  | none => s
  | some v =>
    if v.phase = 1 ∧ (s.sched v.fold).cut = false ∧ v.tick + 10000 ≤ (s.reg SCH_TICK).toNat then
      finishSvc v 0x07 0 { s with reqs := s.reqs.filter (fun r => decide (r.owner ≠ .service v.fold v.arg)) }
    else s

end Sys2Proof.Machine
end

