-- ==== Sys2Proof/Machine/RowsKernel.lean ====
section
/-! DEFINITION. The commands of the services of the control kernel (15_control_and_scheduler): one meaning each, over the shared operations. -/

namespace Sys2Proof.Machine

/-- ALLOC: Control core c serves an ALLOC (R293, R294). -/
def execAlloc (c : Nat) (s : State) : Out := whileLive (serveNow c 1 allocWaits allocSvc) s

/-- FREE: Control core c serves a FREE (R296). -/
def execFree (c : Nat) (s : State) : Out := whileLive (serveNow c 2 (fun d => freeWaits (pastureOf (fieldAt d 8 8))) freeSvc) s

/-- ECHO: Control core c serves an ECHO (R388). -/
def execEcho (c : Nat) (s : State) : Out := whileLive (serveNow c 0x10 (fun _ _ => false) echoSvc) s

/-- REMOTE_READ: Control core c serves a REMOTE_READ; `link` carries it before the first commit (R314, R388). -/
def execRemoteRead (c : Nat) (link : Nat) (s : State) : Out := whileLive (remoteAccess c link false) s

/-- REMOTE_WRITE: Control core c serves a REMOTE_WRITE; `link` carries it before the first commit (R314, R388). -/
def execRemoteWrite (c : Nat) (link : Nat) (s : State) : Out := whileLive (remoteAccess c link true) s

/-- REMOTE_ACCESS_TIMEOUT: A remote access is not answered within 10 ms (R388). -/
def execRemoteAccessTimeout (i : Nat) (s : State) : Out := whileLive (remoteTimeout i) s

/-- DELAY: Control core c serves a DELAY (R388). -/
def execDelay (c : Nat) (s : State) : Out := whileLive (delayStart c) s

/-- DELAY_EXPIRY: The ticks of a DELAY have passed (R388). -/
def execDelayExpiry (i : Nat) (s : State) : Out := whileLive (delayExpiry i) s

/-- PASTURE_FREE: Control core c serves a PASTURE_FREE (R388). -/
def execPastureFree (c : Nat) (s : State) : Out := whileLive (serveNow c 0x14 (fun d => freeWaits (fieldAt d 8 1)) pastureFreeSvc) s

end Sys2Proof.Machine
end

