-- ==== Sys2Proof/Machine/RowsLink.lean ====
section
/-! DEFINITION. The commands of the blocks and states of links (11_ilbegal_links): one meaning each, over the shared operations. -/

namespace Sys2Proof.Machine

/-- DATA_BLOCK: A block of 120 data bytes and a control word arrives with the FEC counts of its codewords (R303, R312, R313,
R315). -/
def execDataBlock (n : Nat) (data : List Byte) (ctl : Nat) (good : Nat) (bad : Nat) (s : State) : Out :=
  whileLive (dataBlock n data ctl good bad) s

/-- NAK_BLOCK: A block of 120 data bytes and a control word arrives with the FEC counts of its codewords (R303, R312, R313,
R315). -/
def execNakBlock (n : Nat) (data : List Byte) (ctl : Nat) (good : Nat) (bad : Nat) (s : State) : Out :=
  whileLive (nakBlock n data ctl good bad) s

/-- IDLE_BLOCK: A block of 120 data bytes and a control word arrives with the FEC counts of its codewords (R303, R312, R313,
R315). -/
def execIdleBlock (n : Nat) (data : List Byte) (ctl : Nat) (good : Nat) (bad : Nat) (s : State) : Out :=
  whileLive (idleBlock n data ctl good bad) s

/-- INIT_BLOCK: A block of 120 data bytes and a control word arrives with the FEC counts of its codewords (R303, R312, R313,
R315). -/
def execInitBlock (n : Nat) (data : List Byte) (ctl : Nat) (good : Nat) (bad : Nat) (s : State) : Out :=
  whileLive (initBlock n data ctl good bad) s

/-- RETRY_DEADLINE: A state change of a link (R312, R315). -/
def execRetryDeadline (n : Nat) (s : State) : Out := whileLive (retryDeadline n) s

/-- LINK_TRAINING_DONE: A state change of a link (R312, R315). -/
def execLinkTrainingDone (n : Nat) (snr0 : Nat) (snr1 : Nat) (prec0 : Nat) (prec1 : Nat) (s : State) : Out :=
  whileLive (linkTrainingDone n snr0 snr1 prec0 prec1) s

/-- TRAINING_TIMEOUT: A state change of a link (R312, R315). -/
def execTrainingTimeout (n : Nat) (s : State) : Out := whileLive (trainingTimeout n) s

/-- ALIGNMENT_DONE: A state change of a link (R312, R315). -/
def execAlignmentDone (n : Nat) (s : State) : Out := whileLive (alignmentDone n) s

/-- LOSS_OF_LOCK: A state change of a link (R312, R315). -/
def execLossOfLock (n : Nat) (s : State) : Out := whileLive (lossOfLock n) s

/-- RETRAIN_TIMER: A state change of a link (R312, R315). -/
def execRetrainTimer (n : Nat) (s : State) : Out := whileLive (retrainTimer n) s

/-- LNK_RETRAIN: A write of LNK_CTRL.retrain (R312, R321). -/
def execLnkRetrain (cls : Nat) (sub : Nat) (n : Nat) (s : State) : Out := whileLive (writeOwn ⟨cls, sub⟩ (LNK_CTRL n) 1) s

/-- LNK_CLEAR_COUNTS: A write of LNK_CTRL.clear_counts (R321). -/
def execLnkClearCounts (cls : Nat) (sub : Nat) (n : Nat) (s : State) : Out := whileLive (writeOwn ⟨cls, sub⟩ (LNK_CTRL n) 2) s

end Sys2Proof.Machine
end

