-- ==== Sys2Proof/Machine/RowsLog.lean ====
section
/-! DEFINITION. The commands of the Logbook, the Hall monitor, the replay recorder (16_failure_and_replay, 17_reliability_and_logbook): one meaning each, over the shared operations. -/

namespace Sys2Proof.Machine

/-- LOG_FLUSH: A write of LOG_CTRL.flush (R436). -/
def execLogFlush (cls : Nat) (sub : Nat) (s : State) : Out := whileLive (writeOwn ⟨cls, sub⟩ LOG_CTRL 1) s

/-- FLUSH_DONE: A flush ends; `skip` are the slots that did not reach the MRAM (R436). -/
def execFlushDone (failed : Bool) (skip : List Nat) (s : State) : Out := .next (flushDone failed skip s)

/-- LOG_CLEAR_COUNTS: A write of LOG_CTRL.clear_counts (R440). -/
def execLogClearCounts (cls : Nat) (sub : Nat) (s : State) : Out := whileLive (writeOwn ⟨cls, sub⟩ LOG_CTRL 2) s

/-- LOG_FREEZE: A write of LOG_FREEZE (R434). -/
def execLogFreeze (cls : Nat) (sub : Nat) (on : Bool) (s : State) : Out := whileLive (writeOwn ⟨cls, sub⟩ LOG_FREEZE (b2n on)) s

/-- LOG_CURSOR: A write of LOG_CURSOR (R435). -/
def execLogCursor (cls : Nat) (sub : Nat) (v : Nat) (s : State) : Out := whileLive (writeOwn ⟨cls, sub⟩ LOG_CURSOR v) s

/-- HMN_WIN_WRITE: A write of HMN_WIN_WRITE (R427). -/
def execHmnWinWrite (cls : Nat) (sub : Nat) (c : Nat) (i : Nat) (s : State) : Out :=
  whileLive (writeOwn ⟨cls, sub⟩ HMN_WIN_WRITE (c % 2 ^ 8 + i % 2 ^ 8 * 2 ^ 8)) s

/-- HMN_THAW: A write of HMN_THAW (R429). -/
def execHmnThaw (cls : Nat) (sub : Nat) (c : Nat) (n : Nat) (all : Bool) (s : State) : Out :=
  whileLive (writeOwn ⟨cls, sub⟩ HMN_THAW (c % 2 ^ 8 + n % 2 ^ 14 * 2 ^ 16 + b2n all * 2 ^ 31)) s

/-- HMN_CLEAR_COUNTS: A write of HMN_CTRL (R439). -/
def execHmnClearCounts (cls : Nat) (sub : Nat) (s : State) : Out := whileLive (writeOwn ⟨cls, sub⟩ HMN_CTRL 1) s

/-- REC_ABORT: A write of REC_CTRL.abort (R418). -/
def execRecAbort (cls : Nat) (sub : Nat) (s : State) : Out := whileLive (writeOwn ⟨cls, sub⟩ REC_CTRL 1) s

/-- REC_CLEAR_COUNTS: A write of REC_CTRL.clear_counts (R418). -/
def execRecClearCounts (cls : Nat) (sub : Nat) (s : State) : Out := whileLive (writeOwn ⟨cls, sub⟩ REC_CTRL 2) s

end Sys2Proof.Machine
end

