-- ==== Sys2Proof/Machine/RowsManage.lean ====
section
/-! DEFINITION. The commands of the sideband and the test access port (20_package_and_management): one meaning each, over the shared operations. -/

namespace Sys2Proof.Machine

/-- FORCE_OWNER: The sideband forces the privileged port (R479). -/
def execForceOwner (bus : Bus) (port : Nat) (s : State) : Out := .next (sideband bus (forceOwner port) s)

/-- THAW: The sideband thaws a sub-master (R479). -/
def execThaw (bus : Bus) (cls : Nat) (sub : Nat) (all : Bool) (s : State) : Out :=
  .next (sideband bus (sidebandThaw cls sub all) s)

/-- READ_REG: The sideband reads a register (R479). -/
def execReadReg (bus : Bus) (off : Nat) (s : State) : Out := .next (sideband bus (sidebandRead off) s)

/-- SET_ENDPOINT_ID: MCTP Set Endpoint ID (R477). -/
def execSetEndpointId (bus : Bus) (eid : Nat) (s : State) : Out := .next (sideband bus (setEid eid) s)

/-- GET_ENDPOINT_ID: MCTP Get Endpoint ID (R477). -/
def execGetEndpointId (bus : Bus) (s : State) : Out := .next (sideband bus (getEid) s)

/-- GET_MCTP_VERSION_SUPPORT: MCTP Get Version Support (R477). -/
def execGetMctpVersionSupport (bus : Bus) (ty : Nat) (s : State) : Out := .next (sideband bus (getMctpVersion ty) s)

/-- GET_MESSAGE_TYPE_SUPPORT: MCTP Get Message Type Support (R477). -/
def execGetMessageTypeSupport (bus : Bus) (s : State) : Out := .next (sideband bus (getMessageTypes) s)

/-- GET_VENDOR_DEFINED_MSG_SUPPORT: MCTP Get Vendor Defined Message Support (R477). -/
def execGetVendorDefinedMsgSupport (bus : Bus) (sel : Nat) (s : State) : Out := .next (sideband bus (getVendorSupport sel) s)

/-- GETTID: PLDM GetTID (R478). -/
def execGetTid (bus : Bus) (s : State) : Out := .next (sideband bus (getTid) s)

/-- GETPLDMVERSION: PLDM GetPLDMVersion (R478). -/
def execGetPldmVersion (bus : Bus) (ty : Nat) (s : State) : Out := .next (sideband bus (getPldmVersion ty) s)

/-- GETPLDMTYPES: PLDM GetPLDMTypes (R478). -/
def execGetPldmTypes (bus : Bus) (s : State) : Out := .next (sideband bus (getPldmTypes) s)

/-- GETPLDMCOMMANDS: PLDM GetPLDMCommands (R478). -/
def execGetPldmCommands (bus : Bus) (ty : Nat) (s : State) : Out := .next (sideband bus (getPldmCommands ty) s)

/-- GETPDRREPOSITORYINFO: PLDM GetPDRRepositoryInfo (R478). -/
def execGetPdrRepositoryInfo (bus : Bus) (s : State) : Out := .next (sideband bus (getPdrInfo) s)

/-- GETPDR: PLDM GetPDR (R478). -/
def execGetPdr (bus : Bus) (n : Nat) (s : State) : Out := .next (sideband bus (getPdr n) s)

/-- GETSENSORREADING: PLDM GetSensorReading (R478). -/
def execGetSensorReading (bus : Bus) (n : Nat) (s : State) : Out := .next (sideband bus (getSensor n) s)

/-- GETSTATESENSORREADINGS: PLDM GetStateSensorReadings (R478). -/
def execGetStateSensorReadings (bus : Bus) (n : Nat) (s : State) : Out := .next (sideband bus (getStateSensor n) s)

/-- SETEVENTRECEIVER: PLDM SetEventReceiver (R478). -/
def execSetEventReceiver (bus : Bus) (r : Option Nat) (s : State) : Out := .next (sideband bus (setReceiver r) s)

/-- SETDASA: I3C SETDASA (R476). -/
def execSetDasa (dasa : Dasa) (s : State) : Out := .next (sideband ⟨false, dasa.good, none⟩ (setDasa dasa.addr) s)

/-- ENTDAA: I3C ENTDAA gives an address (R476). -/
def execEntDaa (good : Bool) (a : Nat) (s : State) : Out := .next (sideband ⟨false, good, none⟩ (entDaa a) s)

/-- SMBUS_ALERT_RESPONSE: The SMBus Alert Response Address is read (R476). -/
def execSmbusAlertResponse (good : Bool) (s : State) : Out := .next (sideband ⟨true, good, none⟩ alertResponse s)

/-- EXTEST: A TAP instruction is loaded (R481). -/
def execExtest (s : State) : Out := .next (tapLoad 0x00 s)

/-- SAMPLE_PRELOAD: A TAP instruction is loaded (R481). -/
def execSamplePreload (s : State) : Out := .next (tapLoad 0x02 s)

/-- CLAMP: A TAP instruction is loaded (R481). -/
def execClamp (s : State) : Out := .next (tapLoad 0x04 s)

/-- HIGHZ: A TAP instruction is loaded (R481). -/
def execHighz (s : State) : Out := .next (tapLoad 0x05 s)

/-- EXTEST_PULSE: A TAP instruction is loaded (R481). -/
def execExtestPulse (s : State) : Out := .next (tapLoad 0x06 s)

/-- EXTEST_TRAIN: A TAP instruction is loaded (R481). -/
def execExtestTrain (s : State) : Out := .next (tapLoad 0x07 s)

/-- SEC_ACCESS: A TAP instruction is loaded (R451, R481). -/
def execSecAccess (s : State) : Out := .next (tapLoad 0x40 s)

/-- BYPASS: BYPASS is loaded, or a locked private instruction, which acts as BYPASS (R481). -/
def execBypass (s : State) : Out := .next (tapLoad 0xFF s)

/-- IDCODE: IDCODE is selected (R481). -/
def execIdcode (s : State) : Out := .next (tapIdcode s)

/-- TAP_RESET: The test access port is reset (R481). -/
def execTapReset (s : State) : Out := .next (tapReset s)

end Sys2Proof.Machine
end

