-- ==== Sys2Proof/Machine/RowsMemory.lean ====
section
/-! DEFINITION. The commands of stacks, SRAM, near-stack reducers, row appliers (08_gather_scatter, 09_embedding_tables, 10_memory_system): one meaning each, over the shared operations. -/

namespace Sys2Proof.Machine

/-- STACK_TRAINING_DONE: The training of a stack ends (R299). -/
def execStackTrainingDone (p : Nat) (ok : Bool) (s : State) : Out := whileLive (trainingDone p ok) s

/-- REFRESH: A bank of a stack is refreshed (R289). -/
def execRefresh (p : Nat) (s : State) : Out := whileLive (refresh p) s

/-- SCRUB: The patrol scrub takes its next atom (R290). -/
def execScrub (p : Nat) (s : State) : Out := whileLive (scrub p) s

/-- SCRUB_NOW: A write of MEM_CTRL.scrub_now (R290). -/
def execScrubNow (cls : Nat) (sub : Nat) (p : Nat) (s : State) : Out := whileLive (writeOwn ⟨cls, sub⟩ (MEM_CTRL p) 1) s

/-- MEM_CLEAR_COUNTS: A write of MEM_CTRL.clear_counts (R300). -/
def execMemClearCounts (cls : Nat) (sub : Nat) (p : Nat) (s : State) : Out := whileLive (writeOwn ⟨cls, sub⟩ (MEM_CTRL p) 2) s

/-- MEM_MARK: A write of MEM_MARK_c (R288). -/
def execMemMark (cls : Nat) (sub : Nat) (p : Nat) (i : Nat) (v : Nat) (s : State) : Out :=
  whileLive (writeOwn ⟨cls, sub⟩ (MEM_MARK p i) v) s

/-- SRAM_PATROL: The SRAM pass finds a word with an error (R297, R298). -/
def execSramPatrol (kind : Nat) (inst : Nat) (off : Nat) (double : Bool) (s : State) : Out :=
  whileLive (sramPatrol kind inst off double) s

/-- SRAM_CLEAR_COUNTS: A write of MEM_SRAM_CTRL (R301). -/
def execSramClearCounts (cls : Nat) (sub : Nat) (s : State) : Out := whileLive (writeOwn ⟨cls, sub⟩ MEM_SRAM_CTRL 1) s

/-- NSR_CLEAR_POP: A write of NSR_CTRL (R240, R244). -/
def execNsrClearPop (cls : Nat) (sub : Nat) (p : Nat) (s : State) : Out := whileLive (writeOwn ⟨cls, sub⟩ (NSR_CTRL p) 1) s

/-- APPLICATION: A row applier applies its step on the delivered flag (R256 to R261). -/
def execApplication (p : Nat) (s : State) : Out := whileLive (fun s => rollRetry (applyStep p s)) s

/-- EMB_CLEAR_COUNTS: A write of EMB_CTRL (R272). -/
def execEmbClearCounts (cls : Nat) (sub : Nat) (s : State) : Out := whileLive (writeOwn ⟨cls, sub⟩ EMB_CTRL 1) s

end Sys2Proof.Machine
end

