-- ==== Sys2Proof/Machine/Packets.lean ====
section
/-! DEFINITION. Packets that wait in the ingress buffers of the links (11_ilbegal_links R305 to R309, R314, R323; the request chapters
of R24, R206, R224, R233, R254, R262, R267, R327), the answers to this device's requests, and the packets that a replay injects
(16_failure_and_replay R416). -/

namespace Sys2Proof.Machine

/-- The master of a link's ingress (R423). -/
def ingressMst (n : Nat) : Mst := ⟨42 + n, 0⟩

/-- Whether a packet is stamped with a newer epoch than one (R356). -/
def newerThan (epoch : Nat) (p : Packet) : Bool := decide (0 < modDiff 32 p.epoch epoch)

/-- Take the packet in a slot of a link, if it has a type: its slot is freed, and it is handled; `none` holds it in its slot
(R308, R356). Reading the packet meets the errors of its place: one with a double-bit error is discarded (R297, R317). -/
def takeSlot (n i ty : Nat) (f : Packet → State → Option State) (s : State) : State :=
  match (s.lnk n).slots[i]? with
  | none => s
  | some p =>
    if p.ty ≠ ty then s
    else match meetPlace n p.place s with
      | (true, s1) => (bufferReport n p.vc p.cls p.place s1).freeSlot n i
      | (false, s1) => match f p (s1.freeSlot n i) with
        | some t => t
        | none => s

/-- A frozen ingress link answers a request with FROZEN (R428). -/
def answerFrozen (n : Nat) (p : Packet) (s : State) : State := (s.frozenCommand (ingressMst n) 0x05).respond p 0x05 [] []

/-- A request packet: held while it is newer than this device's epoch, answered FROZEN on a frozen link, else served. -/
def requestIn (n i ty : Nat) (f : Packet → State → Option State) (s : State) : State :=
  takeSlot n i ty (fun p s =>
    if newerThan (s.fld STR_EPOCH STR_EPOCH_current) p then none
    else if s.isFrozen (ingressMst n) then some (answerFrozen n p s)
    else f p s) s

/-- A violation of an ingress link by a request: the link's class is frozen, and the requester receives FROZEN (R25, R428). -/
def ingressBad (n : Nat) (p : Packet) (code kind : Nat) (s : State) : State :=
  (s.violateAddr (ingressMst n) code kind p.addr).respond p 0x05 [] []

/-! ### Memory requests (R24, R25, R307) -/

/-- READ: the bytes, or the status of what was met. -/
def readIn (n : Nat) (p : Packet) (s : State) : Option State :=
  let a := p.addr % 2 ^ 48
  if inMmio a then some (ingressBad n p 0x1005 kMmio s)
  else if stampHeld s p.epoch a then none
  else match localRead (ingressMst n) a (p.args.getD 0 0) s with
    | .held => none
    | .bad _ s1 => some (s1.respond p 0x05 [] [])
    | .done b ue s1 => some (s1.respond p (if ue then 0x06 else 0) [] b)

/-- WRITE: the answer follows when the write is performed. -/
def writeIn (n : Nat) (p : Packet) (s : State) : Option State :=
  let a := p.addr % 2 ^ 48
  if inMmio a then some (ingressBad n p 0x1005 kMmio s)
  else if stampHeld s p.epoch a then none
  else match localStore (ingressMst n) a p.data s with
    | .held => none
    | .bad _ s1 => some (s1.respond p 0x05 [] [])
    | .done _ ue s1 => some (s1.respond p (if ue then 0x06 else 0) [] [])

/-- READ in a slot. -/
def readPacket (n i : Nat) (s : State) : State := requestIn n i 0x01 (readIn n) s

/-- WRITE in a slot. -/
def writePacket (n i : Nat) (s : State) : State := requestIn n i 0x02 (writeIn n) s

/-! ### TALLY_ADD (R54, R323, R425) -/

/-- The event of a remote ADD beyond the limit in the target's Logbook (R54): the parameters of R428, with no freeze. -/
def logTally (s : State) (m : Mst) (c t : Nat) : State :=
  let r := s.reg (COR_TALLY c t)
  let on := s.has .core c && decide (t < 48)
  s.log 0x1003 0 2 (mstParam m) (c % 256 + t % 256 * 2 ^ 8 + s.devId * 2 ^ 16)
    (if on ∧ fget COR_TALLY_limit r ≠ 0 then fget COR_TALLY_count r else 0) (if on then fget COR_TALLY_limit r else 0)

/-- A TALLY_ADD that the ingress link's windows permit. -/
def tallyIn (n : Nat) (p : Packet) (s : State) : Option State :=
  let c := p.args.getD 0 0
  let t := p.args.getD 1 0
  if newerThan (coreEpoch s c) p then none
  else if !permitted s (42 + n) s.devId (mmioBase + COR_TALLY c t) 8 kTally then some (ingressBad n p 0x1001 kTally s)
  else
    let (ok, s1) := s.tallyAdd c t (p.args.getD 2 0)
    if ok then some (s1.respond p 0 [] []) else some ((logTally s1 (ingressMst n) c t).respond p 0x0B [] [])

/-- TALLY_ADD in a slot. -/
def tallyPacket (n i : Nat) (s : State) : State := requestIn n i 0x03 (tallyIn n) s

/-! ### Rows, reductions, samples, records, versions -/

/-- Bytes of data that a packet of the answer to a row or reduce request carries at most, beside its arguments (R304, log 96). -/
abbrev bytesPerPacket : Nat := 4032

/-- The answer to a row or reduce request that was served: its data go out in as many packets as they take, each with the arguments, the
number of packets and its own place among them (R304, R307, log 96). -/
def respondPieces (s : State) (p : Packet) (status : Nat) (args : List Nat) (d : List Byte) : State :=
  let ps := if d = [] then [[]] else chunksOf bytesPerPacket d
  (ps.zip (rangeFrom 0 ps.length)).foldl (fun s q => s.respond p status (args ++ [ps.length, q.2]) q.1) s

/-- What the check of a request over pieces of a pasture comes to: a violation's code, or none; `held` while the pasture waits. -/
def piecesCheck (s : State) (cls : Nat) (kind : Nat) (ps : List (Nat × Nat)) : Option Nat :=
  if ps.any (fun q => !mapped s q.1 q.2) then some 0x1002
  else if ps.any (fun q => !permitted s cls s.devId q.1 q.2 kind) then some 0x1001 else none

/-- The bytes of the values part that a request's check covers (R224, R254). -/
def valueSpan (slot cls col0 n : Nat) : Nat × Nat :=
  let (lo, hi) := colSpan cls col0 n
  (slot + lo, hi - lo)

/-- Whether a request of a step lies too far behind (R269). -/
def stale (s : State) (p : Packet) : Bool := decide (2 ≤ stepLag s p.stepLo)

/-- The pasture whose reducer or applier a packet's address reaches (log 75). -/
def pasOf (p : Packet) : Nat := pastureOf (p.addr % 2 ^ 48) % 8

/-- ROW_REQ at the NSR of its slot (R25, R224, R243, R268, R269). -/
def rowIn (n : Nat) (p : Packet) (s : State) : Option State :=
  let slot := p.addr % 2 ^ 48
  let cls := p.args.getD 0 0
  let e := p.args.getD 1 0
  let col0 := p.args.getD 2 0
  let nc := p.args.getD 3 0
  let ps := [valueSpan slot cls col0 nc]
  if inMmio slot then some (ingressBad n p 0x1005 kMmio s)
  else if stale s p then some (s.respond p 0x07 [] [])
  else if waits s slot then none
  else match (if rowPlaced slot cls e then piecesCheck s (42 + n) kRead ps else none) with
    | some code => some (ingressBad n p code kRead s)
    | none => match nsrRow s p.src slot cls e col0 nc with
      | .got d ue s1 => some (respondPieces s1 p (if ue then 0x06 else 0) [] d)
      | .moved w s1 => some (s1.respond p 0x0A [w] [])
      | .refused s1 => some (s1.respond p 0x02 [] [])

/-- ROW_REQ in a slot. -/
def rowPacket (n i : Nat) (s : State) : State := requestIn n i 0x04 (rowIn n) s

/-- The sources that arguments carry. -/
def argSrcs : Nat → List Nat → List Src
  | 0, _ => []
  | k + 1, l => if l.length < 4 then [] else ⟨l.getD 0 0, l.getD 1 0, l.getD 2 0, l.getD 3 0⟩ :: argSrcs k (l.drop 4)

/-- REDUCE_REQ at an NSR (R233 to R235, R243, R268). -/
def reduceIn (n : Nat) (p : Packet) (s : State) : Option State :=
  let arg (i : Nat) : Nat := p.args.getD i 0
  let e := arg 5
  let xs := argSrcs (arg 6) (p.args.drop 7)
  let ps := (xs.filter (fun x => rowPlaced x.slot x.cls e)).map (fun x => valueSpan x.slot x.cls (arg 3) (arg 4))
  let pas := pasOf p
  if inMmio (p.addr % 2 ^ 48) then some (ingressBad n p 0x1005 kMmio s)
  else if stale s p then some (s.respond p 0x07 [] [])
  else if waits s (p.addr % 2 ^ 48) then none
  else match piecesCheck s (42 + n) kRead ps with
    | some code => some (ingressBad n p code kRead s)
    | none => match nsrReduce s pas p.src (arg 0) e (arg 3) (arg 4) (arg 1 = 1) (arg 2) xs with
      | .got form d ue s1 => some (respondPieces s1 p (if ue then 0x06 else 0) [form] d)
      | .moved l s1 => some (s1.respond p 0x0A l [])
      | .refused l s1 => some (s1.respond p 0x02 l [])

/-- REDUCE_REQ in a slot. -/
def reducePacket (n i : Nat) (s : State) : State := requestIn n i 0x05 (reduceIn n) s

/-- SAMPLE_REQ: a window of the ingress link must let it read here; the nodes of the packet are served, and the answer goes out in as many
packets as its edges take (R206, R207, R425, log 156). -/
def sampleIn (n : Nat) (p : Packet) (s : State) : Option State :=
  let arg (i : Nat) : Nat := p.args.getD i 0
  if !reachesDev s (42 + n) s.devId kRead then some (ingressBad n p 0x1001 kRead s)
  else (serveAll (arg 0) (arg 1) (arg 2) p.data (p.args.drop 3) s).map (fun (st, run, l, s1) =>
    if st ≠ 0 then s1.respond p st run []
    else
      let ps := packPieces (l.flatMap edgePieces) []
      ps.foldl (fun s q => s.respond p 0 (pieceArgs ps.length q) []) s1)

/-- SAMPLE_REQ in a slot. -/
def samplePacket (n i : Nat) (s : State) : State := requestIn n i 0x06 (sampleIn n) s

/-- The bytes that a record's check covers, where this device's entry tells its home slot (R87, R254). -/
def recordSpan (s : State) (h : GradHead) : List (Nat × Nat) :=
  match s.registered h.table with
  | none => []
  | some t => match ownEntry s t h.row with
    | none => []
    | some (_, e) =>
      if e.unplaced || decide (e.dev ≠ s.devId) then []
      else
        let (lo, hi) := colSpan e.cls h.col0 h.ncols
        [(e.addr + lo, hi - lo)]

/-- GRAD_RECORD at the row applier of the pasture that its address names (R254, R255, R268, R269). -/
def gradIn (n : Nat) (p : Packet) (s : State) : Option State :=
  if inMmio (p.addr % 2 ^ 48) then some (ingressBad n p 0x1005 kMmio s)
  else if waits s (p.addr % 2 ^ 48) ∨ tableWaits s (gradHead p.data).table then none
  else match piecesCheck s (42 + n) kWrite (recordSpan s (gradHead p.data)) with
    | some code => some (ingressBad n p code kWrite s)
    | none =>
      let (st, w, s1) := recordIn s (p.addr % 2 ^ 48) p.src p.data
      some (s1.respond p st (if st = 0x0A then [w] else []) [])

/-- GRAD_RECORD in a slot. -/
def gradPacket (n i : Nat) (s : State) : State := requestIn n i 0x07 (gradIn n) s

/-- VERSION_READ of a row at a slot (R219, R268, R269): the version; the new entry of a row whose slot holds a stub or that has moved to
another device; or a refusal of a row that this device does not know. -/
def versionIn (n : Nat) (p : Packet) (s : State) : Option State :=
  let slot := p.args.getD 2 0
  let fwd (w : Nat) (s : State) : Option State :=
    some ((if inPasture slot then s.nsrForward (pastureOf slot) else s).respond p 0x0A [w] [])
  if stale s p then some (s.respond p 0x07 [] [])
  else match s.stubAt slot with
  | some k => fwd k.entry s
  | none =>
    if tableWaits s (p.args.getD 0 0) then none else
    let (ue, s0) := s.touch (tableReads s (p.args.getD 0 0))
    if ue then some (s0.respond p 0x06 [] [])
    else match s.registered (p.args.getD 0 0) with
    | none => some (s0.respond p 0x02 [] [])
    | some t => match ownEntry s t (p.args.getD 1 0) with
      | none => some (s0.respond p 0x02 [] [])
      | some (a, e) =>
        if waits s a then none
        else if e.dev ≠ s.devId then fwd e.word (s0.touch [(a, 8)]).2
        else match localRead (ingressMst n) a 8 s0 with
          | .held => none
          | .bad _ s1 => some (s1.respond p 0x05 [] [])
          | .done b ue s1 => some (s1.respond p (if ue then 0x06 else 0) [(dirEnt (leNat b)).ver] [])

/-- VERSION_READ in a slot. -/
def versionPacket (n i : Nat) (s : State) : State := requestIn n i 0x08 (versionIn n) s

/-! ### Collective and management packets -/

/-- A collective packet: held while it is newer, and while its link's request and collective channels are frozen; never answered (R305,
R356, R423, R428; log 19). -/
def collectiveIn (n i ty : Nat) (f : Packet → State → State) (s : State) : State :=
  takeSlot n i ty (fun p s =>
    if newerThan (s.fld STR_EPOCH STR_EPOCH_current) p || s.isFrozen (ingressMst n) then none else some (f p s)) s

/-- COLL_DATA in a slot (R332, R336). -/
def collPacket (n i : Nat) (s : State) : State := collectiveIn n i 0x81 (fun p s => collData s p) s

/-- Whether the slot holds a Roll call packet of a kind: 0 an arrival, 1 a release, 2 an arrival in a PERMUTE. -/
def rollKind (s : State) (n i kind : Nat) : Bool := ((s.lnk n).slots[i]?).any (fun p => decide (p.args.getD 0 0 = kind))

/-- ROLL_CALL: a child's arrival in a slot (R327), or a member's in a round of a PERMUTE (R340). -/
def rollCallPacket (n i : Nat) (s : State) : State :=
  if rollKind s n i 2 then collectiveIn n i 0x82 (fun p s => memberCall s p.args) s
  else if rollKind s n i 0 then
    collectiveIn n i 0x82 (fun p s => childArrival p.src (p.args.getD 1 0) (p.args.getD 2 0 = 1) (p.args.getD 3 0 = 1) s) s
  else s

/-- ROLL_RELEASE: the parent's release in a slot (R327). -/
def rollReleasePacket (n i : Nat) (s : State) : State :=
  if rollKind s n i 1 then
    collectiveIn n i 0x82 (fun p s => parentRelease (p.args.getD 1 0) (p.args.getD 2 0 = 1) (p.args.getD 3 0 = 1) s) s
  else s

/-- NOTICE in a slot (R267); a round that waits for it is tried again. -/
def noticePacket (n i : Nat) (s : State) : State :=
  collectiveIn n i 0x83 (fun p s => rollRetry (noticeIn s (p.args.getD 0 0) (p.args.getD 1 0) (p.args.getD 2 0))) s

/-- LOAD_REPORT in a slot (R262); management packets are never held (R356). -/
def loadPacket (n i : Nat) (s : State) : State := takeSlot n i 0xC3 (fun p s => some (loadReport s p.src (p.args.getD 0 0))) s

/-- An answer to a management request: before the first commit on the link that brought it (R314). -/
def mgmtRespond (n : Nat) (p : Packet) (status : Nat) (data : List Byte) (s : State) : State :=
  if s.committed then s.respond p status [] data
  else s.sendOn n (s.mkPacket (p.ty + 0x20) 3 p.src p.addr p.tag status [] data)

/-- Whether control core c serves the packet of a slot: its taken item carries the packet's link and slot (R391, R396). A request that did
not come on the management channel makes no item. -/
def mgmtServed (s : State) (c n i : Nat) : Bool :=
  ((s.lnk n).slots[i]?).any (fun p => decide (p.vc ≠ 3) || (s.slot c).any (fun z => z.taken && decide (z.item.arg = n + p.place % 64 * 2 ^ 16)))

/-- A management request in a slot, which control core c of Fold 0 serves (R25, R396, R425): checked under the ingress link's
class, then accessed with the control core's privilege (log 67). The core serves it with the item that source 1 made of it (R396); one that
did not come on the management channel is no management request (R25, log 67). -/
def mgmtIn (c n i ty : Nat) (f : Nat → Packet → State → List Byte × State) (s : State) : State :=
  if fwState s ≠ 3 ∨ !s.bit SCH_FW_STATUS SCH_FW_STATUS_kernel_ready ∨ 2 ≤ c ∨ !mgmtServed s c n i then s
  else takeSlot n i ty (fun p s =>
    let a := p.addr % 2 ^ 48
    if s.isFrozen (ingressMst n) then some (mgmtRespond n p 0x05 [] (s.frozenCommand (ingressMst n) 0x05))
    else if p.vc ≠ 3 then some (mgmtRespond n p 0x05 [] (s.violateAddr (ingressMst n) 0x1005 kMmio p.addr))
    else if !inMmio a then some (mgmtRespond n p 0x05 [] (s.violateAddr (ingressMst n) 0x1002 kMmio p.addr))
    else if !permitted s (42 + n) s.devId a 8 kMmio then
      some (mgmtRespond n p 0x05 [] (s.violateAddr (ingressMst n) 0x1001 kMmio p.addr))
    else
      let (b, s1) := f (a - mmioBase) p s
      some (mgmtRespond n p (if s1.isFrozen (ctrlMst c) then 0x05 else 0) b s1)) s

/-- MGMT_READ in a slot. -/
def mgmtReadPacket (c n i : Nat) (s : State) : State := mgmtIn c n i 0xC1 (fun off _ s => (readRegs s off 8, rouseRead s off 8)) s

/-- MGMT_WRITE in a slot: the register takes its own width of the value (log 70). -/
def mgmtWritePacket (c n i : Nat) (s : State) : State :=
  mgmtIn c n i 0xC2 (fun off p s => ([], mmioWrite (ctrlMst c) off (p.data.take (regBytes off)) s)) s

/-! ### Answers (R305, R307) -/

/-- Core and tally that a TALLY_ADD named, from its address. -/
def tallyNamed (addr : Nat) : Nat × Nat :=
  let off := addr % 2 ^ 48 - mmioBase - 0x1000000
  (off / 0x40000, (off % 0x40000 - 0x100) / 8)

/-- The answer to a TALLY_ADD of a context (R54, R86, R323). A program that was aborted meanwhile is not stopped. -/
def addAnswered (s : State) (c : Nat) (r : Req) (status : Nat) : State :=
  let asked := (s.core c).adds.any (fun q => decide (q.1 = r.tag))
  let s1 := s.onCore c (fun k => { k with adds := k.adds.filter (fun q => decide (q.1 ≠ r.tag)) })
  let (core, t) := tallyNamed r.addr
  if status = 0 then (s1.afterCore c).settleStop c
  else if !asked then (if status = 0x0B then s1.violateTally (aMst c) r.dst core t else s1)
  else if status = 0x0B then (addLimit s1 c r.dst core t).settleStop c
  else (answerStop s1 c status kTally r.addr).settleStop c

/-- An answer reaches who waits for it. -/
def answered (s : State) (r : Req) (status : Nat) (args : List Nat) (data : List Byte) : State :=
  match r.owner with
  | .run c rid => answerRun s c rid status args data
  | .add c _ => addAnswered s c r status
  | .check d id => checkAnswered s d id status args
  | .feed d x => feedAnswered s d x status args data
  | .feature d x => featureAnswered s d x status data
  | .sample d x => sampleAnswered s d x status args
  | .copy n id => rollRetry (copyAnswered s n id status)
  | .service f a => serviceAnswered s f a status data
  | .other => s

/-- Whether a packet of an answer is a piece of the data of a row or a reduction (R233, R304). -/
def isPiece (r : Req) (status : Nat) : Bool := (decide (r.ty = 0x04) || decide (r.ty = 0x05)) && (decide (status = 0) || decide (status = 0x06))

/-- A piece of the data of a row or a reduction joins those that have come, by its place; with the last of them the request waits no
longer, and its answer reaches who waits for it (R304, R307, log 96). -/
def takePart (s : State) (r : Req) (status : Nat) (args : List Nat) (data : List Byte) : State :=
  let skip := r.ty - 0x04
  let place := args.getD (skip + 1) 0
  let l := r.pieces.filter (fun q => decide (q.1 < place)) ++ (place, data) :: r.pieces.filter (fun q => decide (place < q.1))
  let lost := r.lost || decide (status = 0x06)
  if l.length < args.getD skip 1 then { s with reqs := s.reqs.map (fun q => if q = r then { r with pieces := l, lost := lost } else q) }
  else answered { s with reqs := s.reqs.erase r } r (if lost then 0x06 else 0) args (l.map (·.2)).flatten

/-- The request that a response answers waits no longer, once every packet of its answer has come: sample requests have answers of more
than one (R206). -/
def takeAnswer (s : State) (r : Req) (status : Nat) (args : List Nat) : State :=
  match r.owner with
  | .sample _ _ =>
    if status = 0 ∧ r.got + 1 < args.getD 0 0 then { s with reqs := s.reqs.map (fun q => if q = r then { r with got := r.got + 1 } else q) }
    else { s with reqs := s.reqs.erase r }
  | _ => { s with reqs := s.reqs.erase r }

/-- A response in a slot: the request with its tag is answered, and a response to none is dropped (R305, R309). -/
def responseIn (n i ty : Nat) (s : State) : State :=
  takeSlot n i ty (fun p s =>
    some (match s.reqs.find? (fun r => decide (r.tag = p.tag) && decide (r.dst = p.src) &&
        decide (ty = r.ty + (if r.ty = 0xC1 ∨ r.ty = 0xC2 then 0x20 else 0x40))) with
      | none => s
      | some r =>
        if isPiece r p.status then takePart s r p.status p.args p.data
        else answered (takeAnswer s r p.status p.args) r p.status p.args p.data)) s

/-! ### Replay (R416) -/

/-- A response's tag is written into a recorded packet. -/
def withTag (p : Packet) : Option Nat → Packet
  | some t => { p with tag := t }
  | none => p

/-- REPLAY_INJECT: the next recorded packet enters an ingress slot of its link while its channel and class have one. -/
def replayInject (s : State) : State :=
  if !replaying s then s
  else match recNext s with
    | none => s
    | some (off, tag) =>
      let (link, h, b) := recPacket s off
      let p := withTag (pktOf h b) tag
      let k := s.lnk link
      match freePlaces s link (creditIdx p) with
      | [] => s
      | place :: _ =>
        let s0 := ((recScan s).touch [(recBase s + off + 32, 32 + b.length)]).2
        let s1 := cleanPlace (s0.setLnk link { s0.lnk link with slots := k.slots ++ [{ p with place := place }] }) link place
        let fin := off + 32 + (32 + b.length + 31) / 32 * 32
        let s2 := if s.fld REC_STATUS REC_STATUS_used * 4 < fin then noteUsed s1 fin else s1
        match tag with
        | some _ => { s2 with rcd := { s2.rcd with due := s2.rcd.due.drop 1 } }
        | none => { s2 with rcd := { s2.rcd with next := off + 1 } }

end Sys2Proof.Machine
end

