-- ==== Sys2Proof/Machine/RowsPacket.lean ====
section
/-! DEFINITION. The commands of packets in ingress slots (11_ilbegal_links): one meaning each, over the shared operations. -/

namespace Sys2Proof.Machine

/-- READ: The packet in slot i of link n is a READ (R24, R307). -/
def execReadReq (n : Nat) (i : Nat) (s : State) : Out := whileLive (readPacket n i) s

/-- WRITE: The packet in slot i of link n is a WRITE (R307). -/
def execWriteReq (n : Nat) (i : Nat) (s : State) : Out := whileLive (writePacket n i) s

/-- TALLY_ADD_PACKET: The packet in slot i of link n is a TALLY_ADD (R54, R323). -/
def execTallyAddPacket (n : Nat) (i : Nat) (s : State) : Out := whileLive (tallyPacket n i) s

/-- ROW_REQ: The packet in slot i of link n is a ROW_REQ (R224, R243). -/
def execRowReq (n : Nat) (i : Nat) (s : State) : Out := whileLive (rowPacket n i) s

/-- REDUCE_REQ: The packet in slot i of link n is a REDUCE_REQ (R233 to R235). -/
def execReduceReq (n : Nat) (i : Nat) (s : State) : Out := whileLive (reducePacket n i) s

/-- SAMPLE_REQ: The packet in slot i of link n is a SAMPLE_REQ (R206). -/
def execSampleReq (n : Nat) (i : Nat) (s : State) : Out := whileLive (samplePacket n i) s

/-- GRAD_RECORD: The packet in slot i of link n is a GRAD_RECORD (R254, R255). -/
def execGradRecord (n : Nat) (i : Nat) (s : State) : Out := whileLive (gradPacket n i) s

/-- VERSION_READ: The packet in slot i of link n is a VERSION_READ (R219). -/
def execVersionRead (n : Nat) (i : Nat) (s : State) : Out := whileLive (versionPacket n i) s

/-- COLL_DATA: The packet in slot i of link n is a COLL_DATA (R336). -/
def execCollData (n : Nat) (i : Nat) (s : State) : Out := whileLive (collPacket n i) s

/-- ROLL_CALL: The packet in slot i of link n is a ROLL_CALL: an arrival (R327). -/
def execRollCall (n : Nat) (i : Nat) (s : State) : Out := whileLive (rollCallPacket n i) s

/-- ROLL_RELEASE: The packet in slot i of link n is a ROLL_CALL: a release (R327). -/
def execRollRelease (n : Nat) (i : Nat) (s : State) : Out := whileLive (rollReleasePacket n i) s

/-- NOTICE: The packet in slot i of link n is a NOTICE (R267). -/
def execNotice (n : Nat) (i : Nat) (s : State) : Out := whileLive (noticePacket n i) s

/-- MGMT_READ: Control core c serves the MGMT_READ in slot i of link n (R25, R396). -/
def execMgmtRead (c : Nat) (n : Nat) (i : Nat) (s : State) : Out := whileLive (mgmtReadPacket c n i) s

/-- MGMT_WRITE: Control core c serves the MGMT_WRITE in slot i of link n (R25, R396). -/
def execMgmtWrite (c : Nat) (n : Nat) (i : Nat) (s : State) : Out := whileLive (mgmtWritePacket c n i) s

/-- LOAD_REPORT: The packet in slot i of link n is a LOAD_REPORT (R262). -/
def execLoadReport (n : Nat) (i : Nat) (s : State) : Out := whileLive (loadPacket n i) s

/-- NEIGHBOUR: The packet in slot i of link n is a NEIGHBOUR (R312, R318). -/
def execNeighbour (n : Nat) (i : Nat) (s : State) : Out := whileLive (neighbourTaken n i) s

/-- READ_RESPONSE: The packet in slot i of link n answers a request of this device (R305, R307). -/
def execReadResponse (n : Nat) (i : Nat) (s : State) : Out := whileLive (responseIn n i 0x41) s

/-- WRITE_RESPONSE: The packet in slot i of link n answers a request of this device (R305, R307). -/
def execWriteResponse (n : Nat) (i : Nat) (s : State) : Out := whileLive (responseIn n i 0x42) s

/-- TALLY_ADD_RESPONSE: The packet in slot i of link n answers a request of this device (R305, R307). -/
def execTallyAddResponse (n : Nat) (i : Nat) (s : State) : Out := whileLive (responseIn n i 0x43) s

/-- ROW_RESPONSE: The packet in slot i of link n answers a request of this device (R305, R307). -/
def execRowResponse (n : Nat) (i : Nat) (s : State) : Out := whileLive (responseIn n i 0x44) s

/-- REDUCE_RESPONSE: The packet in slot i of link n answers a request of this device (R305, R307). -/
def execReduceResponse (n : Nat) (i : Nat) (s : State) : Out := whileLive (responseIn n i 0x45) s

/-- SAMPLE_RESPONSE: The packet in slot i of link n answers a request of this device (R305, R307). -/
def execSampleResponse (n : Nat) (i : Nat) (s : State) : Out := whileLive (responseIn n i 0x46) s

/-- GRAD_RECORD_RESPONSE: The packet in slot i of link n answers a request of this device (R305, R307). -/
def execGradRecordResponse (n : Nat) (i : Nat) (s : State) : Out := whileLive (responseIn n i 0x47) s

/-- VERSION_READ_RESPONSE: The packet in slot i of link n answers a request of this device (R305, R307). -/
def execVersionReadResponse (n : Nat) (i : Nat) (s : State) : Out := whileLive (responseIn n i 0x48) s

/-- MGMT_READ_RESPONSE: The packet in slot i of link n answers a request of this device (R305, R307). -/
def execMgmtReadResponse (n : Nat) (i : Nat) (s : State) : Out := whileLive (responseIn n i 0xE1) s

/-- MGMT_WRITE_RESPONSE: The packet in slot i of link n answers a request of this device (R305, R307). -/
def execMgmtWriteResponse (n : Nat) (i : Nat) (s : State) : Out := whileLive (responseIn n i 0xE2) s

/-- REPLAY_INJECT: A replay injects its next recorded packet (R416). -/
def execReplayInject (s : State) : Out := whileLive replayInject s

end Sys2Proof.Machine
end

