-- ==== Sys2Proof/Machine/RowsPower.lean ====
section
/-! DEFINITION. The commands of power, clocks, temperature, resets (19_power_clocks_thermal, 20_package_and_management): one meaning each, over the shared operations. -/

namespace Sys2Proof.Machine

/-- SYS_RST_N: SYS_RST_N changes (R475, R481). -/
def execSysRstN (low : Bool) (s : State) : Out := .next (sysReset low s)

/-- POWER_ON: VAON is good (R455). -/
def execPowerOn (s : State) : Out := .next (powerOn s)

/-- RAILS_GOOD: Every powered rail is good (R455). -/
def execRailsGood (s : State) : Out := .next (railsGood s)

/-- RAIL_FAULT: A rail falls out of tolerance (R455). -/
def execRailFault (s : State) : Out := .next (railFault s)

/-- REGULATOR_FAULT: A regulator cuts its domain (R456). -/
def execRegulatorFault (kind : Nat) (inst : Nat) (fault : Nat) (s : State) : Out := whileLive (regulatorFault kind inst fault) s

/-- PLL_LOSS_OF_LOCK: A PLL loses lock (R460). -/
def execPllLossOfLock (kind : Nat) (inst : Nat) (s : State) : Out := whileLive (pllLost kind inst) s

/-- STANDBY_ENTER: A write of PWR_CTRL.standby = 1 (R459). -/
def execStandbyEnter (cls : Nat) (sub : Nat) (s : State) : Out := whileLive (writeOwn ⟨cls, sub⟩ PWR_CTRL 1) s

/-- STANDBY_EXIT: The device leaves standby (R459). -/
def execStandbyExit (s : State) : Out := whileLive standbyExit s

/-- HOLIDAY_ENTRY: A unit in recess beyond its timer enters holiday (R457). -/
def execHolidayEntry (kind : Nat) (n : Nat) (s : State) : Out := whileLive (holidayEntry kind n) s

/-- FREQUENCY_STEP: A core's frequency takes one step (R461). -/
def execFrequencyStep (c : Nat) (s : State) : Out := whileLive (frequencyStep c) s

/-- POWER_SAMPLE: Package power is sampled (R462). -/
def execPowerSample (mw : Nat) (s : State) : Out := whileLive (powerSample mw) s

/-- THERMAL_SAMPLE: The junction sensors are read (R463, R464). -/
def execThermalSample (temps : List Nat) (s : State) : Out := .next (thermalSample temps s)

/-- THROTTLE_STEP: A die's thermal limit takes one step (R464). -/
def execThrottleStep (die : Nat) (s : State) : Out := whileLive (throttleStep die) s

/-- THERMAL_TRIP: A sensor reaches 110 °C (R465). -/
def execThermalTrip (die : Nat) (sensor : Nat) (temp : Nat) (s : State) : Out := .next (thermalTrip die sensor temp s)

/-- POWER_FAIL: PWR_FAIL_N falls (R466). -/
def execPowerFail (rails : Nat) (s : State) : Out := .next (powerFail rails s)

/-- HOLIDAY_WAKE: A woken unit runs 20 µs later (R457). -/
def execHolidayWake (kind : Nat) (n : Nat) (s : State) : Out := whileLive (holidayWake kind n) s

end Sys2Proof.Machine
end

