-- ==== Sys2Proof/Machine/RowsSched.lean ====
section
/-! DEFINITION. The commands of the scheduler and the firmware load (15_control_and_scheduler): one meaning each, over the shared operations. -/

namespace Sys2Proof.Machine

/-- SCH_POST: A control core posts an item (R394). -/
def execSchPost (c : Nat) (w : Nat) (s : State) : Out := whileLive (writeOwn (ctrlMst c) (SCH_POST c) w) s

/-- TIMETABLE_EXPIRY: Due Timetable entries become ready (R394). -/
def execTimetableExpiry (f : Nat) (s : State) : Out := whileLive (ttExpire f) s

/-- DISPATCH: The scheduler offers an item to an idle control core (R391). -/
def execDispatch (f : Nat) (s : State) : Out := whileLive (dispatch f) s

/-- PREEMPT: A higher item asserts pre-emption (R392). -/
def execPreempt (f : Nat) (s : State) : Out := whileLive (preempt f) s

/-- SCH_TAKE: A control core takes its offered item (R391). -/
def execSchTake (c : Nat) (s : State) : Out := whileLive (writeOwn (ctrlMst c) (SCH_ACK c) 1) s

/-- SCH_DONE: A control core retires its item (R391). -/
def execSchDone (c : Nat) (s : State) : Out := whileLive (writeOwn (ctrlMst c) (SCH_ACK c) 2) s

/-- SCH_YIELD: A control core yields its item (R392). -/
def execSchYield (c : Nat) (s : State) : Out := whileLive (writeOwn (ctrlMst c) (SCH_ACK c) 3) s

/-- SCH_CANCEL: A control core cancels a Timetable entry (R395). -/
def execSchCancel (c : Nat) (w : Nat) (s : State) : Out := whileLive (writeOwn (ctrlMst c) (SCH_CANCEL c) w) s

/-- SCH_CLEAR_COUNTS: A write of SCH_CTRL (R401). -/
def execSchClearCounts (cls : Nat) (sub : Nat) (f : Nat) (s : State) : Out := whileLive (writeOwn ⟨cls, sub⟩ (SCH_CTRL f) 1) s

/-- SCH_FW_LOAD: A write of SCH_FW_LOAD (R398). -/
def execSchFwLoad (cls : Nat) (sub : Nat) (len : Nat) (s : State) : Out := whileLive (writeOwn ⟨cls, sub⟩ SCH_FW_LOAD len) s

/-- FW_VERIFY_DONE: The verification of the firmware ends (R399, R443). -/
def execFwVerifyDone (s : State) : Out := whileLive fwVerifyDone s

/-- KERNEL_READY: The control kernel sets kernel_ready (R399, R409). -/
def execKernelReady (c : Nat) (s : State) : Out := whileLive (writeOwn (ctrlMst c) SCH_FW_STATUS 0x100) s

/-- SCH_RESET: A write of the key to SCH_RESET (R400). -/
def execSchReset (cls : Nat) (sub : Nat) (s : State) : Out := whileLive (writeOwn ⟨cls, sub⟩ SCH_RESET 0xC0DE0001) s

end Sys2Proof.Machine
end

