-- ==== Sys2Proof/Machine/RowsSecurity.lean ====
section
/-! DEFINITION. The commands of the security controller (18_security): one meaning each, over the shared operations. -/

namespace Sys2Proof.Machine

/-- A command of the SEC mailbox by a master, while the units run (R453). -/
def mailIn (cls sub v : Nat) (s : State) : State := if s.live then writeOwn ⟨cls, sub⟩ SEC_CMD v s else s

/-- GET_REPORT: A signed report is asked for; by the mailbox the nonce stands in the data window (R447 to R450, R453). -/
def execGetReport (via : Via) (nonce : List Byte) (s : State) : Out :=
  .next (match via with
    | .mailbox cls sub => mailIn cls sub 1 s
    | v => attestBy v 1 0 nonce s)

/-- GET_CERT: A certificate is asked for (R449). -/
def execGetCert (via : Via) (idx : Nat) (s : State) : Out :=
  .next (match via with
    | .mailbox cls sub => mailIn cls sub (2 + idx * 2 ^ 8) s
    | v => attestBy v 2 idx [] s)

/-- GET_MEAS: The report body is asked for (R449). -/
def execGetMeas (via : Via) (s : State) : Out :=
  .next (match via with
    | .mailbox cls sub => mailIn cls sub 3 s
    | v => attestBy v 3 0 [] s)

/-- SVN_COMMIT: A mailbox command raises svn_floor (R444). -/
def execSvnCommit (cls : Nat) (sub : Nat) (s : State) : Out := whileLive (writeOwn ⟨cls, sub⟩ SEC_CMD 0x10) s

/-- JTAG_CHALLENGE: A challenge is asked for (R451). -/
def execJtagChallenge (via : Via) (s : State) : Out :=
  .next (match via with
    | .mailbox cls sub => mailIn cls sub 0x11 s
    | v => unlockBy v 0x11 jtagChallenge s)

/-- JTAG_RESPONSE: A response with a key and a signature; by the mailbox they stand in the data window (R451, R453). -/
def execJtagResponse (via : Via) (key : List Byte) (sig : List Byte) (s : State) : Out :=
  .next (match via with
    | .mailbox cls sub => mailIn cls sub 0x12 s
    | v => unlockBy v 0x12 (jtagResponse key sig) s)

/-- CHALLENGE_EXPIRY: 600 s after its issue a challenge expires (R451). -/
def execChallengeExpiry (s : State) : Out := .next (dropChallenge s)

/-- SECURITY_FAULT: A self-check of the security controller fails (R452). -/
def execSecurityFault (check : Nat) (s : State) : Out := .next (securityFault check s)

/-- DOE_DISCOVERY: A DOE discovery request (R450). -/
def execDoeDiscovery (port : Nat) (idx : Nat) (s : State) : Out := .next (doeDiscovery port idx s)

/-- FUSE_STEP_BLOWN: A fuse step has been blown (R444). -/
def execFuseStepBlown (s : State) : Out := .next (fuseStep s)

end Sys2Proof.Machine
end

