-- ==== Sys2Proof/Machine/RowsStructure.lean ====
section
/-! DEFINITION. The commands of the structure image and its commit (13_structure_image): one meaning each, over the shared operations. -/

namespace Sys2Proof.Machine

/-- STR_STAGE: A write of STR_STAGE (R351). -/
def execStrStage (cls : Nat) (sub : Nat) (a : Nat) (s : State) : Out := whileLive (writeOwn ⟨cls, sub⟩ STR_STAGE a) s

/-- STAGING_DONE: Staging ends (R352). -/
def execStagingDone (s : State) : Out := whileLive stagingDone s

/-- STR_COMMIT: A write of STR_COMMIT (R353). -/
def execStrCommit (cls : Nat) (sub : Nat) (epoch : Nat) (s : State) : Out := whileLive (writeOwn ⟨cls, sub⟩ STR_COMMIT epoch) s

/-- SWITCH_TICK: The switch tick of a commit (R354). -/
def execSwitchTick (s : State) : Out := whileLive switchTick s

/-- UNIT_SWITCH: A core that waits takes its new settings (R354). -/
def execUnitSwitch (c : Nat) (s : State) : Out := whileLive (switchCore c) s

/-- STR_TIMEOUT_EXPIRY: Acknowledgements are missing after STR_TIMEOUT (R358). -/
def execStrTimeoutExpiry (s : State) : Out := whileLive strTimeout s

end Sys2Proof.Machine
end

