-- ==== Sys2Proof/Machine/RowsTrh.lean ====
section
/-! DEFINITION. The commands of Transhumance engines (09_embedding_tables): one meaning each, over the shared operations. -/

namespace Sys2Proof.Machine

/-- MIGRATE: The head MIGRATE of an engine (R264). -/
def execMigrate (n : Nat) (s : State) : Out := whileLive (migrateCmd n) s

/-- RECLASS: The head RECLASS of an engine (R264). -/
def execReclass (n : Nat) (s : State) : Out := whileLive (reclassCmd n) s

/-- MIGRATION_COPY_DONE: A migration has copied what it had to (R265). -/
def execMigrationCopyDone (n : Nat) (id : Nat) (s : State) : Out := whileLive (copyDone n id) s

/-- MIGRATION_COMMIT: The CLEAN migrations of an engine commit (R266). -/
def execMigrationCommit (n : Nat) (s : State) : Out := whileLive (fun s => rollRetry (commitAll n s)) s

/-- COPY_TIMEOUT: A copy to another device is not acknowledged in time (R270). -/
def execCopyTimeout (n : Nat) (id : Nat) (s : State) : Out := whileLive (fun s => rollRetry (copyTimeout n id s)) s

/-- TRH_HALT: A write of TRH_CTRL (R270, R273, R483). -/
def execTrhHalt (cls : Nat) (sub : Nat) (n : Nat) (s : State) : Out := whileLive (writeOwn ⟨cls, sub⟩ (TRH_CTRL n) 1) s

/-- TRH_RESUME: A write of TRH_CTRL (R270, R273, R483). -/
def execTrhResume (cls : Nat) (sub : Nat) (n : Nat) (s : State) : Out := whileLive (writeOwn ⟨cls, sub⟩ (TRH_CTRL n) 2) s

/-- TRH_ABORT: A write of TRH_CTRL (R270, R273, R483). -/
def execTrhAbort (cls : Nat) (sub : Nat) (n : Nat) (s : State) : Out := whileLive (writeOwn ⟨cls, sub⟩ (TRH_CTRL n) 4) s

/-- TRH_CLEAR_COUNTS: A write of TRH_CTRL (R270, R273, R483). -/
def execTrhClearCounts (cls : Nat) (sub : Nat) (n : Nat) (s : State) : Out := whileLive (writeOwn ⟨cls, sub⟩ (TRH_CTRL n) 8) s

end Sys2Proof.Machine
end

