-- ==== Sys2Proof/Machine/Dispatch.lean ====
section
/-! DEFINITION. The meaning of every command: one arm per constructor of Instr. -/

namespace Sys2Proof.Machine

def exec (i : Instr) (s : State) : Host.Outcome State Fault Refusal :=
  match i with
  | .registerWrite cls sub off bytes => Sys2Proof.Machine.execRegisterWrite cls sub off bytes s
  | .start c => Sys2Proof.Machine.execStart c s
  | .programStart c => Sys2Proof.Machine.execProgramStart c s
  | .blockFetch c x b => Sys2Proof.Machine.execBlockFetch c x b s
  | .transferCheck c => Sys2Proof.Machine.execTransferCheck c s
  | .stallTimeout c => Sys2Proof.Machine.execStallTimeout c s
  | .deferSwitch c x => Sys2Proof.Machine.execDeferSwitch c x s
  | .retireComplete c => Sys2Proof.Machine.execRetireComplete c s
  | .corRetire cls sub c g => Sys2Proof.Machine.execCorRetire cls sub c g s
  | .corHalt cls sub c => Sys2Proof.Machine.execCorHalt cls sub c s
  | .corResume cls sub c => Sys2Proof.Machine.execCorResume cls sub c s
  | .corAbort cls sub c => Sys2Proof.Machine.execCorAbort cls sub c s
  | .corClearCounts cls sub c => Sys2Proof.Machine.execCorClearCounts cls sub c s
  | .arrClearCounts cls sub c => Sys2Proof.Machine.execArrClearCounts cls sub c s
  | .load c d a => Sys2Proof.Machine.execLoad c d a s
  | .store c d a => Sys2Proof.Machine.execStore c d a s
  | .copy c d a => Sys2Proof.Machine.execCopy c d a s
  | .tload c d a => Sys2Proof.Machine.execTload c d a s
  | .gather c d a => Sys2Proof.Machine.execGather c d a s
  | .scatterAdd c d a => Sys2Proof.Machine.execScatterAdd c d a s
  | .waitGe c d => Sys2Proof.Machine.execWaitGe c d s
  | .add c d => Sys2Proof.Machine.execAdd c d s
  | .sub c d => Sys2Proof.Machine.execSub c d s
  | .setx c d => Sys2Proof.Machine.execSetx c d s
  | .addx c d => Sys2Proof.Machine.execAddx c d s
  | .fence c d => Sys2Proof.Machine.execFence c d s
  | .phase c d => Sys2Proof.Machine.execPhase c d s
  | .retire c d => Sys2Proof.Machine.execRetire c d s
  | .defer c d => Sys2Proof.Machine.execDefer c d s
  | .nop c x d => Sys2Proof.Machine.execNop c x d s
  | .endContext c x d => Sys2Proof.Machine.execEnd c x d s
  | .jump c x d => Sys2Proof.Machine.execJump c x d s
  | .loop c x d => Sys2Proof.Machine.execLoop c x d s
  | .mload c d a => Sys2Proof.Machine.execMload c d a s
  | .mswap c d a => Sys2Proof.Machine.execMswap c d a s
  | .mstream c d a => Sys2Proof.Machine.execMstream c d a s
  | .epi c d => Sys2Proof.Machine.execEpi c d s
  | .expert c d a => Sys2Proof.Machine.execExpert c d a s
  | .steal c sub => Sys2Proof.Machine.execSteal c sub s
  | .crossCoreSteal thief c => Sys2Proof.Machine.execCrossCoreSteal thief c s
  | .vadd c d a => Sys2Proof.Machine.execVadd c d a s
  | .vsub c d a => Sys2Proof.Machine.execVsub c d a s
  | .vmul c d a => Sys2Proof.Machine.execVmul c d a s
  | .vfma c d a => Sys2Proof.Machine.execVfma c d a s
  | .vaxpy c d a => Sys2Proof.Machine.execVaxpy c d a s
  | .vmax c d a => Sys2Proof.Machine.execVmax c d a s
  | .vmin c d a => Sys2Proof.Machine.execVmin c d a s
  | .vabs c d a => Sys2Proof.Machine.execVabs c d a s
  | .vneg c d a => Sys2Proof.Machine.execVneg c d a s
  | .vmov c d a => Sys2Proof.Machine.execVmov c d a s
  | .vexp c d a => Sys2Proof.Machine.execVexp c d a s
  | .vrcp c d a => Sys2Proof.Machine.execVrcp c d a s
  | .vrsqrt c d a => Sys2Proof.Machine.execVrsqrt c d a s
  | .vcmp c d a => Sys2Proof.Machine.execVcmp c d a s
  | .vand c d a => Sys2Proof.Machine.execVand c d a s
  | .vor c d a => Sys2Proof.Machine.execVor c d a s
  | .vxor c d a => Sys2Proof.Machine.execVxor c d a s
  | .viadd c d a => Sys2Proof.Machine.execViadd c d a s
  | .cvt c d a => Sys2Proof.Machine.execCvt c d a s
  | .compress24 c d a => Sys2Proof.Machine.execCompress24 c d a s
  | .update c d a => Sys2Proof.Machine.execUpdate c d a s
  | .reduce c d a => Sys2Proof.Machine.execReduce c d a s
  | .sqTailDoorbell port n bytes => Sys2Proof.Machine.execSqTailDoorbell port n bytes s
  | .cqHeadDoorbell port n bytes => Sys2Proof.Machine.execCqHeadDoorbell port n bytes s
  | .descriptorFetch n host => Sys2Proof.Machine.execDescriptorFetch n host s
  | .queueEnable cls sub n v => Sys2Proof.Machine.execQueueEnable cls sub n v s
  | .queueDisable cls sub n v => Sys2Proof.Machine.execQueueDisable cls sub n v s
  | .queueThaw cls sub n => Sys2Proof.Machine.execQueueThaw cls sub n s
  | .functionLevelReset port => Sys2Proof.Machine.execFunctionLevelReset port s
  | .perst port low width rate => Sys2Proof.Machine.execPerst port low width rate s
  | .privilegeOffer cls sub on => Sys2Proof.Machine.execPrivilegeOffer cls sub on s
  | .privilegeAccept cls sub => Sys2Proof.Machine.execPrivilegeAccept cls sub s
  | .hostBar4Read port a n => Sys2Proof.Machine.execHostBar4Read port a n s
  | .hostBar4Write port a bytes => Sys2Proof.Machine.execHostBar4Write port a bytes s
  | .wydakGather d => Sys2Proof.Machine.execWydakGather d s
  | .tallyAdd c => Sys2Proof.Machine.execTallyAdd c s
  | .sample d => Sys2Proof.Machine.execSample d s
  | .sampleStart d => Sys2Proof.Machine.execSampleStart d s
  | .sampleComplete d => Sys2Proof.Machine.execSampleComplete d s
  | .topoSwitch d => Sys2Proof.Machine.execTopoSwitch d s
  | .prefetch d n => Sys2Proof.Machine.execPrefetch d n s
  | .rowCheck d id => Sys2Proof.Machine.execRowCheck d id s
  | .remoteSampleTimeout d serial => Sys2Proof.Machine.execRemoteSampleTimeout d serial s
  | .drvHalt cls sub d => Sys2Proof.Machine.execDrvHalt cls sub d s
  | .drvResume cls sub d => Sys2Proof.Machine.execDrvResume cls sub d s
  | .drvAbort cls sub d => Sys2Proof.Machine.execDrvAbort cls sub d s
  | .drvClearCounts cls sub d => Sys2Proof.Machine.execDrvClearCounts cls sub d s
  | .allReduce n => Sys2Proof.Machine.execAllReduce n s
  | .reduceScatter n => Sys2Proof.Machine.execReduceScatter n s
  | .allGather n => Sys2Proof.Machine.execAllGather n s
  | .allToAll n => Sys2Proof.Machine.execAllToAll n s
  | .broadcast n => Sys2Proof.Machine.execBroadcast n s
  | .permute n => Sys2Proof.Machine.execPermute n s
  | .roll n => Sys2Proof.Machine.execRoll n s
  | .collectiveComplete n k => Sys2Proof.Machine.execCollectiveComplete n k s
  | .collectiveTimeout n k => Sys2Proof.Machine.execCollectiveTimeout n k s
  | .rollTimeout => Sys2Proof.Machine.execRollTimeout s
  | .colHalt cls sub n => Sys2Proof.Machine.execColHalt cls sub n s
  | .colResume cls sub n => Sys2Proof.Machine.execColResume cls sub n s
  | .colAbort cls sub n => Sys2Proof.Machine.execColAbort cls sub n s
  | .colClearCounts cls sub => Sys2Proof.Machine.execColClearCounts cls sub s
  | .migrate n => Sys2Proof.Machine.execMigrate n s
  | .reclass n => Sys2Proof.Machine.execReclass n s
  | .migrationCopyDone n id => Sys2Proof.Machine.execMigrationCopyDone n id s
  | .migrationCommit n => Sys2Proof.Machine.execMigrationCommit n s
  | .copyTimeout n id => Sys2Proof.Machine.execCopyTimeout n id s
  | .trhHalt cls sub n => Sys2Proof.Machine.execTrhHalt cls sub n s
  | .trhResume cls sub n => Sys2Proof.Machine.execTrhResume cls sub n s
  | .trhAbort cls sub n => Sys2Proof.Machine.execTrhAbort cls sub n s
  | .trhClearCounts cls sub n => Sys2Proof.Machine.execTrhClearCounts cls sub n s
  | .alloc c => Sys2Proof.Machine.execAlloc c s
  | .free c => Sys2Proof.Machine.execFree c s
  | .echo c => Sys2Proof.Machine.execEcho c s
  | .remoteRead c link => Sys2Proof.Machine.execRemoteRead c link s
  | .remoteWrite c link => Sys2Proof.Machine.execRemoteWrite c link s
  | .remoteAccessTimeout k => Sys2Proof.Machine.execRemoteAccessTimeout k s
  | .delay c => Sys2Proof.Machine.execDelay c s
  | .delayExpiry k => Sys2Proof.Machine.execDelayExpiry k s
  | .pastureFree c => Sys2Proof.Machine.execPastureFree c s
  | .readReq n k => Sys2Proof.Machine.execReadReq n k s
  | .writeReq n k => Sys2Proof.Machine.execWriteReq n k s
  | .tallyAddPacket n k => Sys2Proof.Machine.execTallyAddPacket n k s
  | .rowReq n k => Sys2Proof.Machine.execRowReq n k s
  | .reduceReq n k => Sys2Proof.Machine.execReduceReq n k s
  | .sampleReq n k => Sys2Proof.Machine.execSampleReq n k s
  | .gradRecord n k => Sys2Proof.Machine.execGradRecord n k s
  | .versionRead n k => Sys2Proof.Machine.execVersionRead n k s
  | .collData n k => Sys2Proof.Machine.execCollData n k s
  | .rollCall n k => Sys2Proof.Machine.execRollCall n k s
  | .rollRelease n k => Sys2Proof.Machine.execRollRelease n k s
  | .notice n k => Sys2Proof.Machine.execNotice n k s
  | .mgmtRead c n k => Sys2Proof.Machine.execMgmtRead c n k s
  | .mgmtWrite c n k => Sys2Proof.Machine.execMgmtWrite c n k s
  | .loadReport n k => Sys2Proof.Machine.execLoadReport n k s
  | .neighbour n k => Sys2Proof.Machine.execNeighbour n k s
  | .readResponse n k => Sys2Proof.Machine.execReadResponse n k s
  | .writeResponse n k => Sys2Proof.Machine.execWriteResponse n k s
  | .tallyAddResponse n k => Sys2Proof.Machine.execTallyAddResponse n k s
  | .rowResponse n k => Sys2Proof.Machine.execRowResponse n k s
  | .reduceResponse n k => Sys2Proof.Machine.execReduceResponse n k s
  | .sampleResponse n k => Sys2Proof.Machine.execSampleResponse n k s
  | .gradRecordResponse n k => Sys2Proof.Machine.execGradRecordResponse n k s
  | .versionReadResponse n k => Sys2Proof.Machine.execVersionReadResponse n k s
  | .mgmtReadResponse n k => Sys2Proof.Machine.execMgmtReadResponse n k s
  | .mgmtWriteResponse n k => Sys2Proof.Machine.execMgmtWriteResponse n k s
  | .replayInject => Sys2Proof.Machine.execReplayInject s
  | .dataBlock n data ctl good bad => Sys2Proof.Machine.execDataBlock n data ctl good bad s
  | .nakBlock n data ctl good bad => Sys2Proof.Machine.execNakBlock n data ctl good bad s
  | .idleBlock n data ctl good bad => Sys2Proof.Machine.execIdleBlock n data ctl good bad s
  | .initBlock n data ctl good bad => Sys2Proof.Machine.execInitBlock n data ctl good bad s
  | .retryDeadline n => Sys2Proof.Machine.execRetryDeadline n s
  | .linkTrainingDone n snr0 snr1 prec0 prec1 => Sys2Proof.Machine.execLinkTrainingDone n snr0 snr1 prec0 prec1 s
  | .trainingTimeout n => Sys2Proof.Machine.execTrainingTimeout n s
  | .alignmentDone n => Sys2Proof.Machine.execAlignmentDone n s
  | .lossOfLock n => Sys2Proof.Machine.execLossOfLock n s
  | .retrainTimer n => Sys2Proof.Machine.execRetrainTimer n s
  | .lnkRetrain cls sub n => Sys2Proof.Machine.execLnkRetrain cls sub n s
  | .lnkClearCounts cls sub n => Sys2Proof.Machine.execLnkClearCounts cls sub n s
  | .strStage cls sub a => Sys2Proof.Machine.execStrStage cls sub a s
  | .stagingDone => Sys2Proof.Machine.execStagingDone s
  | .strCommit cls sub epoch => Sys2Proof.Machine.execStrCommit cls sub epoch s
  | .switchTick => Sys2Proof.Machine.execSwitchTick s
  | .unitSwitch c => Sys2Proof.Machine.execUnitSwitch c s
  | .strTimeoutExpiry => Sys2Proof.Machine.execStrTimeoutExpiry s
  | .stackTrainingDone p ok => Sys2Proof.Machine.execStackTrainingDone p ok s
  | .refresh p => Sys2Proof.Machine.execRefresh p s
  | .scrub p => Sys2Proof.Machine.execScrub p s
  | .scrubNow cls sub p => Sys2Proof.Machine.execScrubNow cls sub p s
  | .memClearCounts cls sub p => Sys2Proof.Machine.execMemClearCounts cls sub p s
  | .memMark cls sub p k v => Sys2Proof.Machine.execMemMark cls sub p k v s
  | .sramPatrol kind inst off double => Sys2Proof.Machine.execSramPatrol kind inst off double s
  | .sramClearCounts cls sub => Sys2Proof.Machine.execSramClearCounts cls sub s
  | .nsrClearPop cls sub p => Sys2Proof.Machine.execNsrClearPop cls sub p s
  | .application p => Sys2Proof.Machine.execApplication p s
  | .embClearCounts cls sub => Sys2Proof.Machine.execEmbClearCounts cls sub s
  | .schPost c w => Sys2Proof.Machine.execSchPost c w s
  | .timetableExpiry f => Sys2Proof.Machine.execTimetableExpiry f s
  | .dispatch f => Sys2Proof.Machine.execDispatch f s
  | .preempt f => Sys2Proof.Machine.execPreempt f s
  | .schTake c => Sys2Proof.Machine.execSchTake c s
  | .schDone c => Sys2Proof.Machine.execSchDone c s
  | .schYield c => Sys2Proof.Machine.execSchYield c s
  | .schCancel c w => Sys2Proof.Machine.execSchCancel c w s
  | .schClearCounts cls sub f => Sys2Proof.Machine.execSchClearCounts cls sub f s
  | .schFwLoad cls sub len => Sys2Proof.Machine.execSchFwLoad cls sub len s
  | .fwVerifyDone => Sys2Proof.Machine.execFwVerifyDone s
  | .kernelReady c => Sys2Proof.Machine.execKernelReady c s
  | .schReset cls sub => Sys2Proof.Machine.execSchReset cls sub s
  | .sysRstN low => Sys2Proof.Machine.execSysRstN low s
  | .getReport via nonce => Sys2Proof.Machine.execGetReport via nonce s
  | .getCert via idx => Sys2Proof.Machine.execGetCert via idx s
  | .getMeas via => Sys2Proof.Machine.execGetMeas via s
  | .svnCommit cls sub => Sys2Proof.Machine.execSvnCommit cls sub s
  | .jtagChallenge via => Sys2Proof.Machine.execJtagChallenge via s
  | .jtagResponse via key sig => Sys2Proof.Machine.execJtagResponse via key sig s
  | .challengeExpiry => Sys2Proof.Machine.execChallengeExpiry s
  | .securityFault check => Sys2Proof.Machine.execSecurityFault check s
  | .powerOn => Sys2Proof.Machine.execPowerOn s
  | .railsGood => Sys2Proof.Machine.execRailsGood s
  | .railFault => Sys2Proof.Machine.execRailFault s
  | .regulatorFault kind inst fault => Sys2Proof.Machine.execRegulatorFault kind inst fault s
  | .pllLossOfLock kind inst => Sys2Proof.Machine.execPllLossOfLock kind inst s
  | .standbyEnter cls sub => Sys2Proof.Machine.execStandbyEnter cls sub s
  | .standbyExit => Sys2Proof.Machine.execStandbyExit s
  | .holidayEntry kind n => Sys2Proof.Machine.execHolidayEntry kind n s
  | .frequencyStep c => Sys2Proof.Machine.execFrequencyStep c s
  | .powerSample mw => Sys2Proof.Machine.execPowerSample mw s
  | .thermalSample temps => Sys2Proof.Machine.execThermalSample temps s
  | .throttleStep die => Sys2Proof.Machine.execThrottleStep die s
  | .thermalTrip die sensor temp => Sys2Proof.Machine.execThermalTrip die sensor temp s
  | .powerFail rails => Sys2Proof.Machine.execPowerFail rails s
  | .logFlush cls sub => Sys2Proof.Machine.execLogFlush cls sub s
  | .flushDone failed skip => Sys2Proof.Machine.execFlushDone failed skip s
  | .logClearCounts cls sub => Sys2Proof.Machine.execLogClearCounts cls sub s
  | .logFreeze cls sub on => Sys2Proof.Machine.execLogFreeze cls sub on s
  | .logCursor cls sub v => Sys2Proof.Machine.execLogCursor cls sub v s
  | .hmnWinWrite cls sub c k => Sys2Proof.Machine.execHmnWinWrite cls sub c k s
  | .hmnThaw cls sub c n all => Sys2Proof.Machine.execHmnThaw cls sub c n all s
  | .hmnClearCounts cls sub => Sys2Proof.Machine.execHmnClearCounts cls sub s
  | .recAbort cls sub => Sys2Proof.Machine.execRecAbort cls sub s
  | .recClearCounts cls sub => Sys2Proof.Machine.execRecClearCounts cls sub s
  | .forceOwner bus port => Sys2Proof.Machine.execForceOwner bus port s
  | .thaw bus cls sub all => Sys2Proof.Machine.execThaw bus cls sub all s
  | .readReg bus off => Sys2Proof.Machine.execReadReg bus off s
  | .setEndpointId bus eid => Sys2Proof.Machine.execSetEndpointId bus eid s
  | .getEndpointId bus => Sys2Proof.Machine.execGetEndpointId bus s
  | .getMctpVersionSupport bus ty => Sys2Proof.Machine.execGetMctpVersionSupport bus ty s
  | .getMessageTypeSupport bus => Sys2Proof.Machine.execGetMessageTypeSupport bus s
  | .getVendorDefinedMsgSupport bus sel => Sys2Proof.Machine.execGetVendorDefinedMsgSupport bus sel s
  | .getTid bus => Sys2Proof.Machine.execGetTid bus s
  | .getPldmVersion bus ty => Sys2Proof.Machine.execGetPldmVersion bus ty s
  | .getPldmTypes bus => Sys2Proof.Machine.execGetPldmTypes bus s
  | .getPldmCommands bus ty => Sys2Proof.Machine.execGetPldmCommands bus ty s
  | .getPdrRepositoryInfo bus => Sys2Proof.Machine.execGetPdrRepositoryInfo bus s
  | .getPdr bus n => Sys2Proof.Machine.execGetPdr bus n s
  | .getSensorReading bus n => Sys2Proof.Machine.execGetSensorReading bus n s
  | .getStateSensorReadings bus n => Sys2Proof.Machine.execGetStateSensorReadings bus n s
  | .setEventReceiver bus r => Sys2Proof.Machine.execSetEventReceiver bus r s
  | .setDasa good => Sys2Proof.Machine.execSetDasa good s
  | .entDaa good a => Sys2Proof.Machine.execEntDaa good a s
  | .smbusAlertResponse good => Sys2Proof.Machine.execSmbusAlertResponse good s
  | .extest => Sys2Proof.Machine.execExtest s
  | .samplePreload => Sys2Proof.Machine.execSamplePreload s
  | .clamp => Sys2Proof.Machine.execClamp s
  | .highz => Sys2Proof.Machine.execHighz s
  | .extestPulse => Sys2Proof.Machine.execExtestPulse s
  | .extestTrain => Sys2Proof.Machine.execExtestTrain s
  | .secAccess => Sys2Proof.Machine.execSecAccess s
  | .bypass => Sys2Proof.Machine.execBypass s
  | .idcode => Sys2Proof.Machine.execIdcode s
  | .holidayWake kind n => Sys2Proof.Machine.execHolidayWake kind n s
  | .pcieCompletionTimeout n code => Sys2Proof.Machine.execPcieCompletionTimeout n code s
  | .doeDiscovery port idx => Sys2Proof.Machine.execDoeDiscovery port idx s
  | .tapReset => Sys2Proof.Machine.execTapReset s
  | .fuseStepBlown => Sys2Proof.Machine.execFuseStepBlown s

end Sys2Proof.Machine
end

