-- ==== Sys2Proof/Safety.lean ====
section
/-! DEFINITION. The terms of the claims: canonical states, runs without a stop, what a register write needs to reach its register,
and what an event leaves alone. -/

namespace Sys2Proof

open Machine

/-- The canonical form of local memory: addresses strictly rising, and no entry equal to what an unlisted address reads as. -/
def Memory.wf (stamp : Nat) (m : Sparse Byte) : Bool := spWf (memDefault stamp) m

/-- The canonical form of the register store: no entry equal to the register's reset value in the device's grade. -/
def Registers.wf (g : Nat) (m : Sparse Word) : Bool := spWf (regReset g) m

/-- A device whose local memory and register store are in their canonical form. -/
def Canonical (s : State) : Prop := Memory.wf s.stamp s.mem = true ∧ Registers.wf s.grade s.regs = true

/-- The running instructions of a core have different numbers, all below the next one, as are the numbers of the MSTREAMs that are
stolen from. -/
def Numbered (k : Core) : Prop :=
  (k.runs.map (·.rid)).Nodup ∧ (∀ r ∈ k.runs, r.rid < k.nextRid) ∧ ∀ z ∈ k.steals, z.rid < k.nextRid

/-- A state from which `n` steps end in no fault and no refusal. -/
def Runs : Nat → State → Prop
  | 0, _ => True
  | n + 1, s => ∃ t, step s = .next t ∧ Runs n t

/-- What a master's write of `n` bytes of the register space needs to reach the registers: running units, a master that is neither
cut off nor frozen out, a window that permits it, and no register among them that this master may not write (R363, R367, R425, R428). -/
def Admits (m : Mst) (off n : Nat) (s : State) : Prop :=
  s.live = true ∧ mute s m = false ∧ pathFrozen s m off = false ∧ inMmio (mmioBase + off) = true ∧
    permitted s m.cls s.devId (mmioBase + off) n kMmio = true ∧ writeBarred s m off n = false

/-- As `Admits`, and the register's unit is awake: a unit in recess wakes first (R19), as PlainRegisterWrite says. -/
def MayWriteBytes (m : Mst) (off n : Nat) (s : State) : Prop := Admits m off n s ∧ (regAt off).all (fun r => !atRest r s) = true

/-- As `MayWriteBytes`, for a register at its own address and width. -/
def MayWrite (m : Mst) (off : Nat) (s : State) : Prop := MayWriteBytes m off (regBytes off) s

/-- Every register but the listed ones holds what it held. -/
def RegsBut (l : List Nat) (s t : State) : Prop := ∀ k, k ∉ l → t.reg k = s.reg k

/-- Every byte of local memory outside `n` bytes from `a` reads as before. -/
def MemBut (a n : Nat) (s t : State) : Prop := ∀ x, (x < a ∨ a + n ≤ x) → t.byte x = s.byte x

/-- The registers that recording an event may write: the Logbook's head and losses, and the holds of the schedulers' sources. -/
def recordRegs : List Nat :=
  [LOG_LOST, LOG_DROPPED, LOG_SRAM_HEAD, SCH_STALLS 0, SCH_STALLS 1, SCH_STALLS 2, SCH_STALLS 3, SCH_ERR 0, SCH_ERR 1, SCH_ERR 2,
    SCH_ERR 3]

/-- The Logbook takes a record with any snapshot: not closed, not frozen, and nine slots of room (R432 to R436). -/
def LogOpen (s : State) : Prop :=
  s.logClosed = false ∧ s.bit LOG_FREEZE LOG_FREEZE_frozen = false ∧
    (s.reg LOG_SRAM_HEAD).toNat - (s.reg LOG_SRAM_FLUSHED).toNat + 9 ≤ 32768

/-- The slot at the head of the Logbook's SRAM in `s` holds in `t` the fixed part of a record, with some number of snapshot
entries (R430). -/
def HasRecord (s t : State) (code kind inst p0 p1 p2 p3 : Nat) : Prop :=
  ∃ n, n ≤ 16 ∧ logSlot t.sram ((s.reg LOG_SRAM_HEAD).toNat % 32768) = logFixed s code n kind inst p0 p1 p2 p3

/-- Both ports are sent a vector (R366). -/
def Raised (v : Nat) (t : State) : Prop := (∃ b, (0, v, b) ∈ t.msix) ∧ ∃ b, (1, v, b) ∈ t.msix

/-- Core `c` and the listed registers are all that differ. -/
def CoreBut (c : Nat) (l : List Nat) (s u : State) : Prop :=
  RegsBut l s u ∧ (∀ k, k ≠ c → u.core k = s.core k) ∧ u = { s with regs := u.regs, cores := u.cores }

/-- No word of the instruction at a position of the staged blocks holds an error (R297). -/
def stagedClean (k : Core) (x : Bool) (pos : Nat) : Bool :=
  (k.blockAt x pos).all (fun b => b.upsets.all (fun u => decide (u.1 / 16 ≠ pos % 4096 / 16)))

/-- A context's next instruction is `w`, from a block that passed its check and holds it without error, it may issue, and no
condition of R101 stops it. -/
def Issues (s : State) (c : Nat) (x d : Bool) (w : Code) : Prop :=
  s.live = true ∧ s.has .core c = true ∧ (s.core c).mayIssue x d = true ∧ (x = false → s.isFrozen (aMst c) = false) ∧
    (s.core c).wordAt x ((s.core c).ctx x d).pos = some w ∧ (x = false → opcode w < 0x10 → (s.core c).holdA = false) ∧
    stagedClean (s.core c) x ((s.core c).ctx x d).pos = true ∧ issueTrap s c x d w = none

/-- A core whose context issues: the block of the instruction is the most recently used (R43). -/
def issuer (s : State) (c : Nat) (x d : Bool) : Core := touchBlock x ((s.core c).ctx x d).pos (s.core c)

/-- An access of these bytes meets no error: their atoms hold none (R285), no command of a stack meets a parity error (R274), and no
word of SRAM holds one (R297). -/
def Sound (s : State) (a n : Nat) : Prop := (∀ x ∈ atomsOf a n, s.atomErr x = 0) ∧ s.caErrs = [] ∧ s.upsets = []

/-- As `Sound`, of each of a list of places and lengths. -/
def SoundAll (s : State) (l : List (Nat × Nat)) : Prop := ∀ p ∈ l, Sound s p.1 p.2

/-- Whether a request at an address would find the unit whose memory holds it in recess, and wake it (R19). -/
def wakes (s : State) (a : Nat) : Bool :=
  match sleeperAt a with
  | some (.core n) => decide ((s.core n).state = .recess)
  | some (.drover n) => decide ((s.drover n).rest = 1)
  | some (.engine n) => decide ((s.engine n).rest = 1)
  | none => false

/-- The memory that holds an address serves a master at once: the master is not gated, and the memory's part is trained and awake, or the
master's own core's, and of the master's epoch or a newer one (R19, R299, R356, R428). -/
def Serves (m : Mst) (a n : Nat) (s : State) : Prop :=
  gated s m = false ∧ waitsFor s a n = false ∧ epochHeld s m a = false ∧ (wakes s a = false ∨ (2 ≤ m.cls ∧ m.cls < 34 ∧ sleeperAt a = some (.core (m.cls - 2))))

/-- A local master reads these bytes at once: mapped, permitted, serving, free of errors, and no register. -/
def Reads (m : Mst) (a n : Nat) (s : State) : Prop :=
  mapped s a n = true ∧ permitted s m.cls s.devId a n kRead = true ∧ Serves m a n s ∧ inMmio a = false ∧ Sound s a n

/-- A local master writes these bytes at once; they lie above the firmware load area. -/
def Writes (m : Mst) (a n : Nat) (s : State) : Prop :=
  loadEnd ≤ a ∧ mapped s a n = true ∧ permitted s m.cls s.devId a n kWrite = true ∧ Serves m a n s ∧ inMmio a = false ∧ Sound s a n

/-- The rank table entry that translates an address of core `c`'s A-stream, if any, is read at once and holds no error (R285, R299, R337). -/
def RankReads (s : State) (c : Nat) (isLoc : Bool) (g : Nat) : Prop :=
  ∀ a, rankEntry s c isLoc g = some a → waits s a = false ∧ Sound s a 2

/-- The state in which that entry has been read. -/
def ranked (s : State) (c : Nat) (isLoc : Bool) (g : Nat) : State :=
  match rankEntry s c isLoc g with
  | none => s
  | some a => (s.touch [(a, 2)]).2

/-- What reading the edges of a node of this device reads: its entry, the directory of its run, and its blocks (R192 to R194). -/
def adjReads (s : State) (a : Adj) (idx : Nat) : List (Nat × Nat) :=
  let w := s.num (a.entries + 16 * idx) 16
  let run := bitsOf w 47 0
  let n := (bitsOf w 79 48 + 63) / 64
  let offs := if bitOf w 120 then (rangeFrom 0 n).map (fun i => s.num (run + 4 * i) 4) else [0]
  (a.entries + 16 * idx, 16) :: (run, 4 * n) :: offs.map (fun o =>
    let len := bitsOf (s.num (run + o) 8) 63 48
    (run + o, if len > 1024 ∨ len < 8 then 8 else len))

/-- The registers and counts that reads and writes of pastures move: MEM_BYTES_READ and MEM_BYTES_WRITTEN (R300). -/
def trafficRegs : List Nat :=
  (rangeFrom 0 8).map (fun p => MEM_BYTES_READ p) ++ (rangeFrom 0 8).map (fun p => MEM_BYTES_WRITTEN p)

/-- As `CoreBut`, for an event that also reads and writes memory: counts of traffic, and memory itself. -/
def CoreMemBut (c : Nat) (l : List Nat) (s u : State) : Prop :=
  RegsBut (trafficRegs ++ l) s u ∧ (∀ k, k ≠ c → u.core k = s.core k) ∧
    u = { s with regs := u.regs, cores := u.cores, mem := u.mem, bursts := u.bursts, pinHits := u.pinHits, atomErrs := u.atomErrs }

/-- Core `j` is as it was, but for a completion record in its memory that may have woken it from recess (R19). -/
def OnlyWoken (j : Nat) (s t : State) : Prop := t.core j = s.core j ∨ t.core j = wakeCore (s.core j)

/-- Core `c` has stopped with a status, its command has ended unless a TALLY_ADD that it sent awaits its answer (R323), and no other
core differs but that the command's completion record may have woken it. -/
def Stops (c st : Nat) (s t : State) : Prop :=
  (t.core c).state = .stopped ∧ (t.core c).stopStatus = st ∧ ((s.core c).adds = [] → (t.core c).cmd = none) ∧
    (∀ j, j ≠ c → OnlyWoken j s t) ∧ ((s.core c).cmd = none → ∀ j, j ≠ c → t.core j = s.core j)

/-- Core `c` has stopped on a condition of R101 at a program address: a record of the core and vector 0. -/
def Traps (c st code addr : Nat) (s t : State) : Prop :=
  Stops c st s t ∧ Raised 0 t ∧ (LogOpen s → HasRecord s t code 1 c c (s.core c).prog.gen (addr % 2 ^ 32) (addr / 2 ^ 32))

/-- Core `c` has stopped on a violation of its A-stream, which is frozen: the record of R428 and vector 1. -/
def FreezesOut (c code kind g : Nat) (s t : State) : Prop :=
  Stops c 0x05 s t ∧ t.isFrozen (aMst c) = true ∧ Raised 1 t ∧
    (LogOpen s → HasRecord s t code 0 2 (mstParam (aMst c)) (g % 2 ^ 32) (g / 2 ^ 32 % 2 ^ 32) kind)

/-- A core whose context has issued an instruction: it is awake and the context goes on. -/
def advanced (k : Core) (x d : Bool) (v : Ctx) : Core := (wakeCore k).setCtx x d v.next

/-- A core whose running instructions that waited for one of some rows, or for room, may go on (R33). -/
def woken (l : List Nat) (k : Core) : Core :=
  { k with runs := k.runs.map (fun r => if l.contains r.wcode then { r with wcode := 0 } else r) }

/-- What running instructions may have waited for, when some rows have been popped from queues and rows have been pushed to others. -/
def wakesOf (pops : Nat → Nat) (pushed : Nat → Bool) : List Nat :=
  (List.range 32).flatMap (fun j => (if pops j = 0 then [] else [wRoom j]) ++ (if pushed j then [wRow j] else []))

/-- A core that has issued and completed an instruction of a unit: one more run, and what waited for a free unit tries again. -/
def ran (k : Core) (x d : Bool) (v : Ctx) : Core := (advanced { k with nextRid := k.nextRid + 1 } x d v).retry [8]

/-- An instruction of the X-stream of core `c` completes, having produced NaNs at the listed element indices in a class (R157 to
R159): in a class set to halt the first one stops the core after it; else `more` says what the instruction leaves, and the record of
the first NaN is written if none is held. -/
def NanEnds (c : Nat) (d : Bool) (s : State) (i : Instr) (nans : List Nat) (cls : Nat) (regs : List Nat) (more : State → Prop) : Prop :=
  let k := issuer s c true d
  let v := k.ctx true d
  let held := s.bit (COR_NAN_FIRST c) COR_NAN_FIRST_valid
  (nanHalts s c cls = true → nans ≠ [] → ∃ t : State, exec i s = .next t ∧ Traps c 0x04 0x6007 v.pos s t) ∧
  (nanHalts s c cls = false ∨ nans = [] → ∃ u : State, exec i s = .next (u.afterCore c) ∧ more u ∧
    RegsBut ([COR_NAN_FIRST c, COR_NAN_FIRST_ADDR c] ++ regs) s u ∧ (∀ j, j ≠ c → u.core j = s.core j) ∧
    (held = true ∨ nans = [] → u.reg (COR_NAN_FIRST c) = s.reg (COR_NAN_FIRST c) ∧ u.reg (COR_NAN_FIRST_ADDR c) = s.reg (COR_NAN_FIRST_ADDR c)) ∧
    (∀ n l, held = false → nans = n :: l → u.fld (COR_NAN_FIRST c) COR_NAN_FIRST_valid = 1 ∧ u.fld (COR_NAN_FIRST c) COR_NAN_FIRST_stream = 1 ∧
      u.fld (COR_NAN_FIRST c) COR_NAN_FIRST_deferred = b2n d ∧ u.fld (COR_NAN_FIRST c) COR_NAN_FIRST_core = c % 2 ^ 5 ∧
      u.fld (COR_NAN_FIRST c) COR_NAN_FIRST_generation = k.prog.gen % 2 ^ 16 ∧ u.fld (COR_NAN_FIRST c) COR_NAN_FIRST_element = n % 2 ^ 32 ∧
      u.reg (COR_NAN_FIRST_ADDR c) = BitVec.ofNat 64 v.pos))

/-- Core `c`'s event has sent a request: `State.request` and the core are all that differ. -/
def Asks (c : Nat) (s u : State) (ty dst addr : Nat) (args : List Nat) (data : List Byte) (o : ReqOwner) : Prop :=
  u = { (s.request ty dst addr args data o).2 with cores := u.cores } ∧ ∀ j, j ≠ c → u.core j = s.core j

/-- The listed registers, and what reading memory counts, are all that differ. -/
def ReadsBut (l : List Nat) (s u : State) : Prop :=
  RegsBut (trafficRegs ++ l) s u ∧ u = { s with regs := u.regs, bursts := u.bursts, pinHits := u.pinHits }

/-- A count that stops at its limit has risen by `n` (R4). -/
def Rose (r n : Nat) (s u : State) : Prop := u.fld r cntFld = min (2 ^ 48 - 1) (s.fld r cntFld + n)

/-- Row `key` of a table lies on this device, where core `c` may access it in a way (a permission bit): its directory entry, and
where that is. -/
def RowHere (c kind : Nat) (t : Table) (key col0 n ea : Nat) (e : DirEnt) (s : State) : Prop :=
  key < t.rows ∧ (t.ranged = true → Reads (aMst c) t.ranges (16 * t.rangeCount) s) ∧
    entryAt s t key = some (s.devId, ea) ∧ Reads (aMst c) ea 8 s ∧ dirEnt (s.num ea 8) = e ∧ e.unplaced = false ∧
    e.dev = s.devId ∧ rowPlaced e.addr e.cls t.elems = true ∧ s.stubAt e.addr = none ∧ waits s e.addr = false ∧
    mapped s (e.addr + (colSpan e.cls col0 n).1) ((colSpan e.cls col0 n).2 - (colSpan e.cls col0 n).1) = true ∧
    permitted s (2 + c) s.devId (e.addr + (colSpan e.cls col0 n).1) ((colSpan e.cls col0 n).2 - (colSpan e.cls col0 n).1) kind = true ∧
    ∀ p ∈ rowPieces e.addr e.cls t.elems col0 n, ∀ x ∈ atomsOf p.1 p.2, s.atomErr x = 0

/-- The values of a sub-row as the slot of an entry holds them (R252). -/
def rowOf (s : State) (t : Table) (e : DirEnt) (col0 n : Nat) : List FVal :=
  rowVals e.addr e.cls t.elems col0 n ((rowPieces e.addr e.cls t.elems col0 n).flatMap (fun p => s.bytes p.1 p.2))

/-- The registers that near-stack reducers count in. -/
def nsrRegs : List Nat :=
  (rangeFrom 0 8).flatMap (fun p => [NSR_POP_STATUS p, NSR_ATOMS_READ p, NSR_BYTES_OUT p, NSR_REDUCE_REQS p])

/-- The instructions that a stream may issue, as commands, with their opcodes (R69). -/
def streamRows (c : Nat) (x d : Bool) : List (Instr × Nat) :=
  let control : List (Instr × Nat) := [(.nop c x d, opNOP), (.endContext c x d, opEND), (.jump c x d, opJUMP), (.loop c x d, opLOOP)]
  let ofX : List (Instr × Nat) :=
      [(.mload c d .issue, opMLOAD), (.mswap c d .issue, opMSWAP), (.mstream c d .issue, opMSTREAM), (.epi c d, opEPI),
       (.expert c d .issue, opEXPERT), (.vadd c d .issue, opVADD), (.vsub c d .issue, opVSUB), (.vmul c d .issue, opVMUL),
       (.vfma c d .issue, opVFMA), (.vaxpy c d .issue, opVAXPY), (.vmax c d .issue, opVMAX), (.vmin c d .issue, opVMIN),
       (.vabs c d .issue, opVABS), (.vneg c d .issue, opVNEG), (.vmov c d .issue, opVMOV), (.vexp c d .issue, opVEXP),
       (.vrcp c d .issue, opVRCP), (.vrsqrt c d .issue, opVRSQRT), (.vcmp c d .issue, opVCMP), (.vand c d .issue, opVAND),
       (.vor c d .issue, opVOR), (.vxor c d .issue, opVXOR), (.viadd c d .issue, opVIADD), (.cvt c d .issue, opCVT),
       (.compress24 c d .issue, opCOMPRESS), (.update c d .issue, opUPDATE), (.reduce c d .issue, opREDUCE)]
  let ofA : List (Instr × Nat) :=
      [(.load c d .issue, opLOAD), (.store c d .issue, opSTORE), (.copy c d .issue, opCOPY), (.tload c d .issue, opTLOAD),
       (.gather c d .issue, opGATHER), (.scatterAdd c d .issue, opSCATTER), (.waitGe c d, opWAIT), (.add c d, opADD),
       (.sub c d, opSUB), (.setx c d, opSETX), (.addx c d, opADDX), (.fence c d, opFENCE), (.phase c d, opPHASE),
       (.retire c d, opRETIRE), (.defer c d, opDEFER)]
  control ++ (if x then ofX else ofA)

/-- The commands by which a running instruction goes on, with their opcodes. -/
def runRows (c : Nat) (d : Bool) (slot : Nat) : List (Instr × Nat) :=
  [(.load c d (.cont slot), opLOAD), (.store c d (.cont slot), opSTORE), (.copy c d (.cont slot), opCOPY),
   (.tload c d (.cont slot), opTLOAD), (.gather c d (.cont slot), opGATHER), (.scatterAdd c d (.cont slot), opSCATTER),
   (.mload c d (.cont slot), opMLOAD), (.mswap c d (.cont slot), opMSWAP), (.mstream c d (.cont slot), opMSTREAM),
   (.expert c d (.cont slot), opEXPERT), (.vadd c d (.cont slot), opVADD), (.vsub c d (.cont slot), opVSUB),
   (.vmul c d (.cont slot), opVMUL), (.vfma c d (.cont slot), opVFMA), (.vaxpy c d (.cont slot), opVAXPY),
   (.vmax c d (.cont slot), opVMAX), (.vmin c d (.cont slot), opVMIN), (.vabs c d (.cont slot), opVABS),
   (.vneg c d (.cont slot), opVNEG), (.vmov c d (.cont slot), opVMOV), (.vexp c d (.cont slot), opVEXP),
   (.vrcp c d (.cont slot), opVRCP), (.vrsqrt c d (.cont slot), opVRSQRT), (.vcmp c d (.cont slot), opVCMP),
   (.vand c d (.cont slot), opVAND), (.vor c d (.cont slot), opVOR), (.vxor c d (.cont slot), opVXOR),
   (.viadd c d (.cont slot), opVIADD), (.cvt c d (.cont slot), opCVT), (.compress24 c d (.cont slot), opCOMPRESS),
   (.update c d (.cont slot), opUPDATE), (.reduce c d (.cont slot), opREDUCE)]

/-- The commands that reach the device whatever its units do: power, the reset pin, and what the security controller, the sideband
and the test port answer by themselves. -/
def always : Instr → Bool
  | .perst .. | .sysRstN _ | .powerOn | .railsGood | .railFault | .thermalSample _ | .thermalTrip .. | .powerFail _ | .flushDone .. => true
  | .forceOwner .. | .thaw .. | .readReg .. | .setEndpointId .. | .getEndpointId _ | .getMctpVersionSupport .. => true
  | .getMessageTypeSupport _ | .getVendorDefinedMsgSupport .. | .getTid _ | .getPldmVersion .. | .getPldmTypes _ => true
  | .getPldmCommands .. | .getPdrRepositoryInfo _ | .getPdr .. | .getSensorReading .. | .getStateSensorReadings .. => true
  | .setEventReceiver .. | .setDasa _ | .entDaa .. | .smbusAlertResponse _ => true
  | .extest | .samplePreload | .clamp | .highz | .extestPulse | .extestTrain | .secAccess | .bypass | .idcode | .tapReset => true
  | .getReport .. | .getCert .. | .getMeas _ | .jtagChallenge _ | .jtagResponse .. | .challengeExpiry | .securityFault _ => true
  | .fuseStepBlown | .doeDiscovery .. => true
  | _ => false

end Sys2Proof
end

