-- ==== Sys2Proof/Certificates/Slice0/Obligations.lean ====
section
/-! DEFINITION. The statements for the provers: what each command does, what it leaves alone, and what holds of every step. -/

open Sys2Proof Sys2Proof.Machine

/-- The command at the front of the queue is executed with the rest of the queue. That an empty queue lets the clock tick is the model's choice (log 1). -/
def Obligations.StepRunsTheFrontCommand : Prop :=
  (∀ (c : Instr) (s : State), step { s with pending := c :: s.pending } = exec c s) ∧
  (∀ s : State, s.pending = [] → ∃ t, step s = .next t ∧ t = { s with regs := t.regs } ∧ t.reg SCH_TICK = s.reg SCH_TICK + 1 ∧
    RegsBut [SCH_TICK, LOG_MS, LOG_HOURS] s t)

/-- R431: the three counts of time. That an idle step is one tick of 1 µs is the model's choice (log 1). -/
def Obligations.TimeIsKeptInMram : Prop :=
  ∀ s : State,
    (∃ t, exec .powerOn s = .next t ∧ t.reg LOG_POWER_CYCLES = s.reg LOG_POWER_CYCLES + 1 ∧ t.reg LOG_HOURS = s.reg LOG_HOURS ∧
      t.reg LOG_MS = s.reg LOG_MS) ∧
    (s.pending = [] → ∃ t, step s = .next t ∧ t.reg LOG_POWER_CYCLES = s.reg LOG_POWER_CYCLES ∧
      ((s.reg SCH_TICK + 1).toNat % 1000 ≠ 0 → t.reg LOG_MS = s.reg LOG_MS ∧ t.reg LOG_HOURS = s.reg LOG_HOURS) ∧
      ((s.reg SCH_TICK + 1).toNat % 1000 = 0 → s.fld LOG_MS LOG_MS_ms < 3599999 →
        t.fld LOG_MS LOG_MS_ms = s.fld LOG_MS LOG_MS_ms + 1 ∧ t.reg LOG_HOURS = s.reg LOG_HOURS) ∧
      ((s.reg SCH_TICK + 1).toNat % 1000 = 0 → 3599999 ≤ s.fld LOG_MS LOG_MS_ms →
        t.fld LOG_MS LOG_MS_ms = 0 ∧ t.reg LOG_HOURS = s.reg LOG_HOURS + 1)) ∧
    (∀ c t, (c = Instr.sysRstN true ∨ ∃ cls sub, c = .schReset cls sub) → exec c s = .next t →
      t.reg LOG_POWER_CYCLES = s.reg LOG_POWER_CYCLES ∧ t.reg LOG_HOURS = s.reg LOG_HOURS ∧ t.reg LOG_MS = s.reg LOG_MS)

/-- R1, R384, R398, R426, R446, R462, R464, R481: values after reset. The grade and the moment of reset are the model's choice (log 54). -/
def Obligations.ResetHoldsTheTabledValues : Prop :=
  let s := State.reset
  readReg s GLB_INVENTORY_CORE = 0xFFFFFFFF ∧ readReg s GLB_INVENTORY_STACK = 0xFF ∧ readReg s GLB_INVENTORY_ENGINE = 0xE4FF ∧
  fwState s = 0 ∧ s.fld PWR_STATUS PWR_STATUS_cap_w = 1400 ∧ s.fld PWR_STATUS PWR_STATUS_rails_good = 0 ∧
  s.fld THM_CFG THM_CFG_throttle = 95 ∧ s.fld (SCH_CFG 3) SCH_CFG_preempt_min = 16 ∧ s.fld (SCH_CFG 3) SCH_CFG_preempt_en = 1 ∧
  s.bit MGT_CFG MGT_CFG_sb_control = true ∧ owner s = 0 ∧ s.mgt.tap = 1 ∧ s.mem = [] ∧ s.cores = [] ∧ s.qps = [] ∧ s.frozen = [] ∧
  s.pending = [] ∧ s.meas.length = 4 ∧ s.meas.drop 1 = [0, 0, 0] ∧
  (∀ cls idx, cls < 139 → idx < 256 → (winPermits s cls idx 7 0 64 kRead = true ↔ idx = 0))

/-- The invariants of `EveryStepKeepsCanonical` and `EveryStepKeepsRunNumbers` hold after reset. -/
def Obligations.CanonicalAfterReset : Prop :=
  Canonical State.reset ∧ ∀ c, Numbered (State.reset.core c)

/-- An invariant of every step: the canonical form of local memory and of the register store. What an unlisted byte reads as is log 2. -/
def Obligations.EveryStepKeepsCanonical : Prop :=
  ∀ s t : State, Canonical s → step s = .next t → Canonical t

/-- An invariant of every step, on which the statements about instructions of units rest. The numbers are the model's own (log 73). -/
def Obligations.EveryStepKeepsRunNumbers : Prop :=
  ∀ s t : State, (∀ c, Numbered (s.core c)) → step s = .next t → ∀ c, Numbered (t.core c)

/-- Every command ends in a next state and leaves the waiting commands and the grade alone, so commands are served first in, first
out, and none stops the device. That units held in reset ignore commands is the model's choice (log 72). -/
def Obligations.EveryCommandKeepsTheQueue : Prop :=
  ∀ (c : Instr) (s : State), ∃ t, exec c s = .next t ∧ t.pending = s.pending ∧ t.grade = s.grade ∧
    (always c = false → s.live = false → t = s)

/-- R7, R8, R19, R459: the write of a register that stores, by the access types of its fields, and what a write at a unit at rest is. That
an access wakes a unit out of holiday, and is held in standby, is the model's reading (log 142). -/
def Obligations.PlainRegisterWrite : Prop :=
  ∀ (cls sub off : Nat) (bs : List Byte) (s : State) (r : RegAt), Admits ⟨cls, sub⟩ off bs.length s → inSecWindow off = false →
    regAt off = some r → bs.length * 8 = r.desc.width → blkPresent s.grade r = true →
    (atRest r s = true → s.bit PWR_STATUS PWR_STATUS_standby = true → exec (.registerWrite cls sub off bs) s = .next s) ∧
    (atRest r s = true → s.bit PWR_STATUS PWR_STATUS_standby = false → atRest r (rouseReg r s) = false ∧
      exec (.registerWrite cls sub off bs) s = exec (.registerWrite cls sub off bs) (rouseReg r s) ∧
      (∀ v, bs = leBytes (regBytes off) v → writeOwn ⟨cls, sub⟩ off v s = writeOwn ⟨cls, sub⟩ off v (rouseReg r s))) ∧
    (atRest r s = false → r.desc.hasRwl = true → s.committed = true ∨ s.str.next.isSome = true → ∃ t, exec (.registerWrite cls sub off bs) s = .next t ∧
      RegsBut (STR_ERR :: recordRegs) s t ∧ t.bit STR_ERR STR_ERR_rwl_locked = true ∧ t.mem = s.mem ∧ t.cores = s.cores ∧
      (LogOpen s → HasRecord s t 0x8802 0 3 off cls (s.fld STR_EPOCH STR_EPOCH_current) 0)) ∧
    (atRest r s = false → (r.desc.hasRwl = true → s.committed = false ∧ s.str.next = none) → regAction ⟨cls, sub⟩ r off (BitVec.ofNat 64 (leNat bs)) = none →
      ∃ t, exec (.registerWrite cls sub off bs) s = .next t ∧ t = { s with regs := t.regs } ∧ RegsBut [off] s t ∧
        (∀ f ∈ r.desc.flds,
          let fl : Fld := ⟨f.hi, f.lo⟩
          let v := BitVec.ofNat 64 (leNat bs)
          fget fl (t.reg off) = match f.acc with
            | .rw => fget fl v
            | .rwl => fget fl v
            | .w1c => fget fl (s.reg off &&& ~~~v)
            | .ro => fget fl (s.reg off)
            | .wo => fget fl (s.reg off)))

/-- R7: discarded writes. -/
def Obligations.DiscardedRegisterWrites : Prop :=
  ∀ (cls sub off : Nat) (bs : List Byte) (s : State), Admits ⟨cls, sub⟩ off bs.length s → inSecWindow off = false →
    (∀ r, regAt off = some r → bs.length * 8 ≠ r.desc.width) → exec (.registerWrite cls sub off bs) s = .next s

/-- R3: registers of absent units. -/
def Obligations.AbsentUnitsReadZeroAndIgnoreWrites : Prop :=
  ∀ (off : Nat) (s : State) (r : RegAt), regAt off = some r → blkPresent s.grade r = false → inSecWindow off = false →
    readReg s off = 0 ∧
    ∀ (cls sub : Nat) (bs : List Byte), Admits ⟨cls, sub⟩ off bs.length s → exec (.registerWrite cls sub off bs) s = .next s

/-- R367, R401, R425, R428: over every register and every value written, a refused master cannot change a register beyond the record of the violation. -/
def Obligations.RefusedWritesOnlyFreezeAndRecord : Prop :=
  ∀ (cls sub off : Nat) (bs : List Byte) (s : State), s.live = true → inMmio (mmioBase + off) = true →
    (let m : Mst := ⟨cls, sub⟩
     (pathFrozen s m off = true → ∃ t, exec (.registerWrite cls sub off bs) s = .next t ∧
       RegsBut (HMN_VIOLATIONS :: recordRegs) s t ∧ t.mem = s.mem ∧ t.cores = s.cores ∧ t.qps = s.qps ∧ t.windows = s.windows) ∧
     (cls = 138 → s.isFrozen m = true → exec (.registerWrite cls sub off bs) s = .next s) ∧
     (mute s m = true → exec (.registerWrite cls sub off bs) s = .next s) ∧
     (pathFrozen s m off = false → mute s m = false →
       (permitted s cls s.devId (mmioBase + off) bs.length kMmio = false ∨ writeBarred s m off bs.length = true) →
       ∃ t, exec (.registerWrite cls sub off bs) s = .next t ∧
         RegsBut ([HMN_VIOL, HMN_VIOL_ADDR, HMN_VIOLATIONS] ++ recordRegs) s t ∧ t.isFrozen m = true ∧
         (∀ n, n ≠ m → t.isFrozen n = s.isFrozen n) ∧ Raised 1 t ∧
         t.fld HMN_VIOL HMN_VIOL_code =
           (if permitted s cls s.devId (mmioBase + off) bs.length kMmio = false then 0x1001 else 0x1006) ∧
         t.fld HMN_VIOL HMN_VIOL_class = cls % 256 ∧ t.fld HMN_VIOL HMN_VIOL_sub = sub % 2 ^ 14 ∧
         t.reg HMN_VIOL_ADDR = BitVec.ofNat 64 (s.devId * 2 ^ 48 + mmioBase + off) ∧
         t = { s with regs := t.regs, frozen := t.frozen, sram := t.sram, msix := t.msix, scheds := t.scheds }))

/-- R389, R391, R392: a take of an offered item, a done of a running item, a yield of a pre-empted one, by the control core itself; what
each leaves alone. -/
def Obligations.SchedulerAcknowledge : Prop :=
  ∀ (c : Nat) (s : State) (z : Slot), c < 8 → MayWrite (ctrlMst c) (SCH_ACK c) s → s.slot c = some z →
    (z.taken = false → ∃ t z', exec (.schTake c) s = .next t ∧ t = { s with regs := t.regs, scheds := t.scheds } ∧
      t.slot c = some z' ∧ z'.taken = true ∧ z'.preempt = z.preempt ∧ z'.item = { z.item with serving := true } ∧
      t.reg (SCH_DISPATCHES (c / 2)) = s.reg (SCH_DISPATCHES (c / 2)) + 1 ∧ RegsBut [SCH_DISPATCHES (c / 2)] s t ∧
      (∀ k, k ≠ c → t.slot k = s.slot k) ∧ (∀ f, (t.sched f).ready = (s.sched f).ready ∧ (t.sched f).tt = (s.sched f).tt)) ∧
    (z.taken = true → ∃ t, exec (.schDone c) s = .next t ∧ t = { s with scheds := t.scheds } ∧ t.slot c = none ∧
      (∀ k, k ≠ c → t.slot k = s.slot k)) ∧
    (z.taken = true → z.preempt = true → ∃ t, exec (.schYield c) s = .next t ∧ t = { s with scheds := t.scheds } ∧
      t.slot c = none ∧ (∀ k, k ≠ c → t.slot k = s.slot k) ∧
      (t.sched (c / 2)).ready = { z.item with resumed := true, serving := true } :: (s.sched (c / 2)).ready ∧
      (∀ f, f ≠ c / 2 → t.sched f = s.sched f))

/-- R393: the acknowledgements that do not fit. -/
def Obligations.MisfitAcknowledgementFlagged : Prop :=
  ∀ (c : Nat) (s : State), c < 8 → MayWrite (ctrlMst c) (SCH_ACK c) s →
    ((∀ z, s.slot c = some z → z.taken = true) →
      exec (.schTake c) s = .next (s.setFld (SCH_ERR (c / 2)) SCH_ERR_ack_state 1)) ∧
    ((∀ z, s.slot c = some z → z.taken = false) →
      exec (.schDone c) s = .next (s.setFld (SCH_ERR (c / 2)) SCH_ERR_ack_state 1)) ∧
    ((∀ z, s.slot c = some z → z.taken = false ∨ z.preempt = false) →
      exec (.schYield c) s = .next (s.setFld (SCH_ERR (c / 2)) SCH_ERR_ack_state 1))

/-- R389, R394, R395, R397: posts and cancels by control core c. -/
def Obligations.SchedulerPostAndCancel : Prop :=
  ∀ (c w : Nat) (s : State), c < 8 →
    (MayWrite (ctrlMst c) (SCH_POST c) s →
      (let v : Word := BitVec.ofNat 64 w
       let f := fget SCH_POST_fold v
       let x := s.sched f
       let posted (t : State) (it : Item) : Prop :=
         it.level = fget SCH_POST_level v ∧ it.thread = fget SCH_POST_thread v ∧ it.arg = (s.reg (SCH_POST_ARG c)).toNat ∧
         it.flock = (if fbit SCH_POST_flock_en v then some (fget SCH_POST_flock v) else none) ∧ it.resumed = false ∧
         t.fld (SCH_POST_STATUS c) SCH_POST_STATUS_fold = f ∧
         t = { s with regs := t.regs, scheds := t.scheds } ∧ RegsBut [SCH_POST_STATUS c] s t ∧ (∀ g, g ≠ f → t.sched g = s.sched g)
       (fget SCH_POST_delay v = 0 → x.used < 8192 → ∃ t it, exec (.schPost c w) s = .next t ∧ posted t it ∧
          t.sched f = { x with ready := x.ready ++ [it], stalled := x.stalled.erase c } ∧ t.fld (SCH_POST_STATUS c) SCH_POST_STATUS_timetable = 0) ∧
       (0 < fget SCH_POST_delay v → ∀ i, x.freeTt = some i → ∃ t it, exec (.schPost c w) s = .next t ∧ posted t it ∧
          t.sched f = { x with tt := x.tt ++ [⟨i, (s.reg SCH_TICK).toNat + fget SCH_POST_delay v, it⟩], stalled := x.stalled.erase c } ∧
          t.fld (SCH_POST_STATUS c) SCH_POST_STATUS_timetable = 1 ∧ t.fld (SCH_POST_STATUS c) SCH_POST_STATUS_handle = i) ∧
       (x.stalled.contains c = false → (fget SCH_POST_delay v = 0 ∧ 8192 ≤ x.used) ∨ (0 < fget SCH_POST_delay v ∧ x.freeTt = none) →
          exec (.schPost c w) s = .next (((s.setSched f { x with stalled := c :: x.stalled }).count (SCH_STALLS f) 1).flag (SCH_ERR f) SCH_ERR_stall)) ∧
       (x.stalled.contains c = true → (fget SCH_POST_delay v = 0 ∧ 8192 ≤ x.used) ∨ (0 < fget SCH_POST_delay v ∧ x.freeTt = none) →
          exec (.schPost c w) s = .next s))) ∧
    (MayWrite (ctrlMst c) (SCH_CANCEL c) s →
      (let v : Word := BitVec.ofNat 64 (w % 2 ^ 32)
       let f := fget SCH_CANCEL_fold v
       let x := s.sched f
       let early := ∀ e ∈ x.tt, (s.reg SCH_TICK).toNat < e.due
       (∀ e, early → e ∈ x.tt → e.idx = fget SCH_CANCEL_handle v → ∃ t e', exec (.schCancel c w) s = .next t ∧ e' ∈ x.tt ∧
          e'.idx = fget SCH_CANCEL_handle v ∧ t.sched f = { x with tt := x.tt.erase e' } ∧
          t.fld (SCH_POST_STATUS c) SCH_POST_STATUS_cancel = 1 ∧ t = { s with regs := t.regs, scheds := t.scheds } ∧
          RegsBut [SCH_POST_STATUS c] s t ∧ (∀ g, g ≠ f → t.sched g = s.sched g)) ∧
       (early → (∀ e ∈ x.tt, e.idx ≠ fget SCH_CANCEL_handle v) → ∃ t, exec (.schCancel c w) s = .next t ∧
          t.fld (SCH_POST_STATUS c) SCH_POST_STATUS_cancel = 2 ∧ t = { s with regs := t.regs, scheds := t.scheds } ∧
          RegsBut [SCH_POST_STATUS c] s t ∧ ∀ g, t.sched g = s.sched g) ∧
       (∀ e, x.tt = [e] → e.due ≤ (s.reg SCH_TICK).toNat → x.used < 8192 → x.cut = false → ∃ t, exec (.schCancel c w) s = .next t ∧
          t.fld (SCH_POST_STATUS c) SCH_POST_STATUS_cancel = 2 ∧ RegsBut [SCH_POST_STATUS c] s t ∧
          t.sched f = { x with ready := x.ready ++ [{ e.item with handle := x.freeHandle }], tt := [] } ∧ ∀ g, g ≠ f → t.sched g = s.sched g)))

/-- R390, R391, R392, R394, R456: dispatch, pre-emption and Timetable expiry of Fold f, and what they leave alone. What stops with a cut
control complex is the model's reading (log 57). -/
def Obligations.SchedulerOffersTheFirstEligible : Prop :=
  ∀ (f : Nat) (s : State), s.live = true →
    (∀ it, fwState s = 3 → (s.sched f).chosen = some it → ((s.sched f).slot0 = none ∨ (s.sched f).slot1 = none) →
      ∃ t, exec (.dispatch f) s = .next t ∧ t = { s with scheds := t.scheds } ∧ (∀ g, g ≠ f → t.sched g = s.sched g) ∧
        it ∈ (s.sched f).ready ∧ (s.sched f).eligible it = true ∧
        (∀ o ∈ (s.sched f).ready, (s.sched f).eligible o = true → o.level ≤ it.level) ∧
        (∃ pre post, (s.sched f).ready = pre ++ it :: post ∧ ∀ o ∈ pre, (s.sched f).eligible o = true → o.level < it.level) ∧
        (t.sched f).ready = (s.sched f).ready.filter (fun q => decide (q.handle ≠ it.handle)) ∧
        (if (s.sched f).slot0 = none then (t.sched f).slot0 = some { item := it } ∧ (t.sched f).slot1 = (s.sched f).slot1
         else (t.sched f).slot1 = some { item := it } ∧ (t.sched f).slot0 = (s.sched f).slot0)) ∧
    (∀ it a b, (s.sched f).chosen = some it → (s.sched f).slot0 = some a → (s.sched f).slot1 = some b → a.taken = true →
      b.taken = true → s.fld (SCH_CFG f) SCH_CFG_preempt_en = 1 → s.fld (SCH_CFG f) SCH_CFG_preempt_min ≤ it.level →
      (a.item.level < b.item.level ∨ (a.item.level = b.item.level ∧ b.serial ≤ a.serial) →
        a.item.level < it.level → a.preempt = false →
        exec (.preempt f) s = .next ((s.setSched f { s.sched f with slot0 := some { a with preempt := true } }).wide (SCH_PREEMPTS f) 1)) ∧
      (b.item.level < a.item.level ∨ (a.item.level = b.item.level ∧ a.serial < b.serial) →
        b.item.level < it.level → b.preempt = false →
        exec (.preempt f) s = .next ((s.setSched f { s.sched f with slot1 := some { b with preempt := true } }).wide (SCH_PREEMPTS f) 1))) ∧
    ((s.sched f).cut = true → exec (.timetableExpiry f) s = .next s) ∧
    ((s.sched f).cut = false → ∃ t, exec (.timetableExpiry f) s = .next t ∧ t = { s with scheds := t.scheds } ∧ (∀ g, g ≠ f → t.sched g = s.sched g) ∧
      (∀ e ∈ (t.sched f).tt, e ∈ (s.sched f).tt ∧ (e.due ≤ (s.reg SCH_TICK).toNat → 8192 ≤ (t.sched f).used)) ∧
      (∃ (l : List Item) (m : List TtEnt), (t.sched f).ready = (s.sched f).ready ++ l ∧ l.length + (t.sched f).tt.length = (s.sched f).tt.length ∧
        (∀ e ∈ m, e ∈ (s.sched f).tt) ∧ l.map (fun q => { q with handle := 0 }) = m.map (fun e => { e.item with handle := 0 }) ∧
        m.Pairwise (fun a b => a.due ≤ b.due) ∧
        ∀ d, (m.filter (fun e => decide (e.due = d))).isPrefixOf ((s.sched f).tt.filter (fun e => decide (e.due = d))) = true) ∧
      (t.sched f).slot0 = (s.sched f).slot0 ∧ (t.sched f).slot1 = (s.sched f).slot1)

/-- R397 to R401, R443: the firmware load, kernel_ready, the clearing of SCH_STALLS and the reset by SCH_RESET. That SCH_ERR.fw_write is
set in every Fold is the model's choice (log 61), as is that on-die memory reads 0 after the reset (log 2). -/
def Obligations.FirmwareLoadAndReset : Prop :=
  ∀ (cls sub : Nat) (s : State),
    (∀ len, len < 2 ^ 32 → MayWrite ⟨cls, sub⟩ SCH_FW_LOAD s →
      (fwState s = 1 → ∃ t, exec (.schFwLoad cls sub len) s = .next t ∧ t = { s with regs := t.regs } ∧ fwState t = 2 ∧
        t.fld SCH_FW_STATUS SCH_FW_STATUS_attempts = min 255 (s.fld SCH_FW_STATUS SCH_FW_STATUS_attempts + 1) ∧
        t.reg SCH_FW_LOAD = BitVec.ofNat 64 len ∧ RegsBut [SCH_FW_STATUS, SCH_FW_LOAD] s t) ∧
      (fwState s ≠ 1 → ∃ t, exec (.schFwLoad cls sub len) s = .next t ∧ t = { s with regs := t.regs } ∧
        (∀ f, f < 4 → t.reg (SCH_ERR f) = fset SCH_ERR_fw_write 1 (s.reg (SCH_ERR f))) ∧
        RegsBut [SCH_ERR 0, SCH_ERR 1, SCH_ERR 2, SCH_ERR 3] s t)) ∧
    (s.live = true → fwState s = 2 →
      (let r := imageCheck (s.reg SCH_FW_LOAD).toNat (svnFloor s) (s.readMem 0 (min (s.reg SCH_FW_LOAD).toNat 0x2000000)).1
       ∃ t, exec .fwVerifyDone s = .next t ∧ fwState t = (if r.1 = 0 then 3 else 1) ∧
         t.fld SCH_FW_STATUS SCH_FW_STATUS_last_status = r.1 ∧ t.mem = s.mem ∧ t.cores = s.cores ∧
         (r.1 ≠ 0 → t.fld SCH_FW_STATUS SCH_FW_STATUS_last_reason = r.2 ∧ t.meas = s.meas ∧ t.sec = s.sec))) ∧
    (∀ c, c < 8 → MayWrite (ctrlMst c) SCH_FW_STATUS s → ∃ t, exec (.kernelReady c) s = .next t ∧
      t.fld SCH_FW_STATUS SCH_FW_STATUS_kernel_ready = 1 ∧ fwState t = fwState s) ∧
    (∀ f, f < 4 → MayWrite ⟨cls, sub⟩ (SCH_CTRL f) s → ∃ t, exec (.schClearCounts cls sub f) s = .next t ∧
      t = { s with regs := t.regs } ∧ t.fld (SCH_STALLS f) SCH_STALLS_count = 0 ∧ t.fld (SCH_STALLS f) SCH_STALLS_saturated = 0 ∧
      RegsBut [SCH_STALLS f] s t) ∧
    (MayWrite ⟨cls, sub⟩ SCH_RESET s → s.sec.blow = none → ∃ t, exec (.schReset cls sub) s = .next t ∧ fwState t = 0 ∧
      t.cores = [] ∧ t.qps = [] ∧ t.scheds = [] ∧ t.links = [] ∧ t.frozen = [] ∧ t.pending = s.pending ∧
      t.reg SCH_TICK = s.reg SCH_TICK ∧ t.reg SEC_FUSE = s.reg SEC_FUSE ∧ t.fld GLB_PRIVILEGE_OWNER GLB_PRIVILEGE_OWNER_port = 0 ∧
      (∀ a, 0x4000000 ≤ a → a < 0x8000000000 → t.byte a = s.byte a) ∧ (∀ a, 0x8000000000 ≤ a → t.byte a = 0))

/-- R447, R448, R449, R453: attestation by the mailbox. The signature and the certificates are opaque (log 30); the nonce bytes of GET_MEAS are
free values (log 3); that the response in the window includes its header is the model's reading (log 62). -/
def Obligations.AttestationByMailbox : Prop :=
  (∀ (cls sub : Nat) (s : State), MayWrite ⟨cls, sub⟩ SEC_CMD s → s.bit SEC_STATUS SEC_STATUS_busy = false →
    (let answered (t : State) (code status : Nat) (b : List Byte) : Prop :=
       (windowBytes t 0 8192).take (secMessage code status b).length = (secMessage code status b).take 8192 ∧
       t.fld SEC_STATUS SEC_STATUS_status = status ∧ t.fld SEC_STATUS SEC_STATUS_length = (secMessage code status b).length % 2 ^ 16 ∧
       t = { s with regs := t.regs, sec := t.sec, free := t.free } ∧ RegsBut [SEC_STATUS] s t ∧ t.sec.challenge = s.sec.challenge
     (∀ nonce, ∃ t, exec (.getReport (.mailbox cls sub) nonce) s = .next t ∧ t.free = s.free + 1 ∧
       (let b := reportBody s (windowBytes s 0 32)
        answered t 1 0 (b ++ leBytes 3309 (Config.sign s.free b).toNat))) ∧
     (∀ idx, idx < 2 ^ 16 → ∃ t, exec (.getCert (.mailbox cls sub) idx) s = .next t ∧ t.free = s.free ∧
       (if idx ≤ 2 then answered t 2 0 (Config.certificate idx) else answered t 2 0x02 [])) ∧
     (∃ t, exec (.getMeas (.mailbox cls sub)) s = .next t ∧
       answered t 3 0 (reportBody s ((rangeFrom 0 32).map (Config.freeByte s.free)))))) ∧
  (∀ (cls sub off : Nat) (bs : List Byte) (s : State), Admits ⟨cls, sub⟩ off 8 s → inSecWindow off = true → bs.length = 8 →
    (s.bit SEC_STATUS SEC_STATUS_busy = false → ∃ t, exec (.registerWrite cls sub off bs) s = .next t ∧ t = { s with sec := t.sec } ∧
      windowBytes t (off - 0x3402000) 8 = bs ∧ (∀ i, i ≠ (off - 0x3402000) / 8 → t.secWord i = s.secWord i) ∧
      t.sec.challenge = s.sec.challenge ∧ t.sec.blow = s.sec.blow ∧ readReg t off = BitVec.ofNat 64 (leNat bs)) ∧
    (s.bit SEC_STATUS SEC_STATUS_busy = true → exec (.registerWrite cls sub off bs) s = .next (s.flag SEC_ERR SEC_ERR_busy_write))) ∧
  (∀ (cls sub v : Nat) (s : State), MayWrite ⟨cls, sub⟩ SEC_CMD s → s.bit SEC_STATUS SEC_STATUS_busy = true →
    exec (.registerWrite cls sub SEC_CMD (leBytes (regBytes SEC_CMD) v)) s = .next (s.flag SEC_ERR SEC_ERR_busy_write) ∧
    ∀ (nonce key sig : List Byte) (idx : Nat) (i : Instr), idx < 2 ^ 16 → i ∈ [Instr.getReport (.mailbox cls sub) nonce, .getCert (.mailbox cls sub) idx,
        .getMeas (.mailbox cls sub), .svnCommit cls sub, .jtagChallenge (.mailbox cls sub), .jtagResponse (.mailbox cls sub) key sig] →
      exec i s = .next (s.flag SEC_ERR SEC_ERR_busy_write))

/-- R447 to R450, R476: attestation by DOE and by the sideband, and DOE discovery. The form of a discovery answer is the standard's (log 64). -/
def Obligations.AttestationByDoeAndSideband : Prop :=
  ∀ (s : State),
    (∀ p, p < 2 → s.live = true → portOff s p = false →
      (∀ nonce, let b := reportBody s nonce
        exec (.getReport (.doe p) nonce) s =
          .next { s with free := s.free + 1, answer := secMessage 1 0 (b ++ leBytes 3309 (Config.sign s.free b).toNat) }) ∧
      (∀ idx, exec (.getCert (.doe p) idx) s =
        .next { s with answer := if idx ≤ 2 then secMessage 2 0 (Config.certificate idx) else secMessage 2 0x02 [] }) ∧
      (∃ b, exec (.getMeas (.doe p)) s = .next { s with free := s.free + 1, answer := secMessage 3 0 b } ∧
        b.drop 48 = (reportBody s []).drop 48) ∧
      (exec (.doeDiscovery p 0) s = .next { s with answer := [1, 0, 0, 1] }) ∧
      (∀ idx, 0 < idx → exec (.doeDiscovery p idx) s = .next { s with answer := leBytes 2 Config.vendorId.toNat ++ [1, 0] })) ∧
    (∀ p idx, p < 2 → s.live = false ∨ portOff s p = true → exec (.doeDiscovery p idx) s = .next s) ∧
    (∀ smbus, s.vioDown = false → (s.fld MGT_STATUS MGT_STATUS_mode = 0 ∨ s.fld MGT_STATUS MGT_STATUS_mode = busMode ⟨smbus, true, none⟩) →
      (∀ nonce, ∃ t, exec (.getReport (.sideband ⟨smbus, true, none⟩) nonce) s = .next t ∧ RegsBut [MGT_STATUS, MGT_MESSAGES] s t ∧
        t = { s with regs := t.regs, free := s.free + 1, answer := t.answer, mgt := { s.mgt with packets := chunksOf 64 t.answer } } ∧
        t.fld MGT_STATUS MGT_STATUS_mode = busMode ⟨smbus, true, none⟩ ∧ t.reg MGT_MESSAGES = s.reg MGT_MESSAGES + 1 ∧
        (let b := reportBody s nonce
         t.answer = secMessage 1 0 (b ++ leBytes 3309 (Config.sign s.free b).toNat))) ∧
      (∀ idx, ∃ t, exec (.getCert (.sideband ⟨smbus, true, none⟩) idx) s = .next t ∧ RegsBut [MGT_STATUS, MGT_MESSAGES, MGT_ERR] s t ∧
        (idx ≤ 2 → t.reg MGT_ERR = s.reg MGT_ERR) ∧ (2 < idx → t.bit MGT_ERR MGT_ERR_malformed = true) ∧
        t = { s with regs := t.regs, answer := t.answer, mgt := { s.mgt with packets := chunksOf 64 t.answer } } ∧ t.reg MGT_MESSAGES = s.reg MGT_MESSAGES + 1 ∧
        t.answer = if idx ≤ 2 then secMessage 2 0 (Config.certificate idx) else secMessage 2 0x02 []) ∧
      (∃ t, exec (.getMeas (.sideband ⟨smbus, true, none⟩)) s = .next t ∧ RegsBut [MGT_STATUS, MGT_MESSAGES] s t ∧
        t = { s with regs := t.regs, free := s.free + 1, answer := t.answer, mgt := { s.mgt with packets := chunksOf 64 t.answer } } ∧ t.reg MGT_MESSAGES = s.reg MGT_MESSAGES + 1 ∧
        ∃ b, t.answer = secMessage 3 0 b ∧ b.drop 48 = (reportBody t []).drop 48))

/-- R444, R453: the anti-rollback floor. -/
def Obligations.RollbackFloorRises : Prop :=
  ∀ (cls sub : Nat) (s : State),
    (MayWrite ⟨cls, sub⟩ SEC_CMD s → s.bit SEC_STATUS SEC_STATUS_busy = false → fwState s = 3 → ∀ v, s.sec.fwSvn = some v →
      ∃ t, exec (.svnCommit cls sub) s = .next t ∧ t = { s with regs := t.regs, sec := t.sec } ∧ RegsBut [SEC_STATUS] s t ∧
        (v ≤ svnFloor s → t.sec.blow = s.sec.blow ∧ t.fld SEC_STATUS SEC_STATUS_status = 0 ∧ t.fld SEC_STATUS SEC_STATUS_length = 4 ∧
          t.bit SEC_STATUS SEC_STATUS_busy = false) ∧
        (svnFloor s < v → t.sec = { s.sec with blow := some v } ∧ t.bit SEC_STATUS SEC_STATUS_busy = true)) ∧
    (∀ v, s.sec.blow = some v → svnFloor s < v → v ≤ 64 → ∃ t, exec .fuseStepBlown s = .next t ∧
      svnFloor t = svnFloor s + 1 ∧ t.pending = s.pending ∧
      (s.sec.heldReset = none → t.mem = s.mem ∧ t.cores = s.cores ∧
        (svnFloor s + 1 < v → t.sec = s.sec) ∧
        (svnFloor s + 1 = v → t.sec.blow = none ∧ t.bit SEC_STATUS SEC_STATUS_busy = false ∧ t.fld SEC_STATUS SEC_STATUS_status = 0)) ∧
      (s.sec.heldReset ≠ none → fwState t = 0 ∧ t.sec = {} ∧ t.cores = [] ∧ t.qps = []))

/-- R451, R452, R453: challenge, response, expiry, and a security fault. The random bytes and the verification are opaque (log 30). -/
def Obligations.TestAccessUnlock : Prop :=
  ∀ (s : State),
    let accepts (key sig : List Byte) : Bool := s.sec.challenge.any (fun c => decide (Config.shake256 key = Config.debugHash) &&
      Config.verifies key (leBytes 32 c.toNat ++ leBytes 16 Config.serial.toNat) sig)
    (s.mgt.tap = 0x40 →
      (∃ t, exec (.jtagChallenge .tap) s = .next t ∧ t.sec = { s.sec with challenge := some (Config.challenge s.free) } ∧
        t.bit SEC_STATUS SEC_STATUS_challenge = true ∧ RegsBut [SEC_STATUS] s t ∧
        t = { s with regs := t.regs, sec := t.sec, free := s.free + 1, answer := t.answer } ∧
        t.answer = secMessage 0x11 0 (leBytes 32 (Config.challenge s.free).toNat ++ leBytes 16 Config.serial.toNat)) ∧
      (∀ key sig, ∃ t, exec (.jtagResponse .tap key sig) s = .next t ∧ t.sec.challenge = none ∧ t.mem = s.mem ∧ t.cores = s.cores ∧
        t.bit SEC_STATUS SEC_STATUS_unlocked = (s.bit SEC_STATUS SEC_STATUS_unlocked || accepts key sig) ∧
        t.bit SEC_ERR SEC_ERR_jtag_refused = (s.bit SEC_ERR SEC_ERR_jtag_refused || !accepts key sig))) ∧
    (∀ cls sub, MayWrite ⟨cls, sub⟩ SEC_CMD s → s.bit SEC_STATUS SEC_STATUS_busy = false →
      (∃ t, exec (.jtagChallenge (.mailbox cls sub)) s = .next t ∧ t.sec.challenge = some (Config.challenge s.free) ∧
        t.bit SEC_STATUS SEC_STATUS_challenge = true ∧ t.fld SEC_STATUS SEC_STATUS_length = 52 ∧ RegsBut [SEC_STATUS] s t ∧
        t = { s with regs := t.regs, sec := t.sec, free := s.free + 1 }) ∧
      (∀ key sig, ∃ t, exec (.jtagResponse (.mailbox cls sub) key sig) s = .next t ∧ t.sec.challenge = none ∧ t.mem = s.mem ∧
        t.bit SEC_STATUS SEC_STATUS_unlocked =
          (s.bit SEC_STATUS SEC_STATUS_unlocked || accepts (windowBytes s 0 1952) (windowBytes s 1952 3309)) ∧
        t.bit SEC_ERR SEC_ERR_jtag_refused =
          (s.bit SEC_ERR SEC_ERR_jtag_refused || !accepts (windowBytes s 0 1952) (windowBytes s 1952 3309)))) ∧
    (∃ t, exec .challengeExpiry s = .next t ∧ t = { s with regs := t.regs, sec := { s.sec with challenge := none } } ∧
      t.bit SEC_STATUS SEC_STATUS_challenge = false ∧ RegsBut [SEC_STATUS] s t) ∧
    (∀ check, ∃ t, exec (.securityFault check) s = .next t ∧ Raised 0 t ∧ t.flush ≠ none ∧
      (s.flush = none → t.fld LOG_STATUS LOG_STATUS_last_flush = s.fld LOG_STATUS LOG_STATUS_last_flush ∧ t.bit LOG_STATUS LOG_STATUS_flushing = true) ∧
      (LogOpen s → HasRecord s t 0x3301 0 0 check 0 0 0) ∧ RegsBut (LOG_STATUS :: recordRegs) s t ∧ t.mem = s.mem ∧ t.cores = s.cores)

/-- R400, R431, R436, R455, R475: power-on, the rails, the reset pin. That the PLLs run locked when the rails are good is the model's choice (log
56). -/
def Obligations.PowerOnRailsAndDeviceReset : Prop :=
  ∀ (s : State),
    (∃ t, exec .powerOn s = .next t ∧ t.released = false ∧ t.mem = [] ∧ t.cores = [] ∧ t.qps = [] ∧ t.sram = [] ∧ t.mram = s.mram ∧
      t.powerFailed = false ∧ t.pending = s.pending ∧ t.grade = s.grade ∧
      t.reg LOG_POWER_CYCLES = s.reg LOG_POWER_CYCLES + 1 ∧ t.reg LOG_HOURS = s.reg LOG_HOURS ∧ t.reg SEC_FUSE = s.reg SEC_FUSE ∧
      t.reg SCH_TICK = 0 ∧ t.bit THM_STATUS THM_STATUS_tripped = false ∧ t.thermTrip = false ∧ t.bit PWR_STATUS PWR_STATUS_rails_good = false) ∧
    (∃ t, exec .railsGood s = .next t ∧ t.released = true ∧ t.bit PWR_STATUS PWR_STATUS_rails_good = true ∧
      t = { s with regs := t.regs, released := true } ∧ RegsBut [PWR_STATUS, CLK_STATUS] s t ∧
      (s.released = true → t.reg CLK_STATUS = s.reg CLK_STATUS) ∧
      (s.released = false → t.fld CLK_STATUS CLK_STATUS_core = coreMask s.grade ∧ t.bit CLK_STATUS CLK_STATUS_fabric = true ∧
        t.bit CLK_STATUS CLK_STATUS_control = true)) ∧
    (s.sysRst = false → s.sec.blow = none → ∃ t, exec (.sysRstN true) s = .next t ∧ t.sysRst = true ∧ fwState t = 0 ∧ t.cores = [] ∧
      t.qps = [] ∧ t.links = [] ∧ t.reg SCH_TICK = s.reg SCH_TICK ∧ t.reg SEC_FUSE = s.reg SEC_FUSE ∧ t.mram = s.mram ∧ t.flush ≠ none ∧
      (∀ a, 0x4000000 ≤ a → a < 0x8000000000 → t.byte a = s.byte a)) ∧
    (s.sysRst = false → s.sec.blow ≠ none → ∃ t, exec (.sysRstN true) s = .next t ∧
      t = { s with sysRst := true, sec := { s.sec with heldReset := some 0xFF } })

/-- R366, R419, R436, R455, R456, R460: fatal faults of the supply. That the units run on after a rail fault, the free parameters of its record
and the rail that it names are log 6, and what a cut domain means for its unit is log 57: the model's choices. -/
def Obligations.SupplyFaultsAreFatal : Prop :=
  ∀ (s : State),
    let fatal (t : State) : Prop := Raised 3 t ∧ t.flush ≠ none ∧ t.mem = s.mem ∧ t.qps = s.qps ∧ t.links = s.links
    let word (k : Nat) : Nat := (Config.freeWord (s.free + k)).toNat % 2 ^ 32
    (∃ t, exec .railFault s = .next t ∧ t.bit PWR_STATUS PWR_STATUS_rails_good = false ∧ t.cores = s.cores ∧ t.mem = s.mem ∧
      (s.vioDown = true → t.vioDown = true) ∧ RegsBut (PWR_STATUS :: LOG_STATUS :: recordRegs) s t ∧
      (s.live = true → fatal t ∧ (LogOpen s → HasRecord s t 0x2008 0 1 (word 1) (word 2) (word 3) (word 4))) ∧
      (s.live = false → RegsBut [PWR_STATUS] s t ∧ t.flush = s.flush ∧ t.msix = s.msix)) ∧
    (s.live = true → ∀ kind inst fault, ∃ t, exec (.regulatorFault kind inst fault) s = .next t ∧ fatal t ∧
      RegsBut (LOG_STATUS :: recordRegs) s t ∧ (LogOpen s → HasRecord s t 0x2008 0 1 (word 0) inst fault 0) ∧
      (kind = 0 → s.has .core inst = true → (t.core inst) = { s.core inst with cut := true } ∧ ∀ c, c ≠ inst → t.core c = s.core c) ∧
      (kind ≠ 0 → kind ≠ 2 → kind ≠ 5 → t.cores = s.cores) ∧ (kind = 1 → s.has .drover inst = true → (t.drover inst).rest = 3) ∧
      (kind = 3 → s.has .coll inst = true → (t.engine inst).rest = 3) ∧ (kind = 4 → s.has .trh inst = true → (t.trh inst).rest = 3) ∧
      (kind = 2 → inst < 4 → (t.sched inst).cut = true ∧ (s.has .drover inst = true → (t.drover inst).rest = 3) ∧
        ∀ c, c < 32 → s.has .core c = true → (t.core c).cut = (decide (c / 8 = inst) || (s.core c).cut)) ∧
      (kind = 5 → inst < 2 → inst ∈ t.fabricCut ∧ (∀ f, f / 2 = inst → (t.sched f).cut = true) ∧
        ∀ c, c < 32 → s.has .core c = true → (t.core c).cut = (decide (c / 16 = inst) || (s.core c).cut)) ∧
      (kind = 5 → 2 ≤ inst → inst < 4 → inst ∈ t.fabricCut ∧ t.cores = s.cores ∧ (s.has .coll (inst - 2) = true → (t.engine (inst - 2)).rest = 3) ∧
        (s.has .trh (inst - 2) = true → (t.trh (inst - 2)).rest = 3))) ∧
    (s.live = true → ∀ kind inst, ∃ t, exec (.pllLossOfLock kind inst) s = .next t ∧ fatal t ∧ t.cores = s.cores ∧
      RegsBut (CLK_STATUS :: LOG_STATUS :: recordRegs) s t ∧ (LogOpen s → HasRecord s t 0x2009 0 1 kind inst 0 0) ∧
      (kind = 1 → inst < 32 → bitOf (t.reg CLK_STATUS).toNat inst = false ∧
        ∀ c, c ≠ inst → c < 32 → bitOf (t.reg CLK_STATUS).toNat c = bitOf (s.reg CLK_STATUS).toNat c) ∧
      (kind = 2 → t.bit CLK_STATUS CLK_STATUS_fabric = false) ∧ (kind = 3 → t.bit CLK_STATUS CLK_STATUS_control = false))

/-- R457 to R459: recess, holiday and standby. That an idle core, and an engine that has had no work, take their holiday too is the model's
reading (log 152), as is that a stack whose training standby broke off trains again (log 57). `releaseRecs` writes the records that R299 held. -/
def Obligations.StandbyAndHoliday : Prop :=
  ∀ (cls sub : Nat) (s : State),
    (MayWrite ⟨cls, sub⟩ PWR_CTRL s →
      ((∃ n, n < 16384 ∧ qpEnabled s n = true) → exec (.standbyEnter cls sub) s = .next (s.setFld PWR_ERR PWR_ERR_busy_write 1)) ∧
      ((∀ n, n < 16384 → qpEnabled s n = false) → ∃ t, exec (.standbyEnter cls sub) s = .next t ∧
        t = { s with regs := t.regs, cores := t.cores, drovers := t.drovers, engines := t.engines, trhs := t.trhs, untrained := t.untrained } ∧
        t.bit PWR_STATUS PWR_STATUS_standby = true ∧ t.bit PWR_CTRL PWR_CTRL_standby = true ∧
        (∀ c, c < 32 → s.has .core c = true → (t.core c).state = .holiday) ∧
        (∀ d, d < 4 → s.has .drover d = true → 2 ≤ (t.drover d).rest) ∧
        (∀ p, p < 8 → s.has .stack p = true → t.fld (MEM_STATUS p) MEM_STATUS_state =
          (if s.fld (MEM_STATUS p) MEM_STATUS_state ≤ 1 then 3 else s.fld (MEM_STATUS p) MEM_STATUS_state) ∧
          (s.fld (MEM_STATUS p) MEM_STATUS_state = 0 → p ∈ t.untrained)))) ∧
    (s.live = true → s.bit PWR_STATUS PWR_STATUS_standby = true → ∃ t, exec .standbyExit s = .next (releaseRecs t) ∧
      t = { s with regs := t.regs, cores := t.cores, drovers := t.drovers, engines := t.engines, trhs := t.trhs, untrained := [] } ∧
      t.bit PWR_STATUS PWR_STATUS_standby = false ∧
      (∀ c, c < 32 → s.has .core c = true → (s.core c).state = .holiday → (t.core c).state = (s.core c).slept) ∧
      (∀ p, p < 8 → s.has .stack p = true → s.fld (MEM_STATUS p) MEM_STATUS_state = 3 →
        t.fld (MEM_STATUS p) MEM_STATUS_state = if s.untrained.contains p then 0 else 1)) ∧
    (s.live = true → ∀ c st, s.has .core c = true → (s.core c).state = st → st = .recess ∨ st = .idle → s.fld PWR_IDLE PWR_IDLE_core_us ≠ 0 →
      ((s.core c).inbox ≠ [] ∨ (s.core c).starting.isSome = true → exec (.holidayEntry 0 c) s = .next s) ∧
      ((s.core c).inbox = [] → (s.core c).starting = none → exec (.holidayEntry 0 c) s = .next (s.setCore c { s.core c with state := .holiday, slept := st }))) ∧
    (s.live = true → s.fld PWR_IDLE PWR_IDLE_engine_us ≠ 0 →
      (∀ d, s.has .drover d = true → (s.drover d).rest = 1 ∨ (s.drover d).settle.rest = 1 →
        exec (.holidayEntry 1 d) s = .next (s.setDrover d { s.drover d with rest := 2 })) ∧
      (∀ n, s.has .coll n = true → (s.engine n).rest = 1 ∨ (s.engine n).settle.rest = 1 →
        exec (.holidayEntry 2 n) s = .next (s.setEngine n { s.engine n with rest := 2 })) ∧
      (∀ n, s.has .trh n = true → (s.trh n).rest = 1 ∨ (s.trh n).settle.rest = 1 → exec (.holidayEntry 3 n) s = .next (s.setTrh n { s.trh n with rest := 2 }))) ∧
    (s.live = true → s.bit PWR_STATUS PWR_STATUS_standby = false →
      (∀ c, s.has .core c = true → (s.core c).state = .holiday → exec (.holidayWake 0 c) s = .next (s.setCore c
        { s.core c with state := if (s.core c).slept = .recess ∨ (s.core c).slept = .holiday then .running else (s.core c).slept })) ∧
      (∀ d, (s.drover d).rest = 2 → exec (.holidayWake 1 d) s = .next (s.setDrover d { s.drover d with rest := 0 })) ∧
      (∀ n, (s.engine n).rest = 2 → exec (.holidayWake 2 n) s = .next (s.setEngine n { s.engine n with rest := 0 })) ∧
      (∀ n, (s.trh n).rest = 2 → exec (.holidayWake 3 n) s = .next (s.setTrh n { s.trh n with rest := 0 })))

/-- R366, R461, R462: the power cap. That the run of low samples starts again after each rise and that cap_floor clears with the first sample
not above the cap are the model's choices (log 58). -/
def Obligations.FrequencyAndPowerCap : Prop :=
  ∀ (s : State), s.live = true →
    (∀ c, s.has .core c = true →
      (let target := min (s.fld (CLK_CORE c) CLK_CORE_max) (min (s.fld PWR_STATUS PWR_STATUS_cap_limit) (s.fld (CLK_CORE c) CLK_CORE_thermal))
       let now := s.fld (CLK_CORE c) CLK_CORE_current
       exec (.frequencyStep c) s = .next (if now = target then s
         else s.setFld (CLK_CORE c) CLK_CORE_current (if now < target then now + 1 else now - 1)))) ∧
    (∀ mw, let cap := s.fld PWR_STATUS PWR_STATUS_cap_w
      let l := s.fld PWR_STATUS PWR_STATUS_cap_limit
      ∃ t, exec (.powerSample mw) s = .next t ∧ t.pwr.samples = (mw :: s.pwr.samples).take 100 ∧
        t.fld PWR_POWER PWR_POWER_mw = (t.pwr.samples.foldl (· + ·) 0 / t.pwr.samples.length) % 2 ^ 32 ∧
        t = { s with regs := t.regs, pwr := t.pwr, sram := t.sram, scheds := t.scheds, msix := t.msix, free := t.free } ∧
        RegsBut (PWR_STATUS :: PWR_POWER :: recordRegs) s t ∧
        (cap * 1000 < mw → 8 < l → t.fld PWR_STATUS PWR_STATUS_cap_limit = l - 1 ∧
          (l = 21 → t.bit PWR_STATUS PWR_STATUS_limiting = true ∧ Raised 3 t ∧ (LogOpen s → HasRecord s t 0x2001 0 1 cap (mw / 1000) 2000 0))) ∧
        (cap * 1000 < mw → l ≤ 8 → t.fld PWR_STATUS PWR_STATUS_cap_limit = l ∧ t.bit PWR_STATUS PWR_STATUS_cap_floor = true) ∧
        (mw ≤ cap * 1000 → t.bit PWR_STATUS PWR_STATUS_cap_floor = false ∧
          t.fld PWR_STATUS PWR_STATUS_cap_limit = (if mw * 100 < cap * 97000 ∧ s.pwr.below = 99 ∧ l < 21 then l + 1 else l)) ∧
        (mw * 100 < cap * 97000 → s.pwr.below = 99 → l = 20 → t.bit PWR_STATUS PWR_STATUS_limiting = false ∧ Raised 3 t ∧
          (LogOpen s → HasRecord s t 0x2002 0 1 cap (mw / 1000) 2100 0)))

/-- R366, R436, R463 to R466: temperature and power failure. Where throttling begins and ends is the model's choice (log 59). -/
def Obligations.ThermalLimitsAndStops : Prop :=
  ∀ (s : State),
    (∀ temps, ∃ t, exec (.thermalSample temps) s = .next t ∧ t.mem = s.mem ∧ t.cores = s.cores ∧
      (∀ i, i < 64 → t.fld (THM_SENSOR i) THM_SENSOR_temp = (temps[i]?).getD 0 % 1024 ∧ t.bit (THM_SENSOR i) THM_SENSOR_valid = true ∧
        (temps[i]?).getD 0 % 1024 ≤ t.fld THM_STATUS THM_STATUS_hottest_t ∧
        (4 * s.fld THM_CFG THM_CFG_alert ≤ (temps[i]?).getD 0 % 1024 → s.fld (THM_SENSOR i) THM_SENSOR_temp < 4 * s.fld THM_CFG THM_CFG_alert →
          t.bit THM_STATUS THM_STATUS_alert = true ∧ (s.live = true → Raised 3 t))) ∧
      t.fld (THM_SENSOR (t.fld THM_STATUS THM_STATUS_hottest)) THM_SENSOR_temp = t.fld THM_STATUS THM_STATUS_hottest_t) ∧
    (s.live = true → ∀ die, die < 2 →
      (let h := hottest s (rangeFrom (24 * die) 24)
       let temp := s.fld (THM_SENSOR h) THM_SENSOR_temp
       let l := s.fld (CLK_CORE (16 * die)) CLK_CORE_thermal
       let f := if die = 0 then THM_STATUS_throttle_0 else THM_STATUS_throttle_1
       ∃ t, exec (.throttleStep die) s = .next t ∧ t.mem = s.mem ∧ t.cores = s.cores ∧
         (4 * s.fld THM_CFG THM_CFG_throttle ≤ temp → t.bit THM_STATUS f = true ∧
           (∀ c, c / 16 = die → s.has .core c = true → t.fld (CLK_CORE c) CLK_CORE_thermal =
             if 8 < l then l - 1 else s.fld (CLK_CORE c) CLK_CORE_thermal) ∧
           (s.bit THM_STATUS f = false → LogOpen s → HasRecord s t 0x2004 0 1 die h temp ((if 8 < l then l - 1 else l) * 100))) ∧
         (temp + 4 * s.fld THM_CFG THM_CFG_hyst ≤ 4 * s.fld THM_CFG THM_CFG_throttle → temp < 4 * s.fld THM_CFG THM_CFG_throttle → l < 21 →
           ∀ c, c / 16 = die → s.has .core c = true → t.fld (CLK_CORE c) CLK_CORE_thermal = l + 1) ∧
         (temp + 4 * s.fld THM_CFG THM_CFG_hyst ≤ 4 * s.fld THM_CFG THM_CFG_throttle → temp < 4 * s.fld THM_CFG THM_CFG_throttle → 20 ≤ l →
           s.bit THM_STATUS f = true → t.bit THM_STATUS f = false ∧ (LogOpen s → HasRecord s t 0x2005 0 1 die h temp 2100)))) ∧
    (∀ die sensor temp, 440 ≤ temp → s.bit THM_STATUS THM_STATUS_tripped = false → ∃ t, exec (.thermalTrip die sensor temp) s = .next t ∧
      t.bit THM_STATUS THM_STATUS_tripped = true ∧ t.thermTrip = true ∧ t.live = false ∧ t.flush ≠ none ∧ t.mem = s.mem ∧ t.cores = s.cores ∧
      (LogOpen s → HasRecord s t 0x2007 0 1 die sensor temp 0) ∧ RegsBut (THM_STATUS :: LOG_STATUS :: recordRegs) s t) ∧
    (∀ rails, s.powerFailed = false → ∃ t, exec (.powerFail rails) s = .next t ∧ t.powerFailed = true ∧ t.logClosed = true ∧
      t.live = false ∧ t.flush ≠ none ∧ t.mem = s.mem ∧ t.cores = s.cores ∧ (LogOpen s → HasRecord s t 0x200A 0 1 rails 0 0 0) ∧
      (∀ p, p < 8 → s.has .stack p = true → s.fld (MEM_STATUS p) MEM_STATUS_state ≤ 1 → t.fld (MEM_STATUS p) MEM_STATUS_state = 3))

/-- R430 to R436: the one operation by which every unit records. -/
def Obligations.LogbookWritesRecordsWhole : Prop :=
  ∀ (s : State) (code kind inst p0 p1 p2 p3 : Nat),
    let t := s.log code kind inst p0 p1 p2 p3
    let l := recordSlots s code kind inst p0 p1 p2 p3
    let head := (s.reg LOG_SRAM_HEAD).toNat
    let un := head - (s.reg LOG_SRAM_FLUSHED).toNat
    (s.logClosed = true → t = s) ∧
    (s.logClosed = false → s.bit LOG_FREEZE LOG_FREEZE_frozen = true → t = s.count LOG_LOST 1) ∧
    (s.logClosed = false → s.bit LOG_FREEZE LOG_FREEZE_frozen = false → 32768 < un + l.length → t = s.count LOG_DROPPED 1) ∧
    (s.logClosed = false → s.bit LOG_FREEZE LOG_FREEZE_frozen = false → un + l.length ≤ 32768 →
      t.reg LOG_SRAM_HEAD = s.reg LOG_SRAM_HEAD + BitVec.ofNat 64 l.length ∧
      (∀ i w, l[i]? = some w → logSlot t.sram ((head + i) % 32768) = w) ∧
      (∀ j, j < 32768 → (∀ i, i < l.length → (head + i) % 32768 ≠ j) → logSlot t.sram j = logSlot s.sram j) ∧
      (un ≤ 16384 → 16384 < un + l.length → Raised 2 t) ∧ RegsBut recordRegs s t ∧
      t = { s with regs := t.regs, sram := t.sram, msix := t.msix, scheds := t.scheds }) ∧
    (∃ n, n ≤ 16 ∧ l.length = 1 + (n + 1) / 2 ∧ l[0]? = some (logFixed s code n kind inst p0 p1 p2 p3)) ∧
    (kind = 0 ∨ kind = 4 → l = [logFixed s code 0 kind inst p0 p1 p2 p3])

/-- R433 to R437, R440: the Logbook's commands. -/
def Obligations.LogbookFlushesAndCursor : Prop :=
  ∀ (cls sub : Nat) (s : State),
    (MayWrite ⟨cls, sub⟩ LOG_CTRL s →
      (s.flush = none → ∃ t, exec (.logFlush cls sub) s = .next t ∧ t.flush = some (3, (s.reg LOG_SRAM_HEAD).toNat) ∧
        t.bit LOG_STATUS LOG_STATUS_flushing = true ∧ t = { s with regs := t.regs, flush := t.flush } ∧ RegsBut [LOG_STATUS] s t) ∧
      (s.flush ≠ none → exec (.logFlush cls sub) s = .next { s with flushes := s.flushes ++ [3] }) ∧
      (∃ t, exec (.logClearCounts cls sub) s = .next t ∧ t = { s with regs := t.regs } ∧ RegsBut [LOG_LOST, LOG_DROPPED] s t ∧
        t.fld LOG_LOST LOG_LOST_count = 0 ∧ t.fld LOG_LOST LOG_LOST_saturated = 0 ∧ t.fld LOG_DROPPED LOG_DROPPED_count = 0 ∧
        t.fld LOG_DROPPED LOG_DROPPED_saturated = 0)) ∧
    (∀ cause upto failed skip, s.flush = some (cause, upto) → cause < 16 → upto < 2 ^ 64 →
      (let h := (s.reg LOG_MRAM_HEAD).toNat
       let a := (s.reg LOG_SRAM_FLUSHED).toNat
       ∃ t, exec (.flushDone failed skip) s = .next t ∧ t.reg LOG_SRAM_FLUSHED = BitVec.ofNat 64 upto ∧
         t.fld LOG_STATUS LOG_STATUS_last_flush = cause ∧ t.sram = s.sram ∧ t.mem = s.mem ∧ t.cores = s.cores ∧
         ((failed = true ∨ skip ≠ []) → t.bit LOG_STATUS LOG_STATUS_mram_fail = true) ∧
         (s.flushes = [] → t.flush = none ∧ t.bit LOG_STATUS LOG_STATUS_flushing = false) ∧
         (∀ c l, s.flushes = c :: l → t.flushes = l ∧ t.bit LOG_STATUS LOG_STATUS_flushing = true ∧
           t.flush = some (c, (s.reg LOG_SRAM_HEAD).toNat)) ∧
         (skip = [] → upto - a ≤ 262144 → h + 262144 < 2 ^ 64 → (t.reg LOG_MRAM_HEAD).toNat = h + (upto - a) ∧
           ∀ i, i < upto - a → logSlot t.mram ((h + i) % 262144) = logSlot s.sram ((a + i) % 32768)))) ∧
    (∀ on, MayWrite ⟨cls, sub⟩ LOG_FREEZE s → ∃ t, exec (.logFreeze cls sub on) s = .next t ∧ t = { s with regs := t.regs } ∧
      t.bit LOG_FREEZE LOG_FREEZE_frozen = on ∧ RegsBut [LOG_FREEZE] s t) ∧
    (∀ v, v < 2 ^ 64 → MayWrite ⟨cls, sub⟩ LOG_CURSOR s → ∃ t, exec (.logCursor cls sub v) s = .next t ∧ t = { s with regs := t.regs } ∧
      t.fld LOG_CURSOR LOG_CURSOR_slot = v % 2 ^ 18 ∧ t.fld LOG_CURSOR LOG_CURSOR_store = v / 2 ^ 63 ∧ RegsBut [LOG_CURSOR] s t)

/-- R379, R418, R427, R429, R438, R439: the commands of the Hall monitor and of the recorder's control register. -/
def Obligations.HallMonitorAndRecorderCommands : Prop :=
  ∀ (cls sub : Nat) (s : State),
    (∀ c i, c < 256 → i < 256 → MayWrite ⟨cls, sub⟩ HMN_WIN_WRITE s →
      (138 < c → exec (.hmnWinWrite cls sub c i) s = .next s) ∧
      (c ≤ 138 → ∃ t, exec (.hmnWinWrite cls sub c i) s = .next t ∧ t = { s with windows := t.windows } ∧
        (∀ k, k < 4 → t.win c i k = s.reg (HMN_WIN_STAGE k)) ∧
        (∀ d j k, j < 256 → k < 4 → (d, j) ≠ (c, i) → t.win d j k = s.win d j k))) ∧
    (∀ c n all, c < 256 → n < 2 ^ 14 → MayWrite ⟨cls, sub⟩ HMN_THAW s →
      (let hit (z : Frz) : Bool := decide (z.mst.cls = c) && (all || decide (z.mst.sub = n))
       (s.frozen.filter hit = [] → exec (.hmnThaw cls sub c n all) s = .next s) ∧
       (s.frozen.filter hit ≠ [] → ∃ t, exec (.hmnThaw cls sub c n all) s = .next t ∧
         t.frozen = s.frozen.filter (fun z => !hit z) ∧ RegsBut recordRegs s t ∧
         (LogOpen s → HasRecord s t 0x1008 0 2 (c + (if all then 0 else n) * 2 ^ 16) cls (s.frozen.filter hit).length 0) ∧
         t = { s with regs := t.regs, frozen := t.frozen, sram := t.sram, msix := t.msix, scheds := t.scheds }))) ∧
    (MayWrite ⟨cls, sub⟩ HMN_CTRL s → ∃ t, exec (.hmnClearCounts cls sub) s = .next t ∧ t = { s with regs := t.regs } ∧
      t.fld HMN_VIOLATIONS HMN_VIOLATIONS_count = 0 ∧ t.fld HMN_VIOLATIONS HMN_VIOLATIONS_saturated = 0 ∧ RegsBut [HMN_VIOLATIONS] s t) ∧
    (∀ n, n < 16384 → MayWrite ⟨cls, sub⟩ (QUE_CTRL n) s → ∃ t, exec (.queueThaw cls sub n) s = .next t ∧
      t.frozen = s.frozen.filter (fun z => decide (z.mst ≠ ⟨0, n⟩) && decide (z.mst ≠ ⟨1, n⟩)) ∧ RegsBut recordRegs s t ∧
      t = { s with regs := t.regs, frozen := t.frozen, sram := t.sram, msix := t.msix, scheds := t.scheds }) ∧
    (MayWrite ⟨cls, sub⟩ REC_CTRL s →
      (∃ t, exec (.recAbort cls sub) s = .next t ∧ recState t = 0 ∧ t = { s with regs := t.regs, rcd := {} } ∧ RegsBut [REC_STATUS] s t) ∧
      (∃ t, exec (.recClearCounts cls sub) s = .next t ∧ t.fld REC_UNMATCHED REC_UNMATCHED_count = 0 ∧
        t.fld REC_UNMATCHED REC_UNMATCHED_saturated = 0 ∧ t = { s with regs := t.regs } ∧ RegsBut [REC_UNMATCHED] s t))

/-- R475 to R477, R482: the bus mode, the integrity and the type of a transfer, for every sideband command. That a refused message is answered
is the model's reading (log 64); when VIO falls is free (log 6). -/
def Obligations.SidebandModeAndIntegrity : Prop :=
  ∀ (b : Bus) (s : State) (port cls sub off eid ty sel n a : Nat) (all : Bool) (r : Option Nat) (c : Instr),
    let messages : List Instr := [Instr.forceOwner b port, .thaw b cls sub all, .readReg b off, .setEndpointId b eid, .getEndpointId b,
        .getMctpVersionSupport b ty, .getMessageTypeSupport b, .getVendorDefinedMsgSupport b sel, .getTid b, .getPldmVersion b ty,
        .getPldmTypes b, .getPldmCommands b ty, .getPdrRepositoryInfo b, .getPdr b n, .getSensorReading b n,
        .getStateSensorReadings b n, .setEventReceiver b r]
    c ∈ messages ++ (if b.smbus then [.smbusAlertResponse b.good] else [.setDasa ⟨b.good, a⟩, .entDaa b.good a]) →
    (s.vioDown = true → exec c s = .next s) ∧
    (s.fld MGT_STATUS MGT_STATUS_mode ≠ 0 → s.fld MGT_STATUS MGT_STATUS_mode ≠ busMode b → exec c s = .next s) ∧
    (s.vioDown = false → s.fld MGT_STATUS MGT_STATUS_mode = 0 ∨ s.fld MGT_STATUS MGT_STATUS_mode = busMode b → b.good = false →
      exec c s = .next ((s.setFld MGT_STATUS MGT_STATUS_mode (busMode b)).setFld MGT_ERR MGT_ERR_pec 1)) ∧
    (s.vioDown = false → s.fld MGT_STATUS MGT_STATUS_mode = 0 ∨ s.fld MGT_STATUS MGT_STATUS_mode = busMode b → b.good = true → c ∈ messages →
      (∃ t, b.mty = some t ∧ t ∉ [0x00, 0x01, 0x7E]) → ∃ t : State, exec c s = .next t ∧ t.bit MGT_ERR MGT_ERR_malformed = true ∧
        t.reg MGT_MESSAGES = s.reg MGT_MESSAGES + 1 ∧ RegsBut [MGT_STATUS, MGT_MESSAGES, MGT_ERR] s t ∧
        t = { s with regs := t.regs, answer := t.answer, mgt := { s.mgt with packets := chunksOf 64 t.answer } })

/-- R477, R478, R482: MCTP control and PLDM over a good transfer of the fixed mode. The command's number in the body is the model's (log
64), and the endpoint ids that are refused and the base version's query are the transport standard's (log 153). -/
def Obligations.MctpAndPldmAnswers : Prop :=
  ∀ (b : Bus) (s : State), b.good = true → strangeMsg b = false → s.vioDown = false →
    (s.fld MGT_STATUS MGT_STATUS_mode = 0 ∨ s.fld MGT_STATUS MGT_STATUS_mode = busMode b) →
    let sent (cmd : Nat) (vals : List Nat) : MgtSt := { s.mgt with packets := chunksOf 64 (Config.sidebandBody cmd vals) }
    let answers (c : Instr) (cmd : Nat) (vals : List Nat) : Prop := ∃ t, exec c s = .next t ∧
      t = { s with regs := t.regs, answer := Config.sidebandBody cmd vals, mgt := sent cmd vals } ∧ t.reg MGT_MESSAGES = s.reg MGT_MESSAGES + 1 ∧
      t.reg MGT_STATUS = fset MGT_STATUS_mode (busMode b) (s.reg MGT_STATUS) ∧ RegsBut [MGT_STATUS, MGT_MESSAGES] s t
    let refuses (c : Instr) (cmd : Nat) : Prop := ∃ t, exec c s = .next t ∧
      t = { s with regs := t.regs, answer := Config.sidebandBody cmd [], mgt := sent cmd [] } ∧ t.reg MGT_MESSAGES = s.reg MGT_MESSAGES + 1 ∧
      t.bit MGT_ERR MGT_ERR_malformed = true ∧ RegsBut [MGT_STATUS, MGT_MESSAGES, MGT_ERR] s t
    refuses (.setEndpointId b 0) 1 ∧ refuses (.setEndpointId b 0xFF) 1 ∧
    (∀ eid, 0 < eid → eid < 255 → ∃ t, exec (.setEndpointId b eid) s = .next t ∧
      t = { s with regs := t.regs, answer := Config.sidebandBody 1 [eid], mgt := sent 1 [eid] } ∧ t.fld MGT_STATUS MGT_STATUS_eid = eid ∧
      t.reg MGT_MESSAGES = s.reg MGT_MESSAGES + 1 ∧ RegsBut [MGT_STATUS, MGT_MESSAGES] s t) ∧
    answers (.getEndpointId b) 2 [s.fld MGT_STATUS MGT_STATUS_eid] ∧
    (∀ ty, if ty = 0 ∨ ty = 1 ∨ ty = 0x7E ∨ ty = 0xFF then answers (.getMctpVersionSupport b ty) 4 [ty] else refuses (.getMctpVersionSupport b ty) 4) ∧
    answers (.getMessageTypeSupport b) 5 [0x00, 0x01, 0x7E] ∧
    (∀ sel, if sel = 0 then answers (.getVendorDefinedMsgSupport b sel) 6 [Config.vendorId.toNat]
      else refuses (.getVendorDefinedMsgSupport b sel) 6) ∧
    answers (.getTid b) 0x102 [] ∧
    (∀ ty, if ty = 0 ∨ ty = 2 then answers (.getPldmVersion b ty) 0x103 [ty] else refuses (.getPldmVersion b ty) 0x103) ∧
    answers (.getPldmTypes b) 0x104 [0, 2] ∧
    (∀ ty, if ty = 0 then answers (.getPldmCommands b ty) 0x105 [0x102, 0x103, 0x104, 0x105]
      else if ty = 2 then answers (.getPldmCommands b ty) 0x105 [0x204, 0x211, 0x221, 0x250, 0x251]
      else refuses (.getPldmCommands b ty) 0x105) ∧
    (numericSensors s).length = 6 + ((rangeFrom 0 8).filter (fun p => s.has .stack p)).length ∧
    answers (.getPdrRepositoryInfo b) 0x250 [(numericSensors s).length + 4] ∧
    (∀ n, if n < (numericSensors s).length + 4 then answers (.getPdr b n) 0x251 [n, (numericSensors s).length + 4]
      else refuses (.getPdr b n) 0x251) ∧
    (∀ n, match (numericSensors s)[n]? with
      | some v => answers (.getSensorReading b n) 0x211 [n, v]
      | none => refuses (.getSensorReading b n) 0x211) ∧
    answers (.getStateSensorReadings b 0) 0x221 [0, s.fld THM_STATUS THM_STATUS_tripped] ∧
    answers (.getStateSensorReadings b 1) 0x221 [1, b2n s.powerFailed] ∧
    answers (.getStateSensorReadings b 2) 0x221 [2, s.fld PWR_STATUS PWR_STATUS_rails_good] ∧
    answers (.getStateSensorReadings b 3) 0x221 [3, fwState s] ∧
    (∀ n, 4 ≤ n → refuses (.getStateSensorReadings b n) 0x221) ∧
    (∀ r, ∃ t, exec (.setEventReceiver b r) s = .next t ∧ t.mgt = { sent 0x204 r.toList with receiver := r } ∧
      t = { s with regs := t.regs, mgt := t.mgt, answer := Config.sidebandBody 0x204 r.toList } ∧
      t.reg MGT_MESSAGES = s.reg MGT_MESSAGES + 1 ∧ RegsBut [MGT_STATUS, MGT_MESSAGES] s t)

/-- R368, R429, R476, R479, R480: the management commands and I3C addressing over a good transfer of the fixed mode. That the
security controller is the unit of record 0x3101 is the model's reading (log 78), as are that a read wakes a unit at rest (log 142), that
FORCE_OWNER leaves a device held in reset alone, and the address that comes with SETDASA (log 153). -/
def Obligations.ManagementCommands : Prop :=
  ∀ (b : Bus) (s : State), b.good = true → strangeMsg b = false → s.vioDown = false →
    (s.fld MGT_STATUS MGT_STATUS_mode = 0 ∨ s.fld MGT_STATUS MGT_STATUS_mode = busMode b) →
    let counted (t : State) : Prop := t.reg MGT_MESSAGES = s.reg MGT_MESSAGES + 1 ∧ t.mem = s.mem ∧ t.cores = s.cores ∧ t.qps = s.qps
    (∀ port, s.bit MGT_CFG MGT_CFG_sb_control = true → 2 ≤ port → ∃ t, exec (.forceOwner b port) s = .next t ∧ counted t ∧
      t.bit MGT_ERR MGT_ERR_malformed = true ∧ t.answer = secMessage 0x20 0x02 [] ∧ RegsBut [MGT_STATUS, MGT_MESSAGES, MGT_ERR] s t) ∧
    (∀ port, port < 2 → s.bit MGT_CFG MGT_CFG_sb_control = true → s.released = false ∨ s.sysRst = true →
      ∃ t, exec (.forceOwner b port) s = .next t ∧ counted t ∧ RegsBut [MGT_STATUS, MGT_MESSAGES] s t) ∧
    (∀ port, port < 2 → s.bit MGT_CFG MGT_CFG_sb_control = true → s.released = true → s.sysRst = false →
      ∃ t, exec (.forceOwner b port) s = .next t ∧ counted t ∧
      owner t = port ∧ t.bit GLB_PRIV_OFFER GLB_PRIV_OFFER_offer = false ∧ t.answer = secMessage 0x20 0 [] ∧ t.frozen = s.frozen ∧
      (LogOpen s → HasRecord s t 0x3101 0 0 (owner s) port 2 0) ∧
      RegsBut ([GLB_PRIVILEGE_OWNER, GLB_PRIV_OFFER, MGT_STATUS, MGT_MESSAGES] ++ recordRegs) s t) ∧
    (∀ cls sub all, s.bit MGT_CFG MGT_CFG_sb_control = true → ∃ t, exec (.thaw b cls sub all) s = .next t ∧ counted t ∧
      t.frozen = s.frozen.filter (fun z => !(decide (z.mst.cls = cls) && (all || decide (z.mst.sub = sub)))) ∧
      t.answer = secMessage 0x21 0 [] ∧ RegsBut ([MGT_STATUS, MGT_MESSAGES] ++ recordRegs) s t) ∧
    (s.bit MGT_CFG MGT_CFG_sb_control = false → ∀ c code, (c, code) ∈ [(Instr.forceOwner b 0, 0x20), (.forceOwner b 1, 0x20)] ∨
        (∃ cls sub all, (c, code) = (.thaw b cls sub all, 0x21)) →
      ∃ t, exec c s = .next t ∧ counted t ∧ t.frozen = s.frozen ∧ t.answer = secMessage code 0x05 [] ∧
        t.bit MGT_ERR MGT_ERR_refused = true ∧ RegsBut [MGT_STATUS, MGT_MESSAGES, MGT_ERR] s t) ∧
    (∀ off, ∃ t, exec (.readReg b off) s = .next t ∧
      RegsBut [MGT_STATUS, MGT_MESSAGES] s t ∧ t.reg MGT_MESSAGES = s.reg MGT_MESSAGES + 1 ∧
      (let s1 := s.setFld MGT_STATUS MGT_STATUS_mode (busMode b)
       let r := if (s.bit THM_STATUS THM_STATUS_tripped = true ∨ s.powerFailed = true) ∧ alwaysOn off = false then s1 else rouseRead s1 off 8
       t = { r with regs := t.regs, answer := t.answer, mgt := { s.mgt with packets := chunksOf 64 t.answer } } ∧
       t.answer = if (s.bit THM_STATUS THM_STATUS_tripped = true ∨ s.powerFailed = true) ∧ alwaysOn off = false
         then secMessage 0x22 0x07 (leBytes 8 0) else secMessage 0x22 0 (readRegs s1 off 8))) ∧
    (b.smbus = false → ∀ a, a < 128 → ∃ t, exec (.setDasa ⟨true, a⟩) s = .next t ∧ t = { s with regs := t.regs } ∧ RegsBut [MGT_STATUS] s t ∧
      t.fld MGT_STATUS MGT_STATUS_dyn_addr = a ∧ t.fld MGT_STATUS MGT_STATUS_mode = 1) ∧
    (b.smbus = false → ∀ a, a < 128 → ∃ t, exec (.entDaa true a) s = .next t ∧ t = { s with regs := t.regs } ∧
      RegsBut [MGT_STATUS] s t ∧ t.fld MGT_STATUS MGT_STATUS_dyn_addr = a ∧ t.fld MGT_STATUS MGT_STATUS_mode = 1) ∧
    (b.smbus = true → (s.bit THM_STATUS THM_STATUS_tripped = true ∨ s.bit MGT_ERR MGT_ERR_refused = true ∨
        s.bit MGT_ERR MGT_ERR_malformed = true ∨ s.bit MGT_ERR MGT_ERR_pec = true) →
      ∃ t, exec (.smbusAlertResponse true) s = .next t ∧ RegsBut [MGT_STATUS] s t ∧
        t = { s with regs := t.regs, answer := leBytes 1 (s.fld MGT_STATUS MGT_STATUS_static_addr * 2) })

/-- R481: the instructions of the test access port. What the boundary register captures is a free value (log 153). -/
def Obligations.TapInstructionsLoad : Prop :=
  ∀ (s : State),
    let holds (c : Instr) (op : Nat) : Prop := exec c s = .next (if op ∈ [0x00, 0x02, 0x06, 0x07] then
      { s with free := s.free + 1, mgt := { s.mgt with tap := op, boundary := Config.freeWord s.free } }
      else { s with mgt := { s.mgt with tap := op } })
    holds .samplePreload 0x02 ∧ holds .secAccess 0x40 ∧ holds .bypass 0xFF ∧ holds .tapReset 0x01 ∧
    exec .idcode s = .next { s with mgt := { s.mgt with tap := 0x01 }, answer := [0x47, 0x8B, 0x65, 0x14] } ∧
    (∀ c op, (c, op) ∈ [(Instr.extest, 0x00), (.clamp, 0x04), (.highz, 0x05), (.extestPulse, 0x06), (.extestTrain, 0x07)] →
      holds c (if s.sysRst then op else 0xFF)) ∧
    (∃ t, exec (.sysRstN false) s = .next t ∧ t.sysRst = false ∧ t = { s with sysRst := false, mgt := t.mgt } ∧
      t.mgt = { s.mgt with tap := if s.mgt.tap ∈ [0x00, 0x04, 0x05, 0x06, 0x07] then 0x01 else s.mgt.tap })

/-- R363, R369, R370: the two doorbells of queue pair n, its enable. That a REGISTER_WRITE beyond BAR0 is a write of BAR2, and a
HOST_BAR4_READ of port 2 and 3 a read of it, is the model's choice (log 5), as is that an access is judged by its first byte (log 151). -/
def Obligations.DoorbellsMoveIndices : Prop :=
  (∀ (cls sub n v : Nat) (s : State), n < 16384 → MayWrite ⟨cls, sub⟩ (QUE_CFG n) s →
    (let w : Word := BitVec.ofNat 64 (v % 2 ^ 31)
     (4 ≤ fget QUE_CFG_cq_size w → 4 ≤ fget QUE_CFG_sq_size w → qpEnabled s n = false → s.fld (QUE_STATUS n) QUE_STATUS_class ≠ 0 →
       ∃ t, exec (.queueEnable cls sub n v) s = .next t ∧ qpEnabled t n = true ∧ t.reg (QUE_INDEX n) = 0 ∧ t.fld (QUE_STATUS n) QUE_STATUS_phase = 1 ∧
         RegsBut [QUE_CFG n, QUE_INDEX n, QUE_STATUS n] s t ∧ t = { s with regs := t.regs }) ∧
     (4 ≤ fget QUE_CFG_cq_size w → 4 ≤ fget QUE_CFG_sq_size w → (s.reg (QUE_CFG n)).toNat = 2 ^ 31 + v % 2 ^ 31 → bitsOf v 17 11 = 0 →
       (256 ≤ n → bitOf v 30 = false) → exec (.queueDisable cls sub n v) s = .next (s.setFld (QUE_CFG n) QUE_CFG_enable 0)))) ∧
  ∀ (port n : Nat) (bs : List Byte) (s : State), s.live = true → port < 2 → n < 16384 → s.isFrozen (barMst port) = false →
    boundElsewhere s port n = false → portOff s port = false → bs.length = 4 →
    (let v := leNat bs
     let tail := modDiff 16 v (s.fld (QUE_INDEX n) QUE_INDEX_sq_tail)
     let room := modDiff 16 v (s.fld (QUE_INDEX n) QUE_INDEX_sq_head)
     let head := modDiff 16 v (s.fld (QUE_INDEX n) QUE_INDEX_cq_head)
     let new := modDiff 16 v (s.fld (QUE_INDEX n) QUE_INDEX_cq_tail)
     let size : Int := (2 ^ s.fld (QUE_CFG n) QUE_CFG_sq_size : Nat)
     let flagged (c : Instr) : Prop := ∃ t, exec c s = .next t ∧ t.bit (QUE_STATUS n) QUE_STATUS_doorbell_err = true ∧
       RegsBut (QUE_STATUS n :: recordRegs) s t ∧ (LogOpen s → HasRecord s t 0x8901 0 4 n port v 0) ∧
       t = { s with regs := t.regs, sram := t.sram, msix := t.msix, scheds := t.scheds }
     (qpEnabled s n = false → exec (.sqTailDoorbell port n bs) s = .next s ∧ exec (.cqHeadDoorbell port n bs) s = .next s) ∧
     (qpEnabled s n = true →
       (v < 2 ^ 16 → 0 < tail → room ≤ size →
         exec (.sqTailDoorbell port n bs) s = .next (s.setFld (QUE_INDEX n) QUE_INDEX_sq_tail v)) ∧
       (v < 2 ^ 16 → tail ≤ 0 → exec (.sqTailDoorbell port n bs) s = .next s) ∧
       (2 ^ 16 ≤ v ∨ (0 < tail ∧ size < room) → flagged (.sqTailDoorbell port n bs)) ∧
       (v < 2 ^ 16 → 0 ≤ head → new ≤ 0 →
         exec (.cqHeadDoorbell port n bs) s = .next (s.setFld (QUE_INDEX n) QUE_INDEX_cq_head v)) ∧
       (2 ^ 16 ≤ v ∨ head < 0 ∨ 0 < new → flagged (.cqHeadDoorbell port n bs))) ∧
     doorbellRead s n false = s.fld (QUE_INDEX n) QUE_INDEX_sq_tail ∧ doorbellRead s n true = s.fld (QUE_INDEX n) QUE_INDEX_cq_head ∧
     exec (.hostBar4Read (port + 2) (16 * n) 4) s = .next { s with answer := leBytes 4 (s.fld (QUE_INDEX n) QUE_INDEX_sq_tail) } ∧
     exec (.hostBar4Read (port + 2) (16 * n + 8) 4) s = .next { s with answer := leBytes 4 (s.fld (QUE_INDEX n) QUE_INDEX_cq_head) } ∧
     (∀ sub x, x < 0x40000 →
       (x % 8 ≠ 0 → x % 8 < 4 → boundElsewhere s port (x / 16) = false → exec (.registerWrite port sub (0x4000000 + x) bs) s = .next s) ∧
       (x % 16 = 0 → exec (.registerWrite port sub (0x4000000 + x) bs) s = exec (.sqTailDoorbell port (x / 16) bs) s) ∧
       (x % 16 = 8 → exec (.registerWrite port sub (0x4000000 + x) bs) s = exec (.cqHeadDoorbell port (x / 16) bs) s) ∧
       (4 ≤ x % 8 → ∃ t, exec (.registerWrite port sub (0x4000000 + x) bs) s = .next t ∧ t.isFrozen (barMst port) = true ∧ Raised 1 t ∧
         t.fld HMN_VIOL HMN_VIOL_code = 0x1002 ∧ t.mem = s.mem ∧ t.cores = s.cores ∧ t.qps = s.qps)))

/-- R369, R377, R379, R429, R475: the life of a queue pair. That the host sets its port up when PERSTn_N rises is the model's choice (log 5). -/
def Obligations.QueuePairsEnableAndDisable : Prop :=
  ∀ (cls sub n v : Nat) (s : State), n < 16384 →
    let w : Word := BitVec.ofNat 64 (v % 2 ^ 31)
    (MayWrite ⟨cls, sub⟩ (QUE_CFG n) s →
      (4 ≤ fget QUE_CFG_cq_size w → 4 ≤ fget QUE_CFG_sq_size w → qpEnabled s n = false → s.fld (QUE_STATUS n) QUE_STATUS_class ≠ 0 →
        ∃ t, exec (.queueEnable cls sub n v) s = .next t ∧ t = { s with regs := t.regs } ∧ qpEnabled t n = true ∧
          t.reg (QUE_INDEX n) = 0 ∧ t.fld (QUE_STATUS n) QUE_STATUS_phase = 1 ∧
          (∀ f ∈ [QUE_CFG_epoch_check, QUE_CFG_irq_en, QUE_CFG_cq_loc, QUE_CFG_sq_loc, QUE_CFG_cq_size, QUE_CFG_sq_size, QUE_CFG_vector],
            t.fld (QUE_CFG n) f = fget f w) ∧
          t.fld (QUE_CFG n) QUE_CFG_wydak = (if n < 256 then fget QUE_CFG_wydak w else 0) ∧
          RegsBut [QUE_CFG n, QUE_INDEX n, QUE_STATUS n] s t) ∧
      (4 ≤ fget QUE_CFG_cq_size w → 4 ≤ fget QUE_CFG_sq_size w → (s.reg (QUE_CFG n)).toNat = 2 ^ 31 + v % 2 ^ 31 → bitsOf v 17 11 = 0 →
        (256 ≤ n → bitOf v 30 = false) →
        exec (.queueDisable cls sub n v) s = .next (s.setFld (QUE_CFG n) QUE_CFG_enable 0) ∧
        exec (.queueEnable cls sub n v) s = .next s) ∧
      (fget QUE_CFG_cq_size w < 4 ∨ fget QUE_CFG_sq_size w < 4 ∨
          (qpEnabled s n = true ∧ fget QUE_CFG_vector w ≠ s.fld (QUE_CFG n) QUE_CFG_vector) →
        exec (.queueDisable cls sub n v) s = .next (s.setFld (QUE_STATUS n) QUE_STATUS_cfg_err 1) ∧
        exec (.queueEnable cls sub n v) s = .next (s.setFld (QUE_STATUS n) QUE_STATUS_cfg_err 1))) ∧
    (MayWrite ⟨cls, sub⟩ (QUE_CTRL n) s → ∃ t, exec (.queueThaw cls sub n) s = .next t ∧
      t.frozen = s.frozen.filter (fun z => decide (z.mst ≠ ⟨0, n⟩) && decide (z.mst ≠ ⟨1, n⟩)) ∧ RegsBut recordRegs s t ∧
      t = { s with regs := t.regs, frozen := t.frozen, sram := t.sram, msix := t.msix, scheds := t.scheds }) ∧
    (s.live = true → ∀ port w0 r0, port < 2 → portOff s port = false → ∀ q ∈ [(Instr.functionLevelReset port, false), (.perst port true w0 r0, true)],
      ∃ t, exec q.1 s = .next t ∧
      t = { s with regs := t.regs, qps := t.qps, ports := t.ports, heldRecs := t.heldRecs } ∧ (∀ r ∈ t.heldRecs, r ∈ s.heldRecs) ∧
      t.port port = { low := q.2 } ∧ (∀ p, p ≠ port → t.port p = s.port p) ∧
      (s.fld (QUE_STATUS n) QUE_STATUS_class ≠ 0 ∧ s.qpPort n = port → qpEnabled t n = false ∧ (t.qp n).owed = 0 ∧
        (t.qp n).gen = (s.qp n).gen + 1 ∧ (∀ r ∈ t.heldRecs, r.mst ≠ s.qpMst n) ∧
        ((s.qp n).owed ≠ 0 ∨ (∃ r ∈ s.heldRecs, r.mst = s.qpMst n) → t.bit (QUE_STATUS n) QUE_STATUS_flr_lost = true)) ∧
      (s.fld (QUE_STATUS n) QUE_STATUS_class = 0 ∨ s.qpPort n ≠ port → t.reg (QUE_CFG n) = s.reg (QUE_CFG n) ∧ t.qp n = s.qp n ∧
        ∀ r ∈ s.heldRecs, r.mst = s.qpMst n → r ∈ t.heldRecs) ∧
      t.reg (QUE_INDEX n) = s.reg (QUE_INDEX n)) ∧
    (s.live = true → ∀ width rate, width < 16 → rate < 16 →
      (let set (p : Nat) (t : State) : Prop := t = { s with regs := t.regs, ports := t.ports, free := t.free } ∧ RegsBut [GLB_PORT_STATUS, CLK_STATUS] s t ∧
         30 ≤ (t.port p).bar4 ∧ (t.port p).low = false ∧ (t.port p).bar4 ≤ bar4Largest s ∧ (t.port p).aer = (s.port p).aer ∧
         ∀ q, q ≠ p → t.port q = s.port q
      (∃ t, exec (.perst 0 false width rate) s = .next t ∧ set 0 t ∧
        (width ≠ 0 → t.bit CLK_STATUS CLK_STATUS_pcie_ref = true) ∧
        t.fld GLB_PORT_STATUS GLB_PORT_STATUS_width0 = width ∧ t.fld GLB_PORT_STATUS GLB_PORT_STATUS_rate0 = rate) ∧
      (∃ t, exec (.perst 1 false width rate) s = .next t ∧ set 1 t ∧
        (width ≠ 0 → t.bit CLK_STATUS CLK_STATUS_pcie_ref = true) ∧
        t.fld GLB_PORT_STATUS GLB_PORT_STATUS_width1 = width ∧ t.fld GLB_PORT_STATUS GLB_PORT_STATUS_rate1 = rate)))

/-- R368: the handshake between the ports. That the security controller is the unit of record 0x3101 is the model's reading (log 78). -/
def Obligations.PrivilegeHandover : Prop :=
  ∀ (cls sub : Nat) (s : State),
    (∀ on, MayWrite ⟨cls, sub⟩ GLB_PRIV_OFFER s →
      exec (.privilegeOffer cls sub on) s = .next (if cls = owner s then s.setFld GLB_PRIV_OFFER GLB_PRIV_OFFER_offer (b2n on) else s)) ∧
    (MayWrite ⟨cls, sub⟩ GLB_PRIV_ACCEPT s →
      (cls = owner s → exec (.privilegeAccept cls sub) s = .next s) ∧
      (cls < 2 → cls ≠ owner s → s.bit GLB_PRIV_OFFER GLB_PRIV_OFFER_offer = false →
        exec (.privilegeAccept cls sub) s = .next (s.setFld GLB_PRIV_OFFER GLB_PRIV_OFFER_refused 1)) ∧
      (cls < 2 → cls ≠ owner s → s.bit GLB_PRIV_OFFER GLB_PRIV_OFFER_offer = true → ∃ t, exec (.privilegeAccept cls sub) s = .next t ∧
        owner t = cls ∧ t.bit GLB_PRIV_OFFER GLB_PRIV_OFFER_offer = false ∧
        RegsBut ([GLB_PRIVILEGE_OWNER, GLB_PRIV_OFFER] ++ recordRegs) s t ∧ (LogOpen s → HasRecord s t 0x3101 0 0 (owner s) cls 1 0) ∧
        t = { s with regs := t.regs, sram := t.sram, msix := t.msix, scheds := t.scheds }))

/-- R286, R371, R380: DESCRIPTOR_FETCH. That QUE_COMMANDS counts every fetched descriptor is log 7, and what an uncorrectable read completes
with is log 51. What acceptance does with the descriptor is AcceptanceChecksInOrder. -/
def Obligations.DescriptorsAreFetchedInOrder : Prop :=
  ∀ (n : Nat) (host : List Byte) (s : State), s.live = true →
    (mayFetch s n = false → exec (.descriptorFetch n host) s = .next s) ∧
    (mayFetch s n = true →
      (let wydak := s.bit (QUE_CFG n) QUE_CFG_wydak
       let len := if wydak then 32 else 64
       let ring := s.fld (QUE_INDEX n) QUE_INDEX_sq_head % 2 ^ s.fld (QUE_CFG n) QUE_CFG_sq_size
       let took (p u : State) : Prop := u.fld (QUE_INDEX n) QUE_INDEX_sq_head = (s.fld (QUE_INDEX n) QUE_INDEX_sq_head + 1) % 2 ^ 16 ∧
         u.reg (QUE_COMMANDS n) = s.reg (QUE_COMMANDS n) + 1 ∧ (u.qp n).owed = (s.qp n).owed + 1 ∧ (∀ k, k ≠ n → u.qp k = s.qp k) ∧
         RegsBut [QUE_INDEX n, QUE_COMMANDS n] p u ∧ u = { p with regs := u.regs, qps := u.qps }
       (s.bit (QUE_CFG n) QUE_CFG_sq_loc = false → ∃ u, took s u ∧ exec (.descriptorFetch n host) s =
         .next (if wydak then acceptWydak u n ring (padTo len 0 host) else accept u n ring (padTo len 0 host))) ∧
       (s.bit (QUE_CFG n) QUE_CFG_sq_loc = true →
         ∀ b ue s1, localRead (s.qpMst n) ((s.reg (QUE_SQ_BASE n)).toNat + ring * len) len s = .done b ue s1 →
           ∃ u, took s1 u ∧ exec (.descriptorFetch n host) s =
             .next (if ue then u.complete ⟨n, if wydak then fieldAt b 28 2 else fieldAt b 2 2, (s.qp n).gen⟩ 0x06 0 0x5001 0
               else if wydak then acceptWydak u n ring b else accept u n ring b))))

/-- R4, R13, R332, R371 to R374, R377: the checks at acceptance and the passing on of a 64-byte descriptor. That an instance beyond its class
is a field out of range is log 49, that a collective counts in its group's sequence from its acceptance on is log 157, and that a command of
the control kernel needs no control core is log 158. -/
def Obligations.AcceptanceChecksInOrder : Prop :=
  (∀ (n : Nat) (d : List Byte) (s : State), s.live = true → d.length = 64 → n < 16384 → qpEnabled s n = true → s.mixed = false →
    s.bit (QUE_CFG n) QUE_CFG_sq_loc = false → s.bit (QUE_CFG n) QUE_CFG_wydak = false →
    portOff s (s.qpPort n) = false → s.fld (QUE_INDEX n) QUE_INDEX_sq_head ≠ s.fld (QUE_INDEX n) QUE_INDEX_sq_tail →
    s.fld (QUE_INDEX n) QUE_INDEX_cq_tail = s.fld (QUE_INDEX n) QUE_INDEX_cq_head → (s.qp n).owed < 2 ^ s.fld (QUE_CFG n) QUE_CFG_cq_size →
    ∃ u, exec (.descriptorFetch n d) s = .next (accept u n (s.fld (QUE_INDEX n) QUE_INDEX_sq_head % 2 ^ s.fld (QUE_CFG n) QUE_CFG_sq_size) d) ∧
      u.fld (QUE_INDEX n) QUE_INDEX_sq_head = (s.fld (QUE_INDEX n) QUE_INDEX_sq_head + 1) % 2 ^ 16 ∧ (u.qp n).owed = (s.qp n).owed + 1 ∧
      RegsBut [QUE_INDEX n, QUE_COMMANDS n] s u ∧ (∀ k, k ≠ n → u.qp k = s.qp k) ∧ u = { s with regs := u.regs, qps := u.qps }) ∧
  ∀ (s : State) (n ring : Nat) (d : List Byte),
    let code := fieldAt d 0 1
    let target := fieldAt d 1 1
    let cls := (targetOf s n target).1
    let inst := (targetOf s n target).2
    let ref : CmdRef := ⟨n, fieldAt d 2 2, (s.qp n).gen⟩
    let bad := targetBad cls inst
    let malformed := bad || !((bodyOf cls code).any (fun u => unlistedZero u d) && rangesOk cls code d)
    let fits := !(s.bit (QUE_CFG n) QUE_CFG_epoch_check) || decide (fieldAt d 4 4 = s.fld STR_EPOCH STR_EPOCH_current)
    let c := countColl s cls code d
    let m : Cmd := { ref := ref, code := code, desc := d, seq := ((countsIn cls code d).map s.groupSeq).getD 0 }
    c = { s with collSeq := c.collSeq } ∧ (countsIn cls code d = none → c = s) ∧
    (∀ g, countsIn cls code d = some g → c.groupSeq g = s.groupSeq g + 1 ∧ ∀ h, h ≠ g → c.groupSeq h = s.groupSeq h) ∧
    (∀ g, countsIn cls code d = some g ↔ cls = 3 ∧ 1 ≤ code ∧ code ≤ 6 ∧ g = fieldAt d 0x34 2 ∧ g < 4096) ∧
    (target ≠ 0 → cls = target / 32 ∧ inst = target % 32) ∧
    (target = 0 → cls = s.fld (QUE_STATUS n) QUE_STATUS_class ∧ inst = s.fld (QUE_STATUS n) QUE_STATUS_instance) ∧
    (bad = false → targetAbsent s cls inst code d = true → ∃ u, u.isFrozen (s.qpMst n) = true ∧
      accept s n ring d = u.complete ref 0x01 0 0x1004 0 ∧ u.cores = s.cores ∧ u.mem = s.mem ∧ Raised 1 u) ∧
    (bad = true ∨ targetAbsent s cls inst code d = false →
      (s.qpFrozen n = true → accept s n ring d = (c.frozenCommand (s.qpMst n) 0x05).complete ref 0x05 0 0x1007 0) ∧
      (s.qpFrozen n = false →
        (∀ m, bad = false → neededMst s cls inst code = some m → s.isFrozen m = true →
          accept s n ring d = (c.frozenCommand m 0x05).complete ref 0x05 0 0x1007 0) ∧
        (bad = true ∨ (∀ m, neededMst s cls inst code = some m → s.isFrozen m = false) →
          (malformed = true → accept s n ring d = c.complete ref 0x02 0 0 0) ∧
          (malformed = false → fits = false → accept s n ring d = c.complete ref 0x09 0 0 0) ∧
          (malformed = false → fits = true →
            (cls = 1 → accept s n ring d = s.setCore inst (wakeCore { s.core inst with inbox := (s.core inst).inbox ++ [m] })) ∧
            (cls = 2 → ((accept s n ring d).drover (droverOf s.grade inst)).inbox =
              (s.drover (droverOf s.grade inst)).inbox ++ [(inst, m)]) ∧
            (cls = 3 → ((accept s n ring d).engine inst).inbox = (s.engine inst).inbox ++ [m]) ∧
            (cls = 4 → ((accept s n ring d).trh inst).inbox = (s.trh inst).inbox ++ [m]) ∧
            (cls = 5 → ∃ x, (accept s n ring d).svcs = s.svcs ++ [x] ∧ x.cmd = m ∧ x.fold = inst)))))

/-- R299, R375, R376, R379: the one operation by which every command completes. A local record that is lost to a violation (log 105), to an
uncorrectable atom (log 133) or in the MMIO mirror (log 8) still raises its vector: the model's choice. -/
def Obligations.CompletionRecordsAreWritten : Prop :=
  (∀ (port width rate : Nat) (s : State), s.live = true → port < 2 → portOff s port = false →
    (∀ c ∈ [Instr.functionLevelReset port, .perst port true width rate], ∃ t, exec c s = .next t ∧ t.mem = s.mem ∧ t.cores = s.cores ∧
      ∀ n, n < 16384 → s.fld (QUE_STATUS n) QUE_STATUS_class ≠ 0 → s.qpPort n = port → qpEnabled t n = false ∧ (t.qp n).gen = (s.qp n).gen + 1 ∧
        ∀ id st res det aux, t.complete ⟨n, id, (s.qp n).gen⟩ st res det aux = t) ∧
    (width < 16 → rate < 16 → ∃ t, exec (.perst port false width rate) s = .next t ∧ (t.port port).aer = (s.port port).aer ∧ t.mem = s.mem ∧ t.cores = s.cores ∧
      t.fld GLB_PORT_STATUS (if port = 0 then GLB_PORT_STATUS_width0 else GLB_PORT_STATUS_width1) = width ∧
      t.fld GLB_PORT_STATUS (if port = 0 then GLB_PORT_STATUS_rate0 else GLB_PORT_STATUS_rate1) = rate)) ∧
  ∀ (s : State) (r : CmdRef) (status result detail aux : Nat), r.qp < 16384 →
    let t := s.complete r status result detail aux
    let n := r.qp
    let size := 2 ^ s.fld (QUE_CFG n) QUE_CFG_cq_size
    let tail := s.fld (QUE_INDEX n) QUE_INDEX_cq_tail
    let a := (s.reg (QUE_CQ_BASE n)).toNat + tail % size * 32
    ((s.qp n).gen ≠ r.gen → t = s) ∧
    ((s.qp n).gen = r.gen → portOff s (s.qpPort n) = true → s.bit (QUE_CFG n) QUE_CFG_cq_loc = false →
      t.bit (QUE_STATUS n) QUE_STATUS_flr_lost = true ∧ (t.qp n).owed = (s.qp n).owed - 1 ∧ (∀ k, k ≠ n → t.qp k = s.qp k) ∧
      RegsBut [QUE_STATUS n] s t ∧ t = { s with regs := t.regs, qps := t.qps }) ∧
    ((s.qp n).gen = r.gen → portOff s (s.qpPort n) = false ∨ s.bit (QUE_CFG n) QUE_CFG_cq_loc = true →
      t.fld (QUE_INDEX n) QUE_INDEX_cq_tail = (tail + 1) % 2 ^ 16 ∧ (t.qp n).owed = (s.qp n).owed - 1 ∧
      (∀ k, k ≠ n → t.qp k = s.qp k) ∧ (∀ c, OnlyWoken c s t) ∧
      t.fld (QUE_STATUS n) QUE_STATUS_phase =
        (if (tail + 1) % size = 0 then 1 - s.fld (QUE_STATUS n) QUE_STATUS_phase else s.fld (QUE_STATUS n) QUE_STATUS_phase) ∧
      (s.bit (QUE_CFG n) QUE_CFG_irq_en = true → 16 ≤ s.fld (QUE_CFG n) QUE_CFG_vector →
        t.heldRecs = s.heldRecs → ∃ b, (s.qpPort n, s.fld (QUE_CFG n) QUE_CFG_vector, b) ∈ t.msix) ∧
      (t.heldRecs = s.heldRecs ∨ ((waitsFor s a 32 = true ∨ epochHeld s (s.qpMst n) a = true) ∧ t.mem = s.mem ∧ t.msix = s.msix ∧
        ∃ b, t.heldRecs = s.heldRecs ++ [⟨s.qpMst n, a, b, irqOf s n⟩])) ∧
      (s.bit (QUE_CFG n) QUE_CFG_cq_loc = false → t.cores = s.cores ∧ t.heldRecs = s.heldRecs ∧ t.mem = s.mem ∧ t.frozen = s.frozen ∧ RegsBut [QUE_INDEX n, QUE_STATUS n] s t ∧ ∃ bs,
        t.hostOut = s.hostOut ++ [(s.qpPort n, a, bs)] ∧ bs.length = 32 ∧ fieldAt bs 0 8 = result % 2 ^ 64 ∧ fieldAt bs 8 2 = r.id % 2 ^ 16 ∧
        fieldAt bs 10 2 = s.fld (QUE_INDEX n) QUE_INDEX_sq_head ∧ fieldAt bs 12 1 = status % 256 ∧
        fieldAt bs 13 1 = s.fld (QUE_STATUS n) QUE_STATUS_phase ∧ fieldAt bs 14 2 = n ∧
        fieldAt bs 16 4 = s.fld STR_EPOCH STR_EPOCH_current ∧ fieldAt bs 20 4 = detail % 2 ^ 32 ∧ fieldAt bs 24 8 = aux % 2 ^ 64) ∧
      (s.bit (QUE_CFG n) QUE_CFG_cq_loc = true → t.hostOut = s.hostOut ∧ MemBut a 32 s t ∧
        (Writes (s.qpMst n) a 32 s → fieldAt (t.bytes a 32) 12 1 = status % 256 ∧
          fieldAt (t.bytes a 32) 8 2 = r.id % 2 ^ 16 ∧ fieldAt (t.bytes a 32) 14 2 = n)))

/-- R362, R363, R365, R425, R428: the direct path of a host port, and failures on its link. AER reports are kept as log 5 says, and what a
failed or poisoned transfer leaves is log 141. -/
def Obligations.DirectAccessAndFetchFailures : Prop :=
  ∀ (port : Nat) (s : State), s.live = true → port < 2 → portOff s port = false →
    (bar4Size s port = 2 ^ (if (s.port port).bar4 = 0 then bar4Largest s else (s.port port).bar4)) ∧
    (∀ a n, a + n ≤ bar4Size s port → bar4Size s port ≤ 0x8000000000 → s.isFrozen (barMst port) = false →
      (∀ b ue s1, localRead (barMst port) a n s = .done b ue s1 → exec (.hostBar4Read port a n) s = .next { s1 with answer := b } ∧
        s1.mem = s.mem ∧ (ue = false → b = s.bytes a n)) ∧
      (∀ code s1, localRead (barMst port) a n s = .bad code s1 →
        exec (.hostBar4Read port a n) s = .next { s1 with answer := List.replicate n 0 } ∧ s1.isFrozen (barMst port) = true ∧ s1.mem = s.mem)) ∧
    (∀ a bs, a + bs.length ≤ bar4Size s port → ∃ t, exec (.hostBar4Write (port + 2) a bs) s = .next t ∧
      (t.port port).aer = (s.port port).aer ++ [12] ∧ (∀ p, p ≠ port → t.port p = s.port p) ∧ t = { s with ports := t.ports, free := t.free } ∧
      ((s.port port).first = none → (t.port port).first = some 12) ∧ ((s.port port).first ≠ none → (t.port port).first = (s.port port).first)) ∧
    (∀ a bs, a + bs.length ≤ bar4Size s port → bar4Size s port ≤ 0x8000000000 → s.isFrozen (barMst port) = false →
      (∀ b ue s1, localStore (barMst port) a bs s = .done b ue s1 → exec (.hostBar4Write port a bs) s = .next s1 ∧
        MemBut a bs.length s s1 ∧ (fwState s ≠ 2 → ue = false → s1.bytes a bs.length = bs)) ∧
      (∀ code s1, localStore (barMst port) a bs s = .bad code s1 →
        exec (.hostBar4Write port a bs) s = .next s1 ∧ s1.isFrozen (barMst port) = true ∧ s1.mem = s.mem)) ∧
    (∀ n code, n < 16384 → (qpEnabled s n = true ∧ s.bit (QUE_CFG n) QUE_CFG_sq_loc = false) ∨
        ((qpEnabled s n = true ∨ (s.qp n).owed ≠ 0) ∧ s.bit (QUE_CFG n) QUE_CFG_cq_loc = false) →
      (code = 12 → mayFetch s n = true → s.bit (QUE_CFG n) QUE_CFG_sq_loc = false → ∃ t, exec (.pcieCompletionTimeout n code) s = .next t ∧
        t.isFrozen (s.qpMst n) = true ∧ t.fld (QUE_INDEX n) QUE_INDEX_sq_head = (s.fld (QUE_INDEX n) QUE_INDEX_sq_head + 1) % 2 ^ 16) ∧
      (code ≠ 12 → ∃ t, exec (.pcieCompletionTimeout n code) s = .next t ∧ t.isFrozen (s.qpMst n) = true ∧ RegsBut recordRegs s t ∧
        (LogOpen s → HasRecord s t 0x8902 0 4 n (s.qpPort n) code 0) ∧ t.mem = s.mem ∧ t.cores = s.cores ∧ t.qps = s.qps ∧
        (t.port (s.qpPort n)).aer = (s.port (s.qpPort n)).aer ++ [code]))

/-- R54, R374, R382, R383: two commands of queue pairs that their unit serves whole. Refusing n = 0 at an unused tally is log 29, and that a
TALLY_ADD behind a START waits is log 52. -/
def Obligations.TallyCommandAndWydakGather : Prop :=
  ∀ (s : State), s.live = true →
    (∀ c m, s.mixed = false → s.upsets = [] → s.has .core c = true → (∃ rest, (s.core c).inbox = m :: rest) → m.code = 2 →
      (let t := fieldAt m.desc 8 1
       let n := fieldAt m.desc 0xC 4
       let count := s.fld (COR_TALLY c t) COR_TALLY_count
       let limit := s.fld (COR_TALLY c t) COR_TALLY_limit
       (t < 48 → limit ≠ 0 → n = 0 ∨ count + n ≤ limit → (∀ w ∈ (s.core c).waiters, w.tally ≠ t) → ∃ u : State, exec (.tallyAdd c) s = .next (u.complete m.ref 0 0 0 0) ∧
         u.fld (COR_TALLY c t) COR_TALLY_count = count + n ∧ (u.core c).inbox = (s.core c).inbox.drop 1 ∧ u.mem = s.mem ∧
         u.frozen = s.frozen ∧ (∀ k, k < 48 → k ≠ t → u.reg (COR_TALLY c k) = s.reg (COR_TALLY c k))) ∧
       (t < 48 → limit = 0 ∨ (n ≠ 0 ∧ limit < count + n) → ∃ u : State, exec (.tallyAdd c) s = .next (u.complete m.ref 0x0B 0 0x1003 0) ∧
         u.reg (COR_TALLY c t) = s.reg (COR_TALLY c t) ∧ u.isFrozen (s.qpMst m.ref.qp) = true ∧
         u.bit (COR_ERR c) COR_ERR_tally_limit = true ∧ (u.core c).inbox = (s.core c).inbox.drop 1 ∧ u.mem = s.mem))) ∧
    (∀ c, (∀ m ∈ (s.core c).inbox.head?, m.code ≠ 2) ∨ s.mixed = true → exec (.tallyAdd c) s = .next s) ∧
    (∀ d fold c, drHead s d wydakCode = some (fold, c) → s.isFrozen (drMst d) = false →
      (let m := s.qpMst c.ref.qp
       let rb := fieldAt c.desc 2 2
       let count := fieldAt c.desc 4 4
       let base := s.fld (QUE_WYDAK_BASE c.ref.qp) QUE_WYDAK_BASE_base * 2 ^ 26
       16 ≤ rb → ∀ l s1 s2, localRead m (fieldAt c.desc 8 8) (4 * count) (s.dropDr d) = .done l false s1 →
         wydakRows m base rb (fieldAt c.desc 24 4)
           ((rangeFrom 0 count).map (fun k => (fieldAt l (4 * k) 4, fieldAt c.desc 16 8 + k * rb))) s1 = .done s2 →
         exec (.wydakGather d) s = .next ((s2.setDrover d (s2.drover d).settle).complete c.ref 0 0 0 0) ∧
         MemBut (fieldAt c.desc 16 8) (count * rb) s s2 ∧ ∀ j, OnlyWoken j s s2)) ∧
    (∀ (m : Mst) (base rb bias w dst : Nat), w % 2 ^ 24 = 0xFFFFFF → ∀ s1, localWrite m dst (List.replicate rb 0) s = .done [] false s1 →
      wydakRows m base rb bias [(w, dst)] s = .done s1) ∧
    (∀ (m : Mst) (base rb bias w dst : Nat) (b : List Byte) (s1 s2 : State), w % 2 ^ 24 ≠ 0xFFFFFF →
      base + (w % 2 ^ 24 + bias) % 2 ^ 24 * rb + rb ≤ 0x8000000000 →
      localRead m (base + (w % 2 ^ 24 + bias) % 2 ^ 24 * rb) rb s = .done b false s1 → localWrite m dst b s1 = .done [] false s2 →
      wydakRows m base rb bias [(w, dst)] s = .done s2)

/-- R308, R312, R315, R316, R321: the states of link n. The model's choices: that a training timeout sets LNK_ERR.down and makes 0x4002, and
the state of a link between reset and its first event (log 139), the number that an INIT block carries (log 21), max_retries 0 (log
31), and the credits of a link that goes Down (log 148). -/
def Obligations.LinkStateChanges : Prop :=
  ∀ (n : Nat) (s : State), s.live = true → s.has .link n = true →
    (let st := s.lnkState n
     let k := s.lnk n
     let trained (t : State) (lane snr prec to_ : Nat) : Prop := t.fld (LNK_LANE n lane) LNK_LANE_snr = snr ∧
       t.fld (LNK_LANE n lane) LNK_LANE_precoding = prec ∧ t.fld (LNK_LANE n lane) LNK_LANE_train_state = to_
     let lanes := [LNK_STATUS n, LNK_LANE n 0, LNK_LANE n 1]
     let from_ (m j : Nat) (v : Option (Nat × Nat)) : Bool := v.any (fun q => decide (q.1 = m) && decide (q.2 / 16 = j))
     let lost (t : State) : Prop := t.lnk n = { slots := k.slots, owedCredit := (t.lnk n).owedCredit, used := creditBack k.used (k.retry.flatMap (·.ends) ++ k.out.map (·.credit)) } ∧
       (∀ m, m ≠ n → t.lnk m = { s.lnk m with owedCredit := (t.lnk m).owedCredit }) ∧
       (∀ m j, (t.lnk m).owedCredit.getD j 0 = (s.lnk m).owedCredit.getD j 0 +
         (k.tx.filter (fun p => from_ m j p.via)).length + (k.out.filter (fun e => from_ m j e.via)).length) ∧
       t.bit (LNK_STATUS n) LNK_STATUS_in_port = false ∧ t.bit (LNK_ERR n) LNK_ERR_down = true
     let down (r : Nat) (t : State) : Prop := lost t ∧
       (LogOpen s → HasRecord s t 0x4002 4 n n r (s.fld (LNK_SEQ n) LNK_SEQ_tx_acked) (s.fld (LNK_NEIGHBOUR n) LNK_NEIGHBOUR_device)) ∧
       RegsBut (lanes ++ [LNK_ERR n, LNK_DISCARDS n] ++ recordRegs) s t ∧
       t = { s with regs := t.regs, scheds := t.scheds, sram := t.sram, msix := t.msix, links := t.links }
     (∀ snr0 snr1 prec0 prec1, snr0 < 65536 → snr1 < 65536 → prec0 < 2 → prec1 < 2 →
       (lnkTraining s n = true → ∃ t, exec (.linkTrainingDone n snr0 snr1 prec0 prec1) s = .next t ∧ t.lnkState n = 2 ∧
         trained t 0 snr0 prec0 2 ∧ trained t 1 snr1 prec1 2 ∧ RegsBut (lanes ++ recordRegs) s t ∧
         t = { s with regs := t.regs, scheds := t.scheds }) ∧
       (lnkTraining s n = false → exec (.linkTrainingDone n snr0 snr1 prec0 prec1) s = .next s ∧ exec (.trainingTimeout n) s = .next s)) ∧
     (lnkTraining s n = true → ∃ t r, exec (.trainingTimeout n) s = .next t ∧ t.lnkState n = 5 ∧
       t.bit (LNK_ERR n) LNK_ERR_training = true ∧ trained t 0 0 0 3 ∧ trained t 1 0 0 3 ∧ lost t ∧
       (LogOpen s → (∃ p0 p1 p2 p3, HasRecord s t 0x4003 4 n p0 p1 p2 p3) ∧ HasRecord (s.wide LOG_SRAM_HEAD 1) t 0x4002 4 n n r
         (s.fld (LNK_SEQ n) LNK_SEQ_tx_acked) (s.fld (LNK_NEIGHBOUR n) LNK_NEIGHBOUR_device)) ∧
       RegsBut (lanes ++ [LNK_ERR n, LNK_DISCARDS n] ++ recordRegs) s t ∧ t.mem = s.mem) ∧
     (st = 2 → ∃ t ctl, exec (.alignmentDone n) s = .next t ∧ t.lnkState n = 3 ∧
       t.lineOut = s.lineOut ++ [(n, List.replicate 120 0, ctl)] ∧ bitsOf ctl 23 20 = 3 ∧
       bitsOf ctl 63 48 = s.fld (LNK_SEQ n) LNK_SEQ_tx_next ∧ RegsBut ([LNK_STATUS n] ++ recordRegs) s t) ∧
     (st ≠ 2 → exec (.alignmentDone n) s = .next s) ∧
     (st = 4 → ∃ t, exec (.lossOfLock n) s = .next t ∧ t.lnkState n = 5 ∧ down 2 t) ∧
     (st ≠ 4 → exec (.lossOfLock n) s = .next s) ∧
     (k.retry = [] ∨ lnkLive s n = false → exec (.retryDeadline n) s = .next s) ∧
     (k.retry ≠ [] → lnkLive s n = true →
       (max 1 (s.fld (LNK_RETRY_CFG n) LNK_RETRY_CFG_max_retries) ≤ k.resends → ∃ t, exec (.retryDeadline n) s = .next t ∧
         t.lnkState n = 5 ∧ down 1 t) ∧
       (k.resends < max 1 (s.fld (LNK_RETRY_CFG n) LNK_RETRY_CFG_max_retries) → ∃ t l, exec (.retryDeadline n) s = .next t ∧
         t.lineOut = s.lineOut ++ l ∧
         l.map (fun b => (b.1, b.2.1, bitsOf b.2.2 63 48)) = k.retry.map (fun e => (n, padTo 120 0 e.data, e.seq % 65536)) ∧
         (t.lnk n).retry = k.retry ∧ (t.lnk n).resends = k.resends + 1 ∧ (t.lnk n).tx = k.tx ∧ RegsBut [LNK_RETRIES n] s t)) ∧
     (st = 5 → s.bit (LNK_RETRY_CFG n) LNK_RETRY_CFG_auto_retrain = true → ∃ t, exec (.retrainTimer n) s = .next t ∧
       t.lnkState n = 1 ∧ trained t 0 0 0 1 ∧ trained t 1 0 0 1 ∧ RegsBut (lanes ++ recordRegs) s t ∧
       t = { s with regs := t.regs, scheds := t.scheds }) ∧
     (st ≠ 5 ∨ s.bit (LNK_RETRY_CFG n) LNK_RETRY_CFG_auto_retrain = false → exec (.retrainTimer n) s = .next s) ∧
     (∀ cls sub, MayWrite ⟨cls, sub⟩ (LNK_CTRL n) s →
       (st = 6 ∨ (st = 0 ∧ firstTraining s n = false) → exec (.lnkRetrain cls sub n) s = .next s) ∧
       (1 ≤ st ∧ st ≤ 4 ∨ (st = 0 ∧ firstTraining s n = true) → ∃ t, exec (.lnkRetrain cls sub n) s = .next t ∧ t.lnkState n = 1 ∧ down 3 t ∧ trained t 0 0 0 1 ∧
         trained t 1 0 0 1) ∧
       (st = 5 → ∃ t, exec (.lnkRetrain cls sub n) s = .next t ∧ t.lnkState n = 1 ∧ trained t 0 0 0 1 ∧ trained t 1 0 0 1 ∧
         RegsBut (lanes ++ recordRegs) s t ∧ t = { s with regs := t.regs, scheds := t.scheds }) ∧
       (let counts := [LNK_FEC_CORRECTED n, LNK_FEC_UNCORRECTABLE n, LNK_CRC_ERRORS n, LNK_RETRIES n, LNK_DISCARDS n]
        ∃ t, exec (.lnkClearCounts cls sub n) s = .next t ∧ (∀ r ∈ counts, t.fld r cntFld = 0 ∧ t.bit r satFld = false) ∧
          RegsBut counts s t ∧ t = { s with regs := t.regs })))

/-- R303, R306, R308, R312, R313, R315: blocks that arrive on link n. That an INIT block's seq is the number to expect is the
model's choice (log 21), as are max_retries 0 (log 31), the order of a packet's checks (log 117), the answer to each block (log 140), which
slot a packet takes (log 147) and the discard without a free one (log 137). -/
def Obligations.LinkBlocksAreTakenInOrder : Prop :=
  ∀ (n : Nat) (data : List Byte) (ctl good bad : Nat) (s : State), s.live = true → s.has .link n = true →
    (let k := s.lnk n
     let blk := padTo 120 0 data
     let ack := bitsOf ctl 47 32
     let e := s.fld (LNK_SEQ n) LNK_SEQ_rx_expected
     let d := modDiff 16 (bitsOf ctl 63 48) e
     let counts := [LNK_FEC_CORRECTED n, LNK_FEC_UNCORRECTABLE n]
     let fresh := 0 < modDiff 16 ack (s.fld (LNK_SEQ n) LNK_SEQ_tx_acked) ∧
       modDiff 16 ack ((s.fld (LNK_SEQ n) LNK_SEQ_tx_next + 65535) % 65536) ≤ 0
     let one (kind a : Nat) (t : State) : Prop := ∃ c, t.lineOut = s.lineOut ++ [(n, List.replicate 120 0, c)] ∧
       bitsOf c 23 20 = kind ∧ bitsOf c 47 32 = a
     let idles (t : State) : Prop := one 1 ((e + 65535) % 65536) t
     let naked (t : State) : Prop := (t.lnk n).rxBuf = k.rxBuf ∧ (t.lnk n).slots = k.slots ∧ t.fld (LNK_SEQ n) LNK_SEQ_rx_expected = e ∧
       (k.nakFor = some e → idles t) ∧ (k.nakFor ≠ some e → (t.lnk n).nakFor = some e ∧ one 2 ((e + 65535) % 65536) t)
     let acked (t : State) : Prop :=
       (t.lnk n).retry = (if fresh then k.retry.filter (fun x => decide (0 < modDiff 16 x.seq ack)) else k.retry) ∧
       t.fld (LNK_SEQ n) LNK_SEQ_tx_acked = (if fresh then ack else s.fld (LNK_SEQ n) LNK_SEQ_tx_acked) ∧
       (t.lnk n).used.getD (bitsOf ctl 31 30 * 4 + bitsOf ctl 29 28) 0 =
         k.used.getD (bitsOf ctl 31 30 * 4 + bitsOf ctl 29 28) 0 - bitsOf ctl 27 24
     let frame (l : List Nat) (t : State) : Prop := RegsBut (counts ++ l) s t ∧ (∀ m, m ≠ n → t.lnk m = s.lnk m) ∧
       t.mem = s.mem ∧ t.cores = s.cores ∧ t.frozen = s.frozen
     (lnkLive s n = false → exec (.dataBlock n data ctl good bad) s = .next s ∧ exec (.nakBlock n data ctl good bad) s = .next s ∧
       exec (.idleBlock n data ctl good bad) s = .next s ∧ exec (.initBlock n data ctl good bad) s = .next s) ∧
     (lnkLive s n = true → blockGood data ctl = false →
       (∃ t, exec (.dataBlock n data ctl good bad) s = .next t ∧ naked t ∧ frame [LNK_CRC_ERRORS n] t) ∧
       (∃ t, exec (.nakBlock n data ctl good bad) s = .next t ∧ naked t ∧ frame [] t) ∧
       (∃ t, exec (.idleBlock n data ctl good bad) s = .next t ∧ naked t ∧ frame [] t) ∧
       (∃ t, exec (.initBlock n data ctl good bad) s = .next t ∧ naked t ∧ frame [] t)) ∧
     (lnkLive s n = true → blockGood data ctl = true → k.tx = [] → k.out = [] →
       (∃ t, exec (.idleBlock n data ctl good bad) s = .next t ∧ acked t ∧ idles t ∧ (t.lnk n).slots = k.slots ∧
         (t.lnk n).rxBuf = k.rxBuf ∧ frame [LNK_SEQ n] t ∧ t.fld (LNK_SEQ n) LNK_SEQ_rx_expected = e) ∧
       (0 < d → ∃ t, exec (.dataBlock n data ctl good bad) s = .next t ∧ naked t ∧ acked t ∧ frame [LNK_SEQ n] t) ∧
       (d < 0 → ∃ t, exec (.dataBlock n data ctl good bad) s = .next t ∧ acked t ∧ idles t ∧
         (t.lnk n).slots = k.slots ∧ (t.lnk n).rxBuf = k.rxBuf ∧ t.fld (LNK_SEQ n) LNK_SEQ_rx_expected = e ∧ frame [LNK_SEQ n] t) ∧
       (let buf := k.rxBuf ++ blk
        let len := fieldAt buf 6 2
        let taken (t : State) : Prop := exec (.dataBlock n data ctl good bad) s = .next t ∧ acked t ∧
          t.fld (LNK_SEQ n) LNK_SEQ_rx_expected = (e + 1) % 65536 ∧ t.reg (LNK_RX_BLOCKS n) = s.reg (LNK_RX_BLOCKS n) + 1 ∧ one 1 e t
        d = 0 → buf.head? ≠ some 0 →
          (buf.length < 32 + len → ∃ t, taken t ∧ (t.lnk n).rxBuf = buf ∧ (t.lnk n).slots = k.slots ∧
            frame [LNK_SEQ n, LNK_RX_BLOCKS n] t) ∧
          (let p := pktOf (buf.take 32) ((buf.drop 32).take len)
           let regs := [LNK_SEQ n, LNK_RX_BLOCKS n, LNK_RX_PAYLOAD n]
           let dropped (rs : List Nat) : Prop := ∃ t r, taken t ∧ (t.lnk n).rxBuf = [] ∧ (t.lnk n).slots = k.slots ∧
             t.bit (LNK_ERR n) LNK_ERR_packet = true ∧ r ∈ rs ∧ (LogOpen s → HasRecord s t 0x4004 4 n n r p.src p.ty) ∧
             frame (regs ++ [LNK_ERR n, LNK_DISCARDS n] ++ recordRegs) t
           let good := pktFormatGood (buf.take 32) = true ∧ pcrcGood (buf.take 32) ((buf.drop 32).take len) = true
           32 + len = buf.length →
            (freePlaces s n (creditIdx p) = [] → dropped [2]) ∧
            (∀ place l, freePlaces s n (creditIdx p) = place :: l → s.committed = false ∨ p.ty = 0xC4 ∨ p.dst = s.devId →
              (good → p.hops < 32 → recMode s ≠ 1 → ∃ t, taken t ∧ (t.lnk n).rxBuf = [] ∧
                (t.lnk n).slots = k.slots ++ [{ p with place := place }] ∧
                frame (if p.ty = 0xC1 ∨ p.ty = 0xC2 then regs ++ recordRegs else regs) t) ∧
              (good → 32 ≤ p.hops → dropped [4]) ∧ (¬good → dropped [1, 2])))) ∧
       (let left := if fresh then k.retry.filter (fun x => decide (0 < modDiff 16 x.seq ack)) else k.retry
        (left = [] → ∃ t, exec (.nakBlock n data ctl good bad) s = .next t ∧ acked t ∧ idles t) ∧
        (left ≠ [] → (if fresh then 0 else k.resends) < max 1 (s.fld (LNK_RETRY_CFG n) LNK_RETRY_CFG_max_retries) →
          ∃ t l, exec (.nakBlock n data ctl good bad) s = .next t ∧ acked t ∧ t.lineOut = s.lineOut ++ l ∧
            l.map (fun b => (b.1, b.2.1, bitsOf b.2.2 63 48)) = left.map (fun x => (n, padTo 120 0 x.data, x.seq % 65536)) ∧
            frame [LNK_SEQ n, LNK_RETRIES n] t))) ∧
     (lnkLive s n = true → blockGood data ctl = true → k.tx = [] → k.out = [] →
       (let rest (u : State) : Prop := acked u ∧ u.lnk n = { k with gotInit := (u.lnk n).gotInit, owedCredit := (u.lnk n).owedCredit, retry := (u.lnk n).retry, resends := (u.lnk n).resends, used := (u.lnk n).used } ∧
          (∀ m, m ≠ n → u.lnk m = s.lnk m) ∧ RegsBut (counts ++ [LNK_SEQ n]) s u ∧ u = { s with regs := u.regs, links := u.links, lineOut := u.lineOut }
        (s.lnkState n = 4 → ∃ t, exec (.initBlock n data ctl good bad) s = .next t ∧ idles t ∧ rest t ∧ (t.lnk n).gotInit = k.gotInit) ∧
        (s.lnkState n = 3 → k.gotInit = true → ∃ t, exec (.initBlock n data ctl good bad) s = .next t ∧ one 3 ((e + 65535) % 65536) t ∧ rest t ∧
          (t.lnk n).gotInit = true) ∧
        (s.lnkState n = 3 → k.gotInit = false → ∃ u, exec (.initBlock n data ctl good bad) s = .next (u.sendOn n (neighbourPacket s n)) ∧
          one 3 ((bitsOf ctl 63 48 + 65535) % 65536) u ∧ u.fld (LNK_SEQ n) LNK_SEQ_rx_expected = bitsOf ctl 63 48 ∧ (u.lnk n).gotInit = true ∧
          rest u))))

/-- R347, R351 to R355, R358, R446: STR_STAGE, STAGING_DONE, STR_COMMIT, SWITCH_TICK, UNIT_SWITCH and STR_TIMEOUT_EXPIRY. What is
wrong with an image is imageFault; which cores wait is waitingCores. The model's choices: where the copies of the image and of its rank
tables lie (log 46), that a switch tick waits while a commit is mixed (log 100), and status 0x06 of an image with an uncorrectable
atom (log 167). -/
def Obligations.StructureImageIsStagedAndCommitted : Prop :=
  ∀ (s : State), s.live = true →
    (∀ cls sub a, MayWrite ⟨cls, sub⟩ STR_STAGE s →
      (s.bit STR_STATUS STR_STATUS_staging = true ∨ s.mixed = true →
        exec (.strStage cls sub a) s = .next (s.setFld STR_ERR STR_ERR_busy_write 1)) ∧
      (s.bit STR_STATUS STR_STATUS_staging = false → s.mixed = false → ∃ t, exec (.strStage cls sub a) s = .next t ∧
        t = { s with regs := t.regs, str := { s.str with staging := some (fget STR_STAGE_address (BitVec.ofNat 64 a)), image := none } } ∧
        t.bit STR_STATUS STR_STATUS_staging = true ∧ t.bit STR_STATUS STR_STATUS_staged = false ∧ RegsBut [STR_STATUS] s t)) ∧
    (let failed (u t : State) (st i k n : Nat) : Prop := t.str = { s.str with staging := none } ∧
       t.bit STR_STATUS STR_STATUS_staging = false ∧ t.fld STR_STATUS STR_STATUS_stage_status = st % 256 ∧
       t.fld STR_STATUS STR_STATUS_stage_section = i % 256 ∧ t.bit STR_ERR STR_ERR_stage_failed = true ∧
       (LogOpen u → HasRecord u t 0x8803 0 3 st i k n) ∧ RegsBut ([STR_STATUS, STR_ERR] ++ recordRegs) u t ∧ t.mem = u.mem ∧ t.cores = s.cores
     let s0 : State := { s with str := { s.str with staging := none } }
     (s.str.staging = none → exec .stagingDone s = .next s) ∧
     (∀ a, s.str.staging = some a →
       (waits s a = true ∨ waits s copyArea = true → exec .stagingDone s = .next s) ∧
       (waits s a = false → waits s copyArea = false →
         (imageLies s a 0x100 = false ∨ permitted s 138 s.devId a 0x100 kRead = false →
           ∃ t, exec .stagingDone s = .next t ∧ failed s0 t 0x02 0xFF 0 0) ∧
         (imageLies s a 0x100 = true → permitted s 138 s.devId a 0x100 kRead = true → ∀ b ue s1, readImage a s0 = (b, ue, s1) →
           s1.mem = s.mem ∧
           (ue = true → ∃ t, exec .stagingDone s = .next t ∧ failed s1 t 0x06 0xFF 0 0) ∧
           (ue = false → b.length ≠ imgLength b → ∃ t, exec .stagingDone s = .next t ∧ failed s1 t 0x02 0xFF 0 0) ∧
           (ue = false → b.length = imgLength b →
             (let s2 := copyImage b s1
              MemBut copyArea 0x1000000 s1 s2 ∧
              (∀ st i k n, imageFault s1 a b = some (st, i, k, n) → ∃ t, exec .stagingDone s = .next t ∧ failed s2 t st i k n) ∧
              (imageFault s1 a b = none → ∃ t ps, exec .stagingDone s = .next t ∧
                t.str = { s.str with staging := none, image := some (b, ps) } ∧ t.bit STR_STATUS STR_STATUS_staged = true ∧
                t.bit STR_STATUS STR_STATUS_staging = false ∧ t.fld STR_STATUS STR_STATUS_stage_status = 0 ∧ t.cores = s.cores ∧
                (sectionOf? b 7 = none → ps = [] ∧ t.mem = s2.mem) ∧
                (∀ d, sectionOf? b 7 = some d → ps.length = 8 ∧
                  ∀ x, (∀ m, m < 8 → x < ps.getD m 0 ∨ ps.getD m 0 + 2 * phaseRanks d m ≤ x) → t.byte x = s2.byte x)))))))) ∧
    (∀ cls sub v, MayWrite ⟨cls, sub⟩ STR_COMMIT s →
      (let ep := fget STR_COMMIT_epoch (BitVec.ofNat 64 v)
       let refused (st : Nat) : State := (s.setFld STR_STATUS STR_STATUS_commit_status st).setFld STR_ERR STR_ERR_commit_failed 1
       (s.str.image = none → exec (.strCommit cls sub v) s = .next (refused 0x02)) ∧
       (∀ b place, s.str.image = some (b, place) →
         (ep ≠ (imgBase b + 1) % 2 ^ 32 ∨ (s.committed = true ∧ imgBase b ≠ s.fld STR_EPOCH STR_EPOCH_current) →
           exec (.strCommit cls sub v) s = .next (refused 0x09)) ∧
         (ep = (imgBase b + 1) % 2 ^ 32 → s.committed = false ∨ imgBase b = s.fld STR_EPOCH STR_EPOCH_current →
           ∃ t, exec (.strCommit cls sub v) s = .next t ∧ t.fld STR_STATUS STR_STATUS_commit_status = 0 ∧ t.bit STR_STATUS STR_STATUS_staged = false ∧
             t = { s with regs := t.regs, str := { s.str with image := none, next := some (ep, b, place) } } ∧
             RegsBut [STR_STATUS] s t)))) ∧
    (s.str.next = none ∨ s.mixed = true → exec .switchTick s = .next s) ∧
    (∀ ep b place, s.str.next = some (ep, b, place) → s.mixed = false →
      (let wait := waitingCores s b
       ∃ t, exec .switchTick s = .next t ∧ t.reg STR_EPOCH = BitVec.ofNat 64 ep ∧ t.committed = true ∧ t.str.next = none ∧
         t.meas.getD 2 0 = extendOf (s.meas.getD 2 0) (leBytes 4 ep ++ leBytes 64 (Config.shake256 b).toNat) ∧
         t.mixed = decide (wait ≠ []) ∧ (wait = [] → t.reg STR_COMMITS = s.reg STR_COMMITS + 1) ∧
         (∀ c, s.has .core c = true → c ∉ wait → (t.core c).inService = (coreEntry s b c).1 ∧
           t.fld (COR_ARR_CFG c) COR_ARR_CFG_split = (coreEntry s b c).2 % 4) ∧
         (∀ c, c ∈ wait → (t.core c).inService = (s.core c).inService ∧ (t.core c).binds = (s.core c).binds ∧
           bitOf (t.fld STR_PENDING_CORES STR_PENDING_CORES_cores) c = true) ∧
         (∀ d n, sectionOf? b 3 = some d → n < 16384 → t.fld (QUE_STATUS n) QUE_STATUS_class = bitsOf (ent4 d n) 5 2 % 8 ∧
           t.fld (QUE_STATUS n) QUE_STATUS_port = bitsOf (ent4 d n) 1 1))) ∧
    (∀ c, let pend := s.fld STR_PENDING_CORES STR_PENDING_CORES_cores
      (s.str.force = none ∨ bitOf pend c = false → exec (.unitSwitch c) s = .next s) ∧
      (∀ b place, s.str.force = some (b, place) → c < 32 → bitOf pend c = true →
        (let busy := if (s.core c).holdA then coreAccess (s.core c) else !coreIdle (s.core c)
         (busy = true → exec (.unitSwitch c) s = .next s) ∧
         (busy = false → ∃ t, exec (.unitSwitch c) s = .next t ∧ (t.core c).inService = (coreEntry s b c).1 ∧
           (s.str.heldAdds.filter (fun h => decide (h.target = c)) = [] →
             (t.core c).maps = none ∧ (t.core c).holdA = false ∧ (∀ k, k ≠ c → t.core k = s.core k) ∧
             ((coreEntry s b c).1 = false → (t.core c).binds = []) ∧
             ((coreEntry s b c).2 ≠ s.fld (COR_ARR_CFG c) COR_ARR_CFG_split → (t.core c).subs = []) ∧
             t.fld STR_PENDING_CORES STR_PENDING_CORES_cores = pend - 2 ^ c ∧
             (pend = 2 ^ c → t.mixed = false ∧ t.reg STR_COMMITS = s.reg STR_COMMITS + 1 ∧
               (LogOpen s → ∃ p1, HasRecord s t 0x8801 0 3 (s.fld STR_EPOCH STR_EPOCH_current) p1 s.str.waited 0)) ∧
             (pend ≠ 2 ^ c → t.mixed = s.mixed)) ∧
           (∀ h, s.str.heldAdds = [h] → h.target = c → h.n ≠ 0 → s.has .core c = true → h.tally < 48 →
             s.fld (COR_TALLY c h.tally) COR_TALLY_limit ≠ 0 →
             s.fld (COR_TALLY c h.tally) COR_TALLY_count + h.n ≤ s.fld (COR_TALLY c h.tally) COR_TALLY_limit →
             (∀ y ∈ (s.core c).waiters, y.tally ≠ h.tally) → s.upsets = [] → ∃ u : State, t = (u.afterCore h.core).settleStop h.core ∧ u.str.heldAdds = [] ∧
               u.fld (COR_TALLY c h.tally) COR_TALLY_count = s.fld (COR_TALLY c h.tally) COR_TALLY_count + h.n ∧
               (u.core h.core).adds = (s.core h.core).adds.filter (fun q => decide (q.1 ≠ h.tag))))))) ∧
    (let us := s.fld STR_TIMEOUT STR_TIMEOUT_us
     (s.mixed = false ∨ s.str.late = true ∨ us = 0 ∨ (s.reg SCH_TICK).toNat < s.str.since + us → exec .strTimeoutExpiry s = .next s) ∧
     (s.mixed = true → s.str.late = false → us ≠ 0 → s.str.since + us ≤ (s.reg SCH_TICK).toNat → ∃ t, exec .strTimeoutExpiry s = .next t ∧
       t.str = { s.str with late := true } ∧ t.bit STR_ERR STR_ERR_timeout = true ∧ Raised 0 t ∧ t.mixed = true ∧ RegsBut ([STR_ERR] ++ recordRegs) s t ∧
       (LogOpen s → HasRecord s t 0x8804 0 3 (s.fld STR_EPOCH STR_EPOCH_current)
         (s.fld STR_PENDING_CORES STR_PENDING_CORES_cores) ((s.reg STR_PENDING_UNITS).toNat % 2 ^ 32) 0)))

/-- R288 to R290, R297 to R301, R317: the maintenance of stack p and of the on-die SRAM. For roads and collective buffers which commands
fail is the model's choice (log 12) and is not claimed; what REFRESH shows is free (logs 120, 131), what SRAM_PATROL carries is log 12's, and
the place of a packet in a link's buffers log 119's. -/
def Obligations.StackAndSramMaintenance : Prop :=
  ∀ (p : Nat) (s : State), s.live = true →
    (s.has .stack p = true →
      (let st := s.fld (MEM_STATUS p) MEM_STATUS_state
       (st ≠ 0 → ∀ ok, exec (.stackTrainingDone p ok) s = .next s) ∧
       (st = 0 → (∃ t, exec (.stackTrainingDone p true) s = .next (releaseRecs t) ∧ t.fld (MEM_STATUS p) MEM_STATUS_state = 1 ∧
           fwState t = (if p = 0 ∧ fwState s = 0 then 1 else fwState s) ∧ RegsBut [MEM_STATUS p, SCH_FW_STATUS] s t ∧ t = { s with regs := t.regs }) ∧
         (∃ t, exec (.stackTrainingDone p false) s = .next (releaseRecs t) ∧ t.fld (MEM_STATUS p) MEM_STATUS_state = 2 ∧
           t.bit (MEM_ERR p) MEM_ERR_training = true ∧ Raised 0 t ∧ RegsBut ([MEM_STATUS p, MEM_ERR p] ++ recordRegs) s t ∧
           (LogOpen s → HasRecord s t 0x5006 3 p p 0 0 0) ∧ t.mem = s.mem ∧ t.cores = s.cores)) ∧
       (∃ t, exec (.refresh p) s = .next t ∧ RegsBut [MEM_STATUS p] s t ∧
         t = { s with regs := t.regs, atomErrs := t.atomErrs, caErrs := t.caErrs, free := t.free } ∧ t.fld (MEM_STATUS p) MEM_STATUS_state = st ∧
         t.fld (MEM_STATUS p) MEM_STATUS_queue_max ≤ 64 ∧ t.fld (MEM_STATUS p) MEM_STATUS_refresh_x2 = (if 85 < t.fld (MEM_STATUS p) MEM_STATUS_temp then 1
           else if t.fld (MEM_STATUS p) MEM_STATUS_temp < 80 then 0 else s.fld (MEM_STATUS p) MEM_STATUS_refresh_x2) ∧
         (∃ atom, atom / 0x40000000 = p ∧ ∀ x, x ≠ atom → t.badSyms x = s.badSyms x) ∧
         s.parityErrs p ≤ t.parityErrs p ∧ (∀ q, q ≠ p → t.parityErrs q = s.parityErrs q)) ∧
       (st ≠ 1 ∨ s.fld (MEM_SCRUB p) MEM_SCRUB_period_hours = 0 → exec (.scrub p) s = .next s) ∧
       (st = 1 → s.fld (MEM_SCRUB p) MEM_SCRUB_period_hours ≠ 0 →
         (let pos := s.fld (MEM_SCRUB_POS p) MEM_SCRUB_POS_position
          let atom := p * 0x40000000 + pos
          let lost := 3 < s.parityErrs p
          ∃ t, exec (.scrub p) s = .next t ∧ t.fld (MEM_SCRUB_POS p) MEM_SCRUB_POS_position = (pos + 1) % 0x40000000 ∧
            t.mem = s.mem ∧ t.cores = s.cores ∧ t.frozen = s.frozen ∧
            (s.parityErrs p ≠ 0 → t.bit (MEM_ERR p) MEM_ERR_ca_retry = true ∧ t.parityErrs p = s.parityErrs p - 4) ∧
            (¬lost → t.reg (MEM_BYTES_READ p) = s.reg (MEM_BYTES_READ p) + 64) ∧
            (s.parityErrs p = 0 → s.atomErr atom = 0 → RegsBut [MEM_SCRUB_POS p, MEM_BYTES_READ p] s t ∧ t.atomErrs = s.atomErrs) ∧
            (¬lost → s.atomErr atom = 1 → t.badSyms atom = 0 ∧ t.bit (MEM_ERR p) MEM_ERR_ce = true ∧
              t.reg (MEM_CE_COUNT p) = (s.count (MEM_CE_COUNT p) 1).reg (MEM_CE_COUNT p) ∧
              t.reg (MEM_BYTES_WRITTEN p) = s.reg (MEM_BYTES_WRITTEN p) + 64) ∧
            (lost ∨ s.atomErr atom = 2 → t.atomErrs = s.atomErrs ∧ t.bit (MEM_ERR p) MEM_ERR_ue_scrub = true ∧
              t.reg (MEM_UE_ADDR p) = BitVec.ofNat 64 (atom * 64) ∧
              t.reg (MEM_UE_COUNT p) = (s.count (MEM_UE_COUNT p) 1).reg (MEM_UE_COUNT p) ∧
              (LogOpen s → HasRecord s t 0x5002 3 p p (pseudoChannel (pos * 64)) (atom * 64 % 2 ^ 32) (atom * 64 / 2 ^ 32))))) ∧
       (∀ cls sub, MayWrite ⟨cls, sub⟩ (MEM_CTRL p) s →
         exec (.scrubNow cls sub p) s = .next (s.setFld (MEM_SCRUB_POS p) MEM_SCRUB_POS_position 0) ∧
         (let counts := [MEM_CE_COUNT p, MEM_UE_COUNT p]
          ∃ t, exec (.memClearCounts cls sub p) s = .next t ∧ (∀ r ∈ counts, t.fld r cntFld = 0 ∧ t.bit r satFld = false) ∧
            RegsBut counts s t ∧ t = { s with regs := t.regs })) ∧
       (∀ cls sub i v, i < 64 → MayWrite ⟨cls, sub⟩ (MEM_MARK p i) s →
         (let w : Word := BitVec.ofNat 64 v
          (36 ≤ fget MEM_MARK_pin w → exec (.memMark cls sub p i v) s = .next s) ∧
          (fget MEM_MARK_pin w < 36 → ∃ t, exec (.memMark cls sub p i v) s = .next t ∧ t = { s with regs := t.regs } ∧
            RegsBut [MEM_MARK p i] s t ∧ t.fld (MEM_MARK p i) MEM_MARK_pin = fget MEM_MARK_pin w ∧
            t.fld (MEM_MARK p i) MEM_MARK_valid = fget MEM_MARK_valid w ∧ t.fld (MEM_MARK p i) MEM_MARK_source = 0))))) ∧
    (∀ cls sub, MayWrite ⟨cls, sub⟩ MEM_SRAM_CTRL s →
      (let counts := [MEM_SRAM_CE_COUNT, MEM_SRAM_UE_COUNT]
       ∃ t, exec (.sramClearCounts cls sub) s = .next t ∧ (∀ r ∈ counts, t.fld r cntFld = 0 ∧ t.bit r satFld = false) ∧
         RegsBut counts s t ∧ t = { s with regs := t.regs })) ∧
    (∀ kind inst off, kind < 16 → (sramHere s kind inst off = false →
        ∀ d, exec (.sramPatrol kind inst off d) s = .next s ∧ exec (.sramPatrol (kind + 16) inst off d) s = .next s) ∧
      (sramHere s kind inst off = true →
        (∀ d, (kind ≠ 3 → exec (.sramPatrol (kind + 16) inst off d) s = .next { s with upsets := s.upsets ++ [⟨kind, inst, off, d⟩] }) ∧
          (kind = 3 → exec (.sramPatrol (kind + 16) inst off d) s = .next (setStaged inst off (some d) s))) ∧
        (let s1 : State := if kind = 3 then setStaged inst off none s
           else { s with upsets := s.upsets.filter (fun u => !u.meets kind inst off 1) }
         exec (.sramPatrol kind inst off false) s = .next ((s1.count MEM_SRAM_CE_COUNT 1).setFld MEM_SRAM_ERR MEM_SRAM_ERR_ce 1)) ∧
        (let act := sramAction s kind inst off
         ∃ t, exec (.sramPatrol kind inst off true) s = .next t ∧ (kind = 3 ∨ 7 ≤ kind → t.mem = s.mem) ∧ (kind ≤ 4 ∨ kind = 6 ∨ (kind = 5 ∧ (s.drover inst).rows ≠ []) ∨ t.cores = s.cores) ∧
           (kind ≤ 4 → ∀ u ∈ t.upsets, u ∈ s.upsets) ∧
           (kind ≠ 3 → kind ≤ 4 → (t.core inst).state = .stopped ∧ ((s.core inst).state ≠ .stopped → (t.core inst).stopStatus = 6) ∧
             t.bit MEM_SRAM_ERR MEM_SRAM_ERR_ue_data = true ∧ (∀ k, k ≠ inst → OnlyWoken k s t)) ∧
           (kind = 3 → (∀ b ∈ (t.core inst).stagedA ++ (t.core inst).stagedX, b ∈ (s.core inst).stagedA ++ (s.core inst).stagedX) ∧
             (off / 4096 < (s.core inst).stagedA.length → (t.core inst).stagedA = (s.core inst).stagedA.eraseIdx (off / 4096)) ∧
             (∀ i, off / 4096 = (s.core inst).stagedA.length + i → (t.core inst).stagedX = (s.core inst).stagedX.eraseIdx i) ∧
             RegsBut ([MEM_SRAM_UE_COUNT, MEM_SRAM_UE_LOC] ++ recordRegs) s t) ∧
           (kind = 7 ∨ kind = 8 → t.bit MEM_SRAM_ERR MEM_SRAM_ERR_ue_other = true ∧ Raised 0 t ∧
             RegsBut ([MEM_SRAM_UE_COUNT, MEM_SRAM_UE_LOC, MEM_SRAM_ERR] ++ recordRegs) s t) ∧
           (kind ≤ 4 ∨ kind = 7 ∨ kind = 8 → t.reg MEM_SRAM_UE_COUNT = (s.count MEM_SRAM_UE_COUNT 1).reg MEM_SRAM_UE_COUNT ∧
             t.fld MEM_SRAM_UE_LOC MEM_SRAM_UE_LOC_kind = kind ∧ t.fld MEM_SRAM_UE_LOC MEM_SRAM_UE_LOC_instance = inst % 256) ∧
           (kind = 3 ∨ kind = 7 ∨ kind = 8 → LogOpen s → HasRecord s t 0x5010 (sramUnit kind inst).1 (sramUnit kind inst).2 kind inst (off % 2 ^ 32) act) ∧
           (kind = 9 → ((∀ q ∈ (s.lnk inst).slots, q.place ≠ off) → (t.lnk inst).slots = (s.lnk inst).slots) ∧
             (∀ i, firstIdx (fun q => decide (q.place = off)) (s.lnk inst).slots = some i →
               (t.lnk inst).slots = (s.lnk inst).slots.eraseIdx i ∧ ∀ j, j ≠ inst → t.lnk j = s.lnk j) ∧
             t.bit (LNK_ERR inst) LNK_ERR_buffer_ue = true ∧ t.bit MEM_SRAM_ERR MEM_SRAM_ERR_ue_data = true ∧
             t.reg (LNK_DISCARDS inst) = (s.count (LNK_DISCARDS inst) 1).reg (LNK_DISCARDS inst) ∧
             t.reg MEM_SRAM_UE_COUNT = (s.count MEM_SRAM_UE_COUNT 1).reg MEM_SRAM_UE_COUNT ∧
             RegsBut ([MEM_SRAM_UE_COUNT, MEM_SRAM_UE_LOC, MEM_SRAM_ERR, LNK_ERR inst, LNK_DISCARDS inst] ++ recordRegs) s t))))

/-- R240, R255 to R258, R260, R261, R272, R288 to R290, R297, R299 to R301: APPLICATION, EMB_CTRL and NSR_CTRL, and where the commands of
stacks and SRAM complete. The row's new weights are updArith of the column's
exact gradient (columnGrad), and encodeSlot lays them out; bytes between the parts of a slot stay (log 116). The readings of REFRESH are
free (log 131). -/
def Obligations.RowApplicationAndReducerCounts : Prop :=
  ∀ (p : Nat) (s : State), s.live = true →
    ((s.applier p).flag = none ∨ s.has .stack p = false → exec (.application p) s = .next (rollRetry s)) ∧
    (s.has .stack p = true →
      (let odd := decide ((s.reg COL_STEP).toNat % 2 = 1)
       let used := halfUsed s p odd
       let l := records (s.bytes (halfBase s p odd) used) (used / 16)
       ((s.applier p).flag = some true → ∃ t, exec (.application p) s = .next (rollRetry t) ∧ halfUsed t p odd = 0 ∧ (t.applier p).flag = none ∧
         RegsBut [EMB_STATUS p, EMB_SKIPPED_STEPS] s t ∧ t = { s with regs := t.regs, appliers := t.appliers } ∧
         t.reg EMB_SKIPPED_STEPS = (if othersApply s p then s.reg EMB_SKIPPED_STEPS else s.reg EMB_SKIPPED_STEPS + 1)) ∧
       ((s.applier p).flag = some false → (s.applier p).refusing odd = true → ∃ t, exec (.application p) s = .next (rollRetry t) ∧
         halfUsed t p odd = 0 ∧ (t.applier p).refusing odd = false ∧ (t.applier p).flag = none ∧ RegsBut [EMB_STATUS p] s t ∧
         t = { s with regs := t.regs, appliers := t.appliers }) ∧
       (∀ table row t0 ea e, (s.applier p).flag = some false → (s.applier p).refusing odd = false → touchedRows l = [(table, row)] →
         s.registered table = some t0 → ownEntry s t0 row = some (ea, e) → e.unplaced = false → e.dev = s.devId → e.pasture = p → e.cls ≤ 3 →
         (let size := slotSize t0 e.cls
          let b := s.bytes e.addr size
          let par := rowElems 32 (s.bytes t0.params 64)
          let m := padTo t0.elems 0 (if t0.opt = 0 then [] else slotMoment t0 e.cls 0 b)
          let v := padTo t0.elems 0 (if t0.opt = 2 then slotMoment t0 e.cls 1 b else [])
          let mine := l.filter (fun q => decide (q.1.table = table) && decide (q.1.row = row))
          let res := ((slotWeights t0 e.cls b).zip (rangeFrom 0 t0.elems)).map (fun q =>
            updArith par (par.getD 7 0) t0.opt (columnGrad mine q.2) q.1 (f32 (m.getD q.2 0)) (f32 (v.getD q.2 0)))
          SoundAll s ([(halfBase s p odd, used), (ea, 8), (t0.params, 64), (e.addr, size)] ++ tableReads s table) →
          loadEnd ≤ ea → loadEnd ≤ e.addr → ea + 8 ≤ e.addr ∨ e.addr + size ≤ ea →
          ∃ t, exec (.application p) s = .next (rollRetry t) ∧
            t.bytes e.addr size = encodeSlot s t0 e.cls row b (res.map (·.1)) [res.map (fun r => rneF .fp32 r.2.1), res.map (fun r => rneF .fp32 r.2.2)] ∧
            t.num ea 8 = ({ e with ver := (e.ver + 1) % 4096 } : DirEnt).word % 2 ^ 64 ∧
            (∀ x, x < e.addr ∨ e.addr + size ≤ x → x < ea ∨ ea + 8 ≤ x → t.byte x = s.byte x) ∧
            t.reg (EMB_ROWS_APPLIED p) = s.reg (EMB_ROWS_APPLIED p) + 1 ∧ halfUsed t p odd = 0 ∧ (t.applier p).flag = none ∧
            t.cores = s.cores ∧ t.frozen = s.frozen)))) ∧
    (∀ cls sub, MayWrite ⟨cls, sub⟩ EMB_CTRL s →
      (let counts := (rangeFrom 0 8).map (fun i => EMB_FORWARDED i) ++ (rangeFrom 0 8).map (fun i => EMB_BAD_RECORDS i)
       ∃ t, exec (.embClearCounts cls sub) s = .next t ∧ (∀ r ∈ counts, t.fld r cntFld = 0 ∧ t.bit r satFld = false) ∧
         RegsBut counts s t ∧ t = { s with regs := t.regs })) ∧
    (∀ cls sub, s.has .stack p = true → MayWrite ⟨cls, sub⟩ (NSR_CTRL p) s →
      exec (.nsrClearPop cls sub p) s = .next (s.setNsr p { s.nsr p with live := [] })) ∧
    (s.has .stack p = true →
      (s.fld (MEM_STATUS p) MEM_STATUS_state = 0 →
        ∃ t, exec (.stackTrainingDone p true) s = .next (releaseRecs t) ∧ t.fld (MEM_STATUS p) MEM_STATUS_state = 1 ∧ t = { s with regs := t.regs }) ∧
      (∃ t, exec (.refresh p) s = .next t ∧ RegsBut [MEM_STATUS p] s t ∧
        t = { s with regs := t.regs, atomErrs := t.atomErrs, caErrs := t.caErrs, free := t.free }) ∧
      (s.fld (MEM_STATUS p) MEM_STATUS_state = 1 → s.fld (MEM_SCRUB p) MEM_SCRUB_period_hours ≠ 0 →
        ∃ t, exec (.scrub p) s = .next t ∧ t.mem = s.mem ∧ t.cores = s.cores ∧
          t.fld (MEM_SCRUB_POS p) MEM_SCRUB_POS_position = (s.fld (MEM_SCRUB_POS p) MEM_SCRUB_POS_position + 1) % 0x40000000) ∧
      (∀ cls sub, MayWrite ⟨cls, sub⟩ (MEM_CTRL p) s →
        exec (.scrubNow cls sub p) s = .next (s.setFld (MEM_SCRUB_POS p) MEM_SCRUB_POS_position 0) ∧
        (∃ t, exec (.memClearCounts cls sub p) s = .next t ∧ t = { s with regs := t.regs } ∧
          (∀ r ∈ [MEM_CE_COUNT p, MEM_UE_COUNT p], t.fld r cntFld = 0 ∧ t.bit r satFld = false))) ∧
      (∀ cls sub i v, i < 64 → MayWrite ⟨cls, sub⟩ (MEM_MARK p i) s → fget MEM_MARK_pin (BitVec.ofNat 64 v) < 36 →
        ∃ t, exec (.memMark cls sub p i v) s = .next t ∧ t = { s with regs := t.regs } ∧
          t.fld (MEM_MARK p i) MEM_MARK_pin = fget MEM_MARK_pin (BitVec.ofNat 64 v))) ∧
    (∀ kind inst off, kind < 16 → sramHere s kind inst off = true → kind ≠ 3 →
      exec (.sramPatrol kind inst off false) s = .next ((({ s with upsets := s.upsets.filter (fun u => !u.meets kind inst off 1) } : State).count
        MEM_SRAM_CE_COUNT 1).setFld MEM_SRAM_ERR MEM_SRAM_ERR_ce 1)) ∧
    (∀ cls sub, MayWrite ⟨cls, sub⟩ MEM_SRAM_CTRL s → ∃ t, exec (.sramClearCounts cls sub) s = .next t ∧ t = { s with regs := t.regs } ∧
      (∀ r ∈ [MEM_SRAM_CE_COUNT, MEM_SRAM_UE_COUNT], t.fld r cntFld = 0 ∧ t.bit r satFld = false))

/-- R32, R46, R47, R51, R63, R66, R67, R73, R137, R446, R483: PROGRAM_START and the writes of COR_CTRL,
COR_RETIRE and COR_ARR_CTRL. Rows that a queue holds stay at a start (log 89), a header lies in a pasture (log 90), an access wakes a core
out of holiday (log 142), and what waits at a halted core is served when it resumes (log 143): the model's readings. -/
def Obligations.CoreProgramsStartAndAreControlled : Prop :=
  ∀ (c : Nat) (s : State), s.live = true → s.has .core c = true →
    (let k := s.core c
     ((k.starting = none ∨ s.mixed = true → exec (.programStart c) s = .next s) ∧
      (∀ addr gen, k.starting = some (addr, gen) → s.mixed = false →
        (k.inService = false ∨ addr % 4096 ≠ 0 ∨ 0x8000000000 ≤ addr → ∃ t, exec (.programStart c) s = .next t ∧ (t.core c).starting = none ∧
          (k.state ≠ .recess → (t.core c).state = k.state) ∧ (t.core c).cmd = none ∧ (∀ j, j ≠ c → OnlyWoken j s t) ∧
          (k.cmd = none → t = s.setCore c { k with starting := none }) ∧
          (∀ m, k.cmd = some m → ∃ u, t = u.complete m.ref (if k.inService then 0x02 else 0x01) 0 0 0 ∧ CoreBut c [] s u)) ∧
        (k.inService = true → addr % 4096 = 0 → addr < 0x8000000000 → Reads (aMst c) addr 4096 s →
          (let h := s.bytes addr 4096
           (headerBad s c gen addr h = true → ∃ t, exec (.programStart c) s = .next t ∧ (t.core c).starting = none ∧
             (k.state ≠ .recess → (t.core c).state = k.state) ∧ (t.core c).cmd = none ∧ (∀ j, j ≠ c → OnlyWoken j s t) ∧
             ((∀ m, k.cmd = some m → m.ref.qp < 16384) → ∀ i, i < 48 → t.reg (COR_TALLY c i) = s.reg (COR_TALLY c i))) ∧
           (headerBad s c gen addr h = false → ∃ t, exec (.programStart c) s = .next t ∧
             (let k1 := t.core c
              k1.state = .running ∧ k1.starting = none ∧ k1.cmd = k.cmd ∧ k1.inbox = k.inbox ∧ k1.prog = progOf addr h ∧
              k1.am = { life := .live, pos := fieldAt h 8 8 + fieldAt h 0x10 4 * 4096, stall := 1 } ∧
              k1.xm = (if fieldAt h 0x1C 4 = 0 then { life := .ended } else { life := .live, pos := fieldAt h 8 8 + fieldAt h 0x18 4 * 4096, stall := 1 }) ∧
              k1.ad = {} ∧ k1.xd = {} ∧ k1.aDef = false ∧ k1.xDef = false ∧ k1.segs = [] ∧ k1.phase = 0 ∧ k1.lost = [] ∧ k1.steals = [] ∧ k1.badWord = false ∧ k1.step = (s.reg COL_STEP).toNat ∧
              (∀ q, q < 32 → (k1.queue q).rows = (k.queue q).rows ∧ (k1.queue q).cntPos = 0 ∧
                (fieldAt h (0x150 + q * 8 + 5) 1 % 2 = 1 → (k1.queue q).fmt = fieldAt h (0x150 + q * 8) 1 ∧
                  (k1.queue q).units = fieldAt h (0x150 + q * 8 + 1) 2 ∧ (k1.queue q).prod = fieldAt h (0x150 + q * 8 + 3) 1 ∧
                  (k1.queue q).cons = fieldAt h (0x150 + q * 8 + 4) 1) ∧
                (fieldAt h (0x150 + q * 8 + 5) 1 % 2 = 0 → (k1.queue q).fmt = 0 ∧ (k1.queue q).units = 0 ∧ (k1.queue q).prod = 0 ∧ (k1.queue q).cons = 0)) ∧
              (∀ i, i < 4 → k1.sub i = discardShadow (k.sub i))) ∧
             (∀ i, i < 48 → (fieldAt h (0x254 + 8 * i) 4 ≠ 0 → t.fld (COR_TALLY c i) COR_TALLY_count = fieldAt h (0x250 + 8 * i) 4 ∧
                 t.fld (COR_TALLY c i) COR_TALLY_limit = fieldAt h (0x254 + 8 * i) 4) ∧
               (fieldAt h (0x254 + 8 * i) 4 = 0 → t.reg (COR_TALLY c i) = s.reg (COR_TALLY c i))) ∧
             (∀ i, i < 16 → t.reg (COR_ARR_EPI c i) = 0) ∧ t.fld (COR_ARR_CFG c) COR_ARR_CFG_wydak = fieldAt h 0x2C 4 % 2 ∧ t.mem = s.mem ∧ (∀ j, j ≠ c → t.core j = s.core j) ∧
             RegsBut (trafficRegs ++ [COR_ARR_CFG c, SEC_MEAS_COUNT] ++ (rangeFrom 0 48).map (COR_TALLY c) ++ (rangeFrom 0 16).map (COR_ARR_EPI c)) s t ∧
             (k.lastStart = some (addr, fieldAt h 6 2) → t.meas = s.meas) ∧
             (k.lastStart ≠ some (addr, fieldAt h 6 2) → t.meas.getD 3 0 = extendOf (s.meas.getD 3 0)
               (leBytes 1 c ++ leBytes 8 addr ++ leBytes 2 (fieldAt h 6 2) ++ leBytes 4 (fieldAt h 0xFFC 4)))))))) ∧
     (∀ cls sub g i off, k.state = .recess ∨ k.state = .holiday →
       (i, off) ∈ [(Instr.corHalt cls sub c, COR_CTRL c), (.corResume cls sub c, COR_CTRL c), (.corAbort cls sub c, COR_CTRL c), (.corClearCounts cls sub c, COR_CTRL c),
         (.corRetire cls sub c g, COR_RETIRE c), (.arrClearCounts cls sub c, COR_ARR_CTRL c)] → Admits ⟨cls, sub⟩ off (regBytes off) s →
       (s.bit PWR_STATUS PWR_STATUS_standby = true → exec i s = .next s) ∧
       (s.bit PWR_STATUS PWR_STATUS_standby = false → exec i s = exec i (s.onCore c rouseCore))) ∧
     (∀ cls sub, MayWrite ⟨cls, sub⟩ (COR_CTRL c) s →
       (let going := k.state = .running
        (¬going → exec (.corHalt cls sub c) s = .next s) ∧
        (going → k.runs ≠ [] → ∃ t, exec (.corHalt cls sub c) s = .next t ∧ t.core c = { k with haltReq := true } ∧ CoreBut c [] s t) ∧
        (going → k.runs = [] → ∃ t, exec (.corHalt cls sub c) s = .next t ∧ t.core c = { k with state := .halted, haltReq := false } ∧
          t.reg (COR_STOP_A c) = BitVec.ofNat 64 (stopAddr k false / 16 * 16) ∧
          t.reg (COR_STOP_X c) = BitVec.ofNat 64 (stopAddr k true / 16 * 16) ∧ CoreBut c [COR_STOP_A c, COR_STOP_X c] s t) ∧
        (k.state = .halted → exec (.corResume cls sub c) s =
            .next ((k.waiters.map (·.tally)).foldl (fun y i => y.tallyChanged c i) (s.setCore c { k with state := .running }))) ∧
        (k.state ≠ .halted → exec (.corResume cls sub c) s = .next s) ∧
        exec (.corAbort cls sub c) s = exec (.unitSwitch c) (s.coreAbort c) ∧
        (s.str.force = none ∨ bitOf (s.fld STR_PENDING_CORES STR_PENDING_CORES_cores) c = false →
          ∃ t, exec (.corAbort cls sub c) s = .next t ∧ (∀ j, j ≠ c → OnlyWoken j s t) ∧
          (let k1 := t.core c
           k1.state = .idle ∧ k1.haltReq = false ∧ k1.starting = none ∧ k1.am = {} ∧ k1.ad = {} ∧ k1.xm = {} ∧ k1.xd = {} ∧ k1.stagedA = [] ∧ k1.stagedX = [] ∧
           k1.deferQ = [] ∧ k1.waiters = [] ∧ k1.runs = [] ∧ k1.segs = [] ∧ k1.adds = [] ∧ k1.checks = [] ∧ k1.lost = [] ∧ k1.steals = [] ∧ k1.inbox = k.inbox ∧
           k1.binds = k.binds ∧ k1.retiring = k.retiring ∧ (∀ q, q < 32 → k1.queue q = { k.queue q with rows := [] }) ∧
           (∀ i, i < 4 → k1.sub i = discardShadow (k.sub i)) ∧ k1.cmd = none) ∧
          ((∀ m, k.cmd = some m → m.ref.qp < 16384) → ∀ i, i < 48 → t.reg (COR_TALLY c i) = s.reg (COR_TALLY c i)) ∧
          t.fld (COR_ARR_CFG c) COR_ARR_CFG_wydak = 0 ∧ (k.cmd = none → CoreBut c [COR_ARR_CFG c] s t)) ∧
        (let counts := [COR_SPARSE_OVERFULL c, COR_SPARSE_PRUNED c, COR_INDEX_DROPPED c]
         ∃ t, exec (.corClearCounts cls sub c) s = .next t ∧ (∀ r ∈ counts, t.fld r cntFld = 0 ∧ t.bit r satFld = false) ∧
           RegsBut counts s t ∧ t = { s with regs := t.regs }))) ∧
     (∀ cls sub g, MayWrite ⟨cls, sub⟩ (COR_RETIRE c) s →
       (k.retiring ≠ none → exec (.corRetire cls sub c g) s = .next s) ∧
       (k.retiring = none → ∃ t, exec (.corRetire cls sub c g) s = .next t ∧ t.core c = { k with retiring := some (g % 2 ^ 16) } ∧
         t.bit (COR_RETIRE_STATUS c) COR_RETIRE_STATUS_busy = true ∧ t.bit (COR_RETIRE_STATUS c) COR_RETIRE_STATUS_done = false ∧
         t.fld (COR_RETIRE_STATUS c) COR_RETIRE_STATUS_last_generation = g % 2 ^ 16 ∧ CoreBut c [COR_RETIRE_STATUS c] s t)) ∧
     (∀ cls sub, MayWrite ⟨cls, sub⟩ (COR_ARR_CTRL c) s →
       (let counts := [COR_ARR_TILES_SPARSE c, COR_ARR_TILES_DENSE c, COR_ARR_ROWS_MASKED c, COR_ARR_STEAL_CHUNKS c]
        ∃ t, exec (.arrClearCounts cls sub c) s = .next t ∧ (∀ r ∈ counts, t.fld r cntFld = 0 ∧ t.bit r satFld = false) ∧
          RegsBut counts s t ∧ t = { s with regs := t.regs })))

/-- R34, R42 to R45, R47, R57, R60, R374, R420 to R422: events of core c. What follows from any event of a core (contexts that
end, a program that ends, recess) is State.afterCore. The moment of the switch and the way back from a deferred context are the model's reading (log 99),
as are a core that a commit takes out of service (log 128), what a stop completes (log 121) and a block that is uncorrectable (log 111). -/
def Obligations.CoreEventsFollowTheirRules : Prop :=
  ∀ (c : Nat) (s : State), s.live = true → s.has .core c = true →
    (let k := s.core c
     let takes (m : Cmd) : Prop := m.code = 1 ∧ k.state = .idle ∧ k.cmd = none ∧ k.cut = false ∧ s.mixed = false
     (k.inbox = [] → exec (.start c) s = .next s) ∧
     (∀ m l, k.inbox = m :: l → (¬takes m → exec (.start c) s = .next s) ∧
       (takes m → k.inService = false → exec (.start c) s = .next ((s.setCore c { k with inbox := l }).complete m.ref 0x01 0 0 0)) ∧
       (takes m → k.inService = true → s.isFrozen (aMst c) = false → ∃ t, exec (.start c) s = .next t ∧ CoreBut c [] s t ∧
         t.core c = { k with inbox := l, cmd := some { ref := m.ref }, starting := some (fieldAt m.desc 8 8, fieldAt m.desc 0x10 2) }) ∧
       (takes m → k.inService = true → s.isFrozen (aMst c) = true → ∃ u, exec (.start c) s = .next (u.complete m.ref 0x05 0 0x1007 0) ∧
         u.core c = { k with inbox := l } ∧ (∀ j, j ≠ c → u.core j = s.core j) ∧ RegsBut (HMN_VIOLATIONS :: recordRegs) s u)) ∧
     (∀ x b, (k.up = false ∨ wanted k x b = false ∨ s.isFrozen (aMst c) = true → exec (.blockFetch c x b) s = .next s) ∧
       (k.up = true → wanted k x b = true → s.isFrozen (aMst c) = false →
         (let a := k.prog.base + b * 4096
          Reads (aMst c) (k.prog.checkTable + 4 * b) 4 s → Reads (aMst c) a 4096 s → ∃ u, exec (.blockFetch c x b) s = .next (u.afterCore c) ∧
            (let e := s.num (k.prog.checkTable + 4 * b) 4
             let v := blockCheck a k.prog.gen (s.bytes a 4096)
             ({ addr := a, gen := k.prog.gen, ok := decide (v = e), code := codeOf (s.bytes a 4096), expected := e, actual := v } : Staged) ∈
               (u.core c).staged x ∧ (u.core c).staged (!x) = k.staged (!x) ∧
             u.reg (COR_FETCH_BLOCKS c) = s.reg (COR_FETCH_BLOCKS c) + 1 ∧ (u.core c).runs = k.runs ∧ (u.core c).queues = k.queues ∧
             u.mem = s.mem ∧ CoreMemBut c [COR_FETCH_BLOCKS c] s u)))) ∧
     (k.checks = [] → exec (.transferCheck c) s = .next s) ∧
     (∀ x l, k.checks = x :: l → s.upsets = [] →
       (let e := s.bytes (scratchBase + c * 0x2000000 + k.prog.xferTable + 16 * x.slot) 16
        let v := transferCheck x.target (fieldAt e 8 4) x.bytes
        let older := k.runs.any (fun r => r.chk && decide (r.rid < x.rid))
        let named (t : State) : Prop := t.bit (COR_ERR c) COR_ERR_cvu_transfer = true ∧
          ((∀ m, k.cmd = some m → m.ref.qp < 16384) → t.reg (COR_CVU_MISMATCH_ADDR c) = BitVec.ofNat 64 (x.target % 2 ^ 48) ∧
            t.reg (COR_CVU_EXPECTED c) = BitVec.ofNat 64 (if x.bytes.length ≤ 65536 then fieldAt e 0 4 else fieldAt e 0 8) ∧
            t.reg (COR_CVU_ACTUAL c) = BitVec.ofNat 64 v)
        (older = true → exec (.transferCheck c) s = .next s) ∧
        (older = false → checkMeets x.bytes.length v (fieldAt e 0 8) = true → ∃ u, exec (.transferCheck c) s = .next (u.afterCore c) ∧
          u.core c = { k.retry [9] with checks := l } ∧ CoreBut c [] s u) ∧
        (older = false → checkMeets x.bytes.length v (fieldAt e 0 8) = false → k.state ≠ .stopped → ∃ t, exec (.transferCheck c) s = .next t ∧
          Traps c 0x03 0x6002 x.addr s t ∧ named t) ∧
        (older = false → checkMeets x.bytes.length v (fieldAt e 0 8) = false → k.state = .stopped → ∃ t, exec (.transferCheck c) s = .next t ∧
          t.core c = { k.retry [9] with checks := l } ∧ named t ∧
          CoreBut c [COR_ERR c, COR_CVU_MISMATCH_ADDR c, COR_CVU_EXPECTED c, COR_CVU_ACTUAL c] s t))) ∧
     (let due := (k.up = true ∨ k.state = .holiday) ∧ k.allRest = true ∧ s.fld (COR_STALL_LIMIT c) COR_STALL_LIMIT_cycles ≠ 0
      (¬due → exec (.stallTimeout c) s = .next s) ∧
      (due → ∃ t, exec (.stallTimeout c) s = .next t ∧ Traps c 0x07 0x6006 (stopAddr k.atStop false) s t ∧
        t.bit (COR_ERR c) COR_ERR_stall_timeout = true ∧ t.reg (COR_STOP_A c) = BitVec.ofNat 64 (stopAddr k.atStop false / 16 * 16))) ∧
     (∀ x, let inDef := if x then k.xDef else k.aDef
       let out := k.up = true ∧ inDef = false ∧ s.fld (COR_DEFER_CTRL c) COR_DEFER_CTRL_stall_threshold ≠ 0 ∧ k.deferQ ≠ [] ∧
         (k.ctx x false).life = .live ∧ 2 ≤ (k.ctx x false).stall ∧ atYield k x false = true ∧ ((startDeferred k).ctx x true).life = .live
       let back := k.up = true ∧ inDef = true ∧ (k.ctx x false).life = .live ∧
         ((k.ctx x true).life = .live ∧ atYield k x true = true ∧ (k.ctx x false).stall ≤ 1 ∨ (k.ctx x true).life = .ending ∨ (k.ctx x true).life = .ended)
       (¬out → ¬back → exec (.deferSwitch c x) s = .next s) ∧
       (out → ∃ t, exec (.deferSwitch c x) s = .next t ∧ CoreBut c [] s t ∧
         t.core c = (if x then { startDeferred k with xDef := true } else { startDeferred k with aDef := true })) ∧
       (back → ∃ t, exec (.deferSwitch c x) s = .next t ∧ CoreBut c [] s t ∧
         t.core c = (if x then { k with xDef := false } else { k with aDef := false }))) ∧
     (k.retiring = none → exec (.retireComplete c) s = .next s) ∧
     (∀ g, k.retiring = some g → (k.executes g = true → exec (.retireComplete c) s = .next s) ∧
       (k.executes g = false → ∃ t, exec (.retireComplete c) s = .next t ∧ CoreBut c [COR_RETIRE_STATUS c] s t ∧
         t.core c = { k with retiring := none, stagedA := k.stagedA.filter (fun b => decide (b.gen ≠ g)),
                             stagedX := k.stagedX.filter (fun b => decide (b.gen ≠ g)) } ∧
         t.bit (COR_RETIRE_STATUS c) COR_RETIRE_STATUS_busy = false ∧ t.bit (COR_RETIRE_STATUS c) COR_RETIRE_STATUS_done = true ∧
         t.fld (COR_RETIRE_STATUS c) COR_RETIRE_STATUS_last_generation = g % 2 ^ 16)))

/-- R43 to R45, R69, R101, R354, R428: when an instruction issues, waits or stops its core. `issueTrap` is the table of R101 in its order. The addresses of COR_STOP_A and COR_STOP_X are log 9, an event whose conditions do not hold log 72, small points of operand forms log 123: the choices of the model. -/
def Obligations.StreamInstructionsIssueOrTrap : Prop :=
  ∀ (c : Nat) (x d : Bool) (s : State), s.live = true →
    (let k := s.core c
     let v := k.ctx x d
     let able := s.has .core c = true ∧ k.mayIssue x d = true ∧ (x = false → s.isFrozen (aMst c) = false)
     (∀ p ∈ streamRows c x d,
       (¬able → exec p.1 s = .next s) ∧
       (able → k.wordAt x v.pos = none → ∃ u, exec p.1 s = .next (u.afterCore c) ∧ CoreBut c [] s u ∧
         u.core c = k.setCtx x d { v with stall := 3 }) ∧
       (∀ w, able → k.wordAt x v.pos = some w →
         (opcode w ≠ p.2 → opAllowed x (opcode w) = true → exec p.1 s = .next s) ∧
         (opcode w = p.2 ∨ opAllowed x (opcode w) = false →
           (x = false → k.holdA = true → opcode w < 0x10 → exec p.1 s = .next s) ∧
           (∀ b, (x = false → opcode w < 0x10 → k.holdA = false) → k.blockAt x v.pos = some b →
             b.upsets.any (fun u => u.2 && decide (u.1 / 16 = v.pos % 4096 / 16)) = true → ∃ u, exec p.1 s = .next (u.afterCore c) ∧
               (u.core c).ctx x d = { v with stall := 3 } ∧ (u.core c).staged x = (k.staged x).erase b ∧ (u.core c).runs = k.runs ∧
               (∀ j, j ≠ c → u.core j = s.core j) ∧ u.mem = s.mem ∧ RegsBut ([MEM_SRAM_UE_COUNT, MEM_SRAM_UE_LOC] ++ recordRegs) s u) ∧
           (∀ st code, (x = false → opcode w < 0x10 → k.holdA = false) → stagedClean k x v.pos = true → issueTrap s c x d w = some (st, code) →
             (k.busy x d = true → exec p.1 s = .next s) ∧
             (k.busy x d = false → ∃ t, exec p.1 s = .next t ∧ Traps c st code v.pos s t ∧
               t.reg (COR_STOP_A c) = BitVec.ofNat 64 (stopAddr k.atStop false / 16 * 16) ∧
               t.reg (COR_STOP_X c) = BitVec.ofNat 64 (stopAddr k.atStop true / 16 * 16) ∧
               (k.cmd = none → RegsBut ([COR_STOP_A c, COR_STOP_X c] ++ recordRegs) s t ∧ t.mem = s.mem)))))) ∧
     (∀ slot, ∀ p ∈ runRows c d slot, (k.runs[slot]? = none → exec p.1 s = .next s) ∧
       (∀ r, k.runs[slot]? = some r → (opcode r.word ≠ p.2 ∨ (k.up = false ∧ ¬(k.state = .stopped ∧ k.cut = false))) →
         exec p.1 s = .next s)) ∧
     (∀ w, (opAllowed x (opcode w) = false ∨ reservedZero w = false ∨ rangeOk x w = false ∨ selectorsOk w = false ∨
         endsOk k x d w = false ∨ formatOk k w = false) → issueTrap s c x d w = some (0x02, 0x6003)))

/-- R47, R52 to R54, R59, R77 to R79, R84, R86, R87, R337: the instructions that act on the context, the deferred queue, the staged
blocks and the phase map number. What follows from them is State.afterCore.
That an ADD of 0 to an unused tally is refused (log 29), that an unmet SUB blocks those behind it (log 91) and where a remote ADD is held
(log 118) are the model's readings. -/
def Obligations.ControlAndScalarInstructions : Prop :=
  ∀ (c : Nat) (x d : Bool) (s : State) (w : Code), Issues s c x d w →
    (let k := issuer s c x d
     let v := k.ctx x d
     let to_ (i : Instr) (k' : Core) : Prop := ∃ u, exec i s = .next (u.afterCore c) ∧ u.core c = k' ∧ CoreBut c [] s u
     let goes (i : Instr) (v' : Ctx) : Prop := to_ i (advanced k x d v')
     let stalls (i : Instr) (code : Nat) : Prop := to_ i (k.setCtx x d { v with stall := code })
     let at_ (p : Nat) (l : List LoopEnt) : Core := (wakeCore k).setCtx x d { v with pos := p, loops := l, stall := 1 }
     let done := k.busy x d = false
     (opcode w = opNOP → goes (.nop c x d) v) ∧
     (v.loops = [] → v.next = { v with pos := v.pos + 16, stall := 1 }) ∧
     (∀ e l, v.loops = e :: l → (e.last ≠ v.pos → v.next = { v with pos := v.pos + 16, stall := 1 }) ∧
       (e.last = v.pos → 1 < e.left → v.next = { v with pos := e.first, loops := { e with left := e.left - 1 } :: l, stall := 1 }) ∧
       (e.last = v.pos → e.left ≤ 1 → v.next = { v with loops := l }.next)) ∧
     (opcode w = opEND → to_ (.endContext c x d) ((wakeCore k).setCtx x d { v with life := .ending, stall := 1 })) ∧
     (opcode w = opJUMP → to_ (.jump c x d) (at_ (k.prog.base + cb w 111 88 * 16) v.loops)) ∧
     (opcode w = opLOOP →
       (let last := v.pos + cb w 79 64 * 16
        let enters (n : Nat) : Core := if n = 0 then at_ (afterBody last v.loops).1 (afterBody last v.loops).2
          else at_ (v.pos + 16) (⟨v.pos + 16, last, n⟩ :: v.loops)
        (cbit w 118 = false → to_ (.loop c x d) (enters (cb w 111 80))) ∧
        (cbit w 118 = true → (let a := v.axr (cb w 63 60) % 2 ^ 48
          (Reads (aMst c) a 4 s → ∃ u, exec (.loop c x d) s = .next (u.afterCore c) ∧ u.core c = enters (s.num a 4) ∧
            u.mem = s.mem ∧ CoreMemBut c [] s u) ∧
          (mapped s a 4 = true → permitted s (2 + c) s.devId a 4 (reqKind a false) = true →
            waitsFor s a 4 = true ∨ epochHeld s (aMst c) a = true → stalls (.loop c x d) 8) ∧
          (mapped s a 4 = false → ∃ t, exec (.loop c x d) s = .next t ∧ FreezesOut c 0x1002 (reqKind a false) (s.gaddr a) s t) ∧
          (mapped s a 4 = true → permitted s (2 + c) s.devId a 4 (reqKind a false) = false → ∃ t, exec (.loop c x d) s = .next t ∧
            FreezesOut c 0x1001 (reqKind a false) (s.gaddr a) s t))))) ∧
     (x = false →
       (opcode w = opSETX → goes (.setx c d) (v.setAx (cb w 111 108) (cb w 107 44))) ∧
       (opcode w = opADDX → goes (.addx c d) (v.setAx (cb w 111 108) (v.axr (cb w 111 108) + cb w 107 44))) ∧
       (∀ i n, i < 16 → (v.setAx i n).axr i = n % 2 ^ 64 ∧ ∀ j, j ≠ i → (v.setAx i n).axr j = v.axr j) ∧
       (opcode w = opFENCE → (done → goes (.fence c d) v) ∧ (¬done → stalls (.fence c d) 8)) ∧
       (opcode w = opPHASE → (done → to_ (.phase c d) (advanced { k with phase := cb w 111 109 } x d v)) ∧ (¬done → stalls (.phase c d) 8)) ∧
       (opcode w = opRETIRE → to_ (.retire c d) (advanced
         { k with stagedA := k.stagedA.filter (fun b => decide (b.gen ≠ cb w 111 96)), stagedX := k.stagedX.filter (fun b => decide (b.gen ≠ cb w 111 96)) } x d v)) ∧
       (opcode w = opDEFER → (64 ≤ k.deferQ.length → stalls (.defer c d) 6) ∧
         (k.deferQ.length < 64 → to_ (.defer c d) (advanced { k with deferQ := k.deferQ ++
           [(⟨k.prog.base + cb w 111 88 * 16, k.prog.base + cb w 87 64 * 16, k.prog.gen, cb w 63 58⟩ : DeferEnt)] } x d v))) ∧
       (opcode w = opWAIT → s.upsets = [] → (let t := cb w 111 106
         let n := cb w 105 74
         (n ≤ s.tally c t → goes (.waitGe c d) v) ∧
         (s.tally c t < n → to_ (.waitGe c d) ({ k with waiters := k.waiters ++ [(⟨t, n, false, d⟩ : Waiter)] }.setCtx x d { v with stall := 5 })))) ∧
       (opcode w = opSUB → s.upsets = [] → (let t := cb w 111 106
         let n := cb w 105 74
         let first := ∀ y ∈ k.waiters, ¬(y.tally = t ∧ y.isSub = true)
         (n = 0 → goes (.sub c d) v) ∧
         (n ≠ 0 → (s.tally c t < n ∨ ¬first) → to_ (.sub c d) ({ k with waiters := k.waiters ++ [(⟨t, n, true, d⟩ : Waiter)] }.setCtx x d { v with stall := 5 })) ∧
         (n ≠ 0 → n ≤ s.tally c t → (∀ y ∈ k.waiters, y.tally ≠ t) → ∃ u, exec (.sub c d) s = .next (u.afterCore c) ∧
           u.core c = advanced k x d v ∧ CoreBut c [COR_TALLY c t] s u ∧ u.tally c t = s.tally c t - n ∧
           u.fld (COR_TALLY c t) COR_TALLY_limit = s.fld (COR_TALLY c t) COR_TALLY_limit))) ∧
       (opcode w = opADD → s.upsets = [] → (let t := cb w 111 106
         let n := cb w 105 74
         let dev := cb w 73 58
         let tc := cb w 57 53
         let ok (j : Nat) : Prop := s.has .core j = true ∧ s.fld (COR_TALLY j t) COR_TALLY_limit ≠ 0 ∧ (n = 0 ∨ s.tally j t + n ≤ s.fld (COR_TALLY j t) COR_TALLY_limit)
         let counts (j : Nat) (u : State) : Prop := u.tally j t = s.tally j t + n ∧ u.fld (COR_TALLY j t) COR_TALLY_limit = s.fld (COR_TALLY j t) COR_TALLY_limit
         let refused (j : Nat) (u : State) : Prop := Stops c 0x0B (if s.has .core j then s.onCore j wakeCore else s) u ∧ u.isFrozen (aMst c) = true ∧ Raised 1 u ∧
           ((∀ m, k.cmd = some m → m.ref.qp < 16384) → u.reg (COR_TALLY j t) = s.reg (COR_TALLY j t)) ∧
           (s.has .core j = true → u.bit (COR_ERR j) COR_ERR_tally_limit = true) ∧ u.fld HMN_VIOL HMN_VIOL_code = 0x1003
         let allowed := permitted s (2 + c) dev (mmioBase + COR_TALLY tc t) 8 kTally
         (¬done → stalls (.add c d) 8) ∧
         (done → cbit w 118 = false → ok c → (n = 0 → goes (.add c d) v) ∧
           (n ≠ 0 → (∀ y ∈ k.waiters, y.tally ≠ t) → ∃ u, exec (.add c d) s = .next (u.afterCore c) ∧ u.core c = advanced k x d v ∧
             CoreBut c [COR_TALLY c t] s u ∧ counts c u) ∧
           (∀ m, n ≠ 0 → k.waiters.filter (fun y => decide (y.tally = t)) = [(⟨t, m, false, !d⟩ : Waiter)] → m ≤ s.tally c t + n →
             ∃ u, exec (.add c d) s = .next (u.afterCore c) ∧ CoreBut c [COR_TALLY c t] s u ∧ counts c u ∧
               u.core c = advanced ({ k with waiters := k.waiters.filter (fun y => decide (y.tally ≠ t)) }.setCtx false (!d) (k.ctx false (!d)).next) x d v)) ∧
         (done → cbit w 118 = false → ¬ok c → ∃ u, exec (.add c d) s = .next u ∧ refused c u) ∧
         (done → cbit w 118 = true → allowed = false → ∃ u, exec (.add c d) s = .next u ∧ FreezesOut c 0x1001 kTally (tallyAddr dev tc t) s u) ∧
         (done → cbit w 118 = true → allowed = true → dev = s.devId → holdsAdd s c tc = true → ∃ u : State, exec (.add c d) s = .next (u.afterCore c) ∧
           u.core c = advanced { k with adds := k.adds ++ [(s.nextTag, d)] } x d v ∧ (∀ j, j ≠ c → u.core j = s.core j) ∧
           u = { s with cores := u.cores, nextTag := (s.nextTag + 1) % 65536,
                        str := { s.str with heldAdds := s.str.heldAdds ++ [(⟨c, d, s.nextTag, tc, t, n⟩ : HeldAdd)] } }) ∧
         (done → cbit w 118 = true → allowed = true → dev = s.devId → holdsAdd s c tc = false →
           (ok tc → n = 0 → ∃ u, exec (.add c d) s = .next (u.afterCore c) ∧ u.core c = advanced k x d v ∧
             (tc ≠ c → u.core tc = wakeCore (s.core tc)) ∧ (∀ j, j ≠ c → j ≠ tc → u.core j = s.core j) ∧ RegsBut [] s u ∧ u = { s with regs := u.regs, cores := u.cores }) ∧
           (ok tc → n ≠ 0 → (∀ y ∈ (s.core tc).waiters, y.tally ≠ t) → ∃ u, exec (.add c d) s = .next (u.afterCore c) ∧
             u.core c = advanced k x d v ∧ (tc ≠ c → u.core tc = wakeCore (s.core tc)) ∧ (∀ j, j ≠ c → j ≠ tc → u.core j = s.core j) ∧
             RegsBut [COR_TALLY tc t] s u ∧ counts tc u ∧ u = { s with regs := u.regs, cores := u.cores }) ∧
           (¬ok tc → ∃ u, exec (.add c d) s = .next u ∧ refused tc u)) ∧
         (done → cbit w 118 = true → allowed = true → dev ≠ s.devId → replaying s = false → ∃ u, exec (.add c d) s = .next (u.afterCore c) ∧
           Asks c s u 0x03 dev (tallyAddr dev tc t) [tc, t, n] [] (.add c d) ∧
           u.core c = advanced { k with adds := k.adds ++ [(s.nextTag, d)] } x d v)))))

/-- R33, R56, R72, R74, R75, R83, R87, R101, R305, R337, R421, R425: the access instructions on rows and tiles. The places `a` and `b`
are where the formed addresses lead (`reach`), each in the state that the earlier rows leave. A TLOAD beyond one tile is stated for
rows that do not overlap.
One command drives an instruction as far as it goes (log 24); pieces of 4,096 bytes (log 96) and the order of a TLOAD's tiles (log 98) are the
model's readings. -/
def Obligations.LoadStoreCopyAndTload : Prop :=
  ∀ (c : Nat) (d : Bool) (s : State) (w : Code), Issues s c false d w → Numbered (s.core c) →
    (let k := issuer s c false d
     let v := k.ctx false d
     let q := cb w 111 107
     let n := cb w 70 47
     let z := (k.queue q).size
     let g (i : Nat) : Nat := (rowBase v w + i * rowPitch k w) % 2 ^ 64
     let place (t : State) : Nat → Reach := reach t c (cbit w 117)
     let rd (a m : Nat) : Prop := Reads (aMst c) a m s
     let wr (a m : Nat) : Prop := Writes (aMst c) a m s
     let free := accessFree k w = true ∧ laneFree k w = true
     let stalls (i : Instr) (code : Nat) : Prop := ∃ u, exec i s = .next (u.afterCore c) ∧ CoreBut c [] s u ∧
       u.core c = k.setCtx false d { v with stall := code }
     let check (target : Nat) (bs : List Byte) : List XferCheck :=
       if cbit w 118 then addCheck ⟨k.nextRid, d, v.pos, slotOf w, target, bs⟩ k.checks else k.checks
     let run (bases : List Nat) : Run := { rid := k.nextRid, unit := 0, deferred := d, word := w, addr := v.pos, bases := bases }
     let starts (v' : Ctx) (r : Run) : Core := { advanced { k with nextRid := k.nextRid + 1 } false d v' with runs := k.runs ++ [r] }
     let ranks (g : Nat) : Prop := RankReads s c (cbit w 117) g
     let ends (i : Instr) (v' : Ctx) (target : Nat) (bs : List Byte) (m : State) (wake : Nat) (rows : List (List Byte)) : Prop :=
       ∃ u, exec i s = .next (u.afterCore c) ∧ CoreMemBut c [] s u ∧ u.mem = m.mem ∧
       (u.core c).queue q = { k.queue q with rows := rows } ∧ (∀ j, j ≠ q → (u.core c).queue j = k.queue j) ∧
       u.core c = { (ran k false d v').free wake with queues := (u.core c).queues, checks := check target bs }
     let bad (i : Instr) (p : Reach) (m : Nat) (wrt : Bool) : Prop :=
       (∀ a, p = .here a → mapped s a m = false → (wrt = true → loadEnd ≤ a) → ∃ t, exec i s = .next t ∧ FreezesOut c 0x1002 (reqKind a wrt) (s.gaddr a) s t) ∧
       (∀ a, p = .here a → mapped s a m = true → permitted s (2 + c) s.devId a m (reqKind a wrt) = false → (wrt = true → loadEnd ≤ a) →
         ∃ t, exec i s = .next t ∧ FreezesOut c 0x1001 (reqKind a wrt) (s.gaddr a) s t) ∧
       (∀ a, p = .off a → ∃ t, exec i s = .next t ∧ FreezesOut c 0x1002 (if wrt then kWrite else kRead) a s t) ∧
       (∀ dev a, p = .there dev a → permitted s (2 + c) dev a m (reqKind a wrt) = false →
         ∃ t, exec i s = .next t ∧ FreezesOut c 0x1001 (reqKind a wrt) (dev * 2 ^ 48 + a) s t)
     (opcode w = opLOAD →
       (let i : Instr := .load c d .issue
        (accessFree k w = false → stalls i 8) ∧ (accessFree k w = true → laneFree k w = false → stalls i 9) ∧
        (free → (k.queue q).full = true → ∃ u, exec i s = .next (u.afterCore c) ∧ CoreBut c [] s u ∧
          u.core c = starts (postInc v w) { run [rowBase v w] with wcode := wRoom q }) ∧
        (∀ a : Nat → Nat, free → (k.queue q).rows.length + n ≤ queueCap (k.queue q).units →
          (∀ j, j < n → ranks (g j) ∧ place s (g j) = .here (a j) ∧ rd (a j) z) →
          (let rows := (List.range n).map (fun j => s.bytes (a j) z)
           ends i (postInc v w) (queueTarget c q) rows.flatten s (wRow q) ((k.queue q).rows ++ rows))) ∧
        (free → (k.queue q).full = false → ranks (g 0) → bad i (place s (g 0)) z false ∧
          (∀ dev a, place s (g 0) = .there dev a → permitted s (2 + c) dev a z (reqKind a false) = true → replaying s = false →
            ∃ u, exec i s = .next (u.afterCore c) ∧ Asks c (ranked s c (cbit w 117) (g 0)) u 0x01 dev (dev * 2 ^ 48 + a) [min 4096 z] [] (.run c k.nextRid) ∧
              u.core c = starts (postInc v w) { run [rowBase v w] with await := some s.nextTag, wcode := 1 })))) ∧
     (opcode w = opSTORE →
       (let i : Instr := .store c d .issue
        let row (j : Nat) : List Byte := (k.queue q).rows.getD j []
        (accessFree k w = false → stalls i 8) ∧ (accessFree k w = true → laneFree k w = false → stalls i 9) ∧
        (free → (k.queue q).rows = [] → ∃ u, exec i s = .next (u.afterCore c) ∧ CoreBut c [] s u ∧
          u.core c = starts (postInc v w) { run [rowBase v w] with wcode := wRow q }) ∧
        (∀ a : Nat → Nat, free → n ≤ (k.queue q).rows.length →
          (let m (j : Nat) : State := (List.range j).foldl (fun t j => t.setBytes (a j) (row j)) s
           (∀ j, j < n → ranks (g j) ∧ place (m j) (g j) = .here (a j) ∧ wr (a j) (row j).length) →
           ends i (postInc v w) (a 0) ((List.range n).flatMap row) (m n) (wRoom q) ((k.queue q).rows.drop n))) ∧
        (free → (k.queue q).rows ≠ [] → row 0 ≠ [] → s.upsets = [] → ranks (g 0) → bad i (place s (g 0)) (row 0).length true ∧
          (∀ dev a, place s (g 0) = .there dev a → permitted s (2 + c) dev a (row 0).length (reqKind a true) = true → replaying s = false →
            ∃ u, exec i s = .next (u.afterCore c) ∧ Asks c (ranked s c (cbit w 117) (g 0)) u 0x02 dev (dev * 2 ^ 48 + a) [] ((row 0).take 4096) (.run c k.nextRid) ∧
              (∃ r ∈ (u.core c).runs, r.rid = k.nextRid ∧ r.await = some s.nextTag ∧ r.part = row 0) ∧
              (u.core c).queue q = { k.queue q with rows := (k.queue q).rows.drop 1 })))) ∧
     (let e := eSize w
      let len := tCols w * e
      let sg (j : Nat) : Nat := (v.axr (cb w 111 108) + j * cb w 83 60) % 2 ^ 64
      let dg (j : Nat) : Nat := (v.axr (cb w 107 104) + j * cb w 59 36) % 2 ^ 64
      (opcode w = opCOPY →
        (let i : Instr := .copy c d .issue
         (accessFree k w = false → stalls i 8) ∧ (accessFree k w = true → laneFree k w = false → stalls i 9) ∧
         (∀ a b : Nat → Nat, free →
           (let m (j : Nat) : State := (List.range j).foldl (fun t j => t.setBytes (b j) (t.bytes (a j) len)) s
            (∀ j, j < tRows w → ranks (sg j) ∧ ranks (dg j) ∧ place (m j) (sg j) = .here (a j) ∧ place (m j) (dg j) = .here (b j) ∧ rd (a j) len ∧ wr (b j) len) →
            ends i v (b 0) ((List.range (tRows w)).flatMap (fun j => (m j).bytes (a j) len)) (m (tRows w)) 0 (k.queue q).rows)) ∧
         (free → ranks (sg 0) → bad i (place s (sg 0)) len false))) ∧
      (opcode w = opTLOAD →
        (let i : Instr := .tload c d .issue
         (accessFree k w = false → stalls i 8) ∧ (accessFree k w = true → laneFree k w = false → stalls i 9) ∧
         let bases := [v.axr (cb w 111 108), v.axr (cb w 107 104)]
         let p := loaderOf (run bases)
         let mine := (spGet (fun _ => []) s.loaders p).contains (c, k.nextRid)
         (free → mine = false → s.atLoader p ≠ [] → ∃ u : State, exec i s = .next (u.afterCore c) ∧ u.core c = starts v { run bases with wcode := 1 } ∧
           (∀ j, j ≠ c → u.core j = s.core j) ∧ u = { s with loaders := u.loaders, cores := u.cores } ∧
           spGet (fun _ => []) u.loaders p = s.atLoader p ++ [(c, k.nextRid)]) ∧
         (∀ a b : Nat → Nat, free → mine = false → s.atLoader p = [] →
           (let col (j : Nat) : List Byte := (List.range (tRows w)).flatMap (fun y => s.bytes (a y + j * e) e)
            let m (j : Nat) : State := (List.range j).foldl (fun t j => t.setBytes (b j) (col j)) s
            let left (u : State) : Prop := exec i s = .next (u.afterCore c) ∧ CoreMemBut c [] { s with loaders := u.loaders } u ∧
              (∀ p', p' ≠ p → spGet (fun _ => []) u.loaders p' = spGet (fun _ => []) s.loaders p') ∧ u.atLoader p = [] ∧
              u.core c = { ran k false d v with checks := check (b 0) ((List.range (tCols w)).flatMap col) }
            (tRows w ≤ 64 → len ≤ 64 → (∀ j, j < tRows w → ranks (sg j) ∧ place s (sg j) = .here (a j) ∧ rd (a j) len) →
              (∀ j, j < tCols w → ranks (dg j) ∧ place (m j) (dg j) = .here (b j) ∧ wr (b j) (tRows w * e)) →
              ∃ u : State, left u ∧ u.mem = (m (tCols w)).mem) ∧
            (cbit w 117 = true → (∀ j h, j < tRows w → 64 * h < len → place s ((sg j + 64 * h) % 2 ^ 64) = .here (a j + 64 * h) ∧
                rd (a j + 64 * h) (min 64 (len - 64 * h))) →
              (∀ j h, j < tCols w → 64 * h < tRows w → place s ((dg j + 64 * h * e) % 2 ^ 64) = .here (b j + 64 * h * e) ∧
                wr (b j + 64 * h * e) (min 64 (tRows w - 64 * h) * e)) →
              (∀ j y, j < tCols w → y < tRows w → b j + tRows w * e ≤ a y ∨ a y + len ≤ b j) →
              (∀ j h, j < h → h < tCols w → b j + tRows w * e ≤ b h ∨ b h + tRows w * e ≤ b j) →
              ∃ u : State, left u ∧ ∀ y, u.byte y = (m (tCols w)).byte y))) ∧
         (free → mine = false → s.atLoader p = [] → ranks (sg 0) → bad i (place s (sg 0)) (min 64 len) false))))) ∧
  (∀ (c : Nat) (d : Bool) (s : State) (w : Code), Issues s c false d w → Numbered (s.core c) →
    (let k := issuer s c false d
     let v := k.ctx false d
     let q := gQueue w
     let idx := v.axr (cb w 106 103) % 2 ^ 48
     let z := if cbit w 33 then 8 else 4
     let ta := v.axr (cb w 102 99) % 2 ^ 48
     let t := tableOf ta (s.bytes ta 64)
     let c0 := cb w 66 55
     let nc := if cb w 54 42 = 0 then t.elems - c0 else cb w 54 42
     let f := qFmt k q
     accessFree k w = true → laneFree k w = true → cbit w 117 = false → gCount w = 1 → RankReads s c false (v.axr (cb w 102 99)) → reach s c false (v.axr (cb w 102 99)) = .here ta →
     Reads (aMst c) ta 64 s → tableGood (s.bytes ta 64) = true → c0 < t.elems → c0 + nc ≤ t.elems → Reads (aMst c) idx z s →
       (∀ ea e, opcode w = opGATHER → cb w 116 114 = 0 → (k.queue q).rows.length + 1 ≤ queueCap (k.queue q).units →
         RowHere c kRead t (s.num idx z) c0 nc ea e s → ∃ u : State, exec (.gather c d .issue) s = .next (u.afterCore c) ∧
           ((u.core c).queue q).rows = (k.queue q).rows ++ [codesRow k q ((rowOf s t e c0 nc).map (convF f .rne true 0))] ∧ u.mem = s.mem) ∧
       (∀ ea eb e t1 row l, opcode w = opSCATTER → (k.queue q).rows = row :: l → RowHere c kWrite t (s.num idx z) c0 nc ea e s →
         s.registered t.id = some t1 → s.num idx z < t1.rows → c0 + nc ≤ t1.elems → ownEntry s t1 (s.num idx z) = some (eb, e) →
         Sound s eb 8 → SoundAll s (tableReads s t.id) → tableWaits s t.id = false →
         (let odd := decide (s.stepLo % 2 = 1)
          let area := halfBase s e.pasture odd + halfUsed s e.pasture odd
          loadEnd ≤ area → Sound s area (gradSize nc) → (s.applier e.pasture).refusing odd = false → halfUsed s e.pasture odd + gradSize nc ≤ halfSize s e.pasture →
          ∃ u : State, exec (.scatterAdd c d .issue) s = .next (u.afterCore c) ∧ ((u.core c).queue q).rows = l ∧
            halfUsed u e.pasture odd = halfUsed s e.pasture odd + gradSize nc ∧ MemBut area (gradSize nc) s u)))) ∧
  (∀ (c : Nat) (d : Bool) (s : State) (slot tag : Nat) (r : Run) (args : List Nat) (bs : List Byte),
    s.live = true → s.upsets = [] → (s.core c).up = true → Numbered (s.core c) → (s.core c).runs[slot]? = some r → opcode r.word = opLOAD → r.unit = 0 →
    r.await = some tag → r.resp = some (0, args, bs) → r.part = [] → r.ue = false → r.nan = none → r.row + 1 = cb r.word 70 47 →
    ((s.core c).queue (cb r.word 111 107)).full = false → ((s.core c).queue (cb r.word 111 107)).size ≤ 4096 →
    (let k := s.core c
     let q := cb r.word 111 107
     let row := (padTo (k.queue q).size 0 bs).take (k.queue q).size
     ∃ u, exec (.load c d (.cont slot)) s = .next (u.afterCore c) ∧ CoreBut c [] s u ∧
       (u.core c).runs = (k.runs.filter (fun y => decide (y.rid ≠ r.rid))).map (Run.freed (wRow q)) ∧
       (u.core c).queue q = { k.queue q with rows := (k.queue q).rows ++ [row] } ∧ (∀ j, j ≠ q → (u.core c).queue j = k.queue j) ∧
       (u.core c).checks = (if cbit r.word 118 then addCheck ⟨r.rid, r.deferred, r.addr, slotOf r.word, queueTarget c q, r.taken ++ row⟩ k.checks
         else k.checks)))

/-- R76, R88, R89, R225 to R229, R246, R249, R253, R254: GATHER and SCATTER_ADD over rows that this device holds. `t` is the table of
the descriptor, `key` the indices, `e` the rows' directory entries.
Conversion of a combined result (log 102), a companion without a road (log 103), records one at a time (log 104), the parameters of
0x7013 (log 107) and FP64 gradients (log 160) are the model's readings. -/
def Obligations.GatherAndScatterAdd : Prop :=
  ∀ (c : Nat) (d : Bool) (s : State) (w : Code), Issues s c false d w → Numbered (s.core c) →
    (let k := issuer s c false d
     let v := k.ctx false d
     let q := gQueue w
     let n := gCount w
     let idx := v.axr (cb w 106 103) % 2 ^ 48
     let z := if cbit w 33 then 8 else 4
     let ta := v.axr (cb w 102 99) % 2 ^ 48
     let tb := s.bytes ta 64
     let t := tableOf ta tb
     let c0 := cb w 66 55
     let nc := if cb w 54 42 = 0 then t.elems - c0 else cb w 54 42
     let f := qFmt k q
     let free := accessFree k w = true ∧ laneFree k w = true
     let table := RankReads s c false (v.axr (cb w 102 99)) ∧ reach s c false (v.axr (cb w 102 99)) = .here ta ∧ Reads (aMst c) ta 64 s
     let fits := tableGood tb = true ∧ c0 < t.elems ∧ c0 + nc ≤ t.elems
     let room (m : Nat) := (k.queue q).rows.length + m ≤ queueCap (k.queue q).units
     let check (bs : List Byte) : List XferCheck := if cbit w 118 then addCheck ⟨k.nextRid, d, v.pos, slotOf w, queueTarget c q, bs⟩ k.checks else k.checks
     let after (i : Instr) (regs : List Nat) (wake : Nat) (rows : List (List Byte)) (bs : List Byte) (m : State) (u : State) : Prop :=
       exec i s = .next (u.afterCore c) ∧ RegsBut (trafficRegs ++ regs) s u ∧ u.mem = m.mem ∧ (∀ j, j ≠ c → u.core j = s.core j) ∧
       u = { s with regs := u.regs, cores := u.cores, mem := u.mem, bursts := u.bursts, pinHits := u.pinHits, atomErrs := u.atomErrs, nsrs := u.nsrs } ∧
       (u.core c).queue q = { k.queue q with rows := rows } ∧ (∀ j, j ≠ q → (u.core c).queue j = k.queue j) ∧
       u.core c = { (ran k false d v).free wake with queues := (u.core c).queues, checks := check bs }
     (opcode w = opGATHER ∨ opcode w = opSCATTER →
       (let i : Instr := if opcode w = opGATHER then .gather c d .issue else .scatterAdd c d .issue
        (accessFree k w = false → ∃ u, exec i s = .next (u.afterCore c) ∧ CoreBut c [] s u ∧ u.core c = k.setCtx false d { v with stall := 8 }) ∧
        (accessFree k w = true → laneFree k w = false → ∃ u, exec i s = .next (u.afterCore c) ∧ CoreBut c [] s u ∧
          u.core c = k.setCtx false d { v with stall := 9 }))) ∧
     (opcode w = opGATHER → free → cbit w 117 = false → cb w 116 114 ≠ 0 → ∃ u, exec (.gather c d .issue) s = .next u ∧
       Traps c 0x02 0x600B v.pos s u ∧ (u.core c).queues = k.queues) ∧
     (opcode w = opGATHER → free → cbit w 117 = false → cb w 116 114 = 0 → table → room n →
       (∀ j, j < n → Reads (aMst c) (idx + j * z) z s) →
       (let key (j : Nat) : Nat := s.num (idx + j * z) z
        (∀ (ea : Nat → Nat) (e : Nat → DirEnt), fits → (∀ j, j < n → key j < t.rows → RowHere c kRead t (key j) c0 nc (ea j) (e j) s) →
          (let row (j : Nat) : List Byte := codesRow k q
             (if key j < t.rows then (rowOf s t (e j) c0 nc).map (convF f .rne true 0) else [])
           let rows := (List.range n).map row
           ∃ u, after (.gather c d .issue) (COR_INDEX_DROPPED c :: nsrRegs) (wRow q) ((k.queue q).rows ++ rows) rows.flatten s u ∧
             u.fld (COR_INDEX_DROPPED c) cntFld = min (2 ^ 48 - 1) (s.fld (COR_INDEX_DROPPED c) cntFld +
               ((List.range n).filter (fun j => decide (t.rows ≤ key j))).length))) ∧
        (tableGood tb = false → ∃ u, exec (.gather c d .issue) s = .next u ∧ Stops c 0x02 s u ∧ u.bit EMB_ERR EMB_ERR_descriptor = true ∧ (k.cmd = none → u.mem = s.mem) ∧
          ((u.core c).queue q).rows = (k.queue q).rows ++ List.replicate n (List.replicate (k.queue q).size 0)))) ∧
     (opcode w = opGATHER → free → cbit w 117 = true → 1 ≤ cb w 116 114 → table → room 1 → fits →
       (let agg := cb w 116 114
        let dr := droverOf s.grade (c / 8)
        let slot := slotOfAddr s dr idx
        let base := staging dr + slotOffset s dr slot
        let h := s.bytes idx 64
        let edge (j : Nat) : Nat := base + fieldAt h 0x28 8 + 16 * j
        let src (j : Nat) : Nat := s.num (edge j) 4
        let key (j : Nat) : Nat := if t.key then src j else s.num (base + fieldAt h 0x18 8 + 8 * src j) 5
        ∀ (p : Nat) (ea : Nat → Nat) (e : Nat → DirEnt),
          Reads (aMst c) idx 64 s → roadViolation k d w (fieldAt h 4 4) = false → companion k d w = 0 → fieldAt h 4 4 = n → fieldAt h 8 4 = 1 → fieldAt h 0xC 4 = 1 →
          (s.reg COL_STEP).toNat ≥ (s.reg (DRV_ROAD_STEP dr slot)).toNat → (s.drover dr).rows = [] →
          Reads (aMst c) (base + fieldAt h 0x20 8) 8 s → s.num (base + fieldAt h 0x20 8) 8 = 2 ^ 48 →
          (∀ j, j < n → Reads (aMst c) (edge j) 16 s ∧ s.num (edge j + 4) 4 = 0 ∧ src j < fieldAt h 0 4 ∧
            (t.key = false → Reads (aMst c) (base + fieldAt h 0x18 8 + 8 * src j) 8 s) ∧ RowHere c kRead t (key j) c0 nc (ea j) (e j) s ∧ (e j).pasture = p) →
          (let cols := (List.range n).foldl (fun cs j => takeRow agg cs (rowOf s t (e j) c0 nc) (f32 (rneF .fp32 (decodeF .fp16 (s.num (edge j + 14) 2)))) j) (noCols nc)
           let codes := cols.map (fun x => convF f .rne false 0 (f32 (x.final agg n)))
           (nanCodes f codes).contains true = false →
           ∃ u, after (.gather c d .issue) nsrRegs (wRow q) ((k.queue q).rows ++ [codesRow k q codes]) (codesRow k q codes) s u))) ∧
     (opcode w = opSCATTER → free → cbit w 117 = false → table → fits → n ≤ (k.queue q).rows.length →
       (∀ (p : Nat) (key ea eb : Nat → Nat) (e : Nat → DirEnt) (t1 : Table),
         (let odd := decide (s.stepLo % 2 = 1)
          let area := halfBase s p odd + halfUsed s p odd
          let codes (j : Nat) : List Nat := (padTo nc FVal.zero ((rowElems f.bits ((k.queue q).rows.getD j [])).map (decodeF f))).map (rneF .fp32)
          let rec_ (j : Nat) : List Byte := gradBytes ⟨s.devId, t.id, c, key j, c0, nc, s.stepLo⟩ (codes j)
          let m (j : Nat) : State := (List.range j).foldl (fun x i => x.setBytes (area + i * gradSize nc) (rec_ i)) s
          (∀ j, j < n → Reads (aMst c) (idx + j * z) z s ∧ (m j).num (idx + j * z) z = key j ∧ RowHere c kWrite t (key j) c0 nc (ea j) (e j) (m j) ∧
            (e j).pasture = p ∧ (m j).registered t.id = some t1 ∧ key j < t1.rows ∧ c0 + nc ≤ t1.elems ∧
            ownEntry (m j) t1 (key j) = some (eb j, e j) ∧ Sound s (eb j) 8 ∧ SoundAll s (tableReads (m j) t.id) ∧ tableWaits (m j) t.id = false) →
          loadEnd ≤ area → Sound s area (n * gradSize nc) → (s.applier p).refusing odd = false → halfUsed s p odd + n * gradSize nc ≤ halfSize s p →
          ∃ u, after (.scatterAdd c d .issue) [EMB_STATUS p, EMB_RECORDS p, COL_STEP_FLAGS] (wRoom q) ((k.queue q).rows.drop n)
              ((List.range n).flatMap rec_) (m n) u ∧
            halfUsed u p odd = halfUsed s p odd + n * gradSize nc ∧ u.reg (EMB_RECORDS p) = s.reg (EMB_RECORDS p) + BitVec.ofNat 64 n ∧
            u.fld COL_STEP_FLAGS COL_STEP_FLAGS_nonfinite =
              (if (List.range n).any (fun j => (codes j).any (fun x => !(f32 x).finite)) then 1 else s.fld COL_STEP_FLAGS COL_STEP_FLAGS_nonfinite)))))

/-- R80, R90, R93, R106, R108, R109, R121, R126, R128, R130, R131, R135: the array's instructions but for the stream, and EXPERT.
The rest of a partly taken count row (log 92), the dense tile between MSWAP and MSTREAM (log 124) and the array of a core that steals from
another (log 145) are the model's readings. -/
def Obligations.TilesEpilogueWordsAndExpert : Prop :=
  ∀ (c : Nat) (d : Bool) (s : State) (w : Code), Issues s c true d w → Numbered (s.core c) → s.upsets = [] →
    (let k := issuer s c true d
     let v := k.ctx true d
     let sub := subOf w
     let x := k.sub sub
     let rows (q : Nat) : List (List Byte) := (k.queue q).rows
     let stalls (i : Instr) : Prop := ∃ u, exec i s = .next (u.afterCore c) ∧ CoreBut c [] s u ∧ u.core c = k.setCtx true d { v with stall := 8 }
     let quiet := s.stealsAcross c = false ∧ k.stealOf sub = none
     let bad (l : List (List Byte)) : Nat := ((l.map (fun row => 2 * badMeta (widthOf s c) row))).sum
     let dropped (n : Nat) (u : State) : Prop := u.fld (COR_INDEX_DROPPED c) cntFld = min (2 ^ 48 - 1) (s.fld (COR_INDEX_DROPPED c) cntFld + n)
     let up (r : Nat) (u : State) : Prop := u.fld r cntFld = min (2 ^ 48 - 1) (s.fld r cntFld + 1)
     let after (i : Instr) (regs codes : List Nat) (y : SubArr) (u : State) : Prop := exec i s = .next (u.afterCore c) ∧ CoreBut c regs s u ∧
       u.core c = woken codes { ran k true d v with queues := (u.core c).queues, subs := (u.core c).subs } ∧ (u.core c).sub sub = y ∧
       (∀ j, j ≠ sub → (u.core c).sub j = k.sub j)
     (∀ p ∈ [(Instr.mload c d .issue, opMLOAD), (.mswap c d .issue, opMSWAP), (.mstream c d .issue, opMSTREAM), (.epi c d, opEPI)], opcode w = p.2 →
       (s.stealsAcross c = true → stalls p.1) ∧
       ∀ z, s.stealsAcross c = false → k.stealOf sub = some z → (k.owes z = true → stalls p.1) ∧
         (k.owes z = false → (k.endSteal z).stealOf sub = none → exec p.1 s = exec p.1 (s.onCore c (fun k => k.endSteal z)))) ∧
     (opcode w = opEPI →
       (let word := cb w 94 93
        let off := COR_ARR_EPI c (sub * 4 + word)
        let cq := bitsOf (s.reg (COR_ARR_EPI c (sub * 4 + 3))).toNat 62 58
        let drops := word = 3 ∧ bitOf (s.reg off).toNat 63 = true ∧ 0 < (k.queue cq).cntPos
        (quiet → laneBusy k sub = true → stalls (.epi c d)) ∧
        (quiet → laneBusy k sub = false → ∃ u, exec (.epi c d) s = .next (u.afterCore c) ∧ CoreBut c [off] s u ∧ u.reg off = BitVec.ofNat 64 (cb w 63 0) ∧
          (¬drops → u.core c = { advanced k true d v with queues := (u.core c).queues }) ∧
          (drops → u.core c = woken [wRoom cq] { advanced k true d v with queues := (u.core c).queues }) ∧ (∀ j, j ≠ cq → (u.core c).queue j = k.queue j) ∧
          (¬drops → (u.core c).queue cq = k.queue cq) ∧ (drops → (u.core c).queue cq = { k.queue cq with rows := (rows cq).drop 1, cntPos := 0 })))) ∧
     (opcode w = opMLOAD →
       (let q := cb w 111 107
        let mq := cb w 106 102
        let sq := cb w 101 97
        let tile := cbit w 118
        let scaled := cbit w 115
        let desc := (rows mq).getD 0 []
        let kind := fieldAt desc 1 1
        let code := (k.queue q).fmt
        let dense := servedDense s c w code kind (fieldAt desc 4 4)
        let nv := if tile then (if kind = 0 then 128 else 256) / (if dense then 2 else 1) else 128
        let nm := if tile then (if dense then 32 else 64) else 0
        let ns := if scaled then nv / (if tile = true ∧ kind = 0 then 16 else 32) else 0
        let metas := ((rows mq).drop 1).take nm
        let free := quiet ∧ (∀ r ∈ k.runs, r.unit ≠ 5 + sub) ∧ x.filled = false ∧ tileHeld k sub = false
        let plane : Plane := { fmt := code, scaleFmt := if scaled then (k.queue sq).fmt else 0, tile24 := tile, sparseKind := tile && decide (kind = 0),
                               dense := tile && dense, vals := (rows q).take nv, scales := if scaled then (rows sq).take ns else [],
                               meta24 := if tile then metas else [], feed := some w }
        (quiet → ¬free → stalls (.mload c d .issue)) ∧
        (free → tile = true → rows mq ≠ [] → descGood (widthOf s c) desc = false → ∃ t, exec (.mload c d .issue) s = .next t ∧ Traps c 0x02 0x6003 v.pos s t) ∧
        (free → nv ≤ (rows q).length → (tile = true → nm + 1 ≤ (rows mq).length ∧ descGood (widthOf s c) desc = true ∧ mq ≠ q ∧ (scaled = true → mq ≠ sq)) →
          (scaled = true → ns ≤ (rows sq).length ∧ sq ≠ q) →
          ∃ u, after (.mload c d .issue) [COR_INDEX_DROPPED c, COR_ARR_TILES_SPARSE c, COR_ARR_TILES_DENSE c]
              ([wRoom q] ++ (if tile then [wRoom mq] else []) ++ (if scaled then [wRoom sq] else [])) { active := x.active, shadow := plane, filled := true } u ∧
            (u.core c).queue q = { k.queue q with rows := (rows q).drop nv } ∧ (tile = true → (u.core c).queue mq = { k.queue mq with rows := (rows mq).drop (nm + 1) }) ∧
            (scaled = true → (u.core c).queue sq = { k.queue sq with rows := (rows sq).drop ns }) ∧
            (∀ j, j ≠ q → (tile = true → j ≠ mq) → (scaled = true → j ≠ sq) → (u.core c).queue j = k.queue j) ∧
            (tile = false → CoreBut c [] s u) ∧ (tile = true → up (if dense then COR_ARR_TILES_DENSE c else COR_ARR_TILES_SPARSE c) u ∧
              u.reg (if dense then COR_ARR_TILES_SPARSE c else COR_ARR_TILES_DENSE c) = s.reg (if dense then COR_ARR_TILES_SPARSE c else COR_ARR_TILES_DENSE c) ∧
              dropped (if kind = 0 then bad metas else 0) u)) ∧
        (free → tile = false → scaled = false → (rows q).length < 128 → ∃ u, exec (.mload c d .issue) s = .next (u.afterCore c) ∧ CoreBut c [] s u ∧
          (u.core c).queue q = { k.queue q with rows := [] } ∧ ((u.core c).sub sub).filled = false ∧ ((u.core c).sub sub).shadow.vals = rows q ∧
          ∃ r ∈ (u.core c).runs, r.unit = 5 + sub ∧ r.rid = k.nextRid ∧ r.wcode = wRow q ∧ r.addr = v.pos))) ∧
     (opcode w = opMSWAP →
       (let p := x.shadow
        (quiet → laneBusy k sub = true → stalls (.mswap c d .issue)) ∧
        (quiet → laneBusy k sub = false → x.filled = false → ∃ u, exec (.mswap c d .issue) s = .next (u.afterCore c) ∧ CoreBut c [] s u ∧
          (u.core c).subs = k.subs ∧ (u.core c).queues = k.queues ∧ ∃ r ∈ (u.core c).runs, r.unit = 1 + sub ∧ r.rid = k.nextRid ∧ r.stage = 3) ∧
        (quiet → laneBusy k sub = false → x.filled = true → p.dense = false ∨ p.feed = none →
          ∃ u, after (.mswap c d .issue) [] [] { active := p } u ∧ (u.core c).queues = k.queues) ∧
        (∀ f, quiet → laneBusy k sub = false → x.filled = true → p.dense = true → p.feed = some f →
          (let q := cb f 111 107
           let mq := cb f 106 102
           let sq := cb f 101 97
           let nv := p.rowsIn - p.vals.length
           let nm := 64 - p.meta24.length
           let ns := if cbit f 115 then p.rowsIn / p.rowsPerScale - p.scales.length else 0
           p.vals.length ≤ p.rowsIn → nv ≤ (rows q).length → nm ≤ (rows mq).length → q ≠ mq → (cbit f 115 = true → ns ≤ (rows sq).length ∧ q ≠ sq ∧ mq ≠ sq) →
           ∃ u, after (.mswap c d .issue) [COR_INDEX_DROPPED c]
              ((if 0 < nv then [wRoom q] else []) ++ (if 0 < nm then [wRoom mq] else []) ++ (if 0 < ns then [wRoom sq] else [])) { active := { p with vals := p.vals ++ (rows q).take nv, scales := p.scales ++ (rows sq).take ns, meta24 := p.meta24 ++ (rows mq).take nm } } u ∧
             (u.core c).queue q = { k.queue q with rows := (rows q).drop nv } ∧ (u.core c).queue mq = { k.queue mq with rows := (rows mq).drop nm } ∧
             (cbit f 115 = true → (u.core c).queue sq = { k.queue sq with rows := (rows sq).drop ns }) ∧
             (∀ j, j ≠ q → j ≠ mq → (cbit f 115 = true → j ≠ sq) → (u.core c).queue j = k.queue j) ∧
             dropped (if p.sparseKind then bad ((rows mq).take nm) else 0) u)))) ∧
     (opcode w = opEXPERT →
       (let q := cb w 111 107
        let qp := cb w 106 102
        let qc := cb w 101 97
        let n := xRows w
        let nids := cb w 62 55 + 1
        let z := (k.queue q).size
        let m := (n + z - 1) / z
        let ids := ((((rows q).take m).flatten).map (·.toNat)).take n
        let perm := (List.range nids).flatMap (fun e => (List.range n).filter (fun j => decide (ids.getD j 0 = e)))
        let counts := (List.range nids).map (fun e => (ids.filter (fun y => decide (y = e))).length)
        let pack (j : Nat) (l : List Nat) : List (List Byte) := (chunksOf ((k.queue j).size / 4) l).map (fun y => padTo (k.queue j).size 0 (rowBytes 32 y))
        (vecBusy k = true → stalls (.expert c d .issue)) ∧
        (vecBusy k = false → 0 < z → (∀ row ∈ (rows q).take m, row.length = z) → m ≤ (rows q).length → q ≠ qp → q ≠ qc → qp ≠ qc →
          0 < (k.queue qp).units → 0 < (k.queue qc).units → (rows qp).length + (pack qp perm).length ≤ queueCap (k.queue qp).units →
          (rows qc).length + (pack qc counts).length ≤ queueCap (k.queue qc).units →
          ∃ u, exec (.expert c d .issue) s = .next (u.afterCore c) ∧ CoreBut c [COR_INDEX_DROPPED c] s u ∧
            u.core c = woken ([wRoom q] ++ (if perm = [] then [] else [wRow qp]) ++ [wRow qc]) { ran k true d v with queues := (u.core c).queues } ∧ (u.core c).queue q = { k.queue q with rows := (rows q).drop m } ∧
            (u.core c).queue qp = { k.queue qp with rows := rows qp ++ pack qp perm } ∧ (u.core c).queue qc = { k.queue qc with rows := rows qc ++ pack qc counts } ∧
            (∀ j, j ≠ q → j ≠ qp → j ≠ qc → (u.core c).queue j = k.queue j) ∧ dropped (ids.filter (fun e => decide (nids ≤ e))).length u))))

/-- R90 to R92, R116, R119, R121 to R123, R125, R132 to R135: MSTREAM and work stealing. `vals` are the values of an output row,
`give` what one of them does to the accumulators; a row that arrives is one of `arrayRow` (or Wydak numerics, open beyond MUL_ADD on dense tiles: log 113), and segments
change by segAdd, segOverwrite and segCombine.
Semiring modes over 2:4 tiles (log 25), block scales (log 26), segment numbers (log 27), Wydak classes (log 93), mask rows (log 94), cycles
(logs 97, 164), when a chunk is taken and arrives (logs 106, 126), the segments that a read finalises (log 112) and which lane and which
victim may steal (logs 145, 162, 163) are the model's readings. -/
def Obligations.StreamsThroughTheArray : Prop :=
  (∀ (c : Nat) (d : Bool) (s : State) (w : Code), Issues s c true d w → Numbered (s.core c) → s.upsets = [] → opcode w = opMSTREAM →
    (let k := issuer s c true d
     let v := k.ctx true d
     let sub := subOf w
     let wd := widthOf s c
     let e (j : Nat) : Nat := (s.reg (COR_ARR_EPI c (sub * 4 + j))).toNat
     let rows (q : Nat) : List (List Byte) := (k.queue q).rows
     let (qin, sq, mq, qout, cq) := (cb w 111 107, cb w 101 97, cb w 47 43, cb w 106 102, bitsOf (e 3) 62 58)
     let (scaled, mask, toq, epi, add, cnt) := (cbit w 113, cbit w 112, cbit w 118, cbit w 114, cbit w 117, bitOf (e 3) 63)
     let counts := rowElems 32 ((rows cq).getD 0 [])
     let cp := (k.queue cq).cntPos
     let n := if cnt then counts.getD cp 0 else mRows w
     let bits := max 1 (8 * (k.queue mq).size)
     let masks := (n + bits - 1) / bits
     let (bank, row, semi, cls) := (cb w 51 51, cb w 62 52, cb w 50 48, streamClass k w)
     let f := qoutFmt k w
     let p := (k.sub sub).active
     let zeros := List.replicate wd FVal.zero
     let masked (i : Nat) : Bool := mask && bitOf (leNat ((rows mq).getD (i / bits) [])) (i % bits)
     let inp (i : Nat) : InRow := { fmt := (k.queue qin).fmt, row := (rows qin).getD i [], scaleFmt := if scaled then (k.queue sq).fmt else 0,
                                    scales := if scaled then (rows sq).getD i [] else [] }
     let wydak := k.prog.wydak
     let thr := f32 (bitsOf (e 3) 31 0)
     let vals (t : State) (i : Nat) : List FVal :=
       if masked i then zeros
       else if wydak then ((if !toq && add then (accCodes t c bank (row + i) (sub * wd) wd).map f32 else zeros).zip (rangeFrom 0 wd)).map
         (fun y => wydakVal semi thr p (inp i) y.2 y.1)
       else arrayRow semi thr p (inp i) wd
     let sum (t : State) (i : Nat) : Bool × State := segSpill (segAdd t c bank (row + i) sub cls (vals t i)) c bank (row + i) sub cls
     let give (t : State) (i : Nat) : State :=
       if masked i && add then t
       else if wydak then (let y := putAcc t c bank (row + i) (sub * wd) ((vals t i).map (rneF .fp32))
         if add then y else y.onCore c (fun k => k.setSeg bank (row + i) sub {}))
       else if classed semi then (if add then (sum t i).2 else segOverwrite t c bank (row + i) sub cls (vals t i))
       else segCombine t c bank (row + i) sub semi add (vals t i)
     let first := if !add && s.bit (COR_MODE c) COR_MODE_service && bank == 0 then (rangeFrom row n).foldl (exchangeSeg sub c) s else s
     let m (j : Nat) : State := (List.range j).foldl give first
     let used := [qin] ++ (if scaled then [sq] else []) ++ (if mask then [mq] else []) ++ (if toq then [qout] else []) ++ (if cnt then [cq] else [])
     let ready := s.stealsAcross c = false ∧ k.stealOf sub = none ∧ (∀ r ∈ k.runs, r.unit = 0) ∧ used.Nodup ∧ n ≤ (rows qin).length ∧ (scaled = true → n ≤ (rows sq).length) ∧
       (mask = true → masks ≤ (rows mq).length ∧ ∀ y ∈ (rows mq).take masks, y.length = (k.queue mq).size) ∧ (cnt = true → rows cq ≠ []) ∧
       nanHalts s c cls = false
     let codes := (if n = 0 then [] else [wRoom qin] ++ (if scaled then [wRoom sq] else []) ++ (if mask then [wRoom mq] else []) ++ (if toq then [wRow qout] else [])) ++
       (if cnt && decide (counts.length ≤ cp + 1) then [wRoom cq] else [])
     let fits := classed semi = false ∨ k.prog.wydak = true ∨ add = false ∨ ∀ i, i < n → classFits k bank (row + i) sub cls = true
     let after (out : List (List Byte)) (u : State) : Prop := exec (.mstream c d .issue) s = .next (u.afterCore c) ∧
       RegsBut [COR_ARR_ACTIVE_CYCLES c, COR_ARR_ROWS_MASKED c, COR_NAN_FIRST c, COR_NAN_FIRST_ADDR c] s u ∧ (∀ j, j ≠ c → u.core j = s.core j) ∧
       u = { s with regs := u.regs, cores := u.cores, mem := u.mem } ∧ u.core c = woken codes { ran k true d v with queues := (u.core c).queues, segs := (u.core c).segs, subs := (u.core c).subs } ∧
       (u.core c).sub sub = { k.sub sub with active := { p with used := true } } ∧ (∀ j, j ≠ sub → (u.core c).sub j = k.sub j) ∧
       (u.core c).queue qin = { k.queue qin with rows := (rows qin).drop n } ∧ (scaled = true → (u.core c).queue sq = { k.queue sq with rows := (rows sq).drop n }) ∧
       (mask = true → (u.core c).queue mq = { k.queue mq with rows := (rows mq).drop masks }) ∧
       (toq = true → (u.core c).queue qout = { k.queue qout with rows := rows qout ++ out }) ∧
       (cnt = true → (u.core c).queue cq = (if cp + 1 < counts.length then { k.queue cq with cntPos := cp + 1 } else { k.queue cq with rows := (rows cq).drop 1, cntPos := 0 })) ∧
       (∀ j, j ∉ used → (u.core c).queue j = k.queue j) ∧
       u.fld (COR_ARR_ROWS_MASKED c) cntFld = min (2 ^ 48 - 1) (s.fld (COR_ARR_ROWS_MASKED c) cntFld + ((List.range n).filter masked).length) ∧
       (mask = false → u.reg (COR_ARR_ACTIVE_CYCLES c) = s.reg (COR_ARR_ACTIVE_CYCLES c) + BitVec.ofNat 64 ((rowHalfCycles k w * n + 1) / 2)) ∧
       (s.bit (COR_NAN_FIRST c) COR_NAN_FIRST_valid = true → u.reg (COR_NAN_FIRST c) = s.reg (COR_NAN_FIRST c))
     let room := (rows qout).length + n ≤ queueCap (k.queue qout).units
     (s.stealsAcross c = true ∨ (k.stealOf sub = none ∧ laneBusy k sub = true) → ∃ u, exec (.mstream c d .issue) s = .next (u.afterCore c) ∧ CoreBut c [] s u ∧ u.core c = k.setCtx true d { v with stall := 8 }) ∧
     (ready → toq = false → row + n ≤ 2048 → fits → (add = true → wydak = false → classed semi = true → ∀ i, i < n → masked i = false → (sum (m i) i).1 = true) →
       ∃ u, after [] u ∧ u.mem = (m n).mem ∧ (u.core c).segs = ((m n).core c).segs) ∧
     (ready → toq = false → row + n ≤ 2048 → ¬fits → ∃ t, exec (.mstream c d .issue) s = .next t ∧ Traps c 0x02 0x6005 v.pos s t) ∧
     (ready → toq = true → room → epi = false → (k.queue qout).size = 4 * wd → ∃ u, after ((List.range n).map (fun i => rowBytes 32 ((vals s i).map (rneF .fp32)))) u ∧
       u.mem = s.mem ∧ (u.core c).segs = k.segs) ∧
     (ready → toq = true → room → epi = true → (k.queue qout).size * 8 = wd * f.bits → k.segs = [] → splitOf s c ≠ 0 →
       (let cs := accCodes s c (bitsOf (e 2) 31 31) (bitsOf (e 2) 30 20) 0 wd
        let bs := accCodes s c (bitsOf (e 2) 19 19) (bitsOf (e 2) 18 8) 0 wd
        ∃ u, u.mem = s.mem ∧ (u.core c).segs = [] ∧ after ((List.range n).map (fun i => rowBytes f.bits (((vals s i).zip (rangeFrom 0 wd)).map (fun y =>
          epiSplit s c (e 0) (e 1) (e 2) f cs bs y.2 (i * wd + y.2) y.1)))) u)) ∧
     (ready → toq = true → room → epi = true → (k.queue qout).size * 8 = wd * f.bits → k.segs = [] → splitOf s c = 0 → n ≤ 2 ^ 19 →
       (let ys (i : Nat) : List FVal := (vals s i).map (fun y => if bitOf (e 0) 4 then r32 (mulV y (f32 (bitsOf (e 0) 63 32))) else y)
        let old (i : Nat) : List Nat := if bitOf (e 0) 20 then [0xFF800000, 0] else accCodes s c 0 (statRow (e 0) i) (2 * (i % 256)) 2
        let stat (i : Nat) : Nat × Nat := epiStats ((old i).getD 0 0) ((old i).getD 1 0) ((ys i).take (if bitsOf (e 1) 9 0 = 0 then 512 else bitsOf (e 1) 9 0))
        ∃ u, after ((List.range n).map (fun i => rowBytes f.bits (((ys i).zip (rangeFrom 0 wd)).map (fun y =>
            epiConv s c f (bitsOf (e 0) 3 2) (bitsOf (e 2) 63 32) (i * wd + y.2) y.1)))) u ∧ (u.core c).segs = [] ∧
          (∀ i, i < n → accCodes u c 0 (statRow (e 0) i) (2 * (i % 256)) 2 = [(stat i).1, (stat i).2]) ∧
          (∀ x, (∀ i, i < n → x < accAddr c 0 (statRow (e 0) i) (2 * (i % 256)) ∨ accAddr c 0 (statRow (e 0) i) (2 * (i % 256)) + 8 ≤ x) → u.byte x = s.byte x))))) ∧
  (∀ (c sub thief : Nat) (s : State), s.live = true → s.upsets = [] → Numbered (s.core c) →
    (let k := s.core c
     let wd := widthOf s c
     let here := s.has .core c && k.up && decide (sub < nSubs (splitOf s c))
     let may := s.bit (COR_ARR_STEAL c) COR_ARR_STEAL_enable && !k.prog.wydak && laneIdle k sub && !s.stealsAcross c
     let herex := s.has .core thief && s.has .core c && decide (thief ≠ c) && decide (thief / 8 = c / 8) && k.up
     let mayx := s.bit (COR_ARR_STEAL thief) COR_ARR_STEAL_cross_core && s.bit (COR_ARR_STEAL c) COR_ARR_STEAL_cross_core && !k.prog.wydak &&
       arrayIdle s thief
     let ofThief := k.steals.find? (fun z => z.cross && decide (z.thief = thief))
     let qin (r : Run) : Nat := cb r.word 111 107
     let plane (r : Run) : Plane := (k.sub (subOf r.word)).active
     let codes (r : Run) (i : Nat) : List Nat := (arrayRow (cb r.word 50 48) (f32 (bitsOf (r.num (mnEpi + 3)) 31 0)) (plane r)
       { fmt := (k.queue (qin r)).fmt, row := (k.queue (qin r)).rows.getD i [] } wd).map (rneF .fp32)
     let calm (r : Run) : Prop := nanHalts s c (r.num mnCls) = false ∧ r.nan = none ∧ r.ue = false ∧ r.num mnSpill = 0 ∧ r.num mnSwap = 1 ∧ r.outs = [] ∧
       interlocked s c r = false ∧ ∀ o ∈ k.runs, o.rid < r.rid → o.unit = r.unit → o.outs = []
     let len (r : Run) : Nat := min 64 (r.num mnCount - r.row)
     let plain (r : Run) : Prop := calm r ∧ cbit r.word 112 = false ∧ cbit r.word 113 = false ∧ len r ≤ (k.queue (qin r)).rows.length ∧
       ∀ z ∈ k.steals, z.rid ≠ r.rid
     let goesOn (r : Run) (row : Nat) (u : State) : Prop := (u.core c).runs.map (·.rid) = k.runs.map (·.rid) ∧
       ∃ y ∈ (u.core c).runs, y.rid = r.rid ∧ y.word = r.word ∧ y.row = row
     let ended (r : Run) (codes : List Nat) (u : State) : Prop := (u.core c).runs = (woken codes k).runs.filter (fun y => decide (y.rid ≠ r.rid))
     let chunk (r : Run) (by_ : Nat) (i : Instr) (k1 : Core) (u : State) : Prop := exec i s = .next (u.afterCore c) ∧
       RegsBut [COR_ARR_STEAL_CHUNKS by_, COR_ARR_ACTIVE_CYCLES c, COR_NAN_FIRST c, COR_NAN_FIRST_ADDR c] s u ∧ (∀ j, j ≠ c → u.core j = s.core j) ∧
       u = { s with regs := u.regs, cores := u.cores } ∧
       u.core c = { k1.retry [8] with queues := (u.core c).queues, subs := (u.core c).subs, runs := (u.core c).runs, steals := (u.core c).steals } ∧
       u.fld (COR_ARR_STEAL_CHUNKS by_) cntFld = min (2 ^ 48 - 1) (s.fld (COR_ARR_STEAL_CHUNKS by_) cntFld + 1) ∧
       (u.core c).queue (qin r) = { k.queue (qin r) with rows := (k.queue (qin r)).rows.drop (len r) } ∧
       (∀ j, j ≠ sub → j ≠ subOf r.word → (u.core c).sub j = k.sub j)
     (here = false ∨ (k.stealOf sub = none ∧ (may = false ∨ stealVictim s c sub = none)) → exec (.steal c sub) s = .next s) ∧
     (∀ r, here = true → k.stealOf sub = none → may = true → stealVictim s c sub = some r → plain r → cbit r.word 118 = true → cbit r.word 114 = false →
       (let qo := cb r.word 106 102
        qo ≠ qin r → (k.queue qo).size = 4 * wd → (k.queue qo).rows.length + len r ≤ queueCap (k.queue qo).units →
        ∃ u, chunk r c (.steal c sub) (wakeCore k) u ∧ (∀ j, j ≠ qo → j ≠ qin r → (u.core c).queue j = k.queue j) ∧
          (let out := (List.range (len r)).map (fun i => rowBytes 32 (((codes r i).map f32).map (rneF .fp32)))
           (u.core c).queue qo = { k.queue qo with rows := (k.queue qo).rows ++ out }) ∧
          (r.row + len r = r.num mnCount → ended r [wRoom (qin r), wRow qo] u ∧ (u.core c).stealOf sub = none ∧ ((u.core c).sub sub).shadow = {}) ∧
          (r.row + len r < r.num mnCount → goesOn r (r.row + len r) u ∧ ((u.core c).sub sub).shadow = plane r ∧
            ∃ z, (u.core c).stealOf sub = some z ∧ z.rid = r.rid ∧ z.plane = plane r ∧ z.limit = r.row + len r))) ∧
     (herex = false ∨ (ofThief = none ∧ (mayx = false ∨ k.runs.find? (crossVictim s c) = none)) → exec (.crossCoreSteal thief c) s = .next s) ∧
     (∀ r, herex = true → ofThief = none → mayx = true → k.runs.find? (crossVictim s c) = some r → plain r →
       ∃ u, chunk r thief (.crossCoreSteal thief c) k u ∧ goesOn r (r.row + len r) u ∧ (∀ j, j ≠ qin r → (u.core c).queue j = k.queue j) ∧
         (u.core c).steals = k.steals ++ [⟨thief, 0, true, r.rid, plane r, r.row, r.row + len r, (List.range (len r)).map (fun i => some (codes r i))⟩]) ∧
     (∀ z r, herex = true → ofThief = some z → k.runs.find? (fun y => decide (y.rid = z.rid)) = some r → calm r → k.prog.wydak = false →
       cbit r.word 118 = false → cbit r.word 117 = true → cb r.word 50 48 = 0 → z.limit ≤ r.row → opcode r.word = opMSTREAM → r.num mnTaken = 1 →
       0 < r.num mnCount → (∀ y ∈ k.steals, y ≠ z → y.rid ≠ r.rid) → ∀ l : List (List Nat), z.buf = l.map some → l.length = z.limit - z.first →
       (let give (t : State) (i : Nat) : Bool × State := segSpill (segAdd t c (cb r.word 51 51) (cb r.word 62 52 + z.first + i) (subOf r.word) (r.num mnCls)
          ((l.getD i []).map f32)) c (cb r.word 51 51) (cb r.word 62 52 + z.first + i) (subOf r.word) (r.num mnCls)
        let m (j : Nat) : State := (List.range j).foldl (fun t i => (give t i).2) s
        (∀ i, i < l.length → (give (m i) i).1 = true) →
        ∃ u, exec (.crossCoreSteal thief c) s = .next ((u.afterCore c).onCore thief (Core.retry [8])) ∧ u.mem = (m l.length).mem ∧ (u.core c).segs = ((m l.length).core c).segs ∧
          RegsBut [COR_NAN_FIRST c, COR_NAN_FIRST_ADDR c] s u ∧ (∀ j, j ≠ c → u.core j = s.core j) ∧ u = { s with regs := u.regs, cores := u.cores, mem := u.mem } ∧
          (u.core c).queues = k.queues ∧ (u.core c).steals = k.steals.filter (fun y => decide (y ≠ z)) ∧
          (r.row < r.num mnCount → goesOn r r.row u) ∧ (r.num mnCount ≤ r.row → ended r [] u)))))

/-- R71, R81, R85, R94, R95, R139, R142, R147, R148, R157 to R159. `el` is the table of R94, `out` an output row of a state whose source
rows are final, and `m` the states after each row.
The bounds of VEXP, VRCP and VRSQRT leave their values free (log 8); the segments that a read finalises (log 112), an accumulator row's 512
elements (log 123) and VIADD among the operations that move bits (log 166) are the model's readings. -/
def Obligations.VectorInstructionsComputeByElement : Prop :=
  ∀ (c : Nat) (d : Bool) (s : State) (w : Code), Issues s c true d w → Numbered (s.core c) → s.upsets = [] →
    ∀ p ∈ ([(.vadd c d .issue, opVADD), (.vsub c d .issue, opVSUB), (.vmul c d .issue, opVMUL), (.vfma c d .issue, opVFMA), (.vaxpy c d .issue, opVAXPY),
      (.vmax c d .issue, opVMAX), (.vmin c d .issue, opVMIN), (.vabs c d .issue, opVABS), (.vneg c d .issue, opVNEG), (.vmov c d .issue, opVMOV),
      (.vexp c d .issue, opVEXP), (.vrcp c d .issue, opVRCP), (.vrsqrt c d .issue, opVRSQRT), (.vcmp c d .issue, opVCMP), (.vand c d .issue, opVAND),
      (.vor c d .issue, opVOR), (.vxor c d .issue, opVXOR), (.viadd c d .issue, opVIADD)] : List (Instr × Nat)), opcode w = p.2 →
      (let k := issuer s c true d
       let v := k.ctx true d
       let op := p.2
       let (A, B, D) := (opA w, opB w, opD w)
       let unary := [opVABS, opVNEG, opVMOV, opVEXP, opVRCP, opVRSQRT].contains op
       let bits32 := [opVAND, opVOR, opVXOR, opVIADD].contains op
       let f : FFmt := if cbit w 118 && !bits32 then .fp64 else .fp32
       let n := vRows w
       let count (o : Opnd) : Nat := match o with
         | .queue q => (k.queue q).size * 8 / (if f = .fp64 ∧ (op ≠ opVCMP ∨ o ≠ D) then 64 else 32)
         | .acc _ _ => 512
         | .none => 0
       let cols := match D with
         | .queue _ => count D
         | _ => min 512 (max (count A) (if unary then 0 else count B))
       let el (a b x : Nat) : Nat :=
         (let r (y : FVal) : Nat := rneF f y
          let (va, vb) := (decodeF f a, decodeF f b)
          let holds := match cb w 117 115 with
            | 0 => eqV va vb
            | 1 => va.isNan || vb.isNan || !eqV va vb
            | 2 => ltV va vb
            | 3 => ltV va vb || eqV va vb
            | _ => va.isNan || vb.isNan
          if op = opVADD then r (addV va vb) else if op = opVSUB then r (subV va vb) else if op = opVMUL then r (mulV va vb)
          else if op = opVFMA then r (fmaV va vb (decodeF f x)) else if op = opVAXPY then r (fmaV (f32 (cb w 31 0)) va vb)
          else if op = opVMAX then r (maxV va vb) else if op = opVMIN then r (minV va vb)
          else if op = opVABS then a % f.signBit else if op = opVNEG then Nat.xor a f.signBit else if op = opVMOV then a
          else if op = opVEXP then vexp f a else if op = opVRCP then vrcp f a else if op = opVRSQRT then vrsqrt f a
          else if op = opVCMP then (if holds then rneF .fp32 FVal.one else 0)
          else if op = opVAND then Nat.land a b else if op = opVOR then Nat.lor a b else if op = opVXOR then Nat.xor a b
          else (a + b) % 2 ^ 32)
       let rows (q : Nat) : List (List Byte) := (k.queue q).rows
       let twice := !unary && decide (A = B)
       let srcs := [A] ++ (if unary then [] else [B])
       let uses (q : Nat) : Nat := if Opnd.queue q ∈ srcs then (if twice then 2 * n else n) else 0
       let codes (t : State) (i : Nat) (o : Opnd) (snd : Bool) : List Nat := match o with
         | .queue q => padTo cols 0 (rowElems f.bits ((rows q).getD (if twice then 2 * i + b2n snd else i) []))
         | .acc b r => padTo cols 0 ((accCodes t c b (r + i) 0 (min cols 512)).map (fun y => if f = .fp64 then rneF .fp64 (f32 y) else y))
         | .none => []
       let reads := srcs ++ (if op = opVFMA then [D] else [])
       let fin (t : State) (i : Nat) : State := reads.foldl (fun t o => match o with
         | .acc b r => finalRow t c b (r + i) cols
         | _ => t) t
       let narrow := f = .fp64 ∧ op ≠ opVCMP ∧ (match D with
         | .acc _ _ => true
         | _ => false) = true
       let g : FFmt := if narrow ∨ op = opVCMP then .fp32 else f
       let out (t : State) (i : Nat) : List Nat := (List.range cols).map (fun j =>
         (let y := el ((codes t i A false).getD j 0) ((codes t i B true).getD j 0) ((codes t i D false).getD j 0)
          if narrow then rneF .fp32 (decodeF .fp64 y) else y))
       let give (t : State) (i : Nat) : State := match D with
         | .acc b r => vecWrite (fin t i) c b (r + i) (out (fin t i) i)
         | _ => fin t i
       let m (j : Nat) : State := (List.range j).foldl give s
       let row (i : Nat) : List Nat := out (fin (m i) i) i
       let per := match D with
         | .acc _ _ => 512
         | _ => cols
       let nans := if [opVABS, opVNEG, opVMOV].contains op || bits32 then [] else
         (List.range n).flatMap (fun i => ((row i).zip (List.range cols)).filterMap (fun y => if (decodeF g y.1).isNan then some (i * per + y.2) else none))
       let free := ∀ r ∈ k.runs, r.unit = 0 ∨ (r.unit ≠ 9 ∧ ∀ o ∈ D :: srcs, ∃ q, o = .queue q)
       let fed := ∀ q, uses q ≤ (rows q).length
       let room := ∀ q, D = .queue q → 0 < (k.queue q).units ∧ (rows q).length + (if uses q = 0 then n else 0) ≤ queueCap (k.queue q).units
       let cls := match D with
         | .queue q => (k.bind q).cls
         | _ => 3
       (vecBusy k = true → ∃ u, exec p.1 s = .next (u.afterCore c) ∧ CoreBut c [] s u ∧ u.core c = k.setCtx true d { v with stall := 8 }) ∧
       (free → fed → room → NanEnds c d s p.1 nans cls [] (fun u =>
         u = { s with regs := u.regs, cores := u.cores, mem := u.mem } ∧ u.mem = (m n).mem ∧
         u.core c = woken (wakesOf uses (fun j => decide (D = .queue j))) { ran k true d v with queues := (u.core c).queues, segs := ((m n).core c).segs } ∧
         ∀ j, (u.core c).queue j = { k.queue j with rows := (rows j).drop (uses j) ++
           (if D = .queue j then (List.range n).map (fun i => rowBytes g.bits (row i)) else []) })))

/-- R96, R97, R126, R127, R139, R142, R144, R145, R149 to R155, R157 to R159. `groupCol` compresses one column of four rows (the
metadata of an over-full group are open, log 33), `scaleCode` chooses
a block's scale and `convElem` converts one value.
The element index of CVT.SR (log 123), a short last block and a scale row that is too small (log 165) are the model's readings. -/
def Obligations.ConversionAndCompression : Prop :=
  ∀ (c : Nat) (d : Bool) (s : State) (w : Code), Issues s c true d w → Numbered (s.core c) → s.upsets = [] →
    (let k := issuer s c true d
     let v := k.ctx true d
     let (A, B, D) := (opA w, opB w, opD w)
     let n := vRows w
     let rows (q : Nat) : List (List Byte) := (k.queue q).rows
     let elem (o : Opnd) : Elem := match o with
       | .queue q => (elemOf (k.queue q).fmt).getD (.flt .fp32 false)
       | _ => .flt .fp32 false
     let count (o : Opnd) : Nat := match o with
       | .queue q => (k.queue q).size * 8 / (elem o).bits
       | .acc _ _ => 512
       | .none => 0
     let head (o : Opnd) : Nat := match o with
       | .queue q => q
       | _ => 0
     let cls := match D with
       | .queue q => (k.bind q).cls
       | _ => 3
     let free := ∀ r ∈ k.runs, r.unit = 0 ∨ (r.unit ≠ 9 ∧ (∃ q, A = .queue q) ∧ ∃ q, D = .queue q)
     let fed (pops : Nat → Nat) : Prop := ∀ q, pops q ≤ (rows q).length
     let room (push : Nat → List (List Byte)) : Prop := ∀ q, push q ≠ [] → 0 < (k.queue q).units ∧ (rows q).length + (push q).length ≤ queueCap (k.queue q).units
     let moved (pops : Nat → Nat) (push : Nat → List (List Byte)) (u : State) : Prop :=
       ∀ j, (u.core c).queue j = { k.queue j with rows := (rows j).drop (pops j) ++ push j }
     let busy (i : Instr) : Prop := vecBusy k = true → ∃ u, exec i s = .next (u.afterCore c) ∧ CoreBut c [] s u ∧ u.core c = k.setCtx true d { v with stall := 8 }
     (opcode w = opCVT →
       (let isBs (o : Opnd) : Bool := match elem o with
          | .flt _ b => b
          | _ => false
        let (fromBs, toBs, byCol) := (isBs A, isBs D, cbit w 114)
        let G := if cbit w 115 && byCol then 32 else 1
        let cols := match D with
          | .queue _ => count D
          | _ => min 512 (count A)
        let base : FFmt := match elem D with
          | .flt f _ => f
          | _ => .fp32
        let sfmt := (k.queue (head B)).fmt
        let scaleRow (l : List Nat) : List Byte := padTo (k.queue (head B)).size 0 (rowBytes (if sfmt = 0x04 then 16 else 8) l)
        let fin (t : State) (h : Nat) : State := match A with
          | .acc b r => finalRows t c b (r + h * G) G cols
          | _ => t
        let value (t : State) (i : Nat) : List FVal :=
          (let codes := match A with
             | .queue q => padTo cols 0 (rowElems (elem A).bits ((rows q).getD i []))
             | .acc b r => padTo cols 0 (accCodes t c b (r + i) 0 (min cols 512))
             | .none => []
           (codes.zip (List.range cols)).map (fun y => if fromBs && decide ((if byCol then y.2 else y.2 / 32 * 32) < count A) then
             mulV (decodeElem (elem A) y.1) (scaleAt sfmt ((rows (head B)).getD (i / G) []) (if byCol then y.2 else y.2 / 32)) else decodeElem (elem A) y.1))
        let scales (t : State) (i : Nat) : List Nat :=
          if byCol then (List.range cols).map (fun j => scaleCode sfmt base ((List.range 32).map (fun y => (value t (i / 32 * 32 + y)).getD j FVal.zero)))
          else (chunksOf 32 (value t i)).map (scaleCode sfmt base)
        let out (t : State) (i : Nat) : List Nat := (let sc := scales t i
         ((value t i).zip (List.range cols)).map (fun y =>
          (let x := if toBs then divV y.1 (decodeElem ((elemOf sfmt).getD .e8) (sc.getD (if byCol then y.2 else y.2 / 32) 127)) else y.1
           let rnd : Rnd := if cb w 117 116 = 0 then .rne else if cb w 117 116 = 1 then .rtz else .sr
           convElem (elem D) rnd (cbit w 113) (drawAt (seedOf s) k.step (cb w 31 0) (i * cols + y.2)) x)))
        let give (t : State) (h : Nat) : State := (List.range G).foldl (fun y r => match D with
          | .acc b row => vecWrite y c b (row + h * G + r) (out (fin t h) (h * G + r))
          | _ => y) (fin t h)
        let m (h : Nat) : State := (List.range h).foldl give s
        let row (i : Nat) : List Nat := out (fin (m (i / G)) (i / G)) i
        let per := match D with
          | .acc _ _ => 512
          | _ => cols
        let nans := match elem D with
          | .flt f _ => (List.range n).flatMap (fun i => ((row i).zip (List.range cols)).filterMap (fun y => if (decodeF f y.1).isNan then some (i * per + y.2) else none))
          | _ => []
        let pops (q : Nat) : Nat := (if A = .queue q then n else 0) + (if fromBs = true ∧ B = .queue q then n / G else 0)
        let push (q : Nat) : List (List Byte) := if D = .queue q then (List.range n).map (fun i => rowBytes (elem D).bits (row i))
          else if toBs = true ∧ B = .queue q then (List.range (n / G)).map (fun h => scaleRow (scales (fin (m h) h) (h * G))) else []
        busy (.cvt c d .issue) ∧
        (free → fed pops → room push → NanEnds c d s (.cvt c d .issue) nans cls [] (fun u =>
          u = { s with regs := u.regs, cores := u.cores, mem := u.mem } ∧ u.mem = (m (n / G)).mem ∧ moved pops push u ∧
          u.core c = woken (wakesOf pops (fun j => decide (push j ≠ []))) { ran k true d v with queues := (u.core c).queues, segs := ((m (n / G)).core c).segs })))) ∧
     (opcode w = opCOMPRESS →
       (let f := baseFmt (k.queue (head A)).fmt
        let cols := count A
        let T := n / 256
        let code (i j : Nat) : Nat := (let x := (rowElems f.bits ((rows (head A)).getD i [])).getD j 0
         if (decodeF f x).isNan then f.nan else x)
        let col (t g j : Nat) : GroupCol := groupCol f (cbit w 118) ((List.range 4).map (fun y => code (256 * t + 4 * g + y) j))
        let cells (t : Nat) : List GroupCol := (List.range 64).flatMap (fun g => (List.range cols).map (col t g))
        let excess (t : Nat) : Nat := ((cells t).filter (·.overfull)).length
        let dense (t : Nat) : Bool := decide (0 < excess t)
        let nnz (t : Nat) : Nat := ((cells t).map (fun x => (x.codes.filter (fun y => !(decodeF f y).isZero)).length)).sum
        let desc (t : Nat) : List Byte := padTo (k.queue (head B)).size 0 (leBytes 1 0xD4 ++ leBytes 1 (b2n (dense t)) ++
          leBytes 2 (if dense t then 256 else 128) ++ leBytes 4 (nnz t) ++ leBytes 4 (excess t) ++ leBytes 4 ((cb w 31 0 + t) % 2 ^ 32) ++ leBytes 2 cols ++ leBytes 14 0)
        let metas (t : Nat) : List (List Byte) := (List.range 64).map (fun g => rowBytes 4 ((List.range cols).map (fun j =>
          if (col t g j).overfull then Config.openMeta (col t g j).codes % 16 else (col t g j).idx.1 + 4 * (col t g j).idx.2)))
        let vals (t : Nat) : List (List Nat) := (List.range 64).flatMap (fun g =>
          if dense t then (List.range 4).map (fun y => (List.range cols).map (fun j => (col t g j).codes.getD y 0))
          else [(List.range cols).map (fun j => (col t g j).codes.getD (col t g j).idx.1 0), (List.range cols).map (fun j => (col t g j).codes.getD (col t g j).idx.2 0)])
        let kept := (List.range T).flatMap vals
        let nans := (kept.zip (List.range kept.length)).flatMap (fun x => (x.1.zip (List.range cols)).filterMap (fun y =>
          if (decodeF f y.1).isNan then some (x.2 * cols + y.2) else none))
        let pops (q : Nat) : Nat := if A = .queue q then n else 0
        let push (q : Nat) : List (List Byte) := (List.range T).flatMap (fun t =>
          (if B = .queue q then desc t :: metas t else []) ++ (if D = .queue q then (vals t).map (rowBytes f.bits) else []))
        let adds (r : Nat) (m : Nat) (u : State) : Prop := u.fld r cntFld = min (2 ^ 48 - 1) (s.fld r cntFld + m)
        busy (.compress24 c d .issue) ∧
        (free → fed pops → room push → (k.queue (head D)).size = (k.queue (head A)).size → (k.queue (head B)).size = cols / 2 →
          NanEnds c d s (.compress24 c d .issue) nans cls [COR_SPARSE_OVERFULL c, COR_SPARSE_PRUNED c] (fun u =>
            u = { s with regs := u.regs, cores := u.cores } ∧ moved pops push u ∧
            u.core c = woken (wakesOf pops (fun j => decide (push j ≠ []))) { ran k true d v with queues := (u.core c).queues } ∧ adds (COR_SPARSE_OVERFULL c) ((List.range T).map excess).sum u ∧
            adds (COR_SPARSE_PRUNED c) (((List.range T).flatMap cells).map (·.removed)).sum u)) ∧
        (∀ pr a b e g, (e = groupCol g pr a → b = nonZeros (a.map (decodeF g)) → a.length = 4 →
          (b.length ≤ 2 → e.codes = a ∧ e.overfull = false ∧ e.removed = 0 ∧ e.idx.1 < e.idx.2 ∧ e.idx.2 < 4 ∧ ∀ i ∈ b, i = e.idx.1 ∨ i = e.idx.2) ∧
          (2 < b.length → pr = false → e.codes = a ∧ e.overfull = true ∧ e.removed = 0) ∧
          (2 < b.length → pr = true → e.overfull = false ∧ e.removed = b.length - 2 ∧ e.idx.1 < e.idx.2 ∧ e.idx.2 < 4 ∧
            (∀ i, i < 4 → e.codes.getD i 0 = if i = e.idx.1 ∨ i = e.idx.2 then a.getD i 0 else 0) ∧
            ((∀ x ∈ a, (decodeF g x).isNan = false) → ∀ i, i < 4 → i ≠ e.idx.1 → i ≠ e.idx.2 → ∀ j, j = e.idx.1 ∨ j = e.idx.2 →
              (ltV (decodeF g (a.getD j 0)).abs (decodeF g (a.getD i 0)).abs = false ∧
               (eqV (decodeF g (a.getD j 0)).abs (decodeF g (a.getD i 0)).abs = true → j < i)))))))))

/-- R98 to R100, R157 to R159, R162, R168, R178 to R181. `combine` joins two running values with the lower position on the left, `regCarry`
and `regFold` are the levels of R173 and R174, `reduceRowAxis1` is the tree of R98, and `updArith` the arithmetic of R180.
The form of a count (log 34), the class C tree (log 95) and the columns beyond a row of axis 1 (log 123) are the model's readings. -/
def Obligations.ReductionAndUpdate : Prop :=
  ∀ (c : Nat) (d : Bool) (s : State) (w : Code), Issues s c true d w → Numbered (s.core c) → s.upsets = [] →
    (let k := issuer s c true d
     let v := k.ctx true d
     let rows (q : Nat) : List (List Byte) := (k.queue q).rows
     let fed (pops : Nat → Nat) : Prop := ∀ q, pops q ≤ (rows q).length
     let room (push : Nat → List (List Byte)) : Prop := ∀ q, push q ≠ [] → 0 < (k.queue q).units ∧ (rows q).length + (push q).length ≤ queueCap (k.queue q).units
     let moved (pops : Nat → Nat) (push : Nat → List (List Byte)) (u : State) : Prop :=
       ∀ j, (u.core c).queue j = { k.queue j with rows := (rows j).drop (pops j) ++ push j }
     let busy (i : Instr) : Prop := vecBusy k = true → ∃ u, exec i s = .next (u.afterCore c) ∧ CoreBut c [] s u ∧ u.core c = k.setCtx true d { v with stall := 8 }
     (opcode w = opREDUCE →
       (let (A, D) := (opA w, opD w)
        let n := vRows w
        let op := cb w 117 115
        let f : FFmt := if cbit w 118 then .fp64 else .fp32
        let cls := if cb w 113 112 = 0 then (match A with
          | .queue q => (k.bind q).cls
          | _ => 3) else cb w 113 112
        let e : Elem := match D with
          | .queue q => (elemOf (k.queue q).fmt).getD (.flt .fp32 false)
          | _ => .flt .fp32 false
        let size (o : Opnd) (bits : Nat) : Nat := match o with
          | .queue q => (k.queue q).size * 8 / bits
          | .acc _ _ => 512
          | .none => 0
        let per := size D e.bits
        let cols := if cbit w 114 then size A f.bits else match D with
          | .queue _ => per
          | _ => min 512 (size A f.bits)
        let fin (t : State) (i : Nat) : State := match A with
          | .acc b r => finalRow t c b (r + i) cols
          | _ => t
        let value (t : State) (i : Nat) : List FVal := match A with
          | .queue q => (padTo cols 0 (rowElems f.bits ((rows q).getD i []))).map (decodeF f)
          | .acc b r => (padTo cols 0 ((accCodes t c b (r + i) 0 (min cols 512)).map (fun y => if f = .fp64 then rneF .fp64 (f32 y) else y))).map (decodeF f)
          | .none => []
        let draw (i j : Nat) : Nat := philox (seedOf s) k.step (cb w 31 0) i j
        let put (t : State) (h : Nat) (l : List Nat) : State := match D with
          | .acc b r => vecWrite t c b (r + h) l
          | _ => t
        let isNan (y : Nat) : Bool := match e with
          | .flt g _ => (decodeF g y).isNan
          | _ => false
        let nansOf (l : List Nat) : List Nat := (l.zip (List.range l.length)).filterMap (fun y => if isNan y.1 then some y.2 else none)
        let free := ∀ r ∈ k.runs, r.unit = 0 ∨ (r.unit ≠ 9 ∧ (∃ q, A = .queue q) ∧ ∃ q, D = .queue q)
        let pops (q : Nat) : Nat := if A = .queue q then n else 0
        let push (l : List (List Nat)) (q : Nat) : List (List Byte) := if D = .queue q then l.map (rowBytes e.bits) else []
        let ends (nans : List Nat) (l : List (List Nat)) (z : State) : Prop := free → fed pops → room (push l) → NanEnds c d s (.reduce c d .issue) nans cls [] (fun u =>
          u = { s with regs := u.regs, cores := u.cores, mem := u.mem } ∧ u.mem = z.mem ∧ moved pops (push l) u ∧
          u.core c = woken (wakesOf pops (fun j => decide (push l j ≠ []))) { ran k true d v with queues := (u.core c).queues, segs := (z.core c).segs })
        busy (.reduce c d .issue) ∧
        (cbit w 114 = false →
          (let m (j : Nat) : State := (List.range j).foldl fin s
           let sum := op = 0 ∨ op = 3
           let limit := if sum ∧ cls = 1 then 2 ^ 16 else if sum ∧ cls = 2 then 2 ^ 20 else 0
           let live (y : Pair) : FVal := if cls = 2 then r64 (addV y.1 y.2) else y.1
           let add (a : List Nat × List Nat × List (List Nat) × Nat) (i : Nat) : List Nat × List Nat × List (List Nat) × Nat :=
             (let terms := (value (m (i + 1)) i).map (reduceTerm f op)
              let next : List Pair := if i = 0 then (terms.zip (List.range cols)).map (fun y => (if sum ∧ cls = 1 then f32 (sr16 (draw y.2 0) y.1) else y.1, FVal.zero))
                else (((held64 a.1).zip (held64 a.2.1)).zip terms |>.zip (List.range cols)).map (fun y => combine f op cls (draw y.2 i) y.1.1 (y.1.2, FVal.zero))
              let cnt := if i = 0 then 0 else a.2.2.2 + 1
              let spill := cnt ≠ 0 ∧ cnt = limit
              let kept : List Pair := if spill then next.map (fun _ => (FVal.zero, FVal.zero)) else next
              (keep64 (kept.map (fun (y : Pair) => y.1)), keep64 (kept.map (fun (y : Pair) => y.2)), if spill then regCarry cls 15 a.2.2.1 (next.map live) else a.2.2.1, if spill then 0 else cnt))
           let a := (List.range n).foldl add ([], [], [], 0)
           let last := ((held64 a.1).zip (held64 a.2.1) : List Pair)
           let vals := if ∀ l ∈ a.2.2.1, l = [] then last.map (pairValue f op cls) else regFold cls a.2.2.1 (last.map live)
           let out := vals.map (reduceCode e op)
           ends (nansOf out) [out] (put (m n) 0 out))) ∧
        (cbit w 114 = true →
          (let code (t : State) (i : Nat) : Nat := reduceCode e op (reduceRowAxis1 f op cls (fun y => draw i y) (value t i))
           let next (t : State × List Nat × List Nat) (i : Nat) : State × List Nat × List Nat :=
             (let y := fin t.1 i
              let l := t.2.1 ++ [code y i]
              if l.length = per ∨ i + 1 = n then (put y (i / per) (padTo per 0 l), [], t.2.2 ++ padTo per 0 l) else (y, l, t.2.2))
           let z := (List.range n).foldl next (s, [], [])
           ends (nansOf (z.2.2.take n)) (chunksOf per z.2.2) z.1)))) ∧
     (opcode w = opUPDATE →
       (let q := cb w 111 107
        let opt := cb w 106 104
        let rem := cbit w 118
        let n := cb w 103 72
        let wf := baseFmt (k.queue q).fmt
        let gf := baseFmt (k.queue (q + 1)).fmt
        let cols := (k.queue q).size * 8 / wf.bits
        let b := if (k.queue (q + 3)).size ≥ 2 * cols then 16 else 8
        let par := rowElems 32 ((rows (q + 2)).getD 0 [])
        let at_ (f : Nat) (y i j : Nat) : Nat := (rowElems f ((rows y).getD i [])).getD j 0
        let one (i j : Nat) : Nat × Nat × Nat × Nat :=
          (let wc := at_ wf.bits q i j
           let w0 := decodeF wf wc
           let win := if rem then r32 (addV w0 (remDec b (at_ b (q + 3) i j) (spacing wf wc))) else w0
           let m0 := if opt = 0 then 0 else at_ 32 (q + 4) i j
           let v0 := if opt = 2 then at_ 32 (q + 5) i j else 0
           let y := updArith par (cb w 63 32) opt (decodeF gf (at_ gf.bits (q + 1) i j)) win (f32 m0) (f32 v0)
           let out := if wf = .fp32 then rneF .fp32 y.1 else convF wf (if rem then .rne else .sr) true (drawAt (seedOf s) k.step (cb w 31 0) (i * cols + j)) y.1
           (out, if y.1.finite then remEnc b (subV y.1 (decodeF wf out)) (spacing wf out) else 0, rneF .fp32 y.2.1, rneF .fp32 y.2.2))
        let uses (y : Nat) : Bool := y = 0 || y = 1 || (y = 3 && rem) || (y = 4 && 1 ≤ opt) || (y = 5 && opt = 2)
        let pops (j : Nat) : Nat := if j = q + 2 then 1 else if q ≤ j ∧ uses (j - q) = true then n else 0
        let outs : List (Nat × (Nat × Nat × Nat × Nat → Nat) × Nat) := [(0, (·.1), wf.bits)] ++ (if rem then [(3, (·.2.1), b)] else []) ++
          (if 1 ≤ opt then [(4, (·.2.2.1), 32)] else []) ++ (if opt = 2 then [(5, (·.2.2.2), 32)] else [])
        let outOf (y : Nat) : Nat := q + (if y = 0 then 6 else y + 4)
        let skip := k.flag = some true
        let push (j : Nat) : List (List Byte) := outs.flatMap (fun o => if outOf o.1 = j then
          (if skip then (rows (q + o.1)).take n else (List.range n).map (fun i => rowBytes o.2.2 ((List.range cols).map (fun y => o.2.1 (one i y))))) else [])
        let apart := ∀ j, pops j = 0 ∨ push j = []
        let sized := (∀ o ∈ outs, (k.queue (outOf o.1)).size = (if skip then (k.queue (q + o.1)).size else cols * o.2.2 / 8)) ∧
          ∀ y, uses y = true → ∀ r ∈ (rows (q + y)).take n, r.length = (k.queue (q + y)).size
        let nans := if skip then [] else (List.range n).flatMap (fun i => ((if opt = 2 then [(·.1), (·.2.2.1), (·.2.2.2)] else if opt = 1 then [(·.1), (·.2.2.1)] else [(·.1)]
            : List (Nat × Nat × Nat × Nat → Nat)).zip [wf, .fp32, .fp32]).flatMap (fun g =>
          (List.range cols).filterMap (fun j => if (decodeF g.2 (g.1 (one i j))).isNan then some (i * cols + j) else none)))
        busy (.update c d .issue) ∧
        (vecBusy k = false → k.flag = none → ∃ u, exec (.update c d .issue) s = .next (u.afterCore c) ∧ CoreBut c [] s u ∧ (u.core c).queues = k.queues ∧
          ∃ r ∈ (u.core c).runs, r.rid = k.nextRid ∧ r.unit = 9 ∧ r.wcode = 1 ∧ r.vals = []) ∧
        (vecBusy k = false → k.flag ≠ none → fed pops → room push → sized → apart → NanEnds c d s (.update c d .issue) nans (k.bind (q + 6)).cls [] (fun u =>
          u = { s with regs := u.regs, cores := u.cores } ∧ moved pops push u ∧
          u.core c = woken (wakesOf pops (fun j => decide (push j ≠ []))) { ran (if skip then { k with cmd := k.cmd.map (fun y => { y with skipped := true }) } else k) true d v with queues := (u.core c).queues })))))

/-- R197 to R199, R203, R204, R207 to R209, R211 to R213, R216 to R219, R220, R222. `hops` are the selections of a SAMPLE whose nodes lie
on this device, `places` what it reads to start. Which SAMPLE or row an event names, and how many rows PREFETCH takes, is the sender's. When a SAMPLE's plan and lists
are counted as read is the model's choice (log 74), as are the room of a prefetched row (log 37), the edges that a draw by position leaves unread (log 36),
where a row's entry lies on another device (log 35), the descriptors that a Drover holds (log 155), and what wakes a Drover (log 142). -/
def Obligations.DroversBuildAndServeRoads : Prop :=
  ∀ (d : Nat) (s : State), s.live = true →
    (let k := s.drover d
     let step := (s.reg COL_STEP).toNat
     let able := k.halted = false ∧ k.rest < 2 ∧ s.mixed = false ∧ s.has .drover d = true
     let frozen := s.isFrozen (drMst d) = true
     let put (y : Drover) : State := s.setDrover d y
     let ends (i : Instr) (y : Drover) (r : CmdRef) (status detail : Nat) : Prop := ∃ u, exec i s = .next (u.complete r status 0 detail 0) ∧ ReadsBut [] (put y) u
     let frozenOut (i : Instr) (m : Cmd) (t : List (Nat × Cmd)) : Prop :=
       exec i s = .next (((put ({ k with inbox := t } : Drover).settle).frozenCommand (drMst d) 0x05).complete m.ref 0x05 0 0x1007 0)
     let limits (i : Instr) (x : Smp) (y : State) : Prop := exec i s = .next ((((y.flag (DRV_ERR d) DRV_ERR_staging_limit).logFree 0x7002 2 d).setDrover d
       ({ k with samples := k.samples.filter (fun z => decide (z.serial ≠ x.serial)) } : Drover).settle).complete x.ref 0x0B 0 0x7002 0)
     let begins (i : Instr) (x : Smp) (y : Drover) : Prop :=
       (let topo := topoFor s d x.step
        let adj := s.bytes topo 64
        let a := adjOf adj
        let list := fieldAt x.plan 0x10 8
        let total := fieldAt x.plan 0x18 8
        let ids := (List.range x.count).map (fun j => s.num (list + 8 * perm (seedOf s) x.epoch total (x.i0 + j)) 8 % 2 ^ 40)
        let seeds := ids.filter (fun v => decide (v < a.nodes))
        let hop (h : Nat) : Hop := hopOf ((x.plan.drop (64 * h)).take 64)
        let idx (v : Nat) : Nat := (homeOf s a v).base + (v - (homeOf s a v).first)
        let node (h v : Nat) : NodeRes := nodeEdges d a (idx v) (fun deg => blocksRead (seedOf s) x.step h v deg (hop h)) s
        let raw (h v : Nat) : List RawEdge × Nat := match node h v with
          | .ok es f _ => (es, f)
          | _ => ([], 0)
        let pick (h v : Nat) : List Edge := selectEdges (seedOf s) x.step h v a (hop h) (raw h v).2 (raw h v).1
        let front (h : Nat) : List Nat := (List.range h).foldl (fun l j => distinct ((l.flatMap (pick (j + 1))).map (·.nbr))) seeds
        let n := fieldAt x.plan 4 1
        let hops := (List.range n).map (fun h => (front h).map (pick (h + 1)))
        let here := ∀ h, h < n → ∀ v ∈ front h, (homeOf s a v).dev = s.devId ∧ (∀ q ∈ adjReads s a (idx v), Reads (drMst d) q.1 q.2 s) ∧ (∃ es f t, node (h + 1) v = .ok es f t)
        let places := (a.ranges, 16 * a.rangeCount) :: (seedPlaces s x).map (fun p => (p, 8))
        let dropped := (ids.filter (fun v => decide (a.nodes ≤ v))).length +
          ((List.range n).flatMap (fun h => (front h).map (fun v => ((raw (h + 1) v).1.filter (fun e => decide (a.nodes ≤ e.nbr))).length))).sum
        let built (t : State) (feat : List Byte) : Prop := ∃ u, exec i s = .next u ∧ ReadsBut [DRV_INDEX_DROPPED d] (t.setDrover d { y with
            samples := y.samples.map (fun z => if z.serial = x.serial then
              { x with started := true, topo := topo, adj := adj, feat := feat, seeds := seeds, hops := hops, cur := [], built := true } else z) }) u ∧ Rose (DRV_INDEX_DROPPED d) dropped s u
        Reads (drMst d) topo 64 s →
          (a.good = false ∨ planSuits a x.plan = false → ends i
            ({ y with samples := y.samples.filter (fun z => decide (z.serial ≠ x.serial)) } : Drover).settle x.ref 0x02 0) ∧
          (a.good = true → planSuits a x.plan = true → x.hops = [] → 1 ≤ n → n ≤ 8 → here → (∀ h, h < n → (front (h + 1)).length ≤ hashCap s d) →
            (∀ p ∈ places, mapped s p.1 p.2 = true ∧ permitted s (34 + d) s.devId p.1 p.2 kRead = true ∧ waits s p.1 = false) → SoundAll s places →
            (featTable x = none → built s []) ∧
            (∀ g, featTable x = some g → g / 2 ^ 48 = s.devId → Reads (drMst d) (g % 2 ^ 48) 64 s → built s (s.bytes (g % 2 ^ 48) 64)) ∧
            (∀ g, featTable x = some g → g / 2 ^ 48 ≠ s.devId → permitted s (34 + d) (g / 2 ^ 48) (g % 2 ^ 48) 64 kRead = true →
              ∃ t : State, ReadsBut [] (put y) t ∧ built (t.request 0x01 (g / 2 ^ 48) g [64] [] (.feature d x.serial)).2 [])))
     (¬able ∨ k.inbox = [] → exec (.sample d) s = .next s ∧ exec (.topoSwitch d) s = .next s) ∧
     (∀ f m t, able → k.inbox = (f, m) :: t →
       (m.code ≠ 1 → exec (.sample d) s = .next s) ∧ (m.code ≠ 2 → exec (.topoSwitch d) s = .next s) ∧
       (m.code = 1 →
         (let p := fieldAt m.desc 8 8
          let plan := s.bytes p 64 ++ s.bytes (p + 64) (64 * max 1 (min 8 (fieldAt (s.bytes p 64) 4 1)))
          let x : Smp := { serial := k.serial, depth := s.fld (DRV_SPEC_CFG d) DRV_SPEC_CFG_depth, ref := m.ref, fold := f, plan := plan, step := fieldAt m.desc 0x10 8, epoch := fieldAt m.desc 0x18 8, i0 := fieldAt m.desc 0x20 8, count := fieldAt m.desc 0x28 4 }
          let a := adjOf (s.bytes (topoFor s d x.step) 64)
          let bad := planGood plan = false ∨ x.step < step ∨ fieldAt plan 0x18 8 < x.i0 + x.count
          let y : Drover := ({ k with inbox := t, samples := k.samples ++ [x], serial := k.serial + 1, rest := 0 } : Drover).accepts step
          let here := Reads (drMst d) (topoFor s d x.step) 64 s
          let left : Drover := ({ k with inbox := t } : Drover).settle
          let starts := mayStart s d x = true ∧ ∀ z ∈ k.samples, z.started = true ∨ z.fold ≠ f
          (frozen → frozenOut (.sample d) m t) ∧
          (¬frozen → Reads (drMst d) p 64 s → Reads (drMst d) (p + 64) (64 * max 1 (min 8 (fieldAt (s.bytes p 64) 4 1))) s →
            (bad → ends (.sample d) left m.ref 0x02 0) ∧
            (¬bad → here → planSuits a plan = false → ends (.sample d) left m.ref 0x02 0) ∧
            (¬bad → here → planSuits a plan = true → ¬starts → ∃ u, exec (.sample d) s = .next u ∧ ReadsBut [] (put y) u) ∧
            (¬bad → here → planSuits a plan = true → starts → (∀ z ∈ k.samples, z.serial ≠ k.serial) → begins (.sample d) x y)))) ∧
       (m.code = 2 →
         (let desc := fieldAt m.desc 8 8
          let first := fieldAt m.desc 0x10 8
          let refused := (∃ n, k.top = some n ∧ first ≤ n) ∨ (∃ x ∈ k.samples, first ≤ x.step ∧ x.step ≤ step + x.depth) ∨ first < step ∨ ∃ p ∈ k.topos, step < p.1
          (frozen → frozenOut (.topoSwitch d) m t) ∧
          (¬frozen → refused → exec (.topoSwitch d) s =
            .next ((((put ({ k with inbox := t } : Drover).settle).flag (DRV_ERR d) DRV_ERR_topo_refused).logFree 0x7004 2 d).complete m.ref 0x02 0 0x7004 0)) ∧
          (¬frozen → ¬refused → ∃ u, exec (.topoSwitch d) s = .next (u.complete m.ref 0 0 0 0) ∧ RegsBut [DRV_TOPO d] s u ∧
            u = { put { (({ k with inbox := t } : Drover).settle).accepts step with topos := (u.drover d).topos } with regs := u.regs } ∧
            (∀ n, step ≤ n → topoFor u d n = if first ≤ n then desc else topoFor s d n) ∧
            u.fld (DRV_TOPO d) DRV_TOPO_version = topoVersion s (topoFor u d step) % 2 ^ 32 ∧
            u.fld (DRV_TOPO d) DRV_TOPO_pending = if step < first then 1 else 0)))) ∧
     (let due (z : Smp) : Bool := !z.started && (mayStart s d z || decide (z.step < step))
      (k.halted = true ∨ 2 ≤ k.rest ∨ k.samples.find? due = none → exec (.sampleStart d) s = .next s) ∧
      (∀ x, k.halted = false → k.rest < 2 → k.samples.find? due = some x → (k.samples.map (·.serial)).Nodup →
        (x.step < step → ends (.sampleStart d) ({ k with samples := k.samples.filter (fun z => decide (z.serial ≠ x.serial)) } : Drover).settle x.ref 0x02 0) ∧
        (step ≤ x.step → begins (.sampleStart d) x k))) ∧
     ((∀ x ∈ k.samples, x.started = true → x.built = true) →
       (k.samples.find? (·.built) = none → exec (.sampleComplete d) s = .next s) ∧
       (∀ x, k.samples.find? (·.built) = some x →
         (let b := roadBytes s (adjOf x.adj) x
          let slot := roadSlot d x.fold x.step
          let p := staging d + slotOffset s d slot
          let cap := s.fld (DRV_STAGING_CFG d) DRV_STAGING_CFG_slot_units * 0x10000
          (cap < b.length → limits (.sampleComplete d) x s) ∧
          (b.length ≤ cap → Sound s p b.length → (∀ y ∈ atomsOf p b.length, inPasture (y * 64) = false) →
            ∃ u, exec (.sampleComplete d) s = .next (u.complete x.ref 0 0 0 0) ∧ RegsBut [DRV_ROAD_STEP d slot, DRV_EDGES_SAMPLED d] s u ∧
              u.reg (DRV_ROAD_STEP d slot) = BitVec.ofNat 64 x.step ∧
              u.reg (DRV_EDGES_SAMPLED d) = s.reg (DRV_EDGES_SAMPLED d) + BitVec.ofNat 64 x.hops.flatten.flatten.length ∧
              MemBut p b.length s u ∧ u.bytes p b.length = b ∧
              u = { put ({ k with samples := k.samples.filter (fun z => decide (z.serial ≠ x.serial)), feeds := k.feeds ++ (feedOf x).toList } : Drover).settle
                with regs := u.regs, mem := u.mem, atomErrs := u.atomErrs })))) ∧
     (exec (.prefetch d 0) s = .next s ∧ ∀ n u, exec (.prefetch d 1) s = .next u → exec (.prefetch d (n + 1)) s = .next (prefetch d n u)) ∧
     (k.feeds = [] ∨ k.halted = true ∨ 2 ≤ k.rest ∨ frozen → exec (.prefetch d 1) s = .next s) ∧
     (∀ f l t, k.feeds = f :: l → k.halted = false → k.rest < 2 → ¬frozen → f.await = false → f.resp = none → parseTable (f.desc % 2 ^ 48) f.table = some t →
       (let n := if f.ncols = 0 then t.elems - f.col0 else f.ncols
        let set (g : Feed) : Drover := { k with feeds := g :: l }
        let next : Feed := { f with keys := f.keys.drop 1, entry := none, known := false }
        let ranges : Prop := t.ranged = true → Reads (drMst d) t.ranges (16 * t.rangeCount) s
        n ≠ 0 → f.col0 + n ≤ t.elems →
        (f.keys = [] → exec (.prefetch d 1) s = .next (put ({ k with feeds := l } : Drover).settle)) ∧
        (∀ key rest, f.keys = key :: rest →
          (t.rows ≤ key → exec (.prefetch d 1) s = .next (put (set next))) ∧
          (∀ a e, key < t.rows → f.entry = none → ranges → entryAt s t key = some (s.devId, a) → Reads (drMst d) a 8 s → dirEnt (s.num a 8) = e →
            ∃ u, exec (.prefetch d 1) s = .next u ∧ ReadsBut [] (put (set (if e.unplaced then next else { f with entry := some e.word, known := decide (e.dev = s.devId), asked := step }))) u) ∧
          (∀ dev a, key < t.rows → f.entry = none → ranges → entryAt s t key = some (dev, a) → dev ≠ s.devId → ∃ v, ReadsBut [] s v ∧
            (permitted s (34 + d) dev a 8 kRead = true →
              exec (.prefetch d 1) s = .next ((v.request 0x01 dev (dev * 2 ^ 48 + a) [8] [] (.feed d f.serial)).2.setDrover d (set { f with await := true, asked := step }))) ∧
            (permitted s (34 + d) dev a 8 kRead = false → exec (.prefetch d 1) s = .next
              ((v.violateAddr (drMst d) 0x1001 kRead (dev * 2 ^ 48 + a)).setDrover d ({ k with feeds := l } : Drover).settle))) ∧
          (∀ w, key < t.rows → f.entry = some w → f.known = false →
            (let a := entryPlace s t key
             let home := (dirEnt w).dev
             (permitted s (34 + d) home a 8 kRead = true → exec (.prefetch d 1) s =
               .next ((s.request 0x08 home 0 [t.id, key, (dirEnt w).addr] [] (.feed d f.serial)).2.setDrover d (set { f with await := true, asked := step }))) ∧
             (permitted s (34 + d) home a 8 kRead = false → exec (.prefetch d 1) s =
               .next ((s.violateAddr (drMst d) 0x1001 kRead (home * 2 ^ 48 + a)).setDrover d ({ k with feeds := l } : Drover).settle)))) ∧
          (∀ w, key < t.rows → f.entry = some w → f.known = true → (dirEnt w).unplaced = false →
            (let e := dirEnt w
             let span := colSpan e.cls f.col0 n
             let pieces := rowPieces e.addr e.cls t.elems f.col0 n
             let r : PfRow := { id := k.serial, step := f.step, fold := f.fold, topo := f.topo, desc := f.desc, table := f.table, key := key, col0 := f.col0, ncols := n, entry := e.word, elems := t.elems, bytes := pieces.flatMap (fun p => s.bytes p.1 p.2), check := if f.step ≤ f.asked then 3 else if f.step ≤ step then 1 else 0 }
             permitted s (34 + d) e.dev (e.addr + span.1) (span.2 - span.1) kRead = true →
             (e.dev ≠ s.devId → exec (.prefetch d 1) s = .next ((s.request 0x04 e.dev (e.dev * 2 ^ 48 + e.addr) [e.cls, t.elems, f.col0, n] [] (.feed d f.serial)).2.setDrover d
               (set { f with await := true, entry := some e.word, known := true }))) ∧
             (e.dev = s.devId → waits s e.addr = false → s.stubAt e.addr = none → rowPlaced e.addr e.cls t.elems = true → mapped s (e.addr + span.1) (span.2 - span.1) = true → SoundAll s pieces →
               (prefetchUsed k + upTo 64 r.bytes.length ≤ prefetchSize s d → ∃ u, exec (.prefetch d 1) s = .next u ∧
                 ReadsBut (DRV_ROWS_PREFETCHED d :: nsrRegs) ({ put { set next with rows := k.rows ++ [r], serial := k.serial + 1 } with nsrs := u.nsrs }) u ∧
                 u.reg (DRV_ROWS_PREFETCHED d) = s.reg (DRV_ROWS_PREFETCHED d) + 1) ∧
               (prefetchSize s d < prefetchUsed k + upTo 64 r.bytes.length → ∃ u, exec (.prefetch d 1) s = .next u ∧ Rose (DRV_PREFETCH_SKIPPED d) (rest.length + 1) s u ∧
                 ReadsBut (DRV_PREFETCH_SKIPPED d :: nsrRegs) ({ put ({ k with feeds := l } : Drover).settle with nsrs := u.nsrs }) u))))))) ∧
     (∀ id, k.rows.find? (fun r => decide (r.id = id) && decide (r.check = 1)) = none → exec (.rowCheck d id) s = .next s) ∧
     (∀ id r, k.rest < 2 → k.rows.find? (fun z => decide (z.id = id) && decide (z.check = 1)) = some r →
       (let t := tableOf (r.desc % 2 ^ 48) r.table
        let ranges : Prop := t.ranged = true → Reads (drMst d) t.ranges (16 * t.rangeCount) s
        let fold := ((k.rows.find? (fun z => decide (z.id = id))).getD r).fold
        let marked (v : Nat) : Drover := ({ k with rows := k.rows.map (fun z => if z.id = id then { z with check := v } else z) } : Drover).settle
        (frozen → exec (.rowCheck d id) s = .next s) ∧
        (∀ a, ranges → entryAt s t r.key = some (s.devId, a) → Reads (drMst d) a 8 s →
          (let e := dirEnt (s.num a 8)
           let fresh := e.ver = (dirEnt r.entry).ver ∧ r.topo = topoVersion s (topoFor s d r.step)
           (e.dev = s.devId → fresh → ∃ u, exec (.rowCheck d id) s = .next (checkDone r.fold u) ∧ ReadsBut [] (put (marked 3)) u) ∧
           (e.dev = s.devId → ¬fresh → ∃ u, exec (.rowCheck d id) s = .next (checkDone fold u) ∧ Rose (DRV_ROWS_DISCARDED d) 1 s u ∧
             ReadsBut [DRV_ROWS_DISCARDED d] (put ({ k with rows := k.rows.filter (fun z => decide (z.id ≠ id)) } : Drover).settle) u) ∧
           (e.dev ≠ s.devId → permitted s (34 + d) e.dev a 8 kRead = true → ∃ u, ReadsBut [] (put (marked 2)) u ∧
             exec (.rowCheck d id) s = .next (u.request 0x08 e.dev 0 [t.id, r.key, e.addr] [] (.check d id)).2))) ∧
        (∀ dev a, ¬frozen → ranges → entryAt s t r.key = some (dev, a) → dev ≠ s.devId → s.upsets = [] → permitted s (34 + d) dev a 8 kRead = true →
          ∃ u, ReadsBut [] (put (marked 2)) u ∧ exec (.rowCheck d id) s = .next (u.request 0x08 dev 0 [t.id, r.key, (dirEnt r.entry).addr] [] (.check d id)).2))) ∧
     (∀ fold c, (checkDone fold s).core c = if c / 8 = fold ∧ (s.core c).runs.any (fun r => decide (r.wcode = 7)) = true then (wakeCore (s.core c)).free 7 else s.core c) ∧
     (∀ serial,
       (let mine (r : Req) : Bool := match r.owner with
          | .sample e n => decide (e = d) && decide (n = serial)
          | _ => false
        let limit := s.fld (DRV_REMOTE_TIMEOUT d) DRV_REMOTE_TIMEOUT_us
        (limit = 0 ∨ k.samples.find? (fun x => decide (x.serial = serial)) = none ∨ s.reqs.find? mine = none → exec (.remoteSampleTimeout d serial) s = .next s) ∧
        (∀ x r, limit ≠ 0 → k.samples.find? (fun x => decide (x.serial = serial)) = some x → s.reqs.find? mine = some r →
          ∃ u, exec (.remoteSampleTimeout d serial) s = .next (u.complete x.ref 0x07 0 0x7003 0) ∧ u.reqs = s.reqs.filter (fun q => !mine q) ∧
            u.drover d = ({ k with samples := k.samples.filter (fun z => decide (z.serial ≠ serial)) } : Drover).settle ∧ u.bit (DRV_ERR d) DRV_ERR_remote_timeout = true ∧
            RegsBut (DRV_ERR d :: recordRegs) s u ∧ (LogOpen s → HasRecord s u 0x7003 2 d r.dst 0 0 0) ∧ u.mem = s.mem ∧ u.cores = s.cores ∧ ∀ j, j ≠ d → u.drover j = s.drover j))) ∧
     (∀ cls sub i, s.has .drover d = true → k.rest = 1 ∨ k.rest = 2 → Admits ⟨cls, sub⟩ (DRV_CTRL d) (regBytes (DRV_CTRL d)) s →
       i ∈ [Instr.drvHalt cls sub d, .drvResume cls sub d, .drvAbort cls sub d, .drvClearCounts cls sub d] →
       (s.bit PWR_STATUS PWR_STATUS_standby = true → exec i s = .next s) ∧
       (s.bit PWR_STATUS PWR_STATUS_standby = false → exec i s = exec i (put { k with rest := 0 }))) ∧
     (∀ cls sub, MayWrite ⟨cls, sub⟩ (DRV_CTRL d) s → s.has .drover d = true →
       (let counts := [DRV_ROWS_DISCARDED d, DRV_INDEX_DROPPED d, DRV_PREFETCH_SKIPPED d]
        let roads := (List.range 6).map (fun i => DRV_ROAD_STEP d i)
        exec (.drvHalt cls sub d) s = .next (put { k with halted := true }) ∧
        ((∀ x ∈ k.samples, x.started = true → x.built = true) → exec (.drvResume cls sub d) s = .next (put { k with halted := false })) ∧
        (k.samples = [] → ∃ u, exec (.drvAbort cls sub d) s = .next u ∧ u = { put { k with halted := false, feeds := [], rows := [] } with regs := u.regs } ∧
          RegsBut roads s u ∧ ∀ r ∈ roads, (u.reg r).toNat = noRoad) ∧
        (∀ x, k.samples = [x] → ∃ u, exec (.drvAbort cls sub d) s = .next u ∧ (u.drover d).samples = [] ∧ (u.drover d).feeds = [] ∧ (u.drover d).rows = [] ∧
          (u.drover d).halted = false ∧ (∀ r ∈ roads, (u.reg r).toNat = noRoad) ∧
          RegsBut roads ((put { k with samples := [] }).complete x.ref 0x05 0 0 0) u ∧ u.mem = (s.complete x.ref 0x05 0 0 0).mem ∧ u.hostOut = (s.complete x.ref 0x05 0 0 0).hostOut) ∧
        (∃ u, exec (.drvClearCounts cls sub d) s = .next u ∧ (∀ r ∈ counts, u.fld r cntFld = 0 ∧ u.bit r satFld = false) ∧ RegsBut counts s u ∧ u = { s with regs := u.regs }))))

/-- R184, R326 to R336, R340, R341: the collective engines and Roll call. How messages are laid out in packets is the model's choice (log
43), as are the pairings that R334 leaves open (log 42), the number of a collective, which it takes when it is accepted (log 157), the
bytes that pass through an engine's buffer (log 85), a round's limit and a reset of Roll call (log 44), and what wakes an engine (log 142). `reduceAll` is the fixed tree of R333, `roundsOf` the rounds of R340, `callMember` an arrival in the Roll call
of one. An entry whose own rank does not name this device counts as a list without it (log 129). -/
def Obligations.CollectivesAndRollCall : Prop :=
  (∀ (n : Nat) (s : State), s.live = true →
    (let k := s.engine n
     let able := k.halted = false ∧ k.rest < 2 ∧ s.mixed = false ∧ s.has .coll n = true
     let frozen := s.isFrozen (engMst n) = true
     let put (y : CollEng) : State := s.setEngine n y
     let kinds : List (Instr × Nat) := [(.allReduce n, 1), (.reduceScatter n, 2), (.allGather n, 3), (.allToAll n, 4), (.broadcast n, 5), (.permute n, 6)]
     let readable (l : List (Nat × Nat)) : Prop := ∀ r ∈ l, r.2 = 0 ∨ (collPlace s r.1 r.2 = true ∧ Reads (engMst n) r.1 r.2 s)
     let written (l : List (Nat × List Byte)) (s0 y : State) : Prop := RegsBut trafficRegs s0 y ∧
       y = { s0 with regs := y.regs, mem := y.mem, bursts := y.bursts, pinHits := y.pinHits, atomErrs := y.atomErrs } ∧
       (l.Pairwise (fun a b => a.1 + a.2.length ≤ b.1 ∨ b.1 + b.2.length ≤ a.1) → ∀ r ∈ l, y.bytes r.1 r.2.length = r.2) ∧
       ∀ x, (∀ r ∈ l, x < r.1 ∨ r.1 + r.2.length ≤ x) → y.byte x = s.byte x
     let writable (l : List (Nat × List Byte)) : Prop := ∀ r ∈ l, r.2 = [] ∨ (collPlace s r.1 r.2.length = true ∧ Writes (engMst n) r.1 r.2.length s)
     let ended (x : Coll) (status detail : Nat) (y : State) : State :=
       (({ y.setEngine n ({ y.engine n with active := (y.engine n).active.filter (fun z => !(decide (z.group = x.group) && decide (z.seq = x.seq))) } : CollEng).settle with
         collIn := y.collIn.filter (fun m => !(decide (m.group = x.group) && decide (m.seq = x.seq)))
         calls := y.calls.filter (fun m => !(decide (m.group = x.group) && decide (m.seq = x.seq))) } : State).complete x.cmd.ref status 0 detail 0)
     (¬able ∨ k.inbox = [] → exec (.roll n) s = .next s ∧ ∀ p ∈ kinds, exec p.1 s = .next s) ∧
     (∀ m t, able → k.inbox = m :: t →
       (let left := ({ k with inbox := t } : CollEng).settle
        (m.code ≠ 7 → exec (.roll n) s = .next s) ∧
        (∀ p ∈ kinds, (m.code ≠ p.2 → exec p.1 s = .next s) ∧
          (m.code = p.2 →
            (let P := collPar m.desc
             let seq := m.seq
             let gone (y : State) : State := forgetColl P.group seq y
             let entry := s.bytes (groupAt s P.group) 16
             let list := (fieldAt entry 8 8, 2 * fieldAt entry 0 4)
             let ranks := (chunksOf 2 (s.bytes list.1 list.2)).map leNat
             let me := fieldAt entry 4 4
             let N := ranks.length
             let good := pairingOk p.2 P = true ∧ (p.2 = 5 → P.root < N)
             let opened (x : Coll) (y : State) : Prop := ReadsBut [] (put { k with inbox := t, active := k.active ++ [x], rest := 0 }) y
             let pars := [p.2, P.tensor, P.elems, P.fmt, P.op, P.scaling]
             let flag := s.bit COL_STEP_FLAGS COL_STEP_FLAGS_nonfinite
             let x : Coll := { cmd := m, group := P.group, seq := seq, ranks := ranks, me := me, rounds := 1 }
             let sends (x : Coll) (part : Nat → List Byte) (y : State) : State := (List.range N).foldl (fun z r => sendMsg n x pars flag z (r, part r)) y
             (frozen → exec p.1 s = .next ((gone ((s.frozenCommand (engMst n) 0x05).setEngine n left)).complete m.ref 0x05 0 0x1007 0)) ∧
             (¬frozen → 4095 < P.group → exec p.1 s = .next ((gone (put left)).complete m.ref 0x02 0 0 0)) ∧
             (¬frozen → P.group ≤ 4095 → readable [(groupAt s P.group, 16), list] → ranks[me]? ≠ some s.devId →
               ∃ y, ReadsBut [] (put left) y ∧ exec p.1 s = .next ((gone y).complete m.ref 0x02 0 0 0)) ∧
             (¬frozen → P.group ≤ 4095 → readable [(groupAt s P.group, 16), list] → ranks[me]? = some s.devId →
               (¬good → ∃ y, opened x y ∧ exec p.1 s = .next (ended x 0x02 0 (sends x (fun _ => []) y))) ∧
               (good → p.2 ≠ 6 →
                 (let sb := scaleBytes P P.elems
                  let eb := elemBytes P.fmt P.elems
                  let parts := if p.2 = 4 then N else 1
                  let ranges := if p.2 = 5 ∧ me ≠ P.root then [] else [(P.srcScales, parts * sb), (P.src, parts * eb)]
                  let b := ranges.flatMap (fun r => s.bytes r.1 r.2)
                  let part (r : Nat) : List Byte := if p.2 = 4 then (b.drop (r * sb)).take sb ++ (b.drop (N * sb + r * eb)).take eb else b
                  readable ranges → ∃ y, opened x y ∧ exec p.1 s = .next (sends x part y))) ∧
               (good → p.2 = 6 →
                 (let moves := roundsOf ((chunksOf 24 (s.bytes P.src (24 * P.elems))).map moveOf)
                  let l := moves.getD 0 []
                  let b := l.flatMap (fun z => s.bytes z.src z.len)
                  let x : Coll := { x with rounds := max 1 moves.length, moves := moves }
                  readable [(P.src, 24 * P.elems)] → readable (l.map (fun z => (z.src, z.len))) →
                  ∃ y, opened x y ∧ exec p.1 s = .next ((List.range N).foldl (callMember x) (sends x (moveMsg l b) y)))))))) ∧
        (m.code = 7 →
          (let K := rollNext s
           let fence := bitOf (fieldAt m.desc 0x3E 1) 1
           let side := s.roll.side K
           let cfg := s.reg COL_ROLL_CFG
           let (C, parent) := (fget COL_ROLL_CFG_children cfg, fget COL_ROLL_CFG_parent cfg)
           let z (w : State) (f : Bool) : State := { w.setFld COL_ROLL_STATUS (rollFld K) (rollCount s K + 1) with
             roll := w.roll.setSide K { side with anyFence := side.anyFence || f, allFence := side.allFence && f, cfg := some cfg } }
           let w : State := { (put left).setFld COL_ROLL_STATUS COL_ROLL_STATUS_round_next (K + 1) with
             roll := { s.roll.setSide K { side with cfg := some cfg } with waiting := s.roll.waiting ++ [(m.ref, K, fence)] } }
           (frozen → exec (.roll n) s = .next (((put left).frozenCommand (engMst n) 0x05).complete m.ref 0x05 0 0x1007 0)) ∧
           (¬frozen → 2 < modDiff 16 K (rollReleased s) → ∃ u, exec (.roll n) s = .next (u.complete m.ref 0x0B 0 0x1003 0) ∧
             u.isFrozen (s.qpMst m.ref.qp) = true ∧ Raised 1 u ∧ (LogOpen s → HasRecord s u 0x1003 0 2 (mstParam (s.qpMst m.ref.qp))
               (0xFF + 0xFF * 2 ^ 8 + s.devId * 2 ^ 16) (rollCount s K) (rollChildren s K + 1)) ∧ u.engine n = left ∧ u.roll = s.roll) ∧
           (¬frozen → modDiff 16 K (rollReleased s) ≤ 2 → fence = true → stepWorkDone s = false →
             exec (.roll n) s = .next { w with roll := { w.roll with held := s.roll.held ++ [(K, fence)] } }) ∧
           (¬frozen → modDiff 16 K (rollReleased s) ≤ 2 → fence = false ∨ stepWorkDone s = true → (∀ y ∈ s.roll.waiting, y.2.1 ≠ K) →
             (rollCount s K < C → exec (.roll n) s = .next (z w fence)) ∧
             (rollCount s K = C → parent ≠ s.devId → exec (.roll n) s = .next (rollPacket (z w fence) parent 0 K
               (side.anyFence || fence) (side.allFence && fence))) ∧
             (rollCount s K = C → parent = s.devId → side.children = [] → side.anyFence = false → side.allFence = true →
               ∃ u, exec (.roll n) s = .next (u.complete m.ref 0 0 0 0) ∧ rollReleased u = K ∧ rollCount u K = 0 ∧ u.roll.side K = {} ∧ u.roll.waiting = s.roll.waiting ∧
                 rollNext u = (K + 1) % 2 ^ 16 ∧ u.engine n = left ∧
                 (fence = false → RegsBut [COL_ROLL_STATUS] s u ∧ u = { put left with regs := u.regs, roll := u.roll }) ∧
                 (fence = true → (u.reg COL_STEP) = s.reg COL_STEP + 1 ∧ u.reg COL_FENCES = s.reg COL_FENCES + 1 ∧ u.reg COL_STEP_FLAGS = 0 ∧
                   ∀ c, c < 32 → s.has .core c = true → (u.core c).flag = none))))))) ∧
     (∀ i, 2 ≤ k.rest ∨ k.active[i]? = none → exec (.collectiveComplete n i) s = .next s) ∧
     (∀ i x, k.rest < 2 → k.active[i]? = some x →
       (let P := collPar x.cmd.desc
        let code := x.cmd.code
        let N := x.ranks.length
        let sb := scaleBytes P P.elems
        let bits := ((elemOf P.fmt).map Elem.bits).getD 8
        let closes (y : State) : State := if bitOf P.flags 0 then deliver ((List.range N).any (fun r => ((msgsOf s x r 0).head?.map (·.flag)).getD false)) x.ranks y else y
        let tally (y : State) : Bool × State := y.tallyAdd (bitsOf P.notify 10 6) (bitsOf P.notify 5 0) 1
        let done (y : State) : State :=
          if bitOf P.notify 15 = false then ended x 0 0 (closes y)
          else if (tally (closes y)).1 then ended x 0 0 (tally (closes y)).2
          else ended x 0x0B 0x1003 ((tally (closes y)).2.violateTally (engMst n) s.devId (bitsOf P.notify 10 6) (bitsOf P.notify 5 0))
        (mismatched s x = true → exec (.collectiveComplete n i) s = .next (ended x 0x02 0x4012 ((s.flag COL_ERR COL_ERR_mismatch).logFree 0x4012 5 n))) ∧
        (mismatched s x = false → allMsgs s x (if code = 6 then x.round else 0) = none → exec (.collectiveComplete n i) s = .next s) ∧
        (∀ l, mismatched s x = false → code ≠ 6 → allMsgs s x 0 = some l →
          (let r := reduceAll s P l
           let shard := if code = 2 then shardOf P.elems N x.me else (0, P.elems)
           let out : List (Nat × List Byte) :=
             if code = 1 ∨ code = 2 then [(P.dstScales, if P.mode = 2 ∧ 0 < shard.2 then
               ((r.scales.drop (shard.1 / 32)).take ((shard.1 + shard.2 + 31) / 32 - shard.1 / 32)).map (BitVec.ofNat 8) else []),
               (P.dst, rowBytes bits ((r.codes.drop shard.1).take shard.2))]
             else if code = 5 then [(P.dstScales, (l.getD P.root []).take sb), (P.dst, (l.getD P.root []).drop sb)]
             else [(P.dstScales, l.flatMap (fun b => b.take sb)), (P.dst, l.flatMap (fun b => b.drop sb))]
           let s0 := if (code = 1 ∨ code = 2) ∧ P.fmt = 4 ∧ r.bad = true then s.setFld COL_STEP_FLAGS COL_STEP_FLAGS_nonfinite 1 else s
           writable out → ∃ y, written out s0 y ∧ exec (.collectiveComplete n i) s = .next (done y))) ∧
        (mismatched s x = false → code = 6 → allCalled s x = false → exec (.collectiveComplete n i) s = .next s) ∧
        (∀ l, mismatched s x = false → code = 6 → allCalled s x = true → allMsgs s x x.round = some l →
          (let rounds := (List.range N).foldl (fun a r => max a (((msgsOf s x r 0).head?.map (·.rounds)).getD 1)) 1
           let out := l.flatMap (fun b => movedRanges b.length b)
           writable out → rounds ≤ x.round + 1 → ∃ y, written out s y ∧ exec (.collectiveComplete n i) s = .next (done y))))) ∧
     (∀ flag ranks (y : State), (deliver flag ranks y).bit COL_STEP_FLAGS COL_STEP_FLAGS_delivered = true ∧ (deliver flag ranks y).jobRanks = ranks ∧
       (∀ c, c < 32 → y.has .core c = true → ((deliver flag ranks y).core c).flag = some flag) ∧ (∀ p, p < 8 → y.has .stack p = true → ((deliver flag ranks y).applier p).flag = some flag) ∧
       RegsBut [COL_STEP_FLAGS] y (deliver flag ranks y) ∧ (deliver flag ranks y).mem = y.mem) ∧
     (∀ i, s.fld COL_TIMEOUT COL_TIMEOUT_us = 0 ∨ k.active[i]? = none → exec (.collectiveTimeout n i) s = .next s) ∧
     (∀ i x, s.fld COL_TIMEOUT COL_TIMEOUT_us ≠ 0 → k.active[i]? = some x →
       (let come := if x.cmd.code = 6 then allCalled s x && (allMsgs s x x.round).isSome else (allMsgs s x x.round).isSome
        (come = true → exec (.collectiveTimeout n i) s = .next s) ∧
        (come = false → exec (.collectiveTimeout n i) s = .next (ended x 0x07 0 (s.flag COL_ERR COL_ERR_timeout))))) ∧
     (∀ cls sub i, s.has .coll n = true → k.rest = 1 ∨ k.rest = 2 → Admits ⟨cls, sub⟩ (COL_ENG_CTRL n) (regBytes (COL_ENG_CTRL n)) s →
       i ∈ [Instr.colHalt cls sub n, .colResume cls sub n, .colAbort cls sub n] →
       (s.bit PWR_STATUS PWR_STATUS_standby = true → exec i s = .next s) ∧
       (s.bit PWR_STATUS PWR_STATUS_standby = false → exec i s = exec i (put { k with rest := 0 }))) ∧
     (∀ cls sub, MayWrite ⟨cls, sub⟩ (COL_ENG_CTRL n) s →
       (let aborted (y : State) : Prop := ∃ u, exec (.colAbort cls sub n) s = .next u ∧ u = { y with engines := u.engines } ∧
          (u.engine n).active = [] ∧ (u.engine n).inbox = [] ∧ (u.engine n).halted = false ∧ ∀ j, j ≠ n → u.engine j = s.engine j ∨ u.engine j = { s.engine j with rest := 0 }
        exec (.colHalt cls sub n) s = .next (put { k with halted := true }) ∧ exec (.colResume cls sub n) s = .next (put { k with halted := false }) ∧
        (n ≠ 0 → (k.active = [] → k.inbox = [] → exec (.colAbort cls sub n) s = .next (put { k with halted := false })) ∧
          (∀ x, k.active = [x] → k.inbox = [] → aborted (ended x 0x05 0 s)) ∧
          (∀ m, k.active = [] → k.inbox = [m] → aborted ((if m.code = 7 then s else forgetColl (collPar m.desc).group m.seq s).complete m.ref 0x05 0 0 0))) ∧
        (n = 0 → k.active = [] → k.inbox = [] → s.roll.waiting = [] → ∃ u, exec (.colAbort cls sub n) s = .next u ∧ RegsBut [COL_ROLL_STATUS] s u ∧
          rollReleased u = 0xFFFF ∧ rollNext u = 0 ∧ u = { put { k with halted := false } with regs := u.regs, roll := {} }))))) ∧
  (∀ (s : State), s.live = true →
    (s.roll.waiting = [] ∨ s.fld COL_TIMEOUT COL_TIMEOUT_us = 0 → exec .rollTimeout s = .next s) ∧
    (∀ w t, s.roll.waiting = w :: t → s.fld COL_TIMEOUT COL_TIMEOUT_us ≠ 0 → ∃ u, exec .rollTimeout s = .next (u.complete w.1 0x07 0 0x4010 0) ∧
      u.roll = { s.roll with waiting := t } ∧ u.bit COL_ERR COL_ERR_timeout = true ∧ RegsBut (COL_ERR :: recordRegs) s u ∧ Raised 0 u ∧
      (LogOpen s → HasRecord s u 0x4010 5 0 w.2.1 (rollParent s w.2.1) (rollCount s w.2.1) (rollChildren s w.2.1)) ∧ u.mem = s.mem ∧ u.cores = s.cores ∧ u.engines = s.engines) ∧
    (∀ cls sub, MayWrite ⟨cls, sub⟩ COL_CTRL s → ∃ u, exec (.colClearCounts cls sub) s = .next u ∧ u.fld COL_ROLL_DISCARDS cntFld = 0 ∧
      u.bit COL_ROLL_DISCARDS satFld = false ∧ RegsBut [COL_ROLL_DISCARDS] s u ∧ u = { s with regs := u.regs }))

/-- R263 to R266, R270, R271, R273: MIGRATE, RECLASS, MIGRATION_COPY_DONE, MIGRATION_COMMIT, COPY_TIMEOUT and TRH_CTRL of engine n.
R293 to R296, R388: ALLOC, FREE, ECHO, REMOTE_READ, REMOTE_WRITE, REMOTE_ACCESS_TIMEOUT, DELAY, DELAY_EXPIRY and PASTURE_FREE. How the
16 bytes of a list entry spell its fields is an open function (log 22); which free slot and which base are taken, and what becomes of
a FREE that names no region, are the model's choices (log 38, log 45); so are a MIGRATE that waits while its engine is halted (log 115), a slot that another device
reserves (log 39), the end of a copy that is uncorrectable (log 132), a pasture without a record area (log 130), the cut-off of the
kernel in a mixed commit (log 69), a register's own width (log 70), what wakes an engine (log 142), and the kernel's discovery of the
wiring before the first commit, which reads and writes free registers (log 154). -/
def Obligations.MigrationsAndKernelServices : Prop :=
  (∀ (n : Nat) (s : State), s.live = true → s.has .trh n = true →
    (let k := s.trh n
     let put (l : List Mig) : Trh := { k with migs := l }
     let abandoned (m : Mig) (u t : State) : Prop := t.bit (TRH_ERR n) TRH_ERR_abandoned = true ∧
       (LogOpen u → HasRecord u t 0x7012 6 n n m.table (m.row % 2 ^ 32) m.dev)
     let freed (m : Mig) (t : State) : Prop := ∀ r i, m.dev = s.devId → slotPlace s m.slotB = some (r, i) → loadEnd ≤ r.owners + 8 * i →
       Sound s (r.owners + 8 * i) 8 → t.num (r.owners + 8 * i) 8 = 0xFFFFFFFFFFFFFFFF ∧ MemBut (r.owners + 8 * i) 8 s t
     (∀ re : Bool, (2 ≤ k.rest ∨ s.mixed = true ∨ k.inbox = [] ∨ (re = false ∧ k.halted = true)) → exec (if re then .reclass n else .migrate n) s = .next s) ∧
     (∀ (re : Bool) (m : Cmd) (rest : List Cmd), k.rest < 2 → s.mixed = false → (re = true ∨ k.halted = false) → k.inbox = m :: rest → m.code = (if re then 2 else 1) →
       (let s0 := s.setTrh n ({ k with inbox := rest } : Trh).settle
        let a := fieldAt m.desc 8 8
        let len := 16 * fieldAt m.desc 0x10 4
        (s.isFrozen (trMst n) = true → exec (if re then .reclass n else .migrate n) s = .next ((s0.frozenCommand (trMst n) 0x05).complete m.ref 0x05 0 0x1007 0)) ∧
        (s.isFrozen (trMst n) = false → Reads (trMst n) a len s → ∃ u st v, ReadsBut [] s0 u ∧
          (listEntries (if re then 2 else 1) (s.bytes a len)).foldl ((if re then reclassOne else migrateOne) n) (0, u) = (st, v) ∧
          (st = entryHeld → exec (if re then .reclass n else .migrate n) s = .next s) ∧
          (st ≠ entryHeld → (let w := beginReclass n v
           exec (if re then .reclass n else .migrate n) s = .next ((w.setTrh n (w.trh n).settle).complete m.ref st 0
             (if st = 0x05 then w.fld HMN_VIOL HMN_VIOL_code else if st = 0x06 then 0x5001 else 0) 0)))))) ∧
     (∀ (table row st : Nat) (t : Table) (e : DirEnt) (l : List Nat) (y : State),
       (let (p, q) := (migrateOne n (st, s) (table :: row :: l), reclassOne n (st, s) (table :: row :: l))
        (5 ≤ st → p = (st, s) ∧ q = (st, s)) ∧
        (st < 5 → homedRow s n table row = .none y → p = (0x02, y) ∧ q = (0x02, y)) ∧
        (∀ f, st < 5 → homedRow s n table row = .fails f y → p = (f, y) ∧ q = (f, y)) ∧
        (st < 5 → homedRow s n table row = .held → p = (entryHeld, s) ∧ q = (entryHeld, s)) ∧
        (st < 5 → homedRow s n table row = .here t e y →
          (∀ c, l = [c] → (c < t.wide ∨ t.narrow < c → q = (0x02, y)) ∧
            (t.wide ≤ c → c ≤ t.narrow → q = (st, y.setTrh n { y.trh n with queue := (y.trh n).queue ++ [(t.id, row, c)] }))) ∧
          (∀ dev pas, l = [dev, pas] → pas < 8 → (dev ≠ y.devId → t.ranged = true → p = (0x02, y)) ∧
            (dev = y.devId ∨ t.ranged = false → (y.trh n).migrating t.id row = true → p = (st, y)) ∧
            (dev = y.devId ∨ t.ranged = false → (y.trh n).migrating t.id row = false →
              (let reads := y.touch (slotReads y pas (slotSize t e.cls))
               let u := startMig n t row e dev pas e.cls false y
               (dev = y.devId → reads.1 = true → p = (0x06, reads.2)) ∧
               (dev ≠ y.devId ∨ reads.1 = false → p = (if u.isFrozen (trMst n) then 0x05 else st, u)))))) ∧
        (∀ ea, s.isFrozen (trMst n) = false → tableWaits s table = false → SoundAll s (tableReads s table) → s.registered table = some t → row < t.rows → entryAt s t row = some (s.devId, ea) →
          Reads (trMst n) ea 8 s → dirEnt (s.num ea 8) = e → ∃ u, ReadsBut [] s u ∧ homedRow s n table row =
            (if e.unplaced = false ∧ e.dev = s.devId ∧ engineOf e.pasture = n ∧ e.cls < 4 then .here t e u else .none u)))) ∧
     (∀ (t : Table) (row pas cls : Nat) (e : DirEnt) (re : Bool), s.has .stack pas = true → SoundAll s (slotReads s pas (slotSize t cls)) →
       (let u := startMig n t row e s.devId pas cls re s
        (freeSlotIn s pas (slotSize t cls) = none → u.bit (TRH_ERR n) TRH_ERR_abandoned = true ∧
          (LogOpen s → HasRecord s u 0x7012 6 n n t.id (row % 2 ^ 32) s.devId) ∧ u.trhs = s.trhs ∧ u.mem = s.mem) ∧
        (∀ b code kind g, freeSlotIn s pas (slotSize t cls) = some b → moveBad s n e.addr (slotSize t e.cls) s.devId b (slotSize t cls) = some (code, kind, g) →
          ∃ y, ReadsBut [] s y ∧ u = y.violateAddr (trMst n) code kind g) ∧
        (∀ b, freeSlotIn s pas (slotSize t cls) = some b → moveBad s n e.addr (slotSize t e.cls) s.devId b (slotSize t cls) = none →
          (let m : Mig := { id := k.serial, table := t.id, row := row, desc := t.desc, slotA := e.addr, clsA := e.cls, ver := e.ver, dev := s.devId, slotB := b, clsB := cls, reclass := re, tbl := s.bytes t.desc 64 }
           u.trh n = { put (k.migs ++ [m]) with serial := k.serial + 1, begun := k.begun + 1, rest := 0 }) ∧
          u.cores = s.cores ∧ ∀ r i, slotPlace s b = some (r, i) → loadEnd ≤ r.owners + 8 * i → Sound s (r.owners + 8 * i) 8 → MemBut (r.owners + 8 * i) 8 s u ∧
            u.num (r.owners + 8 * i) 8 = (t.id * 2 ^ 48 + row) % 2 ^ 64))) ∧
     ((s.roll.held = [] ∨ stepWorkDone s = false → rollRetry s = s) ∧
       (∀ w t, s.roll.held = w :: t → stepWorkDone s = true → rollRetry s = ownArrival { s with roll := { s.roll with held := t } } w.1 w.2)) ∧
     (∀ id, k.migs.find? (fun m => decide (m.id = id)) = none → exec (.migrationCopyDone n id) s = .next s ∧ exec (.copyTimeout n id) s = .next (rollRetry s)) ∧
     (∀ (id : Nat) (m : Mig), k.migs.find? (fun m => decide (m.id = id)) = some m →
       (m.state = 1 ∨ 0 < m.acks → exec (.migrationCopyDone n id) s = .next s) ∧
       (m.state ≠ 1 → m.acks = 0 →
         (let size := slotSize m.tableOf m.clsA
          let b := movedBytes s m (s.bytes m.slotA size)
          let again := m.dirty.length
          let clean (l : Mig) : Trh := put (k.migs.map (fun q => if q.id = m.id then l else q))
          let far : Prop := m.dev ≠ s.devId ∧ (m.sent = false ∨ m.dirty ≠ [])
          (m.clsA = m.clsB → b = s.bytes m.slotA size) ∧
          (m.dev = s.devId ∨ far → s.isFrozen (trMst n) = true → exec (.migrationCopyDone n id) s = .next s) ∧
          (m.dev = s.devId ∨ far → s.isFrozen (trMst n) = false → inMmio m.slotA = false → mapped s m.slotA size = false →
            exec (.migrationCopyDone n id) s = .next (s.violateAddr (trMst n) 0x1002 kRead (s.devId * 2 ^ 48 + m.slotA))) ∧
          (m.dev = s.devId → Reads (trMst n) m.slotA size s → Writes (trMst n) m.slotB b.length s →
            ∃ u, exec (.migrationCopyDone n id) s = .next u ∧ u.bytes m.slotB b.length = b ∧ MemBut m.slotB b.length s u ∧
              u.trh n = clean { m with state := 1, dirty := [] } ∧ u.reg (TRH_ROWS_RECOPIED n) = s.reg (TRH_ROWS_RECOPIED n) + BitVec.ofNat 64 again ∧
              RegsBut (TRH_ROWS_RECOPIED n :: trafficRegs) s u ∧ u.cores = s.cores ∧ u.nsrs = s.nsrs) ∧
          (m.dev ≠ s.devId → m.sent = true → m.dirty = [] → exec (.migrationCopyDone n id) s = .next (s.setTrh n (clean { m with state := 1 }))) ∧
          (far → Reads (trMst n) m.slotA size s → permitted s (40 + n) m.dev m.slotB b.length kWrite = false → ∃ y, ReadsBut [] s y ∧
            exec (.migrationCopyDone n id) s = .next (y.violateAddr (trMst n) 0x1001 kWrite (m.dev * 2 ^ 48 + m.slotB))) ∧
          (far → Reads (trMst n) m.slotA size s → permitted s (40 + n) m.dev m.slotB b.length kWrite = true → ∃ u, exec (.migrationCopyDone n id) s = .next u ∧
            u.trh n = clean { m with state := if m.sent then 2 else m.state, dirty := [], acks := (b.length + 4095) / 4096, sent := true, timeout := s.fld (TRH_COPY_TIMEOUT n) TRH_COPY_TIMEOUT_us } ∧
            u.reqs.length = s.reqs.length + (b.length + 4095) / 4096 ∧
            u.reg (TRH_ROWS_RECOPIED n) = s.reg (TRH_ROWS_RECOPIED n) + BitVec.ofNat 64 (if m.sent then again else 0) ∧ u.mem = s.mem ∧ u.cores = s.cores))) ∧
       (m.acks = 0 ∨ m.timeout = 0 → exec (.copyTimeout n id) s = .next (rollRetry s)) ∧
       (0 < m.acks → m.timeout ≠ 0 → ∃ u, exec (.copyTimeout n id) s = .next (rollRetry u) ∧
         (u.trh n).migs = k.migs.filter (fun q => decide (q.id ≠ m.id)) ∧ (m.dev ≠ s.devId → abandoned m s u ∧ u.mem = s.mem) ∧ freed m u ∧
         u.bit (TRH_ERR n) TRH_ERR_abandoned = true ∧ u.nsrs = s.nsrs ∧ u.cores = s.cores)) ∧
     (appsDone s = false ∨ k.migs.filter (commits s n) = [] → exec (.migrationCommit n) s = .next (rollRetry s)) ∧
     (∀ (m : Mig) (ea : Nat) (e : DirEnt), appsDone s = true → k.migs.filter (commits s n) = [m] → ownEntry s m.tableOf m.row = some (ea, e) →
       Reads (trMst n) ea 8 s → SoundAll s (entryReads m.tableOf) →
       (let p := pastureOf m.slotA
        let w := ({ dev := m.dev, pasture := pastureOf m.slotB, cls := m.clsB, slot := m.slotB % 0x1000000000 / 64, ver := e.ver } : DirEnt).word
        (16384 ≤ (s.nsr p).stubs.length → ∃ y, ReadsBut [] s y ∧ exec (.migrationCommit n) s = .next (rollRetry
          ((y.setFld (TRH_ERR n) TRH_ERR_stub_full 1).setTrh n (put (k.migs.map (fun q => if q.id = m.id then { m with late := true } else q)))))) ∧
        ((s.nsr p).stubs.length < 16384 → Writes (trMst n) ea 8 s → ∃ u : State, exec (.migrationCommit n) s = .next (rollRetry u) ∧
          u.num ea 8 = w % 2 ^ 64 ∧ MemBut ea 8 s u ∧ (p < 8 → (u.nsr p).stubs = (s.nsr p).stubs ++ [{ slot := m.slotA, entry := w, eng := n, table := m.table, row := m.row }]) ∧
          (u.trh n).migs = k.migs.filter (fun q => decide (q.id ≠ m.id)) ∧ (p < 8 → pastureOf m.slotB < 8 → ∀ j, j < 2 →
            (u.trh j).recent = (s.trh j).recent ++ (if j = engineOf p ∨ (m.dev = s.devId ∧ j = engineOf (pastureOf m.slotB)) then [(m.table, m.row, 0)] else [])) ∧
          u.reg (TRH_ROWS_COMMITTED n) = s.reg (TRH_ROWS_COMMITTED n) + 1 ∧ u.cores = s.cores ∧
          u.reqs = s.reqs ∧ (m.dev = s.devId → RegsBut (TRH_ROWS_COMMITTED n :: trafficRegs) s u)))) ∧
     (∀ cls sub i, k.rest = 1 ∨ k.rest = 2 → Admits ⟨cls, sub⟩ (TRH_CTRL n) (regBytes (TRH_CTRL n)) s →
       i ∈ [Instr.trhHalt cls sub n, .trhResume cls sub n, .trhAbort cls sub n, .trhClearCounts cls sub n] →
       (s.bit PWR_STATUS PWR_STATUS_standby = true → exec i s = .next s) ∧
       (s.bit PWR_STATUS PWR_STATUS_standby = false → exec i s = exec i (s.setTrh n { k with rest := 0 }))) ∧
     (∀ cls sub, MayWrite ⟨cls, sub⟩ (TRH_CTRL n) s →
       exec (.trhHalt cls sub n) s = .next (s.setTrh n { k with halted := true }) ∧ exec (.trhResume cls sub n) s = .next (s.setTrh n { k with halted := false }) ∧
       (k.migs = [] → exec (.trhAbort cls sub n) s = .next (rollRetry (s.setTrh n { k with halted := false }))) ∧
       (k.migs ≠ [] → ∃ u : State, exec (.trhAbort cls sub n) s = .next (rollRetry u) ∧ (u.trh n).migs = [] ∧ (u.trh n).halted = false ∧ (u.trh n).inbox = k.inbox ∧
         u.bit (TRH_ERR n) TRH_ERR_abandoned = true ∧ u.nsrs = s.nsrs ∧ u.cores = s.cores ∧ ∀ m, k.migs = [m] → freed m u ∧ (m.dev ≠ s.devId → abandoned m s u ∧ u.mem = s.mem)) ∧
       ∃ u, exec (.trhClearCounts cls sub n) s = .next u ∧ u.fld (TRH_COMMITS_DEFERRED n) cntFld = 0 ∧ u.bit (TRH_COMMITS_DEFERRED n) satFld = false ∧
         RegsBut [TRH_COMMITS_DEFERRED n] s u ∧ u = { s with regs := u.regs }))) ∧
  (∀ (c link : Nat) (s : State), s.live = true →
    (let gone (v : Svc) (u : State) : State := { u with svcs := u.svcs.erase v }
     let clean := s.atomErrs = [] ∧ s.caErrs = [] ∧ s.upsets = []
     let rows : List (Instr × Nat) := [(.alloc c, 1), (.free c, 2), (.echo c, 0x10), (.remoteRead c link, 0x11), (.remoteWrite c link, 0x12), (.delay c, 0x13), (.pastureFree c, 0x14)]
     let still := s.committed || !kernelUp s || mute s (ctrlMst c)
     (∀ q ∈ rows, served s c q.2 = none → still = true ∨ (q.2 ≠ 0x11 ∧ q.2 ≠ 0x12) → exec q.1 s = .next s) ∧
     (∀ wr : Bool, served s c (if wr then 0x12 else 0x11) = none → still = false → ∃ (y : State) (g : Nat) (d : List Byte), y = { s with free := y.free } ∧
       mmioBase ≤ g ∧ g % 8 = 0 ∧ exec (if wr then .remoteWrite c link else .remoteRead c link) s = .next (if permitted s 138 0 g 8 kMmio
         then mgmtRequest y link (if wr then 0xC2 else 0xC1) 0 g d .other else y.violateAddr (ctrlMst c) 0x1001 kMmio g)) ∧
     (∀ v : Svc, served s c 0x10 = some v → exec (.echo c) s = .next ((gone v s).complete v.cmd.ref 0 (fieldAt v.cmd.desc 8 8) 0 0)) ∧
     (∀ v : Svc, served s c 0x14 = some v →
       (let p := fieldAt v.cmd.desc 8 1
        (freeWaits p s = true → exec (.pastureFree c) s = .next s) ∧
        (freeWaits p s = false → SoundAll s (regionReads s [p]) → ∃ u, ReadsBut [] s u ∧
          exec (.pastureFree c) s = .next ((gone v u).complete v.cmd.ref 0 (largestFree s p) 0 0)) ∧
        (pastureOpen s p = true → regions s p = [] → largestFree s p = if p = 0 then 0xFFC000000 else 0x1000000000) ∧ (pastureOpen s p = false → largestFree s p = 0))) ∧
     (∀ v : Svc, served s c 1 = some v →
       (let d := v.cmd.desc
        let n := (fieldAt d 8 8 + 0x1FFFFF) / 0x200000 * 0x200000
        let align := 2 ^ fieldAt d 0x14 1
        let kind := fieldAt d 0x15 1
        let room := roomOf n kind (fieldAt d 0x10 4)
        let l := tryOrder s (fieldAt d 0x16 1) (fieldAt d 0x17 1) (fieldAt d 0x18 1 = 1)
        (allocWaits d s = true → exec (.alloc c) s = .next s) ∧
        (allocWaits d s = false → clean → (∀ p ∈ l, placeIn s p room align = none) →
          ∃ u, ReadsBut [] s u ∧ exec (.alloc c) s = .next ((gone v u).complete v.cmd.ref 0x0B 0 0 0)) ∧
        (∀ p b, allocWaits d s = false → clean → l.find? (fun p => (placeIn s p room align).isSome) = some p → placeIn s p room align = some b →
          (let at_ := regionTable s p
           let rs := regions s p
           b % align = 0 ∧ (rs = [] → p * 0x1000000000 ≤ b ∧ b + n ≤ (p + 1) * 0x1000000000 ∧ (p = 0 → 0x4000000 ≤ b)) ∧
           ∃ u, exec (.alloc c) s = .next ((gone v u).complete v.cmd.ref 0 (p * 2 ^ 48 + b) 0 0) ∧ RegsBut (MEM_REGION_BASE p :: trafficRegs) s u ∧
             u.fld (MEM_REGION_BASE p) MEM_REGION_BASE_entries = rs.length + 1 ∧ u.cores = s.cores ∧ u.svcs = s.svcs ∧
             (kind ≠ 3 → regions u p = regionInsert ⟨b, n, kind, 0, 0⟩ rs ∧ MemBut at_ (32 * (rs.length + 1)) s u) ∧
             (kind = 3 → 0 < fieldAt d 0x10 4 → ∃ owners, b + n ≤ owners ∧ owners + 8 * (n / (fieldAt d 0x10 4 * 64)) ≤ (p + 1) * 0x1000000000 ∧
               ∀ i, i < n / (fieldAt d 0x10 4 * 64) → u.num (owners + 8 * i) 8 = 0xFFFFFFFFFFFFFFFF))))) ∧
     (∀ v : Svc, served s c 2 = some v →
       (let b := fieldAt v.cmd.desc 8 8
        let p := pastureOf b
        let rs := regions s p
        (freeWaits p s = true → exec (.free c) s = .next s) ∧
        (freeWaits p s = false → clean → s.has .stack p = false ∨ (∀ r ∈ rs, r.base ≠ b) → ∃ u, ReadsBut [] s u ∧
          exec (.free c) s = .next ((gone v u).complete v.cmd.ref 0x02 0 0 0)) ∧
        (freeWaits p s = false → clean → s.has .stack p = true → (∃ r ∈ rs, r.base = b) → ∃ u, exec (.free c) s = .next ((gone v u).complete v.cmd.ref 0 0 0 0) ∧
          regions u p = rs.filter (fun r => decide (r.base ≠ b)) ∧ MemBut (regionTable s p) (32 * rs.length) s u ∧
          RegsBut (MEM_REGION_BASE p :: trafficRegs) s u ∧ u.cores = s.cores ∧ u.svcs = s.svcs))) ∧
     (∀ (wr : Bool) (v : Svc), served s c (if wr then 0x12 else 0x11) = some v →
       (let d := v.cmd.desc
        let a := fieldAt d 8 8
        let dev := fieldAt d 0x10 2
        let m := ctrlMst c
        let i : Instr := if wr then .remoteWrite c link else .remoteRead c link
        (s.isFrozen m = true → exec i s = .next ((gone v (s.frozenCommand m 0x05)).complete v.cmd.ref 0x05 0 0x1007 0)) ∧
        (s.isFrozen m = false → permitted s 138 dev a 8 kMmio = false →
          exec i s = .next ((gone v (s.violateAddr m 0x1001 kMmio (dev * 2 ^ 48 + a))).complete v.cmd.ref 0x05 0 0x1001 0)) ∧
        (s.isFrozen m = false → permitted s 138 dev a 8 kMmio = true →
          (dev = s.devId → wr = false →
            exec i s = .next ((gone v (rouseRead s (a - mmioBase) 8)).complete v.cmd.ref 0 (leNat (readRegs s (a - mmioBase) 8)) 0 0)) ∧
          (dev = s.devId → wr = true →
            (let t := mmioWrite m (a - mmioBase) (leBytes (regBytes (a - mmioBase)) (fieldAt d 0x18 8)) s
             (t.isFrozen m = false → exec i s = .next ((gone v t).complete v.cmd.ref 0 0 0 0)) ∧
             (t.isFrozen m = true → exec i s = .next ((gone v t).complete v.cmd.ref 0x05 0 0x1006 0)))) ∧
          (dev ≠ s.devId → ∃ (u : State) (r : Req), exec i s = .next u ∧ u.reqs = s.reqs ++ [r] ∧ r.ty = (if wr then 0xC2 else 0xC1) ∧ r.dst = dev ∧
            r.addr = dev * 2 ^ 48 + a ∧ r.owner = .service v.fold v.arg ∧
            u.svcs = s.svcs.map (fun q => if q = v then { v with phase := 1, tick := (s.reg SCH_TICK).toNat } else q) ∧ u.mem = s.mem ∧ u.cores = s.cores)))) ∧
     (∀ v : Svc, served s c 0x13 = some v → exec (.delay c) s =
       .next { s with svcs := s.svcs.map (fun q => if q = v then { v with phase := 2, tick := v.tick + fieldAt v.cmd.desc 8 4 } else q) }) ∧
     (∀ i, s.svcs[i]? = none → exec (.remoteAccessTimeout i) s = .next s ∧ exec (.delayExpiry i) s = .next s) ∧
     (∀ (i : Nat) (v : Svc), s.svcs[i]? = some v →
       (v.phase = 1 ∧ (s.sched v.fold).cut = false ∧ v.tick + 10000 ≤ (s.reg SCH_TICK).toNat → exec (.remoteAccessTimeout i) s =
         .next ((gone v { s with reqs := s.reqs.filter (fun r => decide (r.owner ≠ .service v.fold v.arg)) }).complete v.cmd.ref 0x07 0 0 0)) ∧
       (¬(v.phase = 1 ∧ (s.sched v.fold).cut = false ∧ v.tick + 10000 ≤ (s.reg SCH_TICK).toNat) → exec (.remoteAccessTimeout i) s = .next s) ∧
       (v.phase = 2 ∧ (s.sched v.fold).cut = false ∧ v.tick ≤ (s.reg SCH_TICK).toNat → exec (.delayExpiry i) s = .next ((gone v s).complete v.cmd.ref 0 0 0 0)) ∧
       (¬(v.phase = 2 ∧ (s.sched v.fold).cut = false ∧ v.tick ≤ (s.reg SCH_TICK).toNat) → exec (.delayExpiry i) s = .next s))))

/-- R24, R25, R54, R206, R219, R224, R233 to R235, R243, R254, R255, R262, R267 to R269, R305 to R309, R312, R323, R327, R336, R356, R416,
R317, R428: the packet p in slot i of link n. What the arguments of a packet mean is the model's choice where the manual gives no payload
layout (logs 20, 43, 134); so are the hold of collective packets on a frozen link (log 19), the reducer or applier that an
address reaches (log 75), the control core's privilege and register width (logs 67, 70), the pieces of an answer (log 96), the window
of a sample request (log 156), a lost place (log 147), what a replay reads (log 136), and a record or notice that meets an uncorrectable
atom (logs 114, 133). `State.respond` sends the answer. -/
def Obligations.PacketsAreServedAnsweredOrDropped : Prop :=
  (∀ (n i : Nat) (p : Packet) (s : State), s.live = true → (s.lnk n).slots[i]? = some p →
    (let u := s.freeSlot n i
     let m := ingressMst n
     let a := p.addr % 2 ^ 48
     let arg (j : Nat) : Nat := p.args.getD j 0
     let newer := newerThan (s.fld STR_EPOCH STR_EPOCH_current) p
     let fz := s.isFrozen m
     let own := s.devId
     let serve (ty : Nat) : Prop := p.ty = ty ∧ newer = false ∧ fz = false
     let late := decide ((2 : Int) ≤ stepLag s p.stepLo)
     let noMmio (x : Instr) : Prop := inMmio a = true → exec x s = .next ((u.violateAddr m 0x1005 kMmio p.addr).respond p 0x05 [] [])
     let requests : List (Instr × Nat) := [(.readReq n i, 0x01), (.writeReq n i, 0x02), (.tallyAddPacket n i, 0x03), (.rowReq n i, 0x04),
       (.reduceReq n i, 0x05), (.sampleReq n i, 0x06), (.gradRecord n i, 0x07), (.versionRead n i, 0x08)]
     let colls : List (Instr × Nat) := [(.collData n i, 0x81), (.rollCall n i, 0x82), (.rollRelease n i, 0x82), (.notice n i, 0x83)]
     let responses : List (Instr × Nat) := [(.readResponse n i, 0x41), (.writeResponse n i, 0x42), (.tallyAddResponse n i, 0x43), (.rowResponse n i, 0x44),
       (.reduceResponse n i, 0x45), (.sampleResponse n i, 0x46), (.gradRecordResponse n i, 0x47), (.versionReadResponse n i, 0x48),
       (.mgmtReadResponse n i, 0xE1), (.mgmtWriteResponse n i, 0xE2)]
     let bad (x : Instr) (code kind : Nat) (g : Nat) : Prop := exec x s = .next ((u.violateAddr m code kind g).respond p 0x05 [] [])
     let lost : State := (bufferReport n p.vc p.cls p.place (cleanPlace s n p.place)).freeSlot n i
     let spanOk (kind : Nat) (q : Nat × Nat) : Prop := mapped s q.1 q.2 = true ∧ permitted s (42 + n) own q.1 q.2 kind = true
     ((placeErrs s n p.place).any (·.double) = true →
       (∀ q ∈ requests ++ responses ++ [(.collData n i, 0x81), (.notice n i, 0x83), (.loadReport n i, 0xC3), (.neighbour n i, 0xC4)], p.ty = q.2 → exec q.1 s = .next lost) ∧
       (p.ty = 0x82 → arg 0 ≤ 2 → exec (if arg 0 = 1 then .rollRelease n i else .rollCall n i) s = .next lost)) ∧
     (placeErrs s n p.place = [] →
     ((u.lnk n).slots = (s.lnk n).slots.eraseIdx i ∧ (u.lnk n).owedCredit.getD (creditIdx p) 0 = (s.lnk n).owedCredit.getD (creditIdx p) 0 + 1 ∧
       u = { s with links := u.links } ∧ ∀ j, j ≠ n → u.lnk j = s.lnk j) ∧
     (∀ q ∈ requests ++ colls ++ responses ++ [(.loadReport n i, 0xC3), (.neighbour n i, 0xC4), (.mgmtRead 0 n i, 0xC1), (.mgmtWrite 1 n i, 0xC2)],
       p.ty ≠ q.2 → exec q.1 s = .next s) ∧
     (∀ q ∈ requests ++ colls, p.ty = q.2 → newer = true → exec q.1 s = .next s) ∧
     (∀ q ∈ colls, p.ty = q.2 → fz = true → exec q.1 s = .next s) ∧
     (∀ q ∈ requests, p.ty = q.2 → newer = false → fz = true → exec q.1 s = .next ((u.frozenCommand m 0x05).respond p 0x05 [] [])) ∧
     (serve 0x01 →
       (inMmio a = true → bad (.readReq n i) 0x1005 kMmio p.addr) ∧
       (inMmio a = false → stampHeld s p.epoch a = true → exec (.readReq n i) s = .next s) ∧
       (inMmio a = false → stampHeld s p.epoch a = false → mapped s a (arg 0) = false → bad (.readReq n i) 0x1002 kRead (own * 2 ^ 48 + a)) ∧
       (inMmio a = false → stampHeld s p.epoch a = false → mapped s a (arg 0) = true → permitted s (42 + n) own a (arg 0) kRead = false →
         bad (.readReq n i) 0x1001 kRead (own * 2 ^ 48 + a)) ∧
       (inMmio a = false → spanOk kRead (a, arg 0) → waitsFor s a (arg 0) = true → exec (.readReq n i) s = .next s) ∧
       (stampHeld s p.epoch a = false → Reads m a (arg 0) s → ∃ t, ReadsBut [] u t ∧ exec (.readReq n i) s = .next (t.respond p 0 [] (s.bytes a (arg 0))))) ∧
     (serve 0x02 →
       (let len := p.data.length
        let st := stampHeld s p.epoch a
        (inMmio a = true → bad (.writeReq n i) 0x1005 kMmio p.addr) ∧
        (inMmio a = false → st = true → exec (.writeReq n i) s = .next s) ∧
        (inMmio a = false → st = false → loadEnd ≤ a → mapped s a len = false → bad (.writeReq n i) 0x1002 kWrite (own * 2 ^ 48 + a)) ∧
        (inMmio a = false → st = false → loadEnd ≤ a → mapped s a len = true → permitted s (42 + n) own a len kWrite = false →
          bad (.writeReq n i) 0x1001 kWrite (own * 2 ^ 48 + a)) ∧
        (inMmio a = false → loadEnd ≤ a → spanOk kWrite (a, len) → waitsFor s a len = true → exec (.writeReq n i) s = .next s) ∧
        (st = false → Writes m a len s → ∃ t : State, exec (.writeReq n i) s = .next (t.respond p 0 [] []) ∧ t.bytes a len = p.data ∧ MemBut a len s t ∧
          RegsBut trafficRegs s t ∧ t = { u with regs := t.regs, mem := t.mem, bursts := t.bursts, pinHits := t.pinHits, atomErrs := t.atomErrs }))) ∧
     (serve 0x03 →
       (let c := arg 0
        let t := arg 1
        let count := s.fld (COR_TALLY c t) COR_TALLY_count
        let limit := s.fld (COR_TALLY c t) COR_TALLY_limit
        let ok := permitted s (42 + n) own (mmioBase + COR_TALLY c t) 8 kTally
        (newerThan (coreEpoch s c) p = true → exec (.tallyAddPacket n i) s = .next s) ∧
        (newerThan (coreEpoch s c) p = false → ok = false → bad (.tallyAddPacket n i) 0x1001 kTally p.addr) ∧
        (newerThan (coreEpoch s c) p = false → ok = true → s.has .core c = true → t < 48 → s.upsets = [] →
          (limit ≠ 0 → arg 2 = 0 ∨ count + arg 2 ≤ limit → (∀ w ∈ (s.core c).waiters, w.tally ≠ t) → ∃ v : State, exec (.tallyAddPacket n i) s = .next (v.respond p 0 [] []) ∧
            v.fld (COR_TALLY c t) COR_TALLY_count = count + arg 2 ∧ v.mem = s.mem ∧ v.frozen = s.frozen ∧
            (∀ k, k < 48 → k ≠ t → v.reg (COR_TALLY c k) = s.reg (COR_TALLY c k))) ∧
          (limit = 0 ∨ (arg 2 ≠ 0 ∧ limit < count + arg 2) → ∃ v : State, exec (.tallyAddPacket n i) s = .next (v.respond p 0x0B [] []) ∧ v.reg (COR_TALLY c t) = s.reg (COR_TALLY c t) ∧
            v.bit (COR_ERR c) COR_ERR_tally_limit = true ∧ v.frozen = s.frozen ∧ v.mem = s.mem ∧
            v.core c = wakeCore (s.core c) ∧ (∀ j, j ≠ c → v.core j = s.core j) ∧
            (LogOpen s → HasRecord s v 0x1003 0 2 (mstParam m) (c % 256 + t % 256 * 2 ^ 8 + own * 2 ^ 16) (if limit ≠ 0 then count else 0) limit))))) ∧
     (serve 0x04 →
       (let cls := arg 0
        let e := arg 1
        let span := valueSpan a cls (arg 2) (arg 3)
        let ps := rowPieces a cls e (arg 2) (arg 3)
        let d := ps.flatMap (fun q => s.bytes q.1 q.2)
        let pas := pastureOf a % 8
        noMmio (.rowReq n i) ∧ (inMmio a = false →
        (late = true → exec (.rowReq n i) s = .next (u.respond p 0x07 [] [])) ∧
        (late = false → waits s a = true → exec (.rowReq n i) s = .next s) ∧
        (late = false → waits s a = false → rowPlaced a cls e = true →
          (mapped s span.1 span.2 = false → bad (.rowReq n i) 0x1002 kRead p.addr) ∧
          (mapped s span.1 span.2 = true → permitted s (42 + n) own span.1 span.2 kRead = false → bad (.rowReq n i) 0x1001 kRead p.addr) ∧
          (∀ b, spanOk kRead span → s.stubAt a = some b → exec (.rowReq n i) s = .next ((u.count (EMB_FORWARDED pas) 1).respond p 0x0A [b.entry] [])) ∧
          (spanOk kRead span → s.stubAt a = none → SoundAll s ps → ∃ t : State, exec (.rowReq n i) s = .next (respondPieces t p 0 [] d) ∧
            t.reg (NSR_ATOMS_READ pas) = s.reg (NSR_ATOMS_READ pas) + BitVec.ofNat 64 ps.length ∧
            t.reg (NSR_BYTES_OUT pas) = s.reg (NSR_BYTES_OUT pas) + BitVec.ofNat 64 d.length ∧ (t.nsr pas).load = (s.nsr pas).load + ps.length ∧
            RegsBut (trafficRegs ++ nsrRegs) s t ∧ t = { u with regs := t.regs, nsrs := t.nsrs, bursts := t.bursts, pinHits := t.pinHits })) ∧
        (late = false → waits s a = false → rowPlaced a cls e = false → s.stubAt a = none → ∃ t : State, exec (.rowReq n i) s = .next (t.respond p 0x02 [] []) ∧
          t.bit (NSR_ERR pas) NSR_ERR_request_addr = true ∧ t.mem = s.mem ∧ t.cores = s.cores ∧
          (LogOpen s → HasRecord s t 0x5801 3 pas pas p.src (a % 2 ^ 32) (a / 2 ^ 32 % 2 ^ 16)))))) ∧
     (serve 0x05 →
       (let agg := arg 0
        let e := arg 5
        let pas := pastureOf a % 8
        let xs := argSrcs (arg 6) (p.args.drop 7)
        let gone := xs.filterMap (fun x => (s.stubAt x.slot).map (fun b => [x.num, b.entry]))
        let misfit := xs.filter (fun x => !(rowPlaced x.slot x.cls e && decide (pastureOf x.slot = pas)))
        let rows := xs.map (fun x => (x, (rowPieces x.slot x.cls e (arg 3) (arg 4)).flatMap (fun q => s.bytes q.1 q.2)))
        let raw := (rows.map (·.2)).flatten
        let cs := reduceCols agg e (arg 3) (arg 4) rows
        let form := formOf (s.fld (NSR_CFG pas) NSR_CFG_mode) (arg 1 = 1) raw.length (partialBytes agg cs).length
        let spans : Prop := ∀ x ∈ xs, rowPlaced x.slot x.cls e = true → spanOk kRead (valueSpan x.slot x.cls (arg 3) (arg 4))
        noMmio (.reduceReq n i) ∧ (inMmio a = false →
        (late = true → exec (.reduceReq n i) s = .next (u.respond p 0x07 [] [])) ∧
        (late = false → waits s a = true → exec (.reduceReq n i) s = .next s) ∧
        (late = false → waits s a = false → spans →
          (misfit ≠ [] → ∃ t : State, exec (.reduceReq n i) s = .next (t.respond p 0x02 (misfit.map (·.num)) []) ∧ t.mem = s.mem ∧ t.cores = s.cores) ∧
          (misfit = [] → gone ≠ [] → ∃ t : State, exec (.reduceReq n i) s = .next (t.respond p 0x0A gone.flatten []) ∧ RegsBut [EMB_FORWARDED pas] s t ∧ t = { u with regs := t.regs }) ∧
          (misfit = [] → gone = [] → (∀ x ∈ xs, SoundAll s (rowPieces x.slot x.cls e (arg 3) (arg 4))) →
            ∃ t : State, exec (.reduceReq n i) s = .next (respondPieces t p 0 [form] (if form = 0 then completeBytes agg (arg 2) cs else if form = 1 then partialBytes agg cs else raw)) ∧
              t.reg (NSR_REDUCE_REQS pas) = s.reg (NSR_REDUCE_REQS pas) + 1 ∧ (form = 1 → t.reg (NSR_PARTIALS pas) = s.reg (NSR_PARTIALS pas) + 1) ∧
              (form = 2 → t.reg (NSR_RAW_ROWS pas) = s.reg (NSR_RAW_ROWS pas) + BitVec.ofNat 64 xs.length) ∧
              RegsBut (trafficRegs ++ nsrRegs ++ [NSR_PARTIALS pas, NSR_RAW_ROWS pas]) s t ∧
              t = { u with regs := t.regs, nsrs := t.nsrs, bursts := t.bursts, pinHits := t.pinHits }))))) ∧
     (serve 0x06 →
       (let node (v : Nat) (w : State) := serveSample w v (arg 0) (arg 1) (arg 2) p.data
        let all := serveAll (arg 0) (arg 1) (arg 2) p.data
        let seen := reachesDev s (42 + n) own kRead
        (seen = false → bad (.sampleReq n i) 0x1001 kRead p.addr) ∧
        (seen = true → all (p.args.drop 3) u = none → exec (.sampleReq n i) s = .next s) ∧
        (∀ st run l w, seen = true → all (p.args.drop 3) u = some (st, run, l, w) →
          (st ≠ 0 → exec (.sampleReq n i) s = .next (w.respond p st run [])) ∧
          (st = 0 → (let ps := packPieces (l.flatMap edgePieces) []
            exec (.sampleReq n i) s = .next (ps.foldl (fun y q => y.respond p 0 (pieceArgs ps.length q) []) w)))) ∧
        (∀ w : State, all [] w = some (0, [], [], w)) ∧
        (∀ v l (w : State), (node v w = none → all (v :: l) w = none) ∧
          (∀ st run es y, node v w = some (st, run, es, y) → (st ≠ 0 → all (v :: l) w = some (st, run, [], y)) ∧
            (st = 0 → all (v :: l) w = (all l y).map (fun r => (r.1, r.2.1, (v, es) :: r.2.2.1, r.2.2.2))))) ∧
        (∀ v (w : State),
          (let d := servingDrover w v
           (2 ≤ (w.drover d).rest ∨ w.isFrozen (drMst d) = true → node v w = none) ∧
           ((w.drover d).rest < 2 → w.isFrozen (drMst d) = false → topoOfVersion w d (arg 2) = none → node v w = some (0x02, [], [], w.setFld (DRV_ERR d) DRV_ERR_topo_refused 1)) ∧
           (∀ t es first y, (w.drover d).rest < 2 → w.isFrozen (drMst d) = false → topoOfVersion w d (arg 2) = some t → waitsFor w t 64 = false →
             (let adj := adjOf (w.bytes t 64)
              let k := (homeOf w adj v).base + (v - (homeOf w adj v).first)
              let seed := seedOf w
              waitsFor w adj.ranges (16 * adj.rangeCount) = false → SoundAll w [(t, 64), (adj.ranges, 16 * adj.rangeCount)] →
              (∀ q ∈ adjReads w adj k, Reads (drMst d) q.1 q.2 w) →
              nodeEdges d adj k (fun deg => blocksRead seed (arg 0) (arg 1) v deg (hopOf p.data)) w = .ok es first y →
              ∃ z, ReadsBut [] w z ∧ node v w = some (0, [], selectEdges seed (arg 0) (arg 1) v adj (hopOf p.data) first es,
                (z.count (DRV_INDEX_DROPPED d) (outOfRange adj es)).wide (DRV_REMOTE_SERVED d) 1))))))) ∧
     (serve 0x07 →
       (let h := gradHead p.data
        let pas := pastureOf a % 8
        let odd := decide (h.stepLo % 2 = 1)
        let size := gradSize h.ncols
        let place := halfBase s pas odd + halfUsed s pas odd
        noMmio (.gradRecord n i) ∧ (inMmio a = false →
        (waits s a = true ∨ tableWaits s h.table = true → exec (.gradRecord n i) s = .next s) ∧
        (waits s a = false → tableWaits s h.table = false → recordSpan s h = [] ∨ (∃ q, recordSpan s h = [q] ∧ spanOk kWrite q) →
          (2 ≤ stepLag s h.stepLo → exec (.gradRecord n i) s = .next (u.respond p 0x07 [] [])) ∧
          (∀ b, stepLag s h.stepLo < 2 → s.stubAt a = some b → exec (.gradRecord n i) s = .next ((u.count (EMB_FORWARDED pas) 1).respond p 0x0A [b.entry] [])) ∧
          (stepLag s h.stepLo < 2 → s.stubAt a = none → SoundAll s (tableReads s h.table) →
            (s.registered h.table = none → tableFaulty s h.table = false → ∃ t : State, exec (.gradRecord n i) s = .next (t.respond p 0x02 [] []) ∧
              t.reg (EMB_BAD_RECORDS pas) = (s.count (EMB_BAD_RECORDS pas) 1).reg (EMB_BAD_RECORDS pas) ∧ t.bit EMB_ERR EMB_ERR_record_refused = true ∧
              t.mem = s.mem ∧ t.cores = s.cores ∧ (LogOpen s → HasRecord s t 0x7011 3 pas pas p.src (a % 2 ^ 32) (a / 2 ^ 32 % 2 ^ 16))) ∧
            (s.registered h.table = none → tableFaulty s h.table = true → ∃ t : State, exec (.gradRecord n i) s = .next (t.respond p 0x02 [] []) ∧
              t.bit EMB_ERR EMB_ERR_descriptor = true ∧ t.reg (EMB_BAD_RECORDS pas) = s.reg (EMB_BAD_RECORDS pas) ∧ t.mem = s.mem ∧ t.cores = s.cores) ∧
            (∀ t0 ea e, s.registered h.table = some t0 → h.row < t0.rows → ownEntry s t0 h.row = some (ea, e) → Sound s ea 8 → e.unplaced = false →
              (e.dev ≠ own ∨ e.addr ≠ a → ∃ t, ReadsBut [] u t ∧ exec (.gradRecord n i) s = .next ((t.count (EMB_FORWARDED pas) 1).respond p 0x0A [e.word] [])) ∧
              (e.dev = own → e.addr = a → h.col0 + h.ncols ≤ t0.elems →
                ((s.applier pas).refusing odd = true → ∃ t, ReadsBut [] u t ∧
                  exec (.gradRecord n i) s = .next ((t.count (EMB_BAD_RECORDS pas) 1).respond p 0x0B [] [])) ∧
                ((s.applier pas).refusing odd = false → halfSize s pas < halfUsed s pas odd + size → ∃ t : State, exec (.gradRecord n i) s = .next (t.respond p 0x0B [] []) ∧
                  (t.applier pas).refusing odd = true ∧ t.bit EMB_ERR EMB_ERR_rec_full = true ∧ t.mem = s.mem ∧ t.cores = s.cores ∧
                  t.reg (EMB_BAD_RECORDS pas) = (s.count (EMB_BAD_RECORDS pas) 1).reg (EMB_BAD_RECORDS pas) ∧
                  (LogOpen s → HasRecord s t 0x7010 3 pas pas p.src h.table (h.row % 2 ^ 32))) ∧
                ((s.applier pas).refusing odd = false → halfUsed s pas odd + size ≤ halfSize s pas → p.data.length ≤ size → loadEnd ≤ place → Sound s place size →
                  ∃ t : State, exec (.gradRecord n i) s = .next (t.respond p 0 [] []) ∧
                  t.bytes place size = padTo size 0 p.data ∧ MemBut place size s t ∧ t.reg (EMB_RECORDS pas) = s.reg (EMB_RECORDS pas) + 1 ∧
                  (halfUsed s pas odd + size < 2 ^ 35 → halfUsed t pas odd = halfUsed s pas odd + size) ∧
                  RegsBut (EMB_STATUS pas :: EMB_RECORDS pas :: trafficRegs) s t ∧ t.cores = s.cores)))))))) ∧
     (serve 0x08 →
       (let slot := arg 2
        let moved (w : Nat) (t : State) : Prop := exec (.versionRead n i) s =
          .next ((if inPasture slot then t.count (EMB_FORWARDED (pastureOf slot)) 1 else t).respond p 0x0A [w] [])
        (late = true → exec (.versionRead n i) s = .next (u.respond p 0x07 [] [])) ∧
        (∀ b, late = false → s.stubAt slot = some b → moved b.entry u) ∧
        (late = false → s.stubAt slot = none → tableWaits s (arg 0) = true → exec (.versionRead n i) s = .next s) ∧
        (late = false → s.stubAt slot = none → tableWaits s (arg 0) = false → SoundAll s (tableReads s (arg 0)) →
          (s.registered (arg 0) = none → ∃ t, ReadsBut [] u t ∧ exec (.versionRead n i) s = .next (t.respond p 0x02 [] [])) ∧
          (∀ t0, s.registered (arg 0) = some t0 → ownEntry s t0 (arg 1) = none → ∃ t, ReadsBut [] u t ∧ exec (.versionRead n i) s = .next (t.respond p 0x02 [] [])) ∧
          (∀ t0 ea e, s.registered (arg 0) = some t0 → ownEntry s t0 (arg 1) = some (ea, e) →
            (waits s ea = true → exec (.versionRead n i) s = .next s) ∧
            (waits s ea = false → e.dev ≠ own → Sound s ea 8 → ∃ t, ReadsBut [] u t ∧ moved e.word t) ∧
            (e.dev = own → Reads m ea 8 s → ∃ t, ReadsBut [] u t ∧ exec (.versionRead n i) s = .next (t.respond p 0 [e.ver] [])))))) ∧
     (serve 0x81 →
       (let e := engineFor s (arg 0)
        let r := COL_ENG_BYTES_RECEIVED e
        (collOver s (arg 0) (arg 1) = true → exec (.collData n i) s = .next (u.wide r p.payload.length)) ∧
        (collOver s (arg 0) (arg 1) = false → ∃ t : State, exec (.collData n i) s = .next t ∧ t.collIn = s.collIn ++ [msgOf p.args p.data] ∧
          t.reg r = s.reg r + BitVec.ofNat 64 p.payload.length ∧ RegsBut [r] s t ∧ MemBut (collBase + e * 0x1000000) 0x1000000 s t ∧
          t = { u with regs := t.regs, collIn := t.collIn, mem := t.mem, free := t.free }))) ∧
     (serve 0x82 →
       (let k := arg 1
        let any : Bool := arg 2 = 1
        let all : Bool := arg 3 = 1
        let ahead := modDiff 16 k (rollReleased s)
        let v := countArrival u k any all (some p.src)
        let g := (v.roll.side k)
        let kids := (s.roll.side k).children
        (arg 0 = 2 → exec (.rollRelease n i) s = .next s ∧ exec (.rollCall n i) s =
          .next (if collOver s k (arg 2) then u else { u with calls := s.calls ++ [⟨k, arg 2, arg 3, arg 4⟩] })) ∧
        (arg 0 = 0 → exec (.rollRelease n i) s = .next s ∧
          (2 < ahead → ∃ t, exec (.rollCall n i) s = .next t ∧ t.reg COL_ROLL_DISCARDS = (s.count COL_ROLL_DISCARDS 1).reg COL_ROLL_DISCARDS ∧
            t.bit COL_ERR COL_ERR_round_ahead = true ∧ (LogOpen s → HasRecord s t 0x4011 5 0 k p.src (rollReleased s) (rollNext s)) ∧ t.roll = s.roll ∧ t.mem = s.mem ∧ t.cores = s.cores) ∧
          (ahead ≤ 0 ∨ (ahead ≤ 2 ∧ (p.src ∈ kids ∨ rollChildren s k ≤ kids.length)) → exec (.rollCall n i) s = .next u) ∧
          (0 < ahead → ahead ≤ 2 → p.src ∉ kids → kids.length < rollChildren s k →
            g.children = kids ++ [p.src] ∧ g.anyFence = ((s.roll.side k).anyFence || any) ∧ g.allFence = ((s.roll.side k).allFence && all) ∧
            (rollCount v k ≠ rollChildren s k + 1 → exec (.rollCall n i) s = .next v) ∧
            (rollCount v k = rollChildren s k + 1 → rollParent s k = own → exec (.rollCall n i) s = .next (rollRelease k g.anyFence g.allFence v)) ∧
            (rollCount v k = rollChildren s k + 1 → rollParent s k ≠ own → exec (.rollCall n i) s = .next (rollPacket v (rollParent s k) 0 k g.anyFence g.allFence)))) ∧
        (arg 0 = 1 → exec (.rollCall n i) s = .next s ∧ (ahead ≤ 0 → exec (.rollRelease n i) s = .next u) ∧
          (0 < ahead → exec (.rollRelease n i) s = .next (rollRelease k any all u))))) ∧
     (serve 0x83 → s.roll.held = [] → SoundAll s (tableReads s (arg 0)) →
       (s.registered (arg 0) = none → ∃ t, ReadsBut [] u t ∧ exec (.notice n i) s = .next t) ∧
       (∀ t0, s.registered (arg 0) = some t0 → t0.rows ≤ arg 1 → ∃ t, ReadsBut [] u t ∧ exec (.notice n i) s = .next t) ∧
       (∀ t0, s.registered (arg 0) = some t0 → arg 1 < t0.rows →
         (let e := dirEnt (arg 2)
          let kept (t : State) : Prop := exec (.notice n i) s =
            .next (if e.dev = own then noteRecent (engineOf e.pasture) (arg 0) (arg 1) (setOwner t e.addr (arg 0 * 2 ^ 48 + arg 1)) else t)
          (t0.ranged = true → ∃ t, ReadsBut [] u t ∧ kept t) ∧
          (t0.ranged = false → loadEnd ≤ t0.base + 8 * arg 1 → Sound s (t0.base + 8 * arg 1) 8 → ∃ t, kept t ∧
            t.num (t0.base + 8 * arg 1) 8 = arg 2 % 2 ^ 64 ∧ MemBut (t0.base + 8 * arg 1) 8 s t ∧ RegsBut trafficRegs s t ∧ t.cores = s.cores ∧ t.trhs = s.trhs)))) ∧
     (p.ty = 0xC3 → ∃ t, exec (.loadReport n i) s = .next t ∧ t = { u with trhs := t.trhs } ∧
       ∀ e, e < 2 → t.trh e = if s.has .trh e && (partners s e).contains p.src
         then { s.trh e with loads := (s.trh e).loads.filter (fun q => decide (q.1 ≠ p.src)) ++ [(p.src, arg 0)] } else s.trh e) ∧
     (p.ty = 0xC4 → s.lnkState n ≠ 3 ∨ (s.lnk n).gotInit = false → exec (.neighbour n i) s = .next u) ∧
     (p.ty = 0xC4 → s.lnkState n = 3 → (s.lnk n).gotInit = true → arg 0 < 65536 → arg 1 < 128 → arg 2 < 128 →
       (let clash := (portLinks s (s.fld (LNK_CFG n) LNK_CFG_port)).any (fun l => l != n && decide (s.fld (LNK_NEIGHBOUR l) LNK_NEIGHBOUR_device ≠ arg 0))
        ∃ t : State, exec (.neighbour n i) s = .next (t.pumpLink n) ∧ t.lnkState n = 4 ∧ t.bit (LNK_NEIGHBOUR n) LNK_NEIGHBOUR_valid = true ∧
          t.fld (LNK_NEIGHBOUR n) LNK_NEIGHBOUR_device = arg 0 ∧ t.bit (LNK_STATUS n) LNK_STATUS_in_port = !clash ∧
          (clash = true → t.bit (LNK_ERR n) LNK_ERR_neighbour = true) ∧ t.mem = s.mem ∧ t.cores = s.cores)) ∧
     (∀ (c : Nat) (wr : Bool), c < 2 → p.ty = (if wr then 0xC2 else 0xC1) →
       (let x : Instr := if wr then .mgmtWrite c n i else .mgmtRead c n i
        let off := a - mmioBase
        let refused (code : Nat) : Prop := exec x s = .next (mgmtRespond n p 0x05 [] (u.violateAddr m code kMmio p.addr))
        let ready := decide (fwState s = 3) && s.bit SCH_FW_STATUS SCH_FW_STATUS_kernel_ready && mgmtServed s c n i
        (ready = false → exec x s = .next s) ∧
        (ready = true →
          (fz = true → exec x s = .next (mgmtRespond n p 0x05 [] (u.frozenCommand m 0x05))) ∧
          (fz = false → p.vc ≠ 3 → refused 0x1005) ∧
          (fz = false → p.vc = 3 → inMmio a = false → refused 0x1002) ∧
          (fz = false → p.vc = 3 → inMmio a = true → permitted s (42 + n) own a 8 kMmio = false → refused 0x1001) ∧
          (fz = false → p.vc = 3 → inMmio a = true → permitted s (42 + n) own a 8 kMmio = true → s.isFrozen (ctrlMst c) = false →
            (wr = false → exec x s = .next (mgmtRespond n p 0 (readRegs u off 8) (rouseRead u off 8))) ∧
            (wr = true → (let t := mmioWrite (ctrlMst c) off (p.data.take (regBytes off)) u
              exec x s = .next (mgmtRespond n p (if t.isFrozen (ctrlMst c) then 0x05 else 0) [] t))))))) ∧
     (∀ (st : Nat) (d : List Byte) (t : State), t.committed = true → mgmtRespond n p st d t = t.respond p st [] d) ∧
     (∀ q ∈ responses, p.ty = q.2 →
       (let r := s.reqs.find? (fun r => decide (r.tag = p.tag) && decide (r.dst = p.src) && decide (q.2 = r.ty + (if r.ty = 0xC1 ∨ r.ty = 0xC2 then 0x20 else 0x40)))
        (r = none → exec q.1 s = .next u) ∧
        (∀ y, r = some y →
          (let piece := isPiece y p.status
           let skip := y.ty - 4
           let place := p.args.getD (skip + 1) 0
           let come := y.pieces.filter (fun z => decide (z.1 < place)) ++ (place, p.data) :: y.pieces.filter (fun z => decide (place < z.1))
           let bad := y.lost || decide (p.status = 6)
           let whole := !piece || decide (p.args.getD skip 1 ≤ come.length)
           let st := if piece then (if bad then 6 else 0) else p.status
           let d := if piece then (come.map (·.2)).flatten else p.data
           let w := if piece then { u with reqs := u.reqs.erase y } else takeAnswer u y p.status p.args
           (whole = false → exec q.1 s = .next { u with reqs := u.reqs.map (fun z => if z = y then { y with pieces := come, lost := bad } else z) }) ∧
           ((∀ e x, y.owner ≠ .sample e x) ∨ p.status ≠ 0 ∨ arg 0 ≤ y.got + 1 → w = { u with reqs := u.reqs.erase y }) ∧
           (whole = true → exec q.1 s = .next (answered w y st p.args d) ∧
           (y.owner = .other → exec q.1 s = .next w) ∧
           (∀ c rid, y.owner = .run c rid → ∃ t, exec q.1 s = .next t ∧ t = { w with cores := t.cores } ∧ (∀ j, j ≠ c → t.core j = s.core j) ∧
             (t.core c).runs = (s.core c).runs.map (fun r => if r.rid = rid ∧ r.await.isSome then { r with resp := some (st, p.args, d) } else r)) ∧
           (∀ e id mg, y.owner = .copy e id → st = 0 → (s.trh e).migs.find? (fun g => decide (g.id = id)) = some mg →
             exec q.1 s = .next (rollRetry (w.setTrh e { s.trh e with migs := (s.trh e).migs.map (fun g => if g.id = mg.id then { mg with acks := mg.acks - 1 } else g) }))) ∧
           (∀ f b v, y.owner = .service f b → awaiting s f b = some v → exec q.1 s =
             .next (({ w with svcs := s.svcs.erase v } : State).complete v.cmd.ref st (if v.cmd.code = 0x11 ∧ st = 0 then fieldAt d 0 8 else 0) 0 0)))))))))) ∧
  (∀ s : State, s.live = true →
    (replaying s = false ∨ recNext s = none → exec .replayInject s = .next s) ∧
    (∀ off tag, replaying s = true → recNext s = some (off, tag) →
      (let r := recPacket s off
       let p := withTag (pktOf r.2.1 r.2.2) tag
       let k := s.lnk r.1
       (freePlaces s r.1 (creditIdx p) = [] → exec .replayInject s = .next s) ∧
       (∀ place l, freePlaces s r.1 (creditIdx p) = place :: l →
         SoundAll s ((recBase s + off + 32, 32 + r.2.2.length) :: (recBase s, 64) :: (recEntries s (recCount s) 64).map (fun e => (recBase s + e.1, 38)) ++ replayGroupReads s) →
         ∃ t, exec .replayInject s = .next t ∧ t.lnk r.1 = { k with slots := k.slots ++ [{ p with place := place }] } ∧ (∀ j, j ≠ r.1 → t.lnk j = s.lnk j) ∧
         t.rcd = (match tag with
           | some _ => { s.rcd with due := s.rcd.due.drop 1 }
           | none => { s.rcd with next := off + 1 }) ∧
         RegsBut (REC_STATUS :: trafficRegs) s t ∧ t = { s with regs := t.regs, links := t.links, rcd := t.rcd, bursts := t.bursts, pinHits := t.pinHits }))))
end

