-- ==== Sys2Proof/Laws/Fields.lean ====
section
/-! SUPPORT. The laws of bit fields: reading a field after writing it, reading a disjoint field, reading a field of zero. -/

namespace Sys2Proof.Machine

/-- One bit of a word with a field replaced. -/
theorem fset_bit (f : Fld) (v : Nat) (w : Word) (i : Nat) (hi : i < 64) (hf : f.lo ≤ f.hi) :
    (fset f v w).getLsbD i = if f.lo ≤ i ∧ i ≤ f.hi then v.testBit (i - f.lo) else w.getLsbD i := by
  have hw : f.width = f.hi + 1 - f.lo := rfl
  simp only [fset, BitVec.getLsbD_or, BitVec.getLsbD_and, BitVec.getLsbD_not, BitVec.getLsbD_ofNat, hi,
    decide_true, Bool.true_and, Nat.testBit_mul_two_pow, Nat.testBit_two_pow_sub_one, Nat.testBit_mod_two_pow]
  by_cases h1 : f.lo ≤ i
  · by_cases h2 : i ≤ f.hi
    · have : i - f.lo < f.width := by omega
      simp [h1, h2, this]
    · have : ¬ i - f.lo < f.width := by omega
      simp [h1, h2, this]
  · simp [h1]

/-- One bit of a field's value. -/
theorem fget_bit (f : Fld) (w : Word) (i : Nat) :
    (fget f w).testBit i = (decide (i < f.width) && w.getLsbD (f.lo + i)) := by
  have hw : f.hi + 1 - f.lo = f.width := rfl
  simp only [fget, bitsOf, hw, Nat.testBit_mod_two_pow, Nat.testBit_div_two_pow, BitVec.getLsbD, Nat.add_comm]

/-- A field reads as what was written to it, modulo its width. -/
theorem fget_fset_self (f : Fld) (v : Nat) (w : Word) (hf : f.lo ≤ f.hi) (h64 : f.hi < 64) :
    fget f (fset f v w) = v % 2 ^ f.width := by
  apply Nat.eq_of_testBit_eq
  intro i
  rw [fget_bit, Nat.testBit_mod_two_pow]
  have hw : f.width = f.hi + 1 - f.lo := rfl
  by_cases h : i < f.width
  · rw [fset_bit f v w _ (by omega) hf, if_pos (by omega)]
    simp [h]
  · simp [h]

/-- A disjoint field keeps its value. -/
theorem fget_fset_other (f g : Fld) (v : Nat) (w : Word) (hf : f.lo ≤ f.hi) (hg : g.hi < 64)
    (h : g.hi < f.lo ∨ f.hi < g.lo) : fget g (fset f v w) = fget g w := by
  apply Nat.eq_of_testBit_eq
  intro i
  rw [fget_bit, fget_bit]
  have hw : g.width = g.hi + 1 - g.lo := rfl
  by_cases hi : i < g.width
  · rw [fset_bit f v w _ (by omega) hf, if_neg (by omega)]
  · simp [hi]

@[simp] theorem fget_zero (f : Fld) : fget f 0 = 0 := by simp [fget, bitsOf]

end Sys2Proof.Machine
end

