-- ==== Sys2Proof/Laws/Sparse.lean ====
section
/-! SUPPORT. The laws of sparse stores: a read after a write at the same key gives the value, at another key the old one, and every
write keeps the canonical form. -/

namespace Sys2Proof.Machine

variable {α : Type}

theorem spGet_spErase_self (d : Nat → α) (m : Sparse α) (k : Nat) : spGet d (spErase m k) k = d k := by
  induction m with
  | nil => rfl
  | cons p t ih =>
    obtain ⟨j, v⟩ := p
    by_cases h : j = k <;> simp [spErase, spGet, h, ih]

theorem spGet_spErase_other (d : Nat → α) (m : Sparse α) {k j : Nat} (h : j ≠ k) :
    spGet d (spErase m k) j = spGet d m j := by
  induction m with
  | nil => rfl
  | cons p t ih =>
    obtain ⟨i, v⟩ := p
    by_cases hi : i = k
    · subst hi; simp [spErase, spGet, ih, Ne.symm h]
    · simp only [spErase, if_neg hi, spGet, ih]

/-- A key below every listed key reads as its default. -/
theorem spGet_of_lt (d : Nat → α) (m : Sparse α) (k : Nat) (h : m.all (fun p => decide (k < p.1)) = true) :
    spGet d m k = d k := by
  induction m with
  | nil => rfl
  | cons p t ih =>
    obtain ⟨j, v⟩ := p
    simp only [List.all_cons, Bool.and_eq_true, decide_eq_true_eq] at h
    have : j ≠ k := by omega
    simp [spGet, this, ih h.2]

theorem spGet_spInsert_other (d : Nat → α) (m : Sparse α) {k j : Nat} (v : α) (h : j ≠ k) :
    spGet d (spInsert k v m) j = spGet d m j := by
  induction m with
  | nil => simp [spInsert, spGet, Ne.symm h]
  | cons p t ih =>
    obtain ⟨i, w⟩ := p
    by_cases hk : k < i
    · simp [spInsert, spGet, hk, Ne.symm h]
    · simp only [spInsert, if_neg hk, spGet, ih]

theorem spGet_spInsert_self (d : Nat → α) (m : Sparse α) (k : Nat) (v : α)
    (h : m.all (fun p => decide (p.1 ≠ k)) = true) : spGet d (spInsert k v m) k = v := by
  induction m with
  | nil => simp [spInsert, spGet]
  | cons p t ih =>
    obtain ⟨i, w⟩ := p
    simp only [List.all_cons, Bool.and_eq_true, decide_eq_true_eq] at h
    by_cases hk : k < i
    · simp [spInsert, spGet, hk]
    · simp [spInsert, spGet, hk, h.1, ih h.2]

theorem spErase_avoids (m : Sparse α) (k : Nat) : (spErase m k).all (fun p => decide (p.1 ≠ k)) = true := by
  induction m with
  | nil => rfl
  | cons p t ih =>
    obtain ⟨j, v⟩ := p
    by_cases h : j = k <;> simp only [spErase, h, if_true, if_false, ih, List.all_cons, Bool.and_true]
    simp [h]

/-- A read after a write at the same key gives the value written. -/
@[simp] theorem spGet_spSet_self [DecidableEq α] (d : Nat → α) (m : Sparse α) (k : Nat) (v : α) :
    spGet d (spSet d m k v) k = v := by
  unfold spSet
  split
  · rename_i h; rw [spGet_spErase_self, h]
  · exact spGet_spInsert_self d _ k v (spErase_avoids m k)

/-- A write leaves every other key alone. -/
theorem spGet_spSet_other [DecidableEq α] (d : Nat → α) (m : Sparse α) {k j : Nat} (v : α) (h : j ≠ k) :
    spGet d (spSet d m k v) j = spGet d m j := by
  unfold spSet
  split
  · exact spGet_spErase_other d m h
  · rw [spGet_spInsert_other d _ v h, spGet_spErase_other d m h]

theorem spGet_spSet [DecidableEq α] (d : Nat → α) (m : Sparse α) (k j : Nat) (v : α) :
    spGet d (spSet d m k v) j = if j = k then v else spGet d m j := by
  split
  · rename_i h; subst h; simp
  · rename_i h; exact spGet_spSet_other d m v h

theorem spErase_all (m : Sparse α) (k n : Nat) (h : m.all (fun p => decide (n < p.1)) = true) :
    (spErase m k).all (fun p => decide (n < p.1)) = true := by
  induction m with
  | nil => rfl
  | cons p t ih =>
    obtain ⟨j, v⟩ := p
    simp only [List.all_cons, Bool.and_eq_true] at h
    by_cases hj : j = k
    · simp only [spErase, hj, if_true]; exact ih h.2
    · simp only [spErase, hj, if_false, List.all_cons, Bool.and_eq_true]; exact ⟨h.1, ih h.2⟩

theorem spInsert_all (m : Sparse α) (k n : Nat) (v : α) (hk : n < k)
    (h : m.all (fun p => decide (n < p.1)) = true) :
    (spInsert k v m).all (fun p => decide (n < p.1)) = true := by
  induction m with
  | nil => simp [spInsert, hk]
  | cons p t ih =>
    obtain ⟨j, w⟩ := p
    have h' := h
    simp only [List.all_cons, Bool.and_eq_true] at h
    by_cases hj : k < j
    · simp only [spInsert, hj, if_true, List.all_cons, Bool.and_eq_true]
      exact ⟨by simpa using hk, h⟩
    · simp only [spInsert, hj, if_false, List.all_cons, Bool.and_eq_true]; exact ⟨h.1, ih h.2⟩

theorem spErase_wf [DecidableEq α] (d : Nat → α) (m : Sparse α) (k : Nat) (h : spWf d m = true) :
    spWf d (spErase m k) = true := by
  induction m with
  | nil => rfl
  | cons p t ih =>
    obtain ⟨j, v⟩ := p
    simp only [spWf, Bool.and_eq_true] at h
    by_cases hj : j = k
    · simp only [spErase, hj, if_true]; exact ih h.2
    · simp only [spErase, hj, if_false, spWf, Bool.and_eq_true]
      exact ⟨⟨h.1.1, spErase_all t k j h.1.2⟩, ih h.2⟩

theorem spInsert_wf [DecidableEq α] (d : Nat → α) (m : Sparse α) (k : Nat) (v : α) (hv : v ≠ d k)
    (ha : m.all (fun p => decide (p.1 ≠ k)) = true) (h : spWf d m = true) : spWf d (spInsert k v m) = true := by
  induction m with
  | nil => simp [spInsert, spWf, hv]
  | cons p t ih =>
    obtain ⟨j, w⟩ := p
    have hw := h
    simp only [spWf, Bool.and_eq_true] at h
    simp only [List.all_cons, Bool.and_eq_true, decide_eq_true_eq] at ha
    by_cases hk : k < j
    · simp only [spInsert, hk, if_true]
      rw [spWf, hw, Bool.and_true, Bool.and_eq_true, List.all_cons, Bool.and_eq_true]
      refine ⟨by simp [hv], by simpa using hk, ?_⟩
      have := h.1.2
      rw [List.all_eq_true] at this ⊢
      intro q hq
      have := this q hq
      simp only [decide_eq_true_eq] at this ⊢
      omega
    · simp only [spInsert, hk, if_false, spWf, Bool.and_eq_true]
      exact ⟨⟨h.1.1, spInsert_all t k j v (by omega) h.1.2⟩, ih ha.2 h.2⟩

/-- Every write keeps the canonical form. -/
theorem spSet_wf [DecidableEq α] (d : Nat → α) (m : Sparse α) (k : Nat) (v : α) (h : spWf d m = true) :
    spWf d (spSet d m k v) = true := by
  unfold spSet
  split
  · exact spErase_wf d m k h
  · rename_i hv
    exact spInsert_wf d _ k v hv (spErase_avoids m k) (spErase_wf d m k h)

theorem filter_all (m : Sparse α) (p : Nat × α → Bool) (n : Nat)
    (h : m.all (fun q => decide (n < q.1)) = true) : (m.filter p).all (fun q => decide (n < q.1)) = true := by
  rw [List.all_eq_true] at h ⊢
  intro q hq
  exact h q (List.mem_filter.mp hq).1

/-- Leaving entries out keeps the canonical form, even under another default that no entry left equals. -/
theorem filter_wf [DecidableEq α] (d e : Nat → α) (m : Sparse α) (p : Nat × α → Bool) (h : spWf d m = true)
    (he : ∀ q ∈ m, p q = true → e q.1 = d q.1) : spWf e (m.filter p) = true := by
  induction m with
  | nil => rfl
  | cons q t ih =>
    obtain ⟨j, w⟩ := q
    simp only [spWf, Bool.and_eq_true] at h
    have ht : ∀ q ∈ t, p q = true → e q.1 = d q.1 := fun q hq => he q (List.mem_cons_of_mem _ hq)
    rw [List.filter_cons]
    split
    · rename_i hp
      have : e j = d j := he (j, w) (List.mem_cons_self ..) hp
      simp only [spWf, Bool.and_eq_true]
      exact ⟨⟨by rw [this]; exact h.1.1, filter_all t p j h.1.2⟩, ih h.2 ht⟩
    · exact ih h.2 ht

end Sys2Proof.Machine
end

