-- ==== Sys2Proof/Laws/State.lean ====
section
/-! SUPPORT. One lemma per field per update of State, and what reading gives after each update. -/

namespace Sys2Proof.Machine

variable (s : State)

/-! ### setReg -/

@[simp] theorem State.setReg_grade (off : Nat) (w : Word) : (s.setReg off w).grade = s.grade := rfl
@[simp] theorem State.setReg_mem (off : Nat) (w : Word) : (s.setReg off w).mem = s.mem := rfl
@[simp] theorem State.setReg_stamp (off : Nat) (w : Word) : (s.setReg off w).stamp = s.stamp := rfl
@[simp] theorem State.setReg_atomErrs (off : Nat) (w : Word) : (s.setReg off w).atomErrs = s.atomErrs := rfl
@[simp] theorem State.setReg_bursts (off : Nat) (w : Word) : (s.setReg off w).bursts = s.bursts := rfl
@[simp] theorem State.setReg_pinHits (off : Nat) (w : Word) : (s.setReg off w).pinHits = s.pinHits := rfl
@[simp] theorem State.setReg_caErrs (off : Nat) (w : Word) : (s.setReg off w).caErrs = s.caErrs := rfl
@[simp] theorem State.setReg_upsets (off : Nat) (w : Word) : (s.setReg off w).upsets = s.upsets := rfl
@[simp] theorem State.setReg_loaders (off : Nat) (w : Word) : (s.setReg off w).loaders = s.loaders := rfl
@[simp] theorem State.setReg_svcs (off : Nat) (w : Word) : (s.setReg off w).svcs = s.svcs := rfl
@[simp] theorem State.setReg_pastures (off : Nat) (w : Word) : (s.setReg off w).pastures = s.pastures := rfl
@[simp] theorem State.setReg_cores (off : Nat) (w : Word) : (s.setReg off w).cores = s.cores := rfl
@[simp] theorem State.setReg_windows (off : Nat) (w : Word) : (s.setReg off w).windows = s.windows := rfl
@[simp] theorem State.setReg_frozen (off : Nat) (w : Word) : (s.setReg off w).frozen = s.frozen := rfl
@[simp] theorem State.setReg_qps (off : Nat) (w : Word) : (s.setReg off w).qps = s.qps := rfl
@[simp] theorem State.setReg_ports (off : Nat) (w : Word) : (s.setReg off w).ports = s.ports := rfl
@[simp] theorem State.setReg_msix (off : Nat) (w : Word) : (s.setReg off w).msix = s.msix := rfl
@[simp] theorem State.setReg_hostOut (off : Nat) (w : Word) : (s.setReg off w).hostOut = s.hostOut := rfl
@[simp] theorem State.setReg_heldRecs (off : Nat) (w : Word) : (s.setReg off w).heldRecs = s.heldRecs := rfl
@[simp] theorem State.setReg_links (off : Nat) (w : Word) : (s.setReg off w).links = s.links := rfl
@[simp] theorem State.setReg_nsrs (off : Nat) (w : Word) : (s.setReg off w).nsrs = s.nsrs := rfl
@[simp] theorem State.setReg_appliers (off : Nat) (w : Word) : (s.setReg off w).appliers = s.appliers := rfl
@[simp] theorem State.setReg_drovers (off : Nat) (w : Word) : (s.setReg off w).drovers = s.drovers := rfl
@[simp] theorem State.setReg_trhs (off : Nat) (w : Word) : (s.setReg off w).trhs = s.trhs := rfl
@[simp] theorem State.setReg_engines (off : Nat) (w : Word) : (s.setReg off w).engines = s.engines := rfl
@[simp] theorem State.setReg_collIn (off : Nat) (w : Word) : (s.setReg off w).collIn = s.collIn := rfl
@[simp] theorem State.setReg_collSeq (off : Nat) (w : Word) : (s.setReg off w).collSeq = s.collSeq := rfl
@[simp] theorem State.setReg_calls (off : Nat) (w : Word) : (s.setReg off w).calls = s.calls := rfl
@[simp] theorem State.setReg_roll (off : Nat) (w : Word) : (s.setReg off w).roll = s.roll := rfl
@[simp] theorem State.setReg_rcd (off : Nat) (w : Word) : (s.setReg off w).rcd = s.rcd := rfl
@[simp] theorem State.setReg_jobRanks (off : Nat) (w : Word) : (s.setReg off w).jobRanks = s.jobRanks := rfl
@[simp] theorem State.setReg_lineOut (off : Nat) (w : Word) : (s.setReg off w).lineOut = s.lineOut := rfl
@[simp] theorem State.setReg_reqs (off : Nat) (w : Word) : (s.setReg off w).reqs = s.reqs := rfl
@[simp] theorem State.setReg_nextTag (off : Nat) (w : Word) : (s.setReg off w).nextTag = s.nextTag := rfl
@[simp] theorem State.setReg_scheds (off : Nat) (w : Word) : (s.setReg off w).scheds = s.scheds := rfl
@[simp] theorem State.setReg_sram (off : Nat) (w : Word) : (s.setReg off w).sram = s.sram := rfl
@[simp] theorem State.setReg_mram (off : Nat) (w : Word) : (s.setReg off w).mram = s.mram := rfl
@[simp] theorem State.setReg_logClosed (off : Nat) (w : Word) : (s.setReg off w).logClosed = s.logClosed := rfl
@[simp] theorem State.setReg_flush (off : Nat) (w : Word) : (s.setReg off w).flush = s.flush := rfl
@[simp] theorem State.setReg_flushes (off : Nat) (w : Word) : (s.setReg off w).flushes = s.flushes := rfl
@[simp] theorem State.setReg_str (off : Nat) (w : Word) : (s.setReg off w).str = s.str := rfl
@[simp] theorem State.setReg_meas (off : Nat) (w : Word) : (s.setReg off w).meas = s.meas := rfl
@[simp] theorem State.setReg_committed (off : Nat) (w : Word) : (s.setReg off w).committed = s.committed := rfl
@[simp] theorem State.setReg_sec (off : Nat) (w : Word) : (s.setReg off w).sec = s.sec := rfl
@[simp] theorem State.setReg_pwr (off : Nat) (w : Word) : (s.setReg off w).pwr = s.pwr := rfl
@[simp] theorem State.setReg_mgt (off : Nat) (w : Word) : (s.setReg off w).mgt = s.mgt := rfl
@[simp] theorem State.setReg_released (off : Nat) (w : Word) : (s.setReg off w).released = s.released := rfl
@[simp] theorem State.setReg_powerFailed (off : Nat) (w : Word) : (s.setReg off w).powerFailed = s.powerFailed := rfl
@[simp] theorem State.setReg_sysRst (off : Nat) (w : Word) : (s.setReg off w).sysRst = s.sysRst := rfl
@[simp] theorem State.setReg_thermTrip (off : Nat) (w : Word) : (s.setReg off w).thermTrip = s.thermTrip := rfl
@[simp] theorem State.setReg_vioDown (off : Nat) (w : Word) : (s.setReg off w).vioDown = s.vioDown := rfl
@[simp] theorem State.setReg_fabricCut (off : Nat) (w : Word) : (s.setReg off w).fabricCut = s.fabricCut := rfl
@[simp] theorem State.setReg_untrained (off : Nat) (w : Word) : (s.setReg off w).untrained = s.untrained := rfl
@[simp] theorem State.setReg_answer (off : Nat) (w : Word) : (s.setReg off w).answer = s.answer := rfl
@[simp] theorem State.setReg_free (off : Nat) (w : Word) : (s.setReg off w).free = s.free := rfl
@[simp] theorem State.setReg_pending (off : Nat) (w : Word) : (s.setReg off w).pending = s.pending := rfl

/-! ### setFld -/

@[simp] theorem State.setFld_grade (off : Nat) (f : Fld) (v : Nat) : (s.setFld off f v).grade = s.grade := rfl
@[simp] theorem State.setFld_mem (off : Nat) (f : Fld) (v : Nat) : (s.setFld off f v).mem = s.mem := rfl
@[simp] theorem State.setFld_stamp (off : Nat) (f : Fld) (v : Nat) : (s.setFld off f v).stamp = s.stamp := rfl
@[simp] theorem State.setFld_atomErrs (off : Nat) (f : Fld) (v : Nat) : (s.setFld off f v).atomErrs = s.atomErrs := rfl
@[simp] theorem State.setFld_bursts (off : Nat) (f : Fld) (v : Nat) : (s.setFld off f v).bursts = s.bursts := rfl
@[simp] theorem State.setFld_pinHits (off : Nat) (f : Fld) (v : Nat) : (s.setFld off f v).pinHits = s.pinHits := rfl
@[simp] theorem State.setFld_caErrs (off : Nat) (f : Fld) (v : Nat) : (s.setFld off f v).caErrs = s.caErrs := rfl
@[simp] theorem State.setFld_upsets (off : Nat) (f : Fld) (v : Nat) : (s.setFld off f v).upsets = s.upsets := rfl
@[simp] theorem State.setFld_loaders (off : Nat) (f : Fld) (v : Nat) : (s.setFld off f v).loaders = s.loaders := rfl
@[simp] theorem State.setFld_svcs (off : Nat) (f : Fld) (v : Nat) : (s.setFld off f v).svcs = s.svcs := rfl
@[simp] theorem State.setFld_pastures (off : Nat) (f : Fld) (v : Nat) : (s.setFld off f v).pastures = s.pastures := rfl
@[simp] theorem State.setFld_cores (off : Nat) (f : Fld) (v : Nat) : (s.setFld off f v).cores = s.cores := rfl
@[simp] theorem State.setFld_windows (off : Nat) (f : Fld) (v : Nat) : (s.setFld off f v).windows = s.windows := rfl
@[simp] theorem State.setFld_frozen (off : Nat) (f : Fld) (v : Nat) : (s.setFld off f v).frozen = s.frozen := rfl
@[simp] theorem State.setFld_qps (off : Nat) (f : Fld) (v : Nat) : (s.setFld off f v).qps = s.qps := rfl
@[simp] theorem State.setFld_ports (off : Nat) (f : Fld) (v : Nat) : (s.setFld off f v).ports = s.ports := rfl
@[simp] theorem State.setFld_msix (off : Nat) (f : Fld) (v : Nat) : (s.setFld off f v).msix = s.msix := rfl
@[simp] theorem State.setFld_hostOut (off : Nat) (f : Fld) (v : Nat) : (s.setFld off f v).hostOut = s.hostOut := rfl
@[simp] theorem State.setFld_heldRecs (off : Nat) (f : Fld) (v : Nat) : (s.setFld off f v).heldRecs = s.heldRecs := rfl
@[simp] theorem State.setFld_links (off : Nat) (f : Fld) (v : Nat) : (s.setFld off f v).links = s.links := rfl
@[simp] theorem State.setFld_nsrs (off : Nat) (f : Fld) (v : Nat) : (s.setFld off f v).nsrs = s.nsrs := rfl
@[simp] theorem State.setFld_appliers (off : Nat) (f : Fld) (v : Nat) : (s.setFld off f v).appliers = s.appliers := rfl
@[simp] theorem State.setFld_drovers (off : Nat) (f : Fld) (v : Nat) : (s.setFld off f v).drovers = s.drovers := rfl
@[simp] theorem State.setFld_trhs (off : Nat) (f : Fld) (v : Nat) : (s.setFld off f v).trhs = s.trhs := rfl
@[simp] theorem State.setFld_engines (off : Nat) (f : Fld) (v : Nat) : (s.setFld off f v).engines = s.engines := rfl
@[simp] theorem State.setFld_collIn (off : Nat) (f : Fld) (v : Nat) : (s.setFld off f v).collIn = s.collIn := rfl
@[simp] theorem State.setFld_collSeq (off : Nat) (f : Fld) (v : Nat) : (s.setFld off f v).collSeq = s.collSeq := rfl
@[simp] theorem State.setFld_calls (off : Nat) (f : Fld) (v : Nat) : (s.setFld off f v).calls = s.calls := rfl
@[simp] theorem State.setFld_roll (off : Nat) (f : Fld) (v : Nat) : (s.setFld off f v).roll = s.roll := rfl
@[simp] theorem State.setFld_rcd (off : Nat) (f : Fld) (v : Nat) : (s.setFld off f v).rcd = s.rcd := rfl
@[simp] theorem State.setFld_jobRanks (off : Nat) (f : Fld) (v : Nat) : (s.setFld off f v).jobRanks = s.jobRanks := rfl
@[simp] theorem State.setFld_lineOut (off : Nat) (f : Fld) (v : Nat) : (s.setFld off f v).lineOut = s.lineOut := rfl
@[simp] theorem State.setFld_reqs (off : Nat) (f : Fld) (v : Nat) : (s.setFld off f v).reqs = s.reqs := rfl
@[simp] theorem State.setFld_nextTag (off : Nat) (f : Fld) (v : Nat) : (s.setFld off f v).nextTag = s.nextTag := rfl
@[simp] theorem State.setFld_scheds (off : Nat) (f : Fld) (v : Nat) : (s.setFld off f v).scheds = s.scheds := rfl
@[simp] theorem State.setFld_sram (off : Nat) (f : Fld) (v : Nat) : (s.setFld off f v).sram = s.sram := rfl
@[simp] theorem State.setFld_mram (off : Nat) (f : Fld) (v : Nat) : (s.setFld off f v).mram = s.mram := rfl
@[simp] theorem State.setFld_logClosed (off : Nat) (f : Fld) (v : Nat) : (s.setFld off f v).logClosed = s.logClosed := rfl
@[simp] theorem State.setFld_flush (off : Nat) (f : Fld) (v : Nat) : (s.setFld off f v).flush = s.flush := rfl
@[simp] theorem State.setFld_flushes (off : Nat) (f : Fld) (v : Nat) : (s.setFld off f v).flushes = s.flushes := rfl
@[simp] theorem State.setFld_str (off : Nat) (f : Fld) (v : Nat) : (s.setFld off f v).str = s.str := rfl
@[simp] theorem State.setFld_meas (off : Nat) (f : Fld) (v : Nat) : (s.setFld off f v).meas = s.meas := rfl
@[simp] theorem State.setFld_committed (off : Nat) (f : Fld) (v : Nat) : (s.setFld off f v).committed = s.committed := rfl
@[simp] theorem State.setFld_sec (off : Nat) (f : Fld) (v : Nat) : (s.setFld off f v).sec = s.sec := rfl
@[simp] theorem State.setFld_pwr (off : Nat) (f : Fld) (v : Nat) : (s.setFld off f v).pwr = s.pwr := rfl
@[simp] theorem State.setFld_mgt (off : Nat) (f : Fld) (v : Nat) : (s.setFld off f v).mgt = s.mgt := rfl
@[simp] theorem State.setFld_released (off : Nat) (f : Fld) (v : Nat) : (s.setFld off f v).released = s.released := rfl
@[simp] theorem State.setFld_powerFailed (off : Nat) (f : Fld) (v : Nat) : (s.setFld off f v).powerFailed = s.powerFailed := rfl
@[simp] theorem State.setFld_sysRst (off : Nat) (f : Fld) (v : Nat) : (s.setFld off f v).sysRst = s.sysRst := rfl
@[simp] theorem State.setFld_thermTrip (off : Nat) (f : Fld) (v : Nat) : (s.setFld off f v).thermTrip = s.thermTrip := rfl
@[simp] theorem State.setFld_vioDown (off : Nat) (f : Fld) (v : Nat) : (s.setFld off f v).vioDown = s.vioDown := rfl
@[simp] theorem State.setFld_fabricCut (off : Nat) (f : Fld) (v : Nat) : (s.setFld off f v).fabricCut = s.fabricCut := rfl
@[simp] theorem State.setFld_untrained (off : Nat) (f : Fld) (v : Nat) : (s.setFld off f v).untrained = s.untrained := rfl
@[simp] theorem State.setFld_answer (off : Nat) (f : Fld) (v : Nat) : (s.setFld off f v).answer = s.answer := rfl
@[simp] theorem State.setFld_free (off : Nat) (f : Fld) (v : Nat) : (s.setFld off f v).free = s.free := rfl
@[simp] theorem State.setFld_pending (off : Nat) (f : Fld) (v : Nat) : (s.setFld off f v).pending = s.pending := rfl

/-! ### flag -/

@[simp] theorem State.flag_grade (off : Nat) (f : Fld) : (s.flag off f).grade = s.grade := rfl
@[simp] theorem State.flag_mem (off : Nat) (f : Fld) : (s.flag off f).mem = s.mem := rfl
@[simp] theorem State.flag_stamp (off : Nat) (f : Fld) : (s.flag off f).stamp = s.stamp := rfl
@[simp] theorem State.flag_atomErrs (off : Nat) (f : Fld) : (s.flag off f).atomErrs = s.atomErrs := rfl
@[simp] theorem State.flag_bursts (off : Nat) (f : Fld) : (s.flag off f).bursts = s.bursts := rfl
@[simp] theorem State.flag_pinHits (off : Nat) (f : Fld) : (s.flag off f).pinHits = s.pinHits := rfl
@[simp] theorem State.flag_caErrs (off : Nat) (f : Fld) : (s.flag off f).caErrs = s.caErrs := rfl
@[simp] theorem State.flag_upsets (off : Nat) (f : Fld) : (s.flag off f).upsets = s.upsets := rfl
@[simp] theorem State.flag_loaders (off : Nat) (f : Fld) : (s.flag off f).loaders = s.loaders := rfl
@[simp] theorem State.flag_svcs (off : Nat) (f : Fld) : (s.flag off f).svcs = s.svcs := rfl
@[simp] theorem State.flag_pastures (off : Nat) (f : Fld) : (s.flag off f).pastures = s.pastures := rfl
@[simp] theorem State.flag_cores (off : Nat) (f : Fld) : (s.flag off f).cores = s.cores := rfl
@[simp] theorem State.flag_windows (off : Nat) (f : Fld) : (s.flag off f).windows = s.windows := rfl
@[simp] theorem State.flag_frozen (off : Nat) (f : Fld) : (s.flag off f).frozen = s.frozen := rfl
@[simp] theorem State.flag_qps (off : Nat) (f : Fld) : (s.flag off f).qps = s.qps := rfl
@[simp] theorem State.flag_ports (off : Nat) (f : Fld) : (s.flag off f).ports = s.ports := rfl
@[simp] theorem State.flag_msix (off : Nat) (f : Fld) : (s.flag off f).msix = s.msix := rfl
@[simp] theorem State.flag_hostOut (off : Nat) (f : Fld) : (s.flag off f).hostOut = s.hostOut := rfl
@[simp] theorem State.flag_heldRecs (off : Nat) (f : Fld) : (s.flag off f).heldRecs = s.heldRecs := rfl
@[simp] theorem State.flag_links (off : Nat) (f : Fld) : (s.flag off f).links = s.links := rfl
@[simp] theorem State.flag_nsrs (off : Nat) (f : Fld) : (s.flag off f).nsrs = s.nsrs := rfl
@[simp] theorem State.flag_appliers (off : Nat) (f : Fld) : (s.flag off f).appliers = s.appliers := rfl
@[simp] theorem State.flag_drovers (off : Nat) (f : Fld) : (s.flag off f).drovers = s.drovers := rfl
@[simp] theorem State.flag_trhs (off : Nat) (f : Fld) : (s.flag off f).trhs = s.trhs := rfl
@[simp] theorem State.flag_engines (off : Nat) (f : Fld) : (s.flag off f).engines = s.engines := rfl
@[simp] theorem State.flag_collIn (off : Nat) (f : Fld) : (s.flag off f).collIn = s.collIn := rfl
@[simp] theorem State.flag_collSeq (off : Nat) (f : Fld) : (s.flag off f).collSeq = s.collSeq := rfl
@[simp] theorem State.flag_calls (off : Nat) (f : Fld) : (s.flag off f).calls = s.calls := rfl
@[simp] theorem State.flag_roll (off : Nat) (f : Fld) : (s.flag off f).roll = s.roll := rfl
@[simp] theorem State.flag_rcd (off : Nat) (f : Fld) : (s.flag off f).rcd = s.rcd := rfl
@[simp] theorem State.flag_jobRanks (off : Nat) (f : Fld) : (s.flag off f).jobRanks = s.jobRanks := rfl
@[simp] theorem State.flag_lineOut (off : Nat) (f : Fld) : (s.flag off f).lineOut = s.lineOut := rfl
@[simp] theorem State.flag_reqs (off : Nat) (f : Fld) : (s.flag off f).reqs = s.reqs := rfl
@[simp] theorem State.flag_nextTag (off : Nat) (f : Fld) : (s.flag off f).nextTag = s.nextTag := rfl
@[simp] theorem State.flag_scheds (off : Nat) (f : Fld) : (s.flag off f).scheds = s.scheds := rfl
@[simp] theorem State.flag_sram (off : Nat) (f : Fld) : (s.flag off f).sram = s.sram := rfl
@[simp] theorem State.flag_mram (off : Nat) (f : Fld) : (s.flag off f).mram = s.mram := rfl
@[simp] theorem State.flag_logClosed (off : Nat) (f : Fld) : (s.flag off f).logClosed = s.logClosed := rfl
@[simp] theorem State.flag_flush (off : Nat) (f : Fld) : (s.flag off f).flush = s.flush := rfl
@[simp] theorem State.flag_flushes (off : Nat) (f : Fld) : (s.flag off f).flushes = s.flushes := rfl
@[simp] theorem State.flag_str (off : Nat) (f : Fld) : (s.flag off f).str = s.str := rfl
@[simp] theorem State.flag_meas (off : Nat) (f : Fld) : (s.flag off f).meas = s.meas := rfl
@[simp] theorem State.flag_committed (off : Nat) (f : Fld) : (s.flag off f).committed = s.committed := rfl
@[simp] theorem State.flag_sec (off : Nat) (f : Fld) : (s.flag off f).sec = s.sec := rfl
@[simp] theorem State.flag_pwr (off : Nat) (f : Fld) : (s.flag off f).pwr = s.pwr := rfl
@[simp] theorem State.flag_mgt (off : Nat) (f : Fld) : (s.flag off f).mgt = s.mgt := rfl
@[simp] theorem State.flag_released (off : Nat) (f : Fld) : (s.flag off f).released = s.released := rfl
@[simp] theorem State.flag_powerFailed (off : Nat) (f : Fld) : (s.flag off f).powerFailed = s.powerFailed := rfl
@[simp] theorem State.flag_sysRst (off : Nat) (f : Fld) : (s.flag off f).sysRst = s.sysRst := rfl
@[simp] theorem State.flag_thermTrip (off : Nat) (f : Fld) : (s.flag off f).thermTrip = s.thermTrip := rfl
@[simp] theorem State.flag_vioDown (off : Nat) (f : Fld) : (s.flag off f).vioDown = s.vioDown := rfl
@[simp] theorem State.flag_fabricCut (off : Nat) (f : Fld) : (s.flag off f).fabricCut = s.fabricCut := rfl
@[simp] theorem State.flag_untrained (off : Nat) (f : Fld) : (s.flag off f).untrained = s.untrained := rfl
@[simp] theorem State.flag_answer (off : Nat) (f : Fld) : (s.flag off f).answer = s.answer := rfl
@[simp] theorem State.flag_free (off : Nat) (f : Fld) : (s.flag off f).free = s.free := rfl
@[simp] theorem State.flag_pending (off : Nat) (f : Fld) : (s.flag off f).pending = s.pending := rfl

/-! ### count -/

@[simp] theorem State.count_grade (off n : Nat) : (s.count off n).grade = s.grade := rfl
@[simp] theorem State.count_mem (off n : Nat) : (s.count off n).mem = s.mem := rfl
@[simp] theorem State.count_stamp (off n : Nat) : (s.count off n).stamp = s.stamp := rfl
@[simp] theorem State.count_atomErrs (off n : Nat) : (s.count off n).atomErrs = s.atomErrs := rfl
@[simp] theorem State.count_bursts (off n : Nat) : (s.count off n).bursts = s.bursts := rfl
@[simp] theorem State.count_pinHits (off n : Nat) : (s.count off n).pinHits = s.pinHits := rfl
@[simp] theorem State.count_caErrs (off n : Nat) : (s.count off n).caErrs = s.caErrs := rfl
@[simp] theorem State.count_upsets (off n : Nat) : (s.count off n).upsets = s.upsets := rfl
@[simp] theorem State.count_loaders (off n : Nat) : (s.count off n).loaders = s.loaders := rfl
@[simp] theorem State.count_svcs (off n : Nat) : (s.count off n).svcs = s.svcs := rfl
@[simp] theorem State.count_pastures (off n : Nat) : (s.count off n).pastures = s.pastures := rfl
@[simp] theorem State.count_cores (off n : Nat) : (s.count off n).cores = s.cores := rfl
@[simp] theorem State.count_windows (off n : Nat) : (s.count off n).windows = s.windows := rfl
@[simp] theorem State.count_frozen (off n : Nat) : (s.count off n).frozen = s.frozen := rfl
@[simp] theorem State.count_qps (off n : Nat) : (s.count off n).qps = s.qps := rfl
@[simp] theorem State.count_ports (off n : Nat) : (s.count off n).ports = s.ports := rfl
@[simp] theorem State.count_msix (off n : Nat) : (s.count off n).msix = s.msix := rfl
@[simp] theorem State.count_hostOut (off n : Nat) : (s.count off n).hostOut = s.hostOut := rfl
@[simp] theorem State.count_heldRecs (off n : Nat) : (s.count off n).heldRecs = s.heldRecs := rfl
@[simp] theorem State.count_links (off n : Nat) : (s.count off n).links = s.links := rfl
@[simp] theorem State.count_nsrs (off n : Nat) : (s.count off n).nsrs = s.nsrs := rfl
@[simp] theorem State.count_appliers (off n : Nat) : (s.count off n).appliers = s.appliers := rfl
@[simp] theorem State.count_drovers (off n : Nat) : (s.count off n).drovers = s.drovers := rfl
@[simp] theorem State.count_trhs (off n : Nat) : (s.count off n).trhs = s.trhs := rfl
@[simp] theorem State.count_engines (off n : Nat) : (s.count off n).engines = s.engines := rfl
@[simp] theorem State.count_collIn (off n : Nat) : (s.count off n).collIn = s.collIn := rfl
@[simp] theorem State.count_collSeq (off n : Nat) : (s.count off n).collSeq = s.collSeq := rfl
@[simp] theorem State.count_calls (off n : Nat) : (s.count off n).calls = s.calls := rfl
@[simp] theorem State.count_roll (off n : Nat) : (s.count off n).roll = s.roll := rfl
@[simp] theorem State.count_rcd (off n : Nat) : (s.count off n).rcd = s.rcd := rfl
@[simp] theorem State.count_jobRanks (off n : Nat) : (s.count off n).jobRanks = s.jobRanks := rfl
@[simp] theorem State.count_lineOut (off n : Nat) : (s.count off n).lineOut = s.lineOut := rfl
@[simp] theorem State.count_reqs (off n : Nat) : (s.count off n).reqs = s.reqs := rfl
@[simp] theorem State.count_nextTag (off n : Nat) : (s.count off n).nextTag = s.nextTag := rfl
@[simp] theorem State.count_scheds (off n : Nat) : (s.count off n).scheds = s.scheds := rfl
@[simp] theorem State.count_sram (off n : Nat) : (s.count off n).sram = s.sram := rfl
@[simp] theorem State.count_mram (off n : Nat) : (s.count off n).mram = s.mram := rfl
@[simp] theorem State.count_logClosed (off n : Nat) : (s.count off n).logClosed = s.logClosed := rfl
@[simp] theorem State.count_flush (off n : Nat) : (s.count off n).flush = s.flush := rfl
@[simp] theorem State.count_flushes (off n : Nat) : (s.count off n).flushes = s.flushes := rfl
@[simp] theorem State.count_str (off n : Nat) : (s.count off n).str = s.str := rfl
@[simp] theorem State.count_meas (off n : Nat) : (s.count off n).meas = s.meas := rfl
@[simp] theorem State.count_committed (off n : Nat) : (s.count off n).committed = s.committed := rfl
@[simp] theorem State.count_sec (off n : Nat) : (s.count off n).sec = s.sec := rfl
@[simp] theorem State.count_pwr (off n : Nat) : (s.count off n).pwr = s.pwr := rfl
@[simp] theorem State.count_mgt (off n : Nat) : (s.count off n).mgt = s.mgt := rfl
@[simp] theorem State.count_released (off n : Nat) : (s.count off n).released = s.released := rfl
@[simp] theorem State.count_powerFailed (off n : Nat) : (s.count off n).powerFailed = s.powerFailed := rfl
@[simp] theorem State.count_sysRst (off n : Nat) : (s.count off n).sysRst = s.sysRst := rfl
@[simp] theorem State.count_thermTrip (off n : Nat) : (s.count off n).thermTrip = s.thermTrip := rfl
@[simp] theorem State.count_vioDown (off n : Nat) : (s.count off n).vioDown = s.vioDown := rfl
@[simp] theorem State.count_fabricCut (off n : Nat) : (s.count off n).fabricCut = s.fabricCut := rfl
@[simp] theorem State.count_untrained (off n : Nat) : (s.count off n).untrained = s.untrained := rfl
@[simp] theorem State.count_answer (off n : Nat) : (s.count off n).answer = s.answer := rfl
@[simp] theorem State.count_free (off n : Nat) : (s.count off n).free = s.free := rfl
@[simp] theorem State.count_pending (off n : Nat) : (s.count off n).pending = s.pending := rfl

/-! ### clearCount -/

@[simp] theorem State.clearCount_grade (off : Nat) : (s.clearCount off).grade = s.grade := rfl
@[simp] theorem State.clearCount_mem (off : Nat) : (s.clearCount off).mem = s.mem := rfl
@[simp] theorem State.clearCount_stamp (off : Nat) : (s.clearCount off).stamp = s.stamp := rfl
@[simp] theorem State.clearCount_atomErrs (off : Nat) : (s.clearCount off).atomErrs = s.atomErrs := rfl
@[simp] theorem State.clearCount_bursts (off : Nat) : (s.clearCount off).bursts = s.bursts := rfl
@[simp] theorem State.clearCount_pinHits (off : Nat) : (s.clearCount off).pinHits = s.pinHits := rfl
@[simp] theorem State.clearCount_caErrs (off : Nat) : (s.clearCount off).caErrs = s.caErrs := rfl
@[simp] theorem State.clearCount_upsets (off : Nat) : (s.clearCount off).upsets = s.upsets := rfl
@[simp] theorem State.clearCount_loaders (off : Nat) : (s.clearCount off).loaders = s.loaders := rfl
@[simp] theorem State.clearCount_svcs (off : Nat) : (s.clearCount off).svcs = s.svcs := rfl
@[simp] theorem State.clearCount_pastures (off : Nat) : (s.clearCount off).pastures = s.pastures := rfl
@[simp] theorem State.clearCount_cores (off : Nat) : (s.clearCount off).cores = s.cores := rfl
@[simp] theorem State.clearCount_windows (off : Nat) : (s.clearCount off).windows = s.windows := rfl
@[simp] theorem State.clearCount_frozen (off : Nat) : (s.clearCount off).frozen = s.frozen := rfl
@[simp] theorem State.clearCount_qps (off : Nat) : (s.clearCount off).qps = s.qps := rfl
@[simp] theorem State.clearCount_ports (off : Nat) : (s.clearCount off).ports = s.ports := rfl
@[simp] theorem State.clearCount_msix (off : Nat) : (s.clearCount off).msix = s.msix := rfl
@[simp] theorem State.clearCount_hostOut (off : Nat) : (s.clearCount off).hostOut = s.hostOut := rfl
@[simp] theorem State.clearCount_heldRecs (off : Nat) : (s.clearCount off).heldRecs = s.heldRecs := rfl
@[simp] theorem State.clearCount_links (off : Nat) : (s.clearCount off).links = s.links := rfl
@[simp] theorem State.clearCount_nsrs (off : Nat) : (s.clearCount off).nsrs = s.nsrs := rfl
@[simp] theorem State.clearCount_appliers (off : Nat) : (s.clearCount off).appliers = s.appliers := rfl
@[simp] theorem State.clearCount_drovers (off : Nat) : (s.clearCount off).drovers = s.drovers := rfl
@[simp] theorem State.clearCount_trhs (off : Nat) : (s.clearCount off).trhs = s.trhs := rfl
@[simp] theorem State.clearCount_engines (off : Nat) : (s.clearCount off).engines = s.engines := rfl
@[simp] theorem State.clearCount_collIn (off : Nat) : (s.clearCount off).collIn = s.collIn := rfl
@[simp] theorem State.clearCount_collSeq (off : Nat) : (s.clearCount off).collSeq = s.collSeq := rfl
@[simp] theorem State.clearCount_calls (off : Nat) : (s.clearCount off).calls = s.calls := rfl
@[simp] theorem State.clearCount_roll (off : Nat) : (s.clearCount off).roll = s.roll := rfl
@[simp] theorem State.clearCount_rcd (off : Nat) : (s.clearCount off).rcd = s.rcd := rfl
@[simp] theorem State.clearCount_jobRanks (off : Nat) : (s.clearCount off).jobRanks = s.jobRanks := rfl
@[simp] theorem State.clearCount_lineOut (off : Nat) : (s.clearCount off).lineOut = s.lineOut := rfl
@[simp] theorem State.clearCount_reqs (off : Nat) : (s.clearCount off).reqs = s.reqs := rfl
@[simp] theorem State.clearCount_nextTag (off : Nat) : (s.clearCount off).nextTag = s.nextTag := rfl
@[simp] theorem State.clearCount_scheds (off : Nat) : (s.clearCount off).scheds = s.scheds := rfl
@[simp] theorem State.clearCount_sram (off : Nat) : (s.clearCount off).sram = s.sram := rfl
@[simp] theorem State.clearCount_mram (off : Nat) : (s.clearCount off).mram = s.mram := rfl
@[simp] theorem State.clearCount_logClosed (off : Nat) : (s.clearCount off).logClosed = s.logClosed := rfl
@[simp] theorem State.clearCount_flush (off : Nat) : (s.clearCount off).flush = s.flush := rfl
@[simp] theorem State.clearCount_flushes (off : Nat) : (s.clearCount off).flushes = s.flushes := rfl
@[simp] theorem State.clearCount_str (off : Nat) : (s.clearCount off).str = s.str := rfl
@[simp] theorem State.clearCount_meas (off : Nat) : (s.clearCount off).meas = s.meas := rfl
@[simp] theorem State.clearCount_committed (off : Nat) : (s.clearCount off).committed = s.committed := rfl
@[simp] theorem State.clearCount_sec (off : Nat) : (s.clearCount off).sec = s.sec := rfl
@[simp] theorem State.clearCount_pwr (off : Nat) : (s.clearCount off).pwr = s.pwr := rfl
@[simp] theorem State.clearCount_mgt (off : Nat) : (s.clearCount off).mgt = s.mgt := rfl
@[simp] theorem State.clearCount_released (off : Nat) : (s.clearCount off).released = s.released := rfl
@[simp] theorem State.clearCount_powerFailed (off : Nat) : (s.clearCount off).powerFailed = s.powerFailed := rfl
@[simp] theorem State.clearCount_sysRst (off : Nat) : (s.clearCount off).sysRst = s.sysRst := rfl
@[simp] theorem State.clearCount_thermTrip (off : Nat) : (s.clearCount off).thermTrip = s.thermTrip := rfl
@[simp] theorem State.clearCount_vioDown (off : Nat) : (s.clearCount off).vioDown = s.vioDown := rfl
@[simp] theorem State.clearCount_fabricCut (off : Nat) : (s.clearCount off).fabricCut = s.fabricCut := rfl
@[simp] theorem State.clearCount_untrained (off : Nat) : (s.clearCount off).untrained = s.untrained := rfl
@[simp] theorem State.clearCount_answer (off : Nat) : (s.clearCount off).answer = s.answer := rfl
@[simp] theorem State.clearCount_free (off : Nat) : (s.clearCount off).free = s.free := rfl
@[simp] theorem State.clearCount_pending (off : Nat) : (s.clearCount off).pending = s.pending := rfl

/-! ### wide -/

@[simp] theorem State.wide_grade (off n : Nat) : (s.wide off n).grade = s.grade := rfl
@[simp] theorem State.wide_mem (off n : Nat) : (s.wide off n).mem = s.mem := rfl
@[simp] theorem State.wide_stamp (off n : Nat) : (s.wide off n).stamp = s.stamp := rfl
@[simp] theorem State.wide_atomErrs (off n : Nat) : (s.wide off n).atomErrs = s.atomErrs := rfl
@[simp] theorem State.wide_bursts (off n : Nat) : (s.wide off n).bursts = s.bursts := rfl
@[simp] theorem State.wide_pinHits (off n : Nat) : (s.wide off n).pinHits = s.pinHits := rfl
@[simp] theorem State.wide_caErrs (off n : Nat) : (s.wide off n).caErrs = s.caErrs := rfl
@[simp] theorem State.wide_upsets (off n : Nat) : (s.wide off n).upsets = s.upsets := rfl
@[simp] theorem State.wide_loaders (off n : Nat) : (s.wide off n).loaders = s.loaders := rfl
@[simp] theorem State.wide_svcs (off n : Nat) : (s.wide off n).svcs = s.svcs := rfl
@[simp] theorem State.wide_pastures (off n : Nat) : (s.wide off n).pastures = s.pastures := rfl
@[simp] theorem State.wide_cores (off n : Nat) : (s.wide off n).cores = s.cores := rfl
@[simp] theorem State.wide_windows (off n : Nat) : (s.wide off n).windows = s.windows := rfl
@[simp] theorem State.wide_frozen (off n : Nat) : (s.wide off n).frozen = s.frozen := rfl
@[simp] theorem State.wide_qps (off n : Nat) : (s.wide off n).qps = s.qps := rfl
@[simp] theorem State.wide_ports (off n : Nat) : (s.wide off n).ports = s.ports := rfl
@[simp] theorem State.wide_msix (off n : Nat) : (s.wide off n).msix = s.msix := rfl
@[simp] theorem State.wide_hostOut (off n : Nat) : (s.wide off n).hostOut = s.hostOut := rfl
@[simp] theorem State.wide_heldRecs (off n : Nat) : (s.wide off n).heldRecs = s.heldRecs := rfl
@[simp] theorem State.wide_links (off n : Nat) : (s.wide off n).links = s.links := rfl
@[simp] theorem State.wide_nsrs (off n : Nat) : (s.wide off n).nsrs = s.nsrs := rfl
@[simp] theorem State.wide_appliers (off n : Nat) : (s.wide off n).appliers = s.appliers := rfl
@[simp] theorem State.wide_drovers (off n : Nat) : (s.wide off n).drovers = s.drovers := rfl
@[simp] theorem State.wide_trhs (off n : Nat) : (s.wide off n).trhs = s.trhs := rfl
@[simp] theorem State.wide_engines (off n : Nat) : (s.wide off n).engines = s.engines := rfl
@[simp] theorem State.wide_collIn (off n : Nat) : (s.wide off n).collIn = s.collIn := rfl
@[simp] theorem State.wide_collSeq (off n : Nat) : (s.wide off n).collSeq = s.collSeq := rfl
@[simp] theorem State.wide_calls (off n : Nat) : (s.wide off n).calls = s.calls := rfl
@[simp] theorem State.wide_roll (off n : Nat) : (s.wide off n).roll = s.roll := rfl
@[simp] theorem State.wide_rcd (off n : Nat) : (s.wide off n).rcd = s.rcd := rfl
@[simp] theorem State.wide_jobRanks (off n : Nat) : (s.wide off n).jobRanks = s.jobRanks := rfl
@[simp] theorem State.wide_lineOut (off n : Nat) : (s.wide off n).lineOut = s.lineOut := rfl
@[simp] theorem State.wide_reqs (off n : Nat) : (s.wide off n).reqs = s.reqs := rfl
@[simp] theorem State.wide_nextTag (off n : Nat) : (s.wide off n).nextTag = s.nextTag := rfl
@[simp] theorem State.wide_scheds (off n : Nat) : (s.wide off n).scheds = s.scheds := rfl
@[simp] theorem State.wide_sram (off n : Nat) : (s.wide off n).sram = s.sram := rfl
@[simp] theorem State.wide_mram (off n : Nat) : (s.wide off n).mram = s.mram := rfl
@[simp] theorem State.wide_logClosed (off n : Nat) : (s.wide off n).logClosed = s.logClosed := rfl
@[simp] theorem State.wide_flush (off n : Nat) : (s.wide off n).flush = s.flush := rfl
@[simp] theorem State.wide_flushes (off n : Nat) : (s.wide off n).flushes = s.flushes := rfl
@[simp] theorem State.wide_str (off n : Nat) : (s.wide off n).str = s.str := rfl
@[simp] theorem State.wide_meas (off n : Nat) : (s.wide off n).meas = s.meas := rfl
@[simp] theorem State.wide_committed (off n : Nat) : (s.wide off n).committed = s.committed := rfl
@[simp] theorem State.wide_sec (off n : Nat) : (s.wide off n).sec = s.sec := rfl
@[simp] theorem State.wide_pwr (off n : Nat) : (s.wide off n).pwr = s.pwr := rfl
@[simp] theorem State.wide_mgt (off n : Nat) : (s.wide off n).mgt = s.mgt := rfl
@[simp] theorem State.wide_released (off n : Nat) : (s.wide off n).released = s.released := rfl
@[simp] theorem State.wide_powerFailed (off n : Nat) : (s.wide off n).powerFailed = s.powerFailed := rfl
@[simp] theorem State.wide_sysRst (off n : Nat) : (s.wide off n).sysRst = s.sysRst := rfl
@[simp] theorem State.wide_thermTrip (off n : Nat) : (s.wide off n).thermTrip = s.thermTrip := rfl
@[simp] theorem State.wide_vioDown (off n : Nat) : (s.wide off n).vioDown = s.vioDown := rfl
@[simp] theorem State.wide_fabricCut (off n : Nat) : (s.wide off n).fabricCut = s.fabricCut := rfl
@[simp] theorem State.wide_untrained (off n : Nat) : (s.wide off n).untrained = s.untrained := rfl
@[simp] theorem State.wide_answer (off n : Nat) : (s.wide off n).answer = s.answer := rfl
@[simp] theorem State.wide_free (off n : Nat) : (s.wide off n).free = s.free := rfl
@[simp] theorem State.wide_pending (off n : Nat) : (s.wide off n).pending = s.pending := rfl

/-! ### setByte -/

@[simp] theorem State.setByte_grade (a : Nat) (b : Byte) : (s.setByte a b).grade = s.grade := rfl
@[simp] theorem State.setByte_regs (a : Nat) (b : Byte) : (s.setByte a b).regs = s.regs := rfl
@[simp] theorem State.setByte_stamp (a : Nat) (b : Byte) : (s.setByte a b).stamp = s.stamp := rfl
@[simp] theorem State.setByte_atomErrs (a : Nat) (b : Byte) : (s.setByte a b).atomErrs = s.atomErrs := rfl
@[simp] theorem State.setByte_bursts (a : Nat) (b : Byte) : (s.setByte a b).bursts = s.bursts := rfl
@[simp] theorem State.setByte_pinHits (a : Nat) (b : Byte) : (s.setByte a b).pinHits = s.pinHits := rfl
@[simp] theorem State.setByte_caErrs (a : Nat) (b : Byte) : (s.setByte a b).caErrs = s.caErrs := rfl
@[simp] theorem State.setByte_upsets (a : Nat) (b : Byte) : (s.setByte a b).upsets = s.upsets := rfl
@[simp] theorem State.setByte_loaders (a : Nat) (b : Byte) : (s.setByte a b).loaders = s.loaders := rfl
@[simp] theorem State.setByte_svcs (a : Nat) (b : Byte) : (s.setByte a b).svcs = s.svcs := rfl
@[simp] theorem State.setByte_pastures (a : Nat) (b : Byte) : (s.setByte a b).pastures = s.pastures := rfl
@[simp] theorem State.setByte_cores (a : Nat) (b : Byte) : (s.setByte a b).cores = s.cores := rfl
@[simp] theorem State.setByte_windows (a : Nat) (b : Byte) : (s.setByte a b).windows = s.windows := rfl
@[simp] theorem State.setByte_frozen (a : Nat) (b : Byte) : (s.setByte a b).frozen = s.frozen := rfl
@[simp] theorem State.setByte_qps (a : Nat) (b : Byte) : (s.setByte a b).qps = s.qps := rfl
@[simp] theorem State.setByte_ports (a : Nat) (b : Byte) : (s.setByte a b).ports = s.ports := rfl
@[simp] theorem State.setByte_msix (a : Nat) (b : Byte) : (s.setByte a b).msix = s.msix := rfl
@[simp] theorem State.setByte_hostOut (a : Nat) (b : Byte) : (s.setByte a b).hostOut = s.hostOut := rfl
@[simp] theorem State.setByte_heldRecs (a : Nat) (b : Byte) : (s.setByte a b).heldRecs = s.heldRecs := rfl
@[simp] theorem State.setByte_links (a : Nat) (b : Byte) : (s.setByte a b).links = s.links := rfl
@[simp] theorem State.setByte_nsrs (a : Nat) (b : Byte) : (s.setByte a b).nsrs = s.nsrs := rfl
@[simp] theorem State.setByte_appliers (a : Nat) (b : Byte) : (s.setByte a b).appliers = s.appliers := rfl
@[simp] theorem State.setByte_drovers (a : Nat) (b : Byte) : (s.setByte a b).drovers = s.drovers := rfl
@[simp] theorem State.setByte_trhs (a : Nat) (b : Byte) : (s.setByte a b).trhs = s.trhs := rfl
@[simp] theorem State.setByte_engines (a : Nat) (b : Byte) : (s.setByte a b).engines = s.engines := rfl
@[simp] theorem State.setByte_collIn (a : Nat) (b : Byte) : (s.setByte a b).collIn = s.collIn := rfl
@[simp] theorem State.setByte_collSeq (a : Nat) (b : Byte) : (s.setByte a b).collSeq = s.collSeq := rfl
@[simp] theorem State.setByte_calls (a : Nat) (b : Byte) : (s.setByte a b).calls = s.calls := rfl
@[simp] theorem State.setByte_roll (a : Nat) (b : Byte) : (s.setByte a b).roll = s.roll := rfl
@[simp] theorem State.setByte_rcd (a : Nat) (b : Byte) : (s.setByte a b).rcd = s.rcd := rfl
@[simp] theorem State.setByte_jobRanks (a : Nat) (b : Byte) : (s.setByte a b).jobRanks = s.jobRanks := rfl
@[simp] theorem State.setByte_lineOut (a : Nat) (b : Byte) : (s.setByte a b).lineOut = s.lineOut := rfl
@[simp] theorem State.setByte_reqs (a : Nat) (b : Byte) : (s.setByte a b).reqs = s.reqs := rfl
@[simp] theorem State.setByte_nextTag (a : Nat) (b : Byte) : (s.setByte a b).nextTag = s.nextTag := rfl
@[simp] theorem State.setByte_scheds (a : Nat) (b : Byte) : (s.setByte a b).scheds = s.scheds := rfl
@[simp] theorem State.setByte_sram (a : Nat) (b : Byte) : (s.setByte a b).sram = s.sram := rfl
@[simp] theorem State.setByte_mram (a : Nat) (b : Byte) : (s.setByte a b).mram = s.mram := rfl
@[simp] theorem State.setByte_logClosed (a : Nat) (b : Byte) : (s.setByte a b).logClosed = s.logClosed := rfl
@[simp] theorem State.setByte_flush (a : Nat) (b : Byte) : (s.setByte a b).flush = s.flush := rfl
@[simp] theorem State.setByte_flushes (a : Nat) (b : Byte) : (s.setByte a b).flushes = s.flushes := rfl
@[simp] theorem State.setByte_str (a : Nat) (b : Byte) : (s.setByte a b).str = s.str := rfl
@[simp] theorem State.setByte_meas (a : Nat) (b : Byte) : (s.setByte a b).meas = s.meas := rfl
@[simp] theorem State.setByte_committed (a : Nat) (b : Byte) : (s.setByte a b).committed = s.committed := rfl
@[simp] theorem State.setByte_sec (a : Nat) (b : Byte) : (s.setByte a b).sec = s.sec := rfl
@[simp] theorem State.setByte_pwr (a : Nat) (b : Byte) : (s.setByte a b).pwr = s.pwr := rfl
@[simp] theorem State.setByte_mgt (a : Nat) (b : Byte) : (s.setByte a b).mgt = s.mgt := rfl
@[simp] theorem State.setByte_released (a : Nat) (b : Byte) : (s.setByte a b).released = s.released := rfl
@[simp] theorem State.setByte_powerFailed (a : Nat) (b : Byte) : (s.setByte a b).powerFailed = s.powerFailed := rfl
@[simp] theorem State.setByte_sysRst (a : Nat) (b : Byte) : (s.setByte a b).sysRst = s.sysRst := rfl
@[simp] theorem State.setByte_thermTrip (a : Nat) (b : Byte) : (s.setByte a b).thermTrip = s.thermTrip := rfl
@[simp] theorem State.setByte_vioDown (a : Nat) (b : Byte) : (s.setByte a b).vioDown = s.vioDown := rfl
@[simp] theorem State.setByte_fabricCut (a : Nat) (b : Byte) : (s.setByte a b).fabricCut = s.fabricCut := rfl
@[simp] theorem State.setByte_untrained (a : Nat) (b : Byte) : (s.setByte a b).untrained = s.untrained := rfl
@[simp] theorem State.setByte_answer (a : Nat) (b : Byte) : (s.setByte a b).answer = s.answer := rfl
@[simp] theorem State.setByte_free (a : Nat) (b : Byte) : (s.setByte a b).free = s.free := rfl
@[simp] theorem State.setByte_pending (a : Nat) (b : Byte) : (s.setByte a b).pending = s.pending := rfl

/-! ### setBadSyms -/

@[simp] theorem State.setBadSyms_grade (a v : Nat) : (s.setBadSyms a v).grade = s.grade := rfl
@[simp] theorem State.setBadSyms_regs (a v : Nat) : (s.setBadSyms a v).regs = s.regs := rfl
@[simp] theorem State.setBadSyms_mem (a v : Nat) : (s.setBadSyms a v).mem = s.mem := rfl
@[simp] theorem State.setBadSyms_stamp (a v : Nat) : (s.setBadSyms a v).stamp = s.stamp := rfl
@[simp] theorem State.setBadSyms_bursts (a v : Nat) : (s.setBadSyms a v).bursts = s.bursts := rfl
@[simp] theorem State.setBadSyms_pinHits (a v : Nat) : (s.setBadSyms a v).pinHits = s.pinHits := rfl
@[simp] theorem State.setBadSyms_caErrs (a v : Nat) : (s.setBadSyms a v).caErrs = s.caErrs := rfl
@[simp] theorem State.setBadSyms_upsets (a v : Nat) : (s.setBadSyms a v).upsets = s.upsets := rfl
@[simp] theorem State.setBadSyms_loaders (a v : Nat) : (s.setBadSyms a v).loaders = s.loaders := rfl
@[simp] theorem State.setBadSyms_svcs (a v : Nat) : (s.setBadSyms a v).svcs = s.svcs := rfl
@[simp] theorem State.setBadSyms_pastures (a v : Nat) : (s.setBadSyms a v).pastures = s.pastures := rfl
@[simp] theorem State.setBadSyms_cores (a v : Nat) : (s.setBadSyms a v).cores = s.cores := rfl
@[simp] theorem State.setBadSyms_windows (a v : Nat) : (s.setBadSyms a v).windows = s.windows := rfl
@[simp] theorem State.setBadSyms_frozen (a v : Nat) : (s.setBadSyms a v).frozen = s.frozen := rfl
@[simp] theorem State.setBadSyms_qps (a v : Nat) : (s.setBadSyms a v).qps = s.qps := rfl
@[simp] theorem State.setBadSyms_ports (a v : Nat) : (s.setBadSyms a v).ports = s.ports := rfl
@[simp] theorem State.setBadSyms_msix (a v : Nat) : (s.setBadSyms a v).msix = s.msix := rfl
@[simp] theorem State.setBadSyms_hostOut (a v : Nat) : (s.setBadSyms a v).hostOut = s.hostOut := rfl
@[simp] theorem State.setBadSyms_heldRecs (a v : Nat) : (s.setBadSyms a v).heldRecs = s.heldRecs := rfl
@[simp] theorem State.setBadSyms_links (a v : Nat) : (s.setBadSyms a v).links = s.links := rfl
@[simp] theorem State.setBadSyms_nsrs (a v : Nat) : (s.setBadSyms a v).nsrs = s.nsrs := rfl
@[simp] theorem State.setBadSyms_appliers (a v : Nat) : (s.setBadSyms a v).appliers = s.appliers := rfl
@[simp] theorem State.setBadSyms_drovers (a v : Nat) : (s.setBadSyms a v).drovers = s.drovers := rfl
@[simp] theorem State.setBadSyms_trhs (a v : Nat) : (s.setBadSyms a v).trhs = s.trhs := rfl
@[simp] theorem State.setBadSyms_engines (a v : Nat) : (s.setBadSyms a v).engines = s.engines := rfl
@[simp] theorem State.setBadSyms_collIn (a v : Nat) : (s.setBadSyms a v).collIn = s.collIn := rfl
@[simp] theorem State.setBadSyms_collSeq (a v : Nat) : (s.setBadSyms a v).collSeq = s.collSeq := rfl
@[simp] theorem State.setBadSyms_calls (a v : Nat) : (s.setBadSyms a v).calls = s.calls := rfl
@[simp] theorem State.setBadSyms_roll (a v : Nat) : (s.setBadSyms a v).roll = s.roll := rfl
@[simp] theorem State.setBadSyms_rcd (a v : Nat) : (s.setBadSyms a v).rcd = s.rcd := rfl
@[simp] theorem State.setBadSyms_jobRanks (a v : Nat) : (s.setBadSyms a v).jobRanks = s.jobRanks := rfl
@[simp] theorem State.setBadSyms_lineOut (a v : Nat) : (s.setBadSyms a v).lineOut = s.lineOut := rfl
@[simp] theorem State.setBadSyms_reqs (a v : Nat) : (s.setBadSyms a v).reqs = s.reqs := rfl
@[simp] theorem State.setBadSyms_nextTag (a v : Nat) : (s.setBadSyms a v).nextTag = s.nextTag := rfl
@[simp] theorem State.setBadSyms_scheds (a v : Nat) : (s.setBadSyms a v).scheds = s.scheds := rfl
@[simp] theorem State.setBadSyms_sram (a v : Nat) : (s.setBadSyms a v).sram = s.sram := rfl
@[simp] theorem State.setBadSyms_mram (a v : Nat) : (s.setBadSyms a v).mram = s.mram := rfl
@[simp] theorem State.setBadSyms_logClosed (a v : Nat) : (s.setBadSyms a v).logClosed = s.logClosed := rfl
@[simp] theorem State.setBadSyms_flush (a v : Nat) : (s.setBadSyms a v).flush = s.flush := rfl
@[simp] theorem State.setBadSyms_flushes (a v : Nat) : (s.setBadSyms a v).flushes = s.flushes := rfl
@[simp] theorem State.setBadSyms_str (a v : Nat) : (s.setBadSyms a v).str = s.str := rfl
@[simp] theorem State.setBadSyms_meas (a v : Nat) : (s.setBadSyms a v).meas = s.meas := rfl
@[simp] theorem State.setBadSyms_committed (a v : Nat) : (s.setBadSyms a v).committed = s.committed := rfl
@[simp] theorem State.setBadSyms_sec (a v : Nat) : (s.setBadSyms a v).sec = s.sec := rfl
@[simp] theorem State.setBadSyms_pwr (a v : Nat) : (s.setBadSyms a v).pwr = s.pwr := rfl
@[simp] theorem State.setBadSyms_mgt (a v : Nat) : (s.setBadSyms a v).mgt = s.mgt := rfl
@[simp] theorem State.setBadSyms_released (a v : Nat) : (s.setBadSyms a v).released = s.released := rfl
@[simp] theorem State.setBadSyms_powerFailed (a v : Nat) : (s.setBadSyms a v).powerFailed = s.powerFailed := rfl
@[simp] theorem State.setBadSyms_sysRst (a v : Nat) : (s.setBadSyms a v).sysRst = s.sysRst := rfl
@[simp] theorem State.setBadSyms_thermTrip (a v : Nat) : (s.setBadSyms a v).thermTrip = s.thermTrip := rfl
@[simp] theorem State.setBadSyms_vioDown (a v : Nat) : (s.setBadSyms a v).vioDown = s.vioDown := rfl
@[simp] theorem State.setBadSyms_fabricCut (a v : Nat) : (s.setBadSyms a v).fabricCut = s.fabricCut := rfl
@[simp] theorem State.setBadSyms_untrained (a v : Nat) : (s.setBadSyms a v).untrained = s.untrained := rfl
@[simp] theorem State.setBadSyms_answer (a v : Nat) : (s.setBadSyms a v).answer = s.answer := rfl
@[simp] theorem State.setBadSyms_free (a v : Nat) : (s.setBadSyms a v).free = s.free := rfl
@[simp] theorem State.setBadSyms_pending (a v : Nat) : (s.setBadSyms a v).pending = s.pending := rfl

/-! ### setParityErrs -/

@[simp] theorem State.setParityErrs_grade (p n : Nat) : (s.setParityErrs p n).grade = s.grade := rfl
@[simp] theorem State.setParityErrs_regs (p n : Nat) : (s.setParityErrs p n).regs = s.regs := rfl
@[simp] theorem State.setParityErrs_mem (p n : Nat) : (s.setParityErrs p n).mem = s.mem := rfl
@[simp] theorem State.setParityErrs_stamp (p n : Nat) : (s.setParityErrs p n).stamp = s.stamp := rfl
@[simp] theorem State.setParityErrs_atomErrs (p n : Nat) : (s.setParityErrs p n).atomErrs = s.atomErrs := rfl
@[simp] theorem State.setParityErrs_bursts (p n : Nat) : (s.setParityErrs p n).bursts = s.bursts := rfl
@[simp] theorem State.setParityErrs_pinHits (p n : Nat) : (s.setParityErrs p n).pinHits = s.pinHits := rfl
@[simp] theorem State.setParityErrs_upsets (p n : Nat) : (s.setParityErrs p n).upsets = s.upsets := rfl
@[simp] theorem State.setParityErrs_loaders (p n : Nat) : (s.setParityErrs p n).loaders = s.loaders := rfl
@[simp] theorem State.setParityErrs_svcs (p n : Nat) : (s.setParityErrs p n).svcs = s.svcs := rfl
@[simp] theorem State.setParityErrs_pastures (p n : Nat) : (s.setParityErrs p n).pastures = s.pastures := rfl
@[simp] theorem State.setParityErrs_cores (p n : Nat) : (s.setParityErrs p n).cores = s.cores := rfl
@[simp] theorem State.setParityErrs_windows (p n : Nat) : (s.setParityErrs p n).windows = s.windows := rfl
@[simp] theorem State.setParityErrs_frozen (p n : Nat) : (s.setParityErrs p n).frozen = s.frozen := rfl
@[simp] theorem State.setParityErrs_qps (p n : Nat) : (s.setParityErrs p n).qps = s.qps := rfl
@[simp] theorem State.setParityErrs_ports (p n : Nat) : (s.setParityErrs p n).ports = s.ports := rfl
@[simp] theorem State.setParityErrs_msix (p n : Nat) : (s.setParityErrs p n).msix = s.msix := rfl
@[simp] theorem State.setParityErrs_hostOut (p n : Nat) : (s.setParityErrs p n).hostOut = s.hostOut := rfl
@[simp] theorem State.setParityErrs_heldRecs (p n : Nat) : (s.setParityErrs p n).heldRecs = s.heldRecs := rfl
@[simp] theorem State.setParityErrs_links (p n : Nat) : (s.setParityErrs p n).links = s.links := rfl
@[simp] theorem State.setParityErrs_nsrs (p n : Nat) : (s.setParityErrs p n).nsrs = s.nsrs := rfl
@[simp] theorem State.setParityErrs_appliers (p n : Nat) : (s.setParityErrs p n).appliers = s.appliers := rfl
@[simp] theorem State.setParityErrs_drovers (p n : Nat) : (s.setParityErrs p n).drovers = s.drovers := rfl
@[simp] theorem State.setParityErrs_trhs (p n : Nat) : (s.setParityErrs p n).trhs = s.trhs := rfl
@[simp] theorem State.setParityErrs_engines (p n : Nat) : (s.setParityErrs p n).engines = s.engines := rfl
@[simp] theorem State.setParityErrs_collIn (p n : Nat) : (s.setParityErrs p n).collIn = s.collIn := rfl
@[simp] theorem State.setParityErrs_collSeq (p n : Nat) : (s.setParityErrs p n).collSeq = s.collSeq := rfl
@[simp] theorem State.setParityErrs_calls (p n : Nat) : (s.setParityErrs p n).calls = s.calls := rfl
@[simp] theorem State.setParityErrs_roll (p n : Nat) : (s.setParityErrs p n).roll = s.roll := rfl
@[simp] theorem State.setParityErrs_rcd (p n : Nat) : (s.setParityErrs p n).rcd = s.rcd := rfl
@[simp] theorem State.setParityErrs_jobRanks (p n : Nat) : (s.setParityErrs p n).jobRanks = s.jobRanks := rfl
@[simp] theorem State.setParityErrs_lineOut (p n : Nat) : (s.setParityErrs p n).lineOut = s.lineOut := rfl
@[simp] theorem State.setParityErrs_reqs (p n : Nat) : (s.setParityErrs p n).reqs = s.reqs := rfl
@[simp] theorem State.setParityErrs_nextTag (p n : Nat) : (s.setParityErrs p n).nextTag = s.nextTag := rfl
@[simp] theorem State.setParityErrs_scheds (p n : Nat) : (s.setParityErrs p n).scheds = s.scheds := rfl
@[simp] theorem State.setParityErrs_sram (p n : Nat) : (s.setParityErrs p n).sram = s.sram := rfl
@[simp] theorem State.setParityErrs_mram (p n : Nat) : (s.setParityErrs p n).mram = s.mram := rfl
@[simp] theorem State.setParityErrs_logClosed (p n : Nat) : (s.setParityErrs p n).logClosed = s.logClosed := rfl
@[simp] theorem State.setParityErrs_flush (p n : Nat) : (s.setParityErrs p n).flush = s.flush := rfl
@[simp] theorem State.setParityErrs_flushes (p n : Nat) : (s.setParityErrs p n).flushes = s.flushes := rfl
@[simp] theorem State.setParityErrs_str (p n : Nat) : (s.setParityErrs p n).str = s.str := rfl
@[simp] theorem State.setParityErrs_meas (p n : Nat) : (s.setParityErrs p n).meas = s.meas := rfl
@[simp] theorem State.setParityErrs_committed (p n : Nat) : (s.setParityErrs p n).committed = s.committed := rfl
@[simp] theorem State.setParityErrs_sec (p n : Nat) : (s.setParityErrs p n).sec = s.sec := rfl
@[simp] theorem State.setParityErrs_pwr (p n : Nat) : (s.setParityErrs p n).pwr = s.pwr := rfl
@[simp] theorem State.setParityErrs_mgt (p n : Nat) : (s.setParityErrs p n).mgt = s.mgt := rfl
@[simp] theorem State.setParityErrs_released (p n : Nat) : (s.setParityErrs p n).released = s.released := rfl
@[simp] theorem State.setParityErrs_powerFailed (p n : Nat) : (s.setParityErrs p n).powerFailed = s.powerFailed := rfl
@[simp] theorem State.setParityErrs_sysRst (p n : Nat) : (s.setParityErrs p n).sysRst = s.sysRst := rfl
@[simp] theorem State.setParityErrs_thermTrip (p n : Nat) : (s.setParityErrs p n).thermTrip = s.thermTrip := rfl
@[simp] theorem State.setParityErrs_vioDown (p n : Nat) : (s.setParityErrs p n).vioDown = s.vioDown := rfl
@[simp] theorem State.setParityErrs_fabricCut (p n : Nat) : (s.setParityErrs p n).fabricCut = s.fabricCut := rfl
@[simp] theorem State.setParityErrs_untrained (p n : Nat) : (s.setParityErrs p n).untrained = s.untrained := rfl
@[simp] theorem State.setParityErrs_answer (p n : Nat) : (s.setParityErrs p n).answer = s.answer := rfl
@[simp] theorem State.setParityErrs_free (p n : Nat) : (s.setParityErrs p n).free = s.free := rfl
@[simp] theorem State.setParityErrs_pending (p n : Nat) : (s.setParityErrs p n).pending = s.pending := rfl

/-! ### setCore -/

@[simp] theorem State.setCore_grade (c : Nat) (x : Core) : (s.setCore c x).grade = s.grade := rfl
@[simp] theorem State.setCore_regs (c : Nat) (x : Core) : (s.setCore c x).regs = s.regs := rfl
@[simp] theorem State.setCore_mem (c : Nat) (x : Core) : (s.setCore c x).mem = s.mem := rfl
@[simp] theorem State.setCore_stamp (c : Nat) (x : Core) : (s.setCore c x).stamp = s.stamp := rfl
@[simp] theorem State.setCore_atomErrs (c : Nat) (x : Core) : (s.setCore c x).atomErrs = s.atomErrs := rfl
@[simp] theorem State.setCore_bursts (c : Nat) (x : Core) : (s.setCore c x).bursts = s.bursts := rfl
@[simp] theorem State.setCore_pinHits (c : Nat) (x : Core) : (s.setCore c x).pinHits = s.pinHits := rfl
@[simp] theorem State.setCore_caErrs (c : Nat) (x : Core) : (s.setCore c x).caErrs = s.caErrs := rfl
@[simp] theorem State.setCore_upsets (c : Nat) (x : Core) : (s.setCore c x).upsets = s.upsets := rfl
@[simp] theorem State.setCore_loaders (c : Nat) (x : Core) : (s.setCore c x).loaders = s.loaders := rfl
@[simp] theorem State.setCore_svcs (c : Nat) (x : Core) : (s.setCore c x).svcs = s.svcs := rfl
@[simp] theorem State.setCore_pastures (c : Nat) (x : Core) : (s.setCore c x).pastures = s.pastures := rfl
@[simp] theorem State.setCore_windows (c : Nat) (x : Core) : (s.setCore c x).windows = s.windows := rfl
@[simp] theorem State.setCore_frozen (c : Nat) (x : Core) : (s.setCore c x).frozen = s.frozen := rfl
@[simp] theorem State.setCore_qps (c : Nat) (x : Core) : (s.setCore c x).qps = s.qps := rfl
@[simp] theorem State.setCore_ports (c : Nat) (x : Core) : (s.setCore c x).ports = s.ports := rfl
@[simp] theorem State.setCore_msix (c : Nat) (x : Core) : (s.setCore c x).msix = s.msix := rfl
@[simp] theorem State.setCore_hostOut (c : Nat) (x : Core) : (s.setCore c x).hostOut = s.hostOut := rfl
@[simp] theorem State.setCore_heldRecs (c : Nat) (x : Core) : (s.setCore c x).heldRecs = s.heldRecs := rfl
@[simp] theorem State.setCore_links (c : Nat) (x : Core) : (s.setCore c x).links = s.links := rfl
@[simp] theorem State.setCore_nsrs (c : Nat) (x : Core) : (s.setCore c x).nsrs = s.nsrs := rfl
@[simp] theorem State.setCore_appliers (c : Nat) (x : Core) : (s.setCore c x).appliers = s.appliers := rfl
@[simp] theorem State.setCore_drovers (c : Nat) (x : Core) : (s.setCore c x).drovers = s.drovers := rfl
@[simp] theorem State.setCore_trhs (c : Nat) (x : Core) : (s.setCore c x).trhs = s.trhs := rfl
@[simp] theorem State.setCore_engines (c : Nat) (x : Core) : (s.setCore c x).engines = s.engines := rfl
@[simp] theorem State.setCore_collIn (c : Nat) (x : Core) : (s.setCore c x).collIn = s.collIn := rfl
@[simp] theorem State.setCore_collSeq (c : Nat) (x : Core) : (s.setCore c x).collSeq = s.collSeq := rfl
@[simp] theorem State.setCore_calls (c : Nat) (x : Core) : (s.setCore c x).calls = s.calls := rfl
@[simp] theorem State.setCore_roll (c : Nat) (x : Core) : (s.setCore c x).roll = s.roll := rfl
@[simp] theorem State.setCore_rcd (c : Nat) (x : Core) : (s.setCore c x).rcd = s.rcd := rfl
@[simp] theorem State.setCore_jobRanks (c : Nat) (x : Core) : (s.setCore c x).jobRanks = s.jobRanks := rfl
@[simp] theorem State.setCore_lineOut (c : Nat) (x : Core) : (s.setCore c x).lineOut = s.lineOut := rfl
@[simp] theorem State.setCore_reqs (c : Nat) (x : Core) : (s.setCore c x).reqs = s.reqs := rfl
@[simp] theorem State.setCore_nextTag (c : Nat) (x : Core) : (s.setCore c x).nextTag = s.nextTag := rfl
@[simp] theorem State.setCore_scheds (c : Nat) (x : Core) : (s.setCore c x).scheds = s.scheds := rfl
@[simp] theorem State.setCore_sram (c : Nat) (x : Core) : (s.setCore c x).sram = s.sram := rfl
@[simp] theorem State.setCore_mram (c : Nat) (x : Core) : (s.setCore c x).mram = s.mram := rfl
@[simp] theorem State.setCore_logClosed (c : Nat) (x : Core) : (s.setCore c x).logClosed = s.logClosed := rfl
@[simp] theorem State.setCore_flush (c : Nat) (x : Core) : (s.setCore c x).flush = s.flush := rfl
@[simp] theorem State.setCore_flushes (c : Nat) (x : Core) : (s.setCore c x).flushes = s.flushes := rfl
@[simp] theorem State.setCore_str (c : Nat) (x : Core) : (s.setCore c x).str = s.str := rfl
@[simp] theorem State.setCore_meas (c : Nat) (x : Core) : (s.setCore c x).meas = s.meas := rfl
@[simp] theorem State.setCore_committed (c : Nat) (x : Core) : (s.setCore c x).committed = s.committed := rfl
@[simp] theorem State.setCore_sec (c : Nat) (x : Core) : (s.setCore c x).sec = s.sec := rfl
@[simp] theorem State.setCore_pwr (c : Nat) (x : Core) : (s.setCore c x).pwr = s.pwr := rfl
@[simp] theorem State.setCore_mgt (c : Nat) (x : Core) : (s.setCore c x).mgt = s.mgt := rfl
@[simp] theorem State.setCore_released (c : Nat) (x : Core) : (s.setCore c x).released = s.released := rfl
@[simp] theorem State.setCore_powerFailed (c : Nat) (x : Core) : (s.setCore c x).powerFailed = s.powerFailed := rfl
@[simp] theorem State.setCore_sysRst (c : Nat) (x : Core) : (s.setCore c x).sysRst = s.sysRst := rfl
@[simp] theorem State.setCore_thermTrip (c : Nat) (x : Core) : (s.setCore c x).thermTrip = s.thermTrip := rfl
@[simp] theorem State.setCore_vioDown (c : Nat) (x : Core) : (s.setCore c x).vioDown = s.vioDown := rfl
@[simp] theorem State.setCore_fabricCut (c : Nat) (x : Core) : (s.setCore c x).fabricCut = s.fabricCut := rfl
@[simp] theorem State.setCore_untrained (c : Nat) (x : Core) : (s.setCore c x).untrained = s.untrained := rfl
@[simp] theorem State.setCore_answer (c : Nat) (x : Core) : (s.setCore c x).answer = s.answer := rfl
@[simp] theorem State.setCore_free (c : Nat) (x : Core) : (s.setCore c x).free = s.free := rfl
@[simp] theorem State.setCore_pending (c : Nat) (x : Core) : (s.setCore c x).pending = s.pending := rfl

/-! ### onCore -/

@[simp] theorem State.onCore_grade (c : Nat) (f : Core → Core) : (s.onCore c f).grade = s.grade := rfl
@[simp] theorem State.onCore_regs (c : Nat) (f : Core → Core) : (s.onCore c f).regs = s.regs := rfl
@[simp] theorem State.onCore_mem (c : Nat) (f : Core → Core) : (s.onCore c f).mem = s.mem := rfl
@[simp] theorem State.onCore_stamp (c : Nat) (f : Core → Core) : (s.onCore c f).stamp = s.stamp := rfl
@[simp] theorem State.onCore_atomErrs (c : Nat) (f : Core → Core) : (s.onCore c f).atomErrs = s.atomErrs := rfl
@[simp] theorem State.onCore_bursts (c : Nat) (f : Core → Core) : (s.onCore c f).bursts = s.bursts := rfl
@[simp] theorem State.onCore_pinHits (c : Nat) (f : Core → Core) : (s.onCore c f).pinHits = s.pinHits := rfl
@[simp] theorem State.onCore_caErrs (c : Nat) (f : Core → Core) : (s.onCore c f).caErrs = s.caErrs := rfl
@[simp] theorem State.onCore_upsets (c : Nat) (f : Core → Core) : (s.onCore c f).upsets = s.upsets := rfl
@[simp] theorem State.onCore_loaders (c : Nat) (f : Core → Core) : (s.onCore c f).loaders = s.loaders := rfl
@[simp] theorem State.onCore_svcs (c : Nat) (f : Core → Core) : (s.onCore c f).svcs = s.svcs := rfl
@[simp] theorem State.onCore_pastures (c : Nat) (f : Core → Core) : (s.onCore c f).pastures = s.pastures := rfl
@[simp] theorem State.onCore_windows (c : Nat) (f : Core → Core) : (s.onCore c f).windows = s.windows := rfl
@[simp] theorem State.onCore_frozen (c : Nat) (f : Core → Core) : (s.onCore c f).frozen = s.frozen := rfl
@[simp] theorem State.onCore_qps (c : Nat) (f : Core → Core) : (s.onCore c f).qps = s.qps := rfl
@[simp] theorem State.onCore_ports (c : Nat) (f : Core → Core) : (s.onCore c f).ports = s.ports := rfl
@[simp] theorem State.onCore_msix (c : Nat) (f : Core → Core) : (s.onCore c f).msix = s.msix := rfl
@[simp] theorem State.onCore_hostOut (c : Nat) (f : Core → Core) : (s.onCore c f).hostOut = s.hostOut := rfl
@[simp] theorem State.onCore_heldRecs (c : Nat) (f : Core → Core) : (s.onCore c f).heldRecs = s.heldRecs := rfl
@[simp] theorem State.onCore_links (c : Nat) (f : Core → Core) : (s.onCore c f).links = s.links := rfl
@[simp] theorem State.onCore_nsrs (c : Nat) (f : Core → Core) : (s.onCore c f).nsrs = s.nsrs := rfl
@[simp] theorem State.onCore_appliers (c : Nat) (f : Core → Core) : (s.onCore c f).appliers = s.appliers := rfl
@[simp] theorem State.onCore_drovers (c : Nat) (f : Core → Core) : (s.onCore c f).drovers = s.drovers := rfl
@[simp] theorem State.onCore_trhs (c : Nat) (f : Core → Core) : (s.onCore c f).trhs = s.trhs := rfl
@[simp] theorem State.onCore_engines (c : Nat) (f : Core → Core) : (s.onCore c f).engines = s.engines := rfl
@[simp] theorem State.onCore_collIn (c : Nat) (f : Core → Core) : (s.onCore c f).collIn = s.collIn := rfl
@[simp] theorem State.onCore_collSeq (c : Nat) (f : Core → Core) : (s.onCore c f).collSeq = s.collSeq := rfl
@[simp] theorem State.onCore_calls (c : Nat) (f : Core → Core) : (s.onCore c f).calls = s.calls := rfl
@[simp] theorem State.onCore_roll (c : Nat) (f : Core → Core) : (s.onCore c f).roll = s.roll := rfl
@[simp] theorem State.onCore_rcd (c : Nat) (f : Core → Core) : (s.onCore c f).rcd = s.rcd := rfl
@[simp] theorem State.onCore_jobRanks (c : Nat) (f : Core → Core) : (s.onCore c f).jobRanks = s.jobRanks := rfl
@[simp] theorem State.onCore_lineOut (c : Nat) (f : Core → Core) : (s.onCore c f).lineOut = s.lineOut := rfl
@[simp] theorem State.onCore_reqs (c : Nat) (f : Core → Core) : (s.onCore c f).reqs = s.reqs := rfl
@[simp] theorem State.onCore_nextTag (c : Nat) (f : Core → Core) : (s.onCore c f).nextTag = s.nextTag := rfl
@[simp] theorem State.onCore_scheds (c : Nat) (f : Core → Core) : (s.onCore c f).scheds = s.scheds := rfl
@[simp] theorem State.onCore_sram (c : Nat) (f : Core → Core) : (s.onCore c f).sram = s.sram := rfl
@[simp] theorem State.onCore_mram (c : Nat) (f : Core → Core) : (s.onCore c f).mram = s.mram := rfl
@[simp] theorem State.onCore_logClosed (c : Nat) (f : Core → Core) : (s.onCore c f).logClosed = s.logClosed := rfl
@[simp] theorem State.onCore_flush (c : Nat) (f : Core → Core) : (s.onCore c f).flush = s.flush := rfl
@[simp] theorem State.onCore_flushes (c : Nat) (f : Core → Core) : (s.onCore c f).flushes = s.flushes := rfl
@[simp] theorem State.onCore_str (c : Nat) (f : Core → Core) : (s.onCore c f).str = s.str := rfl
@[simp] theorem State.onCore_meas (c : Nat) (f : Core → Core) : (s.onCore c f).meas = s.meas := rfl
@[simp] theorem State.onCore_committed (c : Nat) (f : Core → Core) : (s.onCore c f).committed = s.committed := rfl
@[simp] theorem State.onCore_sec (c : Nat) (f : Core → Core) : (s.onCore c f).sec = s.sec := rfl
@[simp] theorem State.onCore_pwr (c : Nat) (f : Core → Core) : (s.onCore c f).pwr = s.pwr := rfl
@[simp] theorem State.onCore_mgt (c : Nat) (f : Core → Core) : (s.onCore c f).mgt = s.mgt := rfl
@[simp] theorem State.onCore_released (c : Nat) (f : Core → Core) : (s.onCore c f).released = s.released := rfl
@[simp] theorem State.onCore_powerFailed (c : Nat) (f : Core → Core) : (s.onCore c f).powerFailed = s.powerFailed := rfl
@[simp] theorem State.onCore_sysRst (c : Nat) (f : Core → Core) : (s.onCore c f).sysRst = s.sysRst := rfl
@[simp] theorem State.onCore_thermTrip (c : Nat) (f : Core → Core) : (s.onCore c f).thermTrip = s.thermTrip := rfl
@[simp] theorem State.onCore_vioDown (c : Nat) (f : Core → Core) : (s.onCore c f).vioDown = s.vioDown := rfl
@[simp] theorem State.onCore_fabricCut (c : Nat) (f : Core → Core) : (s.onCore c f).fabricCut = s.fabricCut := rfl
@[simp] theorem State.onCore_untrained (c : Nat) (f : Core → Core) : (s.onCore c f).untrained = s.untrained := rfl
@[simp] theorem State.onCore_answer (c : Nat) (f : Core → Core) : (s.onCore c f).answer = s.answer := rfl
@[simp] theorem State.onCore_free (c : Nat) (f : Core → Core) : (s.onCore c f).free = s.free := rfl
@[simp] theorem State.onCore_pending (c : Nat) (f : Core → Core) : (s.onCore c f).pending = s.pending := rfl

/-! ### setQp -/

@[simp] theorem State.setQp_grade (n : Nat) (x : Qp) : (s.setQp n x).grade = s.grade := rfl
@[simp] theorem State.setQp_regs (n : Nat) (x : Qp) : (s.setQp n x).regs = s.regs := rfl
@[simp] theorem State.setQp_mem (n : Nat) (x : Qp) : (s.setQp n x).mem = s.mem := rfl
@[simp] theorem State.setQp_stamp (n : Nat) (x : Qp) : (s.setQp n x).stamp = s.stamp := rfl
@[simp] theorem State.setQp_atomErrs (n : Nat) (x : Qp) : (s.setQp n x).atomErrs = s.atomErrs := rfl
@[simp] theorem State.setQp_bursts (n : Nat) (x : Qp) : (s.setQp n x).bursts = s.bursts := rfl
@[simp] theorem State.setQp_pinHits (n : Nat) (x : Qp) : (s.setQp n x).pinHits = s.pinHits := rfl
@[simp] theorem State.setQp_caErrs (n : Nat) (x : Qp) : (s.setQp n x).caErrs = s.caErrs := rfl
@[simp] theorem State.setQp_upsets (n : Nat) (x : Qp) : (s.setQp n x).upsets = s.upsets := rfl
@[simp] theorem State.setQp_loaders (n : Nat) (x : Qp) : (s.setQp n x).loaders = s.loaders := rfl
@[simp] theorem State.setQp_svcs (n : Nat) (x : Qp) : (s.setQp n x).svcs = s.svcs := rfl
@[simp] theorem State.setQp_pastures (n : Nat) (x : Qp) : (s.setQp n x).pastures = s.pastures := rfl
@[simp] theorem State.setQp_cores (n : Nat) (x : Qp) : (s.setQp n x).cores = s.cores := rfl
@[simp] theorem State.setQp_windows (n : Nat) (x : Qp) : (s.setQp n x).windows = s.windows := rfl
@[simp] theorem State.setQp_frozen (n : Nat) (x : Qp) : (s.setQp n x).frozen = s.frozen := rfl
@[simp] theorem State.setQp_ports (n : Nat) (x : Qp) : (s.setQp n x).ports = s.ports := rfl
@[simp] theorem State.setQp_msix (n : Nat) (x : Qp) : (s.setQp n x).msix = s.msix := rfl
@[simp] theorem State.setQp_hostOut (n : Nat) (x : Qp) : (s.setQp n x).hostOut = s.hostOut := rfl
@[simp] theorem State.setQp_heldRecs (n : Nat) (x : Qp) : (s.setQp n x).heldRecs = s.heldRecs := rfl
@[simp] theorem State.setQp_links (n : Nat) (x : Qp) : (s.setQp n x).links = s.links := rfl
@[simp] theorem State.setQp_nsrs (n : Nat) (x : Qp) : (s.setQp n x).nsrs = s.nsrs := rfl
@[simp] theorem State.setQp_appliers (n : Nat) (x : Qp) : (s.setQp n x).appliers = s.appliers := rfl
@[simp] theorem State.setQp_drovers (n : Nat) (x : Qp) : (s.setQp n x).drovers = s.drovers := rfl
@[simp] theorem State.setQp_trhs (n : Nat) (x : Qp) : (s.setQp n x).trhs = s.trhs := rfl
@[simp] theorem State.setQp_engines (n : Nat) (x : Qp) : (s.setQp n x).engines = s.engines := rfl
@[simp] theorem State.setQp_collIn (n : Nat) (x : Qp) : (s.setQp n x).collIn = s.collIn := rfl
@[simp] theorem State.setQp_collSeq (n : Nat) (x : Qp) : (s.setQp n x).collSeq = s.collSeq := rfl
@[simp] theorem State.setQp_calls (n : Nat) (x : Qp) : (s.setQp n x).calls = s.calls := rfl
@[simp] theorem State.setQp_roll (n : Nat) (x : Qp) : (s.setQp n x).roll = s.roll := rfl
@[simp] theorem State.setQp_rcd (n : Nat) (x : Qp) : (s.setQp n x).rcd = s.rcd := rfl
@[simp] theorem State.setQp_jobRanks (n : Nat) (x : Qp) : (s.setQp n x).jobRanks = s.jobRanks := rfl
@[simp] theorem State.setQp_lineOut (n : Nat) (x : Qp) : (s.setQp n x).lineOut = s.lineOut := rfl
@[simp] theorem State.setQp_reqs (n : Nat) (x : Qp) : (s.setQp n x).reqs = s.reqs := rfl
@[simp] theorem State.setQp_nextTag (n : Nat) (x : Qp) : (s.setQp n x).nextTag = s.nextTag := rfl
@[simp] theorem State.setQp_scheds (n : Nat) (x : Qp) : (s.setQp n x).scheds = s.scheds := rfl
@[simp] theorem State.setQp_sram (n : Nat) (x : Qp) : (s.setQp n x).sram = s.sram := rfl
@[simp] theorem State.setQp_mram (n : Nat) (x : Qp) : (s.setQp n x).mram = s.mram := rfl
@[simp] theorem State.setQp_logClosed (n : Nat) (x : Qp) : (s.setQp n x).logClosed = s.logClosed := rfl
@[simp] theorem State.setQp_flush (n : Nat) (x : Qp) : (s.setQp n x).flush = s.flush := rfl
@[simp] theorem State.setQp_flushes (n : Nat) (x : Qp) : (s.setQp n x).flushes = s.flushes := rfl
@[simp] theorem State.setQp_str (n : Nat) (x : Qp) : (s.setQp n x).str = s.str := rfl
@[simp] theorem State.setQp_meas (n : Nat) (x : Qp) : (s.setQp n x).meas = s.meas := rfl
@[simp] theorem State.setQp_committed (n : Nat) (x : Qp) : (s.setQp n x).committed = s.committed := rfl
@[simp] theorem State.setQp_sec (n : Nat) (x : Qp) : (s.setQp n x).sec = s.sec := rfl
@[simp] theorem State.setQp_pwr (n : Nat) (x : Qp) : (s.setQp n x).pwr = s.pwr := rfl
@[simp] theorem State.setQp_mgt (n : Nat) (x : Qp) : (s.setQp n x).mgt = s.mgt := rfl
@[simp] theorem State.setQp_released (n : Nat) (x : Qp) : (s.setQp n x).released = s.released := rfl
@[simp] theorem State.setQp_powerFailed (n : Nat) (x : Qp) : (s.setQp n x).powerFailed = s.powerFailed := rfl
@[simp] theorem State.setQp_sysRst (n : Nat) (x : Qp) : (s.setQp n x).sysRst = s.sysRst := rfl
@[simp] theorem State.setQp_thermTrip (n : Nat) (x : Qp) : (s.setQp n x).thermTrip = s.thermTrip := rfl
@[simp] theorem State.setQp_vioDown (n : Nat) (x : Qp) : (s.setQp n x).vioDown = s.vioDown := rfl
@[simp] theorem State.setQp_fabricCut (n : Nat) (x : Qp) : (s.setQp n x).fabricCut = s.fabricCut := rfl
@[simp] theorem State.setQp_untrained (n : Nat) (x : Qp) : (s.setQp n x).untrained = s.untrained := rfl
@[simp] theorem State.setQp_answer (n : Nat) (x : Qp) : (s.setQp n x).answer = s.answer := rfl
@[simp] theorem State.setQp_free (n : Nat) (x : Qp) : (s.setQp n x).free = s.free := rfl
@[simp] theorem State.setQp_pending (n : Nat) (x : Qp) : (s.setQp n x).pending = s.pending := rfl

/-! ### setPortCfg -/

@[simp] theorem State.setPortCfg_grade (n : Nat) (x : PortCfg) : (s.setPortCfg n x).grade = s.grade := rfl
@[simp] theorem State.setPortCfg_regs (n : Nat) (x : PortCfg) : (s.setPortCfg n x).regs = s.regs := rfl
@[simp] theorem State.setPortCfg_mem (n : Nat) (x : PortCfg) : (s.setPortCfg n x).mem = s.mem := rfl
@[simp] theorem State.setPortCfg_stamp (n : Nat) (x : PortCfg) : (s.setPortCfg n x).stamp = s.stamp := rfl
@[simp] theorem State.setPortCfg_atomErrs (n : Nat) (x : PortCfg) : (s.setPortCfg n x).atomErrs = s.atomErrs := rfl
@[simp] theorem State.setPortCfg_bursts (n : Nat) (x : PortCfg) : (s.setPortCfg n x).bursts = s.bursts := rfl
@[simp] theorem State.setPortCfg_pinHits (n : Nat) (x : PortCfg) : (s.setPortCfg n x).pinHits = s.pinHits := rfl
@[simp] theorem State.setPortCfg_caErrs (n : Nat) (x : PortCfg) : (s.setPortCfg n x).caErrs = s.caErrs := rfl
@[simp] theorem State.setPortCfg_upsets (n : Nat) (x : PortCfg) : (s.setPortCfg n x).upsets = s.upsets := rfl
@[simp] theorem State.setPortCfg_loaders (n : Nat) (x : PortCfg) : (s.setPortCfg n x).loaders = s.loaders := rfl
@[simp] theorem State.setPortCfg_svcs (n : Nat) (x : PortCfg) : (s.setPortCfg n x).svcs = s.svcs := rfl
@[simp] theorem State.setPortCfg_pastures (n : Nat) (x : PortCfg) : (s.setPortCfg n x).pastures = s.pastures := rfl
@[simp] theorem State.setPortCfg_cores (n : Nat) (x : PortCfg) : (s.setPortCfg n x).cores = s.cores := rfl
@[simp] theorem State.setPortCfg_windows (n : Nat) (x : PortCfg) : (s.setPortCfg n x).windows = s.windows := rfl
@[simp] theorem State.setPortCfg_frozen (n : Nat) (x : PortCfg) : (s.setPortCfg n x).frozen = s.frozen := rfl
@[simp] theorem State.setPortCfg_qps (n : Nat) (x : PortCfg) : (s.setPortCfg n x).qps = s.qps := rfl
@[simp] theorem State.setPortCfg_msix (n : Nat) (x : PortCfg) : (s.setPortCfg n x).msix = s.msix := rfl
@[simp] theorem State.setPortCfg_hostOut (n : Nat) (x : PortCfg) : (s.setPortCfg n x).hostOut = s.hostOut := rfl
@[simp] theorem State.setPortCfg_heldRecs (n : Nat) (x : PortCfg) : (s.setPortCfg n x).heldRecs = s.heldRecs := rfl
@[simp] theorem State.setPortCfg_links (n : Nat) (x : PortCfg) : (s.setPortCfg n x).links = s.links := rfl
@[simp] theorem State.setPortCfg_nsrs (n : Nat) (x : PortCfg) : (s.setPortCfg n x).nsrs = s.nsrs := rfl
@[simp] theorem State.setPortCfg_appliers (n : Nat) (x : PortCfg) : (s.setPortCfg n x).appliers = s.appliers := rfl
@[simp] theorem State.setPortCfg_drovers (n : Nat) (x : PortCfg) : (s.setPortCfg n x).drovers = s.drovers := rfl
@[simp] theorem State.setPortCfg_trhs (n : Nat) (x : PortCfg) : (s.setPortCfg n x).trhs = s.trhs := rfl
@[simp] theorem State.setPortCfg_engines (n : Nat) (x : PortCfg) : (s.setPortCfg n x).engines = s.engines := rfl
@[simp] theorem State.setPortCfg_collIn (n : Nat) (x : PortCfg) : (s.setPortCfg n x).collIn = s.collIn := rfl
@[simp] theorem State.setPortCfg_collSeq (n : Nat) (x : PortCfg) : (s.setPortCfg n x).collSeq = s.collSeq := rfl
@[simp] theorem State.setPortCfg_calls (n : Nat) (x : PortCfg) : (s.setPortCfg n x).calls = s.calls := rfl
@[simp] theorem State.setPortCfg_roll (n : Nat) (x : PortCfg) : (s.setPortCfg n x).roll = s.roll := rfl
@[simp] theorem State.setPortCfg_rcd (n : Nat) (x : PortCfg) : (s.setPortCfg n x).rcd = s.rcd := rfl
@[simp] theorem State.setPortCfg_jobRanks (n : Nat) (x : PortCfg) : (s.setPortCfg n x).jobRanks = s.jobRanks := rfl
@[simp] theorem State.setPortCfg_lineOut (n : Nat) (x : PortCfg) : (s.setPortCfg n x).lineOut = s.lineOut := rfl
@[simp] theorem State.setPortCfg_reqs (n : Nat) (x : PortCfg) : (s.setPortCfg n x).reqs = s.reqs := rfl
@[simp] theorem State.setPortCfg_nextTag (n : Nat) (x : PortCfg) : (s.setPortCfg n x).nextTag = s.nextTag := rfl
@[simp] theorem State.setPortCfg_scheds (n : Nat) (x : PortCfg) : (s.setPortCfg n x).scheds = s.scheds := rfl
@[simp] theorem State.setPortCfg_sram (n : Nat) (x : PortCfg) : (s.setPortCfg n x).sram = s.sram := rfl
@[simp] theorem State.setPortCfg_mram (n : Nat) (x : PortCfg) : (s.setPortCfg n x).mram = s.mram := rfl
@[simp] theorem State.setPortCfg_logClosed (n : Nat) (x : PortCfg) : (s.setPortCfg n x).logClosed = s.logClosed := rfl
@[simp] theorem State.setPortCfg_flush (n : Nat) (x : PortCfg) : (s.setPortCfg n x).flush = s.flush := rfl
@[simp] theorem State.setPortCfg_flushes (n : Nat) (x : PortCfg) : (s.setPortCfg n x).flushes = s.flushes := rfl
@[simp] theorem State.setPortCfg_str (n : Nat) (x : PortCfg) : (s.setPortCfg n x).str = s.str := rfl
@[simp] theorem State.setPortCfg_meas (n : Nat) (x : PortCfg) : (s.setPortCfg n x).meas = s.meas := rfl
@[simp] theorem State.setPortCfg_committed (n : Nat) (x : PortCfg) : (s.setPortCfg n x).committed = s.committed := rfl
@[simp] theorem State.setPortCfg_sec (n : Nat) (x : PortCfg) : (s.setPortCfg n x).sec = s.sec := rfl
@[simp] theorem State.setPortCfg_pwr (n : Nat) (x : PortCfg) : (s.setPortCfg n x).pwr = s.pwr := rfl
@[simp] theorem State.setPortCfg_mgt (n : Nat) (x : PortCfg) : (s.setPortCfg n x).mgt = s.mgt := rfl
@[simp] theorem State.setPortCfg_released (n : Nat) (x : PortCfg) : (s.setPortCfg n x).released = s.released := rfl
@[simp] theorem State.setPortCfg_powerFailed (n : Nat) (x : PortCfg) : (s.setPortCfg n x).powerFailed = s.powerFailed := rfl
@[simp] theorem State.setPortCfg_sysRst (n : Nat) (x : PortCfg) : (s.setPortCfg n x).sysRst = s.sysRst := rfl
@[simp] theorem State.setPortCfg_thermTrip (n : Nat) (x : PortCfg) : (s.setPortCfg n x).thermTrip = s.thermTrip := rfl
@[simp] theorem State.setPortCfg_vioDown (n : Nat) (x : PortCfg) : (s.setPortCfg n x).vioDown = s.vioDown := rfl
@[simp] theorem State.setPortCfg_fabricCut (n : Nat) (x : PortCfg) : (s.setPortCfg n x).fabricCut = s.fabricCut := rfl
@[simp] theorem State.setPortCfg_untrained (n : Nat) (x : PortCfg) : (s.setPortCfg n x).untrained = s.untrained := rfl
@[simp] theorem State.setPortCfg_answer (n : Nat) (x : PortCfg) : (s.setPortCfg n x).answer = s.answer := rfl
@[simp] theorem State.setPortCfg_free (n : Nat) (x : PortCfg) : (s.setPortCfg n x).free = s.free := rfl
@[simp] theorem State.setPortCfg_pending (n : Nat) (x : PortCfg) : (s.setPortCfg n x).pending = s.pending := rfl

/-! ### setSched -/

@[simp] theorem State.setSched_grade (n : Nat) (x : Sched) : (s.setSched n x).grade = s.grade := rfl
@[simp] theorem State.setSched_regs (n : Nat) (x : Sched) : (s.setSched n x).regs = s.regs := rfl
@[simp] theorem State.setSched_mem (n : Nat) (x : Sched) : (s.setSched n x).mem = s.mem := rfl
@[simp] theorem State.setSched_stamp (n : Nat) (x : Sched) : (s.setSched n x).stamp = s.stamp := rfl
@[simp] theorem State.setSched_atomErrs (n : Nat) (x : Sched) : (s.setSched n x).atomErrs = s.atomErrs := rfl
@[simp] theorem State.setSched_bursts (n : Nat) (x : Sched) : (s.setSched n x).bursts = s.bursts := rfl
@[simp] theorem State.setSched_pinHits (n : Nat) (x : Sched) : (s.setSched n x).pinHits = s.pinHits := rfl
@[simp] theorem State.setSched_caErrs (n : Nat) (x : Sched) : (s.setSched n x).caErrs = s.caErrs := rfl
@[simp] theorem State.setSched_upsets (n : Nat) (x : Sched) : (s.setSched n x).upsets = s.upsets := rfl
@[simp] theorem State.setSched_loaders (n : Nat) (x : Sched) : (s.setSched n x).loaders = s.loaders := rfl
@[simp] theorem State.setSched_svcs (n : Nat) (x : Sched) : (s.setSched n x).svcs = s.svcs := rfl
@[simp] theorem State.setSched_pastures (n : Nat) (x : Sched) : (s.setSched n x).pastures = s.pastures := rfl
@[simp] theorem State.setSched_cores (n : Nat) (x : Sched) : (s.setSched n x).cores = s.cores := rfl
@[simp] theorem State.setSched_windows (n : Nat) (x : Sched) : (s.setSched n x).windows = s.windows := rfl
@[simp] theorem State.setSched_frozen (n : Nat) (x : Sched) : (s.setSched n x).frozen = s.frozen := rfl
@[simp] theorem State.setSched_qps (n : Nat) (x : Sched) : (s.setSched n x).qps = s.qps := rfl
@[simp] theorem State.setSched_ports (n : Nat) (x : Sched) : (s.setSched n x).ports = s.ports := rfl
@[simp] theorem State.setSched_msix (n : Nat) (x : Sched) : (s.setSched n x).msix = s.msix := rfl
@[simp] theorem State.setSched_hostOut (n : Nat) (x : Sched) : (s.setSched n x).hostOut = s.hostOut := rfl
@[simp] theorem State.setSched_heldRecs (n : Nat) (x : Sched) : (s.setSched n x).heldRecs = s.heldRecs := rfl
@[simp] theorem State.setSched_links (n : Nat) (x : Sched) : (s.setSched n x).links = s.links := rfl
@[simp] theorem State.setSched_nsrs (n : Nat) (x : Sched) : (s.setSched n x).nsrs = s.nsrs := rfl
@[simp] theorem State.setSched_appliers (n : Nat) (x : Sched) : (s.setSched n x).appliers = s.appliers := rfl
@[simp] theorem State.setSched_drovers (n : Nat) (x : Sched) : (s.setSched n x).drovers = s.drovers := rfl
@[simp] theorem State.setSched_trhs (n : Nat) (x : Sched) : (s.setSched n x).trhs = s.trhs := rfl
@[simp] theorem State.setSched_engines (n : Nat) (x : Sched) : (s.setSched n x).engines = s.engines := rfl
@[simp] theorem State.setSched_collIn (n : Nat) (x : Sched) : (s.setSched n x).collIn = s.collIn := rfl
@[simp] theorem State.setSched_collSeq (n : Nat) (x : Sched) : (s.setSched n x).collSeq = s.collSeq := rfl
@[simp] theorem State.setSched_calls (n : Nat) (x : Sched) : (s.setSched n x).calls = s.calls := rfl
@[simp] theorem State.setSched_roll (n : Nat) (x : Sched) : (s.setSched n x).roll = s.roll := rfl
@[simp] theorem State.setSched_rcd (n : Nat) (x : Sched) : (s.setSched n x).rcd = s.rcd := rfl
@[simp] theorem State.setSched_jobRanks (n : Nat) (x : Sched) : (s.setSched n x).jobRanks = s.jobRanks := rfl
@[simp] theorem State.setSched_lineOut (n : Nat) (x : Sched) : (s.setSched n x).lineOut = s.lineOut := rfl
@[simp] theorem State.setSched_reqs (n : Nat) (x : Sched) : (s.setSched n x).reqs = s.reqs := rfl
@[simp] theorem State.setSched_nextTag (n : Nat) (x : Sched) : (s.setSched n x).nextTag = s.nextTag := rfl
@[simp] theorem State.setSched_sram (n : Nat) (x : Sched) : (s.setSched n x).sram = s.sram := rfl
@[simp] theorem State.setSched_mram (n : Nat) (x : Sched) : (s.setSched n x).mram = s.mram := rfl
@[simp] theorem State.setSched_logClosed (n : Nat) (x : Sched) : (s.setSched n x).logClosed = s.logClosed := rfl
@[simp] theorem State.setSched_flush (n : Nat) (x : Sched) : (s.setSched n x).flush = s.flush := rfl
@[simp] theorem State.setSched_flushes (n : Nat) (x : Sched) : (s.setSched n x).flushes = s.flushes := rfl
@[simp] theorem State.setSched_str (n : Nat) (x : Sched) : (s.setSched n x).str = s.str := rfl
@[simp] theorem State.setSched_meas (n : Nat) (x : Sched) : (s.setSched n x).meas = s.meas := rfl
@[simp] theorem State.setSched_committed (n : Nat) (x : Sched) : (s.setSched n x).committed = s.committed := rfl
@[simp] theorem State.setSched_sec (n : Nat) (x : Sched) : (s.setSched n x).sec = s.sec := rfl
@[simp] theorem State.setSched_pwr (n : Nat) (x : Sched) : (s.setSched n x).pwr = s.pwr := rfl
@[simp] theorem State.setSched_mgt (n : Nat) (x : Sched) : (s.setSched n x).mgt = s.mgt := rfl
@[simp] theorem State.setSched_released (n : Nat) (x : Sched) : (s.setSched n x).released = s.released := rfl
@[simp] theorem State.setSched_powerFailed (n : Nat) (x : Sched) : (s.setSched n x).powerFailed = s.powerFailed := rfl
@[simp] theorem State.setSched_sysRst (n : Nat) (x : Sched) : (s.setSched n x).sysRst = s.sysRst := rfl
@[simp] theorem State.setSched_thermTrip (n : Nat) (x : Sched) : (s.setSched n x).thermTrip = s.thermTrip := rfl
@[simp] theorem State.setSched_vioDown (n : Nat) (x : Sched) : (s.setSched n x).vioDown = s.vioDown := rfl
@[simp] theorem State.setSched_fabricCut (n : Nat) (x : Sched) : (s.setSched n x).fabricCut = s.fabricCut := rfl
@[simp] theorem State.setSched_untrained (n : Nat) (x : Sched) : (s.setSched n x).untrained = s.untrained := rfl
@[simp] theorem State.setSched_answer (n : Nat) (x : Sched) : (s.setSched n x).answer = s.answer := rfl
@[simp] theorem State.setSched_free (n : Nat) (x : Sched) : (s.setSched n x).free = s.free := rfl
@[simp] theorem State.setSched_pending (n : Nat) (x : Sched) : (s.setSched n x).pending = s.pending := rfl

/-! ### setLnk -/

@[simp] theorem State.setLnk_grade (n : Nat) (x : Lnk) : (s.setLnk n x).grade = s.grade := rfl
@[simp] theorem State.setLnk_regs (n : Nat) (x : Lnk) : (s.setLnk n x).regs = s.regs := rfl
@[simp] theorem State.setLnk_mem (n : Nat) (x : Lnk) : (s.setLnk n x).mem = s.mem := rfl
@[simp] theorem State.setLnk_stamp (n : Nat) (x : Lnk) : (s.setLnk n x).stamp = s.stamp := rfl
@[simp] theorem State.setLnk_atomErrs (n : Nat) (x : Lnk) : (s.setLnk n x).atomErrs = s.atomErrs := rfl
@[simp] theorem State.setLnk_bursts (n : Nat) (x : Lnk) : (s.setLnk n x).bursts = s.bursts := rfl
@[simp] theorem State.setLnk_pinHits (n : Nat) (x : Lnk) : (s.setLnk n x).pinHits = s.pinHits := rfl
@[simp] theorem State.setLnk_caErrs (n : Nat) (x : Lnk) : (s.setLnk n x).caErrs = s.caErrs := rfl
@[simp] theorem State.setLnk_upsets (n : Nat) (x : Lnk) : (s.setLnk n x).upsets = s.upsets := rfl
@[simp] theorem State.setLnk_loaders (n : Nat) (x : Lnk) : (s.setLnk n x).loaders = s.loaders := rfl
@[simp] theorem State.setLnk_svcs (n : Nat) (x : Lnk) : (s.setLnk n x).svcs = s.svcs := rfl
@[simp] theorem State.setLnk_pastures (n : Nat) (x : Lnk) : (s.setLnk n x).pastures = s.pastures := rfl
@[simp] theorem State.setLnk_cores (n : Nat) (x : Lnk) : (s.setLnk n x).cores = s.cores := rfl
@[simp] theorem State.setLnk_windows (n : Nat) (x : Lnk) : (s.setLnk n x).windows = s.windows := rfl
@[simp] theorem State.setLnk_frozen (n : Nat) (x : Lnk) : (s.setLnk n x).frozen = s.frozen := rfl
@[simp] theorem State.setLnk_qps (n : Nat) (x : Lnk) : (s.setLnk n x).qps = s.qps := rfl
@[simp] theorem State.setLnk_ports (n : Nat) (x : Lnk) : (s.setLnk n x).ports = s.ports := rfl
@[simp] theorem State.setLnk_msix (n : Nat) (x : Lnk) : (s.setLnk n x).msix = s.msix := rfl
@[simp] theorem State.setLnk_hostOut (n : Nat) (x : Lnk) : (s.setLnk n x).hostOut = s.hostOut := rfl
@[simp] theorem State.setLnk_heldRecs (n : Nat) (x : Lnk) : (s.setLnk n x).heldRecs = s.heldRecs := rfl
@[simp] theorem State.setLnk_nsrs (n : Nat) (x : Lnk) : (s.setLnk n x).nsrs = s.nsrs := rfl
@[simp] theorem State.setLnk_appliers (n : Nat) (x : Lnk) : (s.setLnk n x).appliers = s.appliers := rfl
@[simp] theorem State.setLnk_drovers (n : Nat) (x : Lnk) : (s.setLnk n x).drovers = s.drovers := rfl
@[simp] theorem State.setLnk_trhs (n : Nat) (x : Lnk) : (s.setLnk n x).trhs = s.trhs := rfl
@[simp] theorem State.setLnk_engines (n : Nat) (x : Lnk) : (s.setLnk n x).engines = s.engines := rfl
@[simp] theorem State.setLnk_collIn (n : Nat) (x : Lnk) : (s.setLnk n x).collIn = s.collIn := rfl
@[simp] theorem State.setLnk_collSeq (n : Nat) (x : Lnk) : (s.setLnk n x).collSeq = s.collSeq := rfl
@[simp] theorem State.setLnk_calls (n : Nat) (x : Lnk) : (s.setLnk n x).calls = s.calls := rfl
@[simp] theorem State.setLnk_roll (n : Nat) (x : Lnk) : (s.setLnk n x).roll = s.roll := rfl
@[simp] theorem State.setLnk_rcd (n : Nat) (x : Lnk) : (s.setLnk n x).rcd = s.rcd := rfl
@[simp] theorem State.setLnk_jobRanks (n : Nat) (x : Lnk) : (s.setLnk n x).jobRanks = s.jobRanks := rfl
@[simp] theorem State.setLnk_lineOut (n : Nat) (x : Lnk) : (s.setLnk n x).lineOut = s.lineOut := rfl
@[simp] theorem State.setLnk_reqs (n : Nat) (x : Lnk) : (s.setLnk n x).reqs = s.reqs := rfl
@[simp] theorem State.setLnk_nextTag (n : Nat) (x : Lnk) : (s.setLnk n x).nextTag = s.nextTag := rfl
@[simp] theorem State.setLnk_scheds (n : Nat) (x : Lnk) : (s.setLnk n x).scheds = s.scheds := rfl
@[simp] theorem State.setLnk_sram (n : Nat) (x : Lnk) : (s.setLnk n x).sram = s.sram := rfl
@[simp] theorem State.setLnk_mram (n : Nat) (x : Lnk) : (s.setLnk n x).mram = s.mram := rfl
@[simp] theorem State.setLnk_logClosed (n : Nat) (x : Lnk) : (s.setLnk n x).logClosed = s.logClosed := rfl
@[simp] theorem State.setLnk_flush (n : Nat) (x : Lnk) : (s.setLnk n x).flush = s.flush := rfl
@[simp] theorem State.setLnk_flushes (n : Nat) (x : Lnk) : (s.setLnk n x).flushes = s.flushes := rfl
@[simp] theorem State.setLnk_str (n : Nat) (x : Lnk) : (s.setLnk n x).str = s.str := rfl
@[simp] theorem State.setLnk_meas (n : Nat) (x : Lnk) : (s.setLnk n x).meas = s.meas := rfl
@[simp] theorem State.setLnk_committed (n : Nat) (x : Lnk) : (s.setLnk n x).committed = s.committed := rfl
@[simp] theorem State.setLnk_sec (n : Nat) (x : Lnk) : (s.setLnk n x).sec = s.sec := rfl
@[simp] theorem State.setLnk_pwr (n : Nat) (x : Lnk) : (s.setLnk n x).pwr = s.pwr := rfl
@[simp] theorem State.setLnk_mgt (n : Nat) (x : Lnk) : (s.setLnk n x).mgt = s.mgt := rfl
@[simp] theorem State.setLnk_released (n : Nat) (x : Lnk) : (s.setLnk n x).released = s.released := rfl
@[simp] theorem State.setLnk_powerFailed (n : Nat) (x : Lnk) : (s.setLnk n x).powerFailed = s.powerFailed := rfl
@[simp] theorem State.setLnk_sysRst (n : Nat) (x : Lnk) : (s.setLnk n x).sysRst = s.sysRst := rfl
@[simp] theorem State.setLnk_thermTrip (n : Nat) (x : Lnk) : (s.setLnk n x).thermTrip = s.thermTrip := rfl
@[simp] theorem State.setLnk_vioDown (n : Nat) (x : Lnk) : (s.setLnk n x).vioDown = s.vioDown := rfl
@[simp] theorem State.setLnk_fabricCut (n : Nat) (x : Lnk) : (s.setLnk n x).fabricCut = s.fabricCut := rfl
@[simp] theorem State.setLnk_untrained (n : Nat) (x : Lnk) : (s.setLnk n x).untrained = s.untrained := rfl
@[simp] theorem State.setLnk_answer (n : Nat) (x : Lnk) : (s.setLnk n x).answer = s.answer := rfl
@[simp] theorem State.setLnk_free (n : Nat) (x : Lnk) : (s.setLnk n x).free = s.free := rfl
@[simp] theorem State.setLnk_pending (n : Nat) (x : Lnk) : (s.setLnk n x).pending = s.pending := rfl

/-! ### setNsr -/

@[simp] theorem State.setNsr_grade (n : Nat) (x : Nsr) : (s.setNsr n x).grade = s.grade := rfl
@[simp] theorem State.setNsr_regs (n : Nat) (x : Nsr) : (s.setNsr n x).regs = s.regs := rfl
@[simp] theorem State.setNsr_mem (n : Nat) (x : Nsr) : (s.setNsr n x).mem = s.mem := rfl
@[simp] theorem State.setNsr_stamp (n : Nat) (x : Nsr) : (s.setNsr n x).stamp = s.stamp := rfl
@[simp] theorem State.setNsr_atomErrs (n : Nat) (x : Nsr) : (s.setNsr n x).atomErrs = s.atomErrs := rfl
@[simp] theorem State.setNsr_bursts (n : Nat) (x : Nsr) : (s.setNsr n x).bursts = s.bursts := rfl
@[simp] theorem State.setNsr_pinHits (n : Nat) (x : Nsr) : (s.setNsr n x).pinHits = s.pinHits := rfl
@[simp] theorem State.setNsr_caErrs (n : Nat) (x : Nsr) : (s.setNsr n x).caErrs = s.caErrs := rfl
@[simp] theorem State.setNsr_upsets (n : Nat) (x : Nsr) : (s.setNsr n x).upsets = s.upsets := rfl
@[simp] theorem State.setNsr_loaders (n : Nat) (x : Nsr) : (s.setNsr n x).loaders = s.loaders := rfl
@[simp] theorem State.setNsr_svcs (n : Nat) (x : Nsr) : (s.setNsr n x).svcs = s.svcs := rfl
@[simp] theorem State.setNsr_pastures (n : Nat) (x : Nsr) : (s.setNsr n x).pastures = s.pastures := rfl
@[simp] theorem State.setNsr_cores (n : Nat) (x : Nsr) : (s.setNsr n x).cores = s.cores := rfl
@[simp] theorem State.setNsr_windows (n : Nat) (x : Nsr) : (s.setNsr n x).windows = s.windows := rfl
@[simp] theorem State.setNsr_frozen (n : Nat) (x : Nsr) : (s.setNsr n x).frozen = s.frozen := rfl
@[simp] theorem State.setNsr_qps (n : Nat) (x : Nsr) : (s.setNsr n x).qps = s.qps := rfl
@[simp] theorem State.setNsr_ports (n : Nat) (x : Nsr) : (s.setNsr n x).ports = s.ports := rfl
@[simp] theorem State.setNsr_msix (n : Nat) (x : Nsr) : (s.setNsr n x).msix = s.msix := rfl
@[simp] theorem State.setNsr_hostOut (n : Nat) (x : Nsr) : (s.setNsr n x).hostOut = s.hostOut := rfl
@[simp] theorem State.setNsr_heldRecs (n : Nat) (x : Nsr) : (s.setNsr n x).heldRecs = s.heldRecs := rfl
@[simp] theorem State.setNsr_links (n : Nat) (x : Nsr) : (s.setNsr n x).links = s.links := rfl
@[simp] theorem State.setNsr_appliers (n : Nat) (x : Nsr) : (s.setNsr n x).appliers = s.appliers := rfl
@[simp] theorem State.setNsr_drovers (n : Nat) (x : Nsr) : (s.setNsr n x).drovers = s.drovers := rfl
@[simp] theorem State.setNsr_trhs (n : Nat) (x : Nsr) : (s.setNsr n x).trhs = s.trhs := rfl
@[simp] theorem State.setNsr_engines (n : Nat) (x : Nsr) : (s.setNsr n x).engines = s.engines := rfl
@[simp] theorem State.setNsr_collIn (n : Nat) (x : Nsr) : (s.setNsr n x).collIn = s.collIn := rfl
@[simp] theorem State.setNsr_collSeq (n : Nat) (x : Nsr) : (s.setNsr n x).collSeq = s.collSeq := rfl
@[simp] theorem State.setNsr_calls (n : Nat) (x : Nsr) : (s.setNsr n x).calls = s.calls := rfl
@[simp] theorem State.setNsr_roll (n : Nat) (x : Nsr) : (s.setNsr n x).roll = s.roll := rfl
@[simp] theorem State.setNsr_rcd (n : Nat) (x : Nsr) : (s.setNsr n x).rcd = s.rcd := rfl
@[simp] theorem State.setNsr_jobRanks (n : Nat) (x : Nsr) : (s.setNsr n x).jobRanks = s.jobRanks := rfl
@[simp] theorem State.setNsr_lineOut (n : Nat) (x : Nsr) : (s.setNsr n x).lineOut = s.lineOut := rfl
@[simp] theorem State.setNsr_reqs (n : Nat) (x : Nsr) : (s.setNsr n x).reqs = s.reqs := rfl
@[simp] theorem State.setNsr_nextTag (n : Nat) (x : Nsr) : (s.setNsr n x).nextTag = s.nextTag := rfl
@[simp] theorem State.setNsr_scheds (n : Nat) (x : Nsr) : (s.setNsr n x).scheds = s.scheds := rfl
@[simp] theorem State.setNsr_sram (n : Nat) (x : Nsr) : (s.setNsr n x).sram = s.sram := rfl
@[simp] theorem State.setNsr_mram (n : Nat) (x : Nsr) : (s.setNsr n x).mram = s.mram := rfl
@[simp] theorem State.setNsr_logClosed (n : Nat) (x : Nsr) : (s.setNsr n x).logClosed = s.logClosed := rfl
@[simp] theorem State.setNsr_flush (n : Nat) (x : Nsr) : (s.setNsr n x).flush = s.flush := rfl
@[simp] theorem State.setNsr_flushes (n : Nat) (x : Nsr) : (s.setNsr n x).flushes = s.flushes := rfl
@[simp] theorem State.setNsr_str (n : Nat) (x : Nsr) : (s.setNsr n x).str = s.str := rfl
@[simp] theorem State.setNsr_meas (n : Nat) (x : Nsr) : (s.setNsr n x).meas = s.meas := rfl
@[simp] theorem State.setNsr_committed (n : Nat) (x : Nsr) : (s.setNsr n x).committed = s.committed := rfl
@[simp] theorem State.setNsr_sec (n : Nat) (x : Nsr) : (s.setNsr n x).sec = s.sec := rfl
@[simp] theorem State.setNsr_pwr (n : Nat) (x : Nsr) : (s.setNsr n x).pwr = s.pwr := rfl
@[simp] theorem State.setNsr_mgt (n : Nat) (x : Nsr) : (s.setNsr n x).mgt = s.mgt := rfl
@[simp] theorem State.setNsr_released (n : Nat) (x : Nsr) : (s.setNsr n x).released = s.released := rfl
@[simp] theorem State.setNsr_powerFailed (n : Nat) (x : Nsr) : (s.setNsr n x).powerFailed = s.powerFailed := rfl
@[simp] theorem State.setNsr_sysRst (n : Nat) (x : Nsr) : (s.setNsr n x).sysRst = s.sysRst := rfl
@[simp] theorem State.setNsr_thermTrip (n : Nat) (x : Nsr) : (s.setNsr n x).thermTrip = s.thermTrip := rfl
@[simp] theorem State.setNsr_vioDown (n : Nat) (x : Nsr) : (s.setNsr n x).vioDown = s.vioDown := rfl
@[simp] theorem State.setNsr_fabricCut (n : Nat) (x : Nsr) : (s.setNsr n x).fabricCut = s.fabricCut := rfl
@[simp] theorem State.setNsr_untrained (n : Nat) (x : Nsr) : (s.setNsr n x).untrained = s.untrained := rfl
@[simp] theorem State.setNsr_answer (n : Nat) (x : Nsr) : (s.setNsr n x).answer = s.answer := rfl
@[simp] theorem State.setNsr_free (n : Nat) (x : Nsr) : (s.setNsr n x).free = s.free := rfl
@[simp] theorem State.setNsr_pending (n : Nat) (x : Nsr) : (s.setNsr n x).pending = s.pending := rfl

/-! ### setApplier -/

@[simp] theorem State.setApplier_grade (n : Nat) (x : Applier) : (s.setApplier n x).grade = s.grade := rfl
@[simp] theorem State.setApplier_regs (n : Nat) (x : Applier) : (s.setApplier n x).regs = s.regs := rfl
@[simp] theorem State.setApplier_mem (n : Nat) (x : Applier) : (s.setApplier n x).mem = s.mem := rfl
@[simp] theorem State.setApplier_stamp (n : Nat) (x : Applier) : (s.setApplier n x).stamp = s.stamp := rfl
@[simp] theorem State.setApplier_atomErrs (n : Nat) (x : Applier) : (s.setApplier n x).atomErrs = s.atomErrs := rfl
@[simp] theorem State.setApplier_bursts (n : Nat) (x : Applier) : (s.setApplier n x).bursts = s.bursts := rfl
@[simp] theorem State.setApplier_pinHits (n : Nat) (x : Applier) : (s.setApplier n x).pinHits = s.pinHits := rfl
@[simp] theorem State.setApplier_caErrs (n : Nat) (x : Applier) : (s.setApplier n x).caErrs = s.caErrs := rfl
@[simp] theorem State.setApplier_upsets (n : Nat) (x : Applier) : (s.setApplier n x).upsets = s.upsets := rfl
@[simp] theorem State.setApplier_loaders (n : Nat) (x : Applier) : (s.setApplier n x).loaders = s.loaders := rfl
@[simp] theorem State.setApplier_svcs (n : Nat) (x : Applier) : (s.setApplier n x).svcs = s.svcs := rfl
@[simp] theorem State.setApplier_pastures (n : Nat) (x : Applier) : (s.setApplier n x).pastures = s.pastures := rfl
@[simp] theorem State.setApplier_cores (n : Nat) (x : Applier) : (s.setApplier n x).cores = s.cores := rfl
@[simp] theorem State.setApplier_windows (n : Nat) (x : Applier) : (s.setApplier n x).windows = s.windows := rfl
@[simp] theorem State.setApplier_frozen (n : Nat) (x : Applier) : (s.setApplier n x).frozen = s.frozen := rfl
@[simp] theorem State.setApplier_qps (n : Nat) (x : Applier) : (s.setApplier n x).qps = s.qps := rfl
@[simp] theorem State.setApplier_ports (n : Nat) (x : Applier) : (s.setApplier n x).ports = s.ports := rfl
@[simp] theorem State.setApplier_msix (n : Nat) (x : Applier) : (s.setApplier n x).msix = s.msix := rfl
@[simp] theorem State.setApplier_hostOut (n : Nat) (x : Applier) : (s.setApplier n x).hostOut = s.hostOut := rfl
@[simp] theorem State.setApplier_heldRecs (n : Nat) (x : Applier) : (s.setApplier n x).heldRecs = s.heldRecs := rfl
@[simp] theorem State.setApplier_links (n : Nat) (x : Applier) : (s.setApplier n x).links = s.links := rfl
@[simp] theorem State.setApplier_nsrs (n : Nat) (x : Applier) : (s.setApplier n x).nsrs = s.nsrs := rfl
@[simp] theorem State.setApplier_drovers (n : Nat) (x : Applier) : (s.setApplier n x).drovers = s.drovers := rfl
@[simp] theorem State.setApplier_trhs (n : Nat) (x : Applier) : (s.setApplier n x).trhs = s.trhs := rfl
@[simp] theorem State.setApplier_engines (n : Nat) (x : Applier) : (s.setApplier n x).engines = s.engines := rfl
@[simp] theorem State.setApplier_collIn (n : Nat) (x : Applier) : (s.setApplier n x).collIn = s.collIn := rfl
@[simp] theorem State.setApplier_collSeq (n : Nat) (x : Applier) : (s.setApplier n x).collSeq = s.collSeq := rfl
@[simp] theorem State.setApplier_calls (n : Nat) (x : Applier) : (s.setApplier n x).calls = s.calls := rfl
@[simp] theorem State.setApplier_roll (n : Nat) (x : Applier) : (s.setApplier n x).roll = s.roll := rfl
@[simp] theorem State.setApplier_rcd (n : Nat) (x : Applier) : (s.setApplier n x).rcd = s.rcd := rfl
@[simp] theorem State.setApplier_jobRanks (n : Nat) (x : Applier) : (s.setApplier n x).jobRanks = s.jobRanks := rfl
@[simp] theorem State.setApplier_lineOut (n : Nat) (x : Applier) : (s.setApplier n x).lineOut = s.lineOut := rfl
@[simp] theorem State.setApplier_reqs (n : Nat) (x : Applier) : (s.setApplier n x).reqs = s.reqs := rfl
@[simp] theorem State.setApplier_nextTag (n : Nat) (x : Applier) : (s.setApplier n x).nextTag = s.nextTag := rfl
@[simp] theorem State.setApplier_scheds (n : Nat) (x : Applier) : (s.setApplier n x).scheds = s.scheds := rfl
@[simp] theorem State.setApplier_sram (n : Nat) (x : Applier) : (s.setApplier n x).sram = s.sram := rfl
@[simp] theorem State.setApplier_mram (n : Nat) (x : Applier) : (s.setApplier n x).mram = s.mram := rfl
@[simp] theorem State.setApplier_logClosed (n : Nat) (x : Applier) : (s.setApplier n x).logClosed = s.logClosed := rfl
@[simp] theorem State.setApplier_flush (n : Nat) (x : Applier) : (s.setApplier n x).flush = s.flush := rfl
@[simp] theorem State.setApplier_flushes (n : Nat) (x : Applier) : (s.setApplier n x).flushes = s.flushes := rfl
@[simp] theorem State.setApplier_str (n : Nat) (x : Applier) : (s.setApplier n x).str = s.str := rfl
@[simp] theorem State.setApplier_meas (n : Nat) (x : Applier) : (s.setApplier n x).meas = s.meas := rfl
@[simp] theorem State.setApplier_committed (n : Nat) (x : Applier) : (s.setApplier n x).committed = s.committed := rfl
@[simp] theorem State.setApplier_sec (n : Nat) (x : Applier) : (s.setApplier n x).sec = s.sec := rfl
@[simp] theorem State.setApplier_pwr (n : Nat) (x : Applier) : (s.setApplier n x).pwr = s.pwr := rfl
@[simp] theorem State.setApplier_mgt (n : Nat) (x : Applier) : (s.setApplier n x).mgt = s.mgt := rfl
@[simp] theorem State.setApplier_released (n : Nat) (x : Applier) : (s.setApplier n x).released = s.released := rfl
@[simp] theorem State.setApplier_powerFailed (n : Nat) (x : Applier) : (s.setApplier n x).powerFailed = s.powerFailed := rfl
@[simp] theorem State.setApplier_sysRst (n : Nat) (x : Applier) : (s.setApplier n x).sysRst = s.sysRst := rfl
@[simp] theorem State.setApplier_thermTrip (n : Nat) (x : Applier) : (s.setApplier n x).thermTrip = s.thermTrip := rfl
@[simp] theorem State.setApplier_vioDown (n : Nat) (x : Applier) : (s.setApplier n x).vioDown = s.vioDown := rfl
@[simp] theorem State.setApplier_fabricCut (n : Nat) (x : Applier) : (s.setApplier n x).fabricCut = s.fabricCut := rfl
@[simp] theorem State.setApplier_untrained (n : Nat) (x : Applier) : (s.setApplier n x).untrained = s.untrained := rfl
@[simp] theorem State.setApplier_answer (n : Nat) (x : Applier) : (s.setApplier n x).answer = s.answer := rfl
@[simp] theorem State.setApplier_free (n : Nat) (x : Applier) : (s.setApplier n x).free = s.free := rfl
@[simp] theorem State.setApplier_pending (n : Nat) (x : Applier) : (s.setApplier n x).pending = s.pending := rfl

/-! ### setDrover -/

@[simp] theorem State.setDrover_grade (n : Nat) (x : Drover) : (s.setDrover n x).grade = s.grade := rfl
@[simp] theorem State.setDrover_regs (n : Nat) (x : Drover) : (s.setDrover n x).regs = s.regs := rfl
@[simp] theorem State.setDrover_mem (n : Nat) (x : Drover) : (s.setDrover n x).mem = s.mem := rfl
@[simp] theorem State.setDrover_stamp (n : Nat) (x : Drover) : (s.setDrover n x).stamp = s.stamp := rfl
@[simp] theorem State.setDrover_atomErrs (n : Nat) (x : Drover) : (s.setDrover n x).atomErrs = s.atomErrs := rfl
@[simp] theorem State.setDrover_bursts (n : Nat) (x : Drover) : (s.setDrover n x).bursts = s.bursts := rfl
@[simp] theorem State.setDrover_pinHits (n : Nat) (x : Drover) : (s.setDrover n x).pinHits = s.pinHits := rfl
@[simp] theorem State.setDrover_caErrs (n : Nat) (x : Drover) : (s.setDrover n x).caErrs = s.caErrs := rfl
@[simp] theorem State.setDrover_upsets (n : Nat) (x : Drover) : (s.setDrover n x).upsets = s.upsets := rfl
@[simp] theorem State.setDrover_loaders (n : Nat) (x : Drover) : (s.setDrover n x).loaders = s.loaders := rfl
@[simp] theorem State.setDrover_svcs (n : Nat) (x : Drover) : (s.setDrover n x).svcs = s.svcs := rfl
@[simp] theorem State.setDrover_pastures (n : Nat) (x : Drover) : (s.setDrover n x).pastures = s.pastures := rfl
@[simp] theorem State.setDrover_cores (n : Nat) (x : Drover) : (s.setDrover n x).cores = s.cores := rfl
@[simp] theorem State.setDrover_windows (n : Nat) (x : Drover) : (s.setDrover n x).windows = s.windows := rfl
@[simp] theorem State.setDrover_frozen (n : Nat) (x : Drover) : (s.setDrover n x).frozen = s.frozen := rfl
@[simp] theorem State.setDrover_qps (n : Nat) (x : Drover) : (s.setDrover n x).qps = s.qps := rfl
@[simp] theorem State.setDrover_ports (n : Nat) (x : Drover) : (s.setDrover n x).ports = s.ports := rfl
@[simp] theorem State.setDrover_msix (n : Nat) (x : Drover) : (s.setDrover n x).msix = s.msix := rfl
@[simp] theorem State.setDrover_hostOut (n : Nat) (x : Drover) : (s.setDrover n x).hostOut = s.hostOut := rfl
@[simp] theorem State.setDrover_heldRecs (n : Nat) (x : Drover) : (s.setDrover n x).heldRecs = s.heldRecs := rfl
@[simp] theorem State.setDrover_links (n : Nat) (x : Drover) : (s.setDrover n x).links = s.links := rfl
@[simp] theorem State.setDrover_nsrs (n : Nat) (x : Drover) : (s.setDrover n x).nsrs = s.nsrs := rfl
@[simp] theorem State.setDrover_appliers (n : Nat) (x : Drover) : (s.setDrover n x).appliers = s.appliers := rfl
@[simp] theorem State.setDrover_trhs (n : Nat) (x : Drover) : (s.setDrover n x).trhs = s.trhs := rfl
@[simp] theorem State.setDrover_engines (n : Nat) (x : Drover) : (s.setDrover n x).engines = s.engines := rfl
@[simp] theorem State.setDrover_collIn (n : Nat) (x : Drover) : (s.setDrover n x).collIn = s.collIn := rfl
@[simp] theorem State.setDrover_collSeq (n : Nat) (x : Drover) : (s.setDrover n x).collSeq = s.collSeq := rfl
@[simp] theorem State.setDrover_calls (n : Nat) (x : Drover) : (s.setDrover n x).calls = s.calls := rfl
@[simp] theorem State.setDrover_roll (n : Nat) (x : Drover) : (s.setDrover n x).roll = s.roll := rfl
@[simp] theorem State.setDrover_rcd (n : Nat) (x : Drover) : (s.setDrover n x).rcd = s.rcd := rfl
@[simp] theorem State.setDrover_jobRanks (n : Nat) (x : Drover) : (s.setDrover n x).jobRanks = s.jobRanks := rfl
@[simp] theorem State.setDrover_lineOut (n : Nat) (x : Drover) : (s.setDrover n x).lineOut = s.lineOut := rfl
@[simp] theorem State.setDrover_reqs (n : Nat) (x : Drover) : (s.setDrover n x).reqs = s.reqs := rfl
@[simp] theorem State.setDrover_nextTag (n : Nat) (x : Drover) : (s.setDrover n x).nextTag = s.nextTag := rfl
@[simp] theorem State.setDrover_scheds (n : Nat) (x : Drover) : (s.setDrover n x).scheds = s.scheds := rfl
@[simp] theorem State.setDrover_sram (n : Nat) (x : Drover) : (s.setDrover n x).sram = s.sram := rfl
@[simp] theorem State.setDrover_mram (n : Nat) (x : Drover) : (s.setDrover n x).mram = s.mram := rfl
@[simp] theorem State.setDrover_logClosed (n : Nat) (x : Drover) : (s.setDrover n x).logClosed = s.logClosed := rfl
@[simp] theorem State.setDrover_flush (n : Nat) (x : Drover) : (s.setDrover n x).flush = s.flush := rfl
@[simp] theorem State.setDrover_flushes (n : Nat) (x : Drover) : (s.setDrover n x).flushes = s.flushes := rfl
@[simp] theorem State.setDrover_str (n : Nat) (x : Drover) : (s.setDrover n x).str = s.str := rfl
@[simp] theorem State.setDrover_meas (n : Nat) (x : Drover) : (s.setDrover n x).meas = s.meas := rfl
@[simp] theorem State.setDrover_committed (n : Nat) (x : Drover) : (s.setDrover n x).committed = s.committed := rfl
@[simp] theorem State.setDrover_sec (n : Nat) (x : Drover) : (s.setDrover n x).sec = s.sec := rfl
@[simp] theorem State.setDrover_pwr (n : Nat) (x : Drover) : (s.setDrover n x).pwr = s.pwr := rfl
@[simp] theorem State.setDrover_mgt (n : Nat) (x : Drover) : (s.setDrover n x).mgt = s.mgt := rfl
@[simp] theorem State.setDrover_released (n : Nat) (x : Drover) : (s.setDrover n x).released = s.released := rfl
@[simp] theorem State.setDrover_powerFailed (n : Nat) (x : Drover) : (s.setDrover n x).powerFailed = s.powerFailed := rfl
@[simp] theorem State.setDrover_sysRst (n : Nat) (x : Drover) : (s.setDrover n x).sysRst = s.sysRst := rfl
@[simp] theorem State.setDrover_thermTrip (n : Nat) (x : Drover) : (s.setDrover n x).thermTrip = s.thermTrip := rfl
@[simp] theorem State.setDrover_vioDown (n : Nat) (x : Drover) : (s.setDrover n x).vioDown = s.vioDown := rfl
@[simp] theorem State.setDrover_fabricCut (n : Nat) (x : Drover) : (s.setDrover n x).fabricCut = s.fabricCut := rfl
@[simp] theorem State.setDrover_untrained (n : Nat) (x : Drover) : (s.setDrover n x).untrained = s.untrained := rfl
@[simp] theorem State.setDrover_answer (n : Nat) (x : Drover) : (s.setDrover n x).answer = s.answer := rfl
@[simp] theorem State.setDrover_free (n : Nat) (x : Drover) : (s.setDrover n x).free = s.free := rfl
@[simp] theorem State.setDrover_pending (n : Nat) (x : Drover) : (s.setDrover n x).pending = s.pending := rfl

/-! ### setTrh -/

@[simp] theorem State.setTrh_grade (n : Nat) (x : Trh) : (s.setTrh n x).grade = s.grade := rfl
@[simp] theorem State.setTrh_regs (n : Nat) (x : Trh) : (s.setTrh n x).regs = s.regs := rfl
@[simp] theorem State.setTrh_mem (n : Nat) (x : Trh) : (s.setTrh n x).mem = s.mem := rfl
@[simp] theorem State.setTrh_stamp (n : Nat) (x : Trh) : (s.setTrh n x).stamp = s.stamp := rfl
@[simp] theorem State.setTrh_atomErrs (n : Nat) (x : Trh) : (s.setTrh n x).atomErrs = s.atomErrs := rfl
@[simp] theorem State.setTrh_bursts (n : Nat) (x : Trh) : (s.setTrh n x).bursts = s.bursts := rfl
@[simp] theorem State.setTrh_pinHits (n : Nat) (x : Trh) : (s.setTrh n x).pinHits = s.pinHits := rfl
@[simp] theorem State.setTrh_caErrs (n : Nat) (x : Trh) : (s.setTrh n x).caErrs = s.caErrs := rfl
@[simp] theorem State.setTrh_upsets (n : Nat) (x : Trh) : (s.setTrh n x).upsets = s.upsets := rfl
@[simp] theorem State.setTrh_loaders (n : Nat) (x : Trh) : (s.setTrh n x).loaders = s.loaders := rfl
@[simp] theorem State.setTrh_svcs (n : Nat) (x : Trh) : (s.setTrh n x).svcs = s.svcs := rfl
@[simp] theorem State.setTrh_pastures (n : Nat) (x : Trh) : (s.setTrh n x).pastures = s.pastures := rfl
@[simp] theorem State.setTrh_cores (n : Nat) (x : Trh) : (s.setTrh n x).cores = s.cores := rfl
@[simp] theorem State.setTrh_windows (n : Nat) (x : Trh) : (s.setTrh n x).windows = s.windows := rfl
@[simp] theorem State.setTrh_frozen (n : Nat) (x : Trh) : (s.setTrh n x).frozen = s.frozen := rfl
@[simp] theorem State.setTrh_qps (n : Nat) (x : Trh) : (s.setTrh n x).qps = s.qps := rfl
@[simp] theorem State.setTrh_ports (n : Nat) (x : Trh) : (s.setTrh n x).ports = s.ports := rfl
@[simp] theorem State.setTrh_msix (n : Nat) (x : Trh) : (s.setTrh n x).msix = s.msix := rfl
@[simp] theorem State.setTrh_hostOut (n : Nat) (x : Trh) : (s.setTrh n x).hostOut = s.hostOut := rfl
@[simp] theorem State.setTrh_heldRecs (n : Nat) (x : Trh) : (s.setTrh n x).heldRecs = s.heldRecs := rfl
@[simp] theorem State.setTrh_links (n : Nat) (x : Trh) : (s.setTrh n x).links = s.links := rfl
@[simp] theorem State.setTrh_nsrs (n : Nat) (x : Trh) : (s.setTrh n x).nsrs = s.nsrs := rfl
@[simp] theorem State.setTrh_appliers (n : Nat) (x : Trh) : (s.setTrh n x).appliers = s.appliers := rfl
@[simp] theorem State.setTrh_drovers (n : Nat) (x : Trh) : (s.setTrh n x).drovers = s.drovers := rfl
@[simp] theorem State.setTrh_engines (n : Nat) (x : Trh) : (s.setTrh n x).engines = s.engines := rfl
@[simp] theorem State.setTrh_collIn (n : Nat) (x : Trh) : (s.setTrh n x).collIn = s.collIn := rfl
@[simp] theorem State.setTrh_collSeq (n : Nat) (x : Trh) : (s.setTrh n x).collSeq = s.collSeq := rfl
@[simp] theorem State.setTrh_calls (n : Nat) (x : Trh) : (s.setTrh n x).calls = s.calls := rfl
@[simp] theorem State.setTrh_roll (n : Nat) (x : Trh) : (s.setTrh n x).roll = s.roll := rfl
@[simp] theorem State.setTrh_rcd (n : Nat) (x : Trh) : (s.setTrh n x).rcd = s.rcd := rfl
@[simp] theorem State.setTrh_jobRanks (n : Nat) (x : Trh) : (s.setTrh n x).jobRanks = s.jobRanks := rfl
@[simp] theorem State.setTrh_lineOut (n : Nat) (x : Trh) : (s.setTrh n x).lineOut = s.lineOut := rfl
@[simp] theorem State.setTrh_reqs (n : Nat) (x : Trh) : (s.setTrh n x).reqs = s.reqs := rfl
@[simp] theorem State.setTrh_nextTag (n : Nat) (x : Trh) : (s.setTrh n x).nextTag = s.nextTag := rfl
@[simp] theorem State.setTrh_scheds (n : Nat) (x : Trh) : (s.setTrh n x).scheds = s.scheds := rfl
@[simp] theorem State.setTrh_sram (n : Nat) (x : Trh) : (s.setTrh n x).sram = s.sram := rfl
@[simp] theorem State.setTrh_mram (n : Nat) (x : Trh) : (s.setTrh n x).mram = s.mram := rfl
@[simp] theorem State.setTrh_logClosed (n : Nat) (x : Trh) : (s.setTrh n x).logClosed = s.logClosed := rfl
@[simp] theorem State.setTrh_flush (n : Nat) (x : Trh) : (s.setTrh n x).flush = s.flush := rfl
@[simp] theorem State.setTrh_flushes (n : Nat) (x : Trh) : (s.setTrh n x).flushes = s.flushes := rfl
@[simp] theorem State.setTrh_str (n : Nat) (x : Trh) : (s.setTrh n x).str = s.str := rfl
@[simp] theorem State.setTrh_meas (n : Nat) (x : Trh) : (s.setTrh n x).meas = s.meas := rfl
@[simp] theorem State.setTrh_committed (n : Nat) (x : Trh) : (s.setTrh n x).committed = s.committed := rfl
@[simp] theorem State.setTrh_sec (n : Nat) (x : Trh) : (s.setTrh n x).sec = s.sec := rfl
@[simp] theorem State.setTrh_pwr (n : Nat) (x : Trh) : (s.setTrh n x).pwr = s.pwr := rfl
@[simp] theorem State.setTrh_mgt (n : Nat) (x : Trh) : (s.setTrh n x).mgt = s.mgt := rfl
@[simp] theorem State.setTrh_released (n : Nat) (x : Trh) : (s.setTrh n x).released = s.released := rfl
@[simp] theorem State.setTrh_powerFailed (n : Nat) (x : Trh) : (s.setTrh n x).powerFailed = s.powerFailed := rfl
@[simp] theorem State.setTrh_sysRst (n : Nat) (x : Trh) : (s.setTrh n x).sysRst = s.sysRst := rfl
@[simp] theorem State.setTrh_thermTrip (n : Nat) (x : Trh) : (s.setTrh n x).thermTrip = s.thermTrip := rfl
@[simp] theorem State.setTrh_vioDown (n : Nat) (x : Trh) : (s.setTrh n x).vioDown = s.vioDown := rfl
@[simp] theorem State.setTrh_fabricCut (n : Nat) (x : Trh) : (s.setTrh n x).fabricCut = s.fabricCut := rfl
@[simp] theorem State.setTrh_untrained (n : Nat) (x : Trh) : (s.setTrh n x).untrained = s.untrained := rfl
@[simp] theorem State.setTrh_answer (n : Nat) (x : Trh) : (s.setTrh n x).answer = s.answer := rfl
@[simp] theorem State.setTrh_free (n : Nat) (x : Trh) : (s.setTrh n x).free = s.free := rfl
@[simp] theorem State.setTrh_pending (n : Nat) (x : Trh) : (s.setTrh n x).pending = s.pending := rfl

/-! ### setEngine -/

@[simp] theorem State.setEngine_grade (n : Nat) (x : CollEng) : (s.setEngine n x).grade = s.grade := rfl
@[simp] theorem State.setEngine_regs (n : Nat) (x : CollEng) : (s.setEngine n x).regs = s.regs := rfl
@[simp] theorem State.setEngine_mem (n : Nat) (x : CollEng) : (s.setEngine n x).mem = s.mem := rfl
@[simp] theorem State.setEngine_stamp (n : Nat) (x : CollEng) : (s.setEngine n x).stamp = s.stamp := rfl
@[simp] theorem State.setEngine_atomErrs (n : Nat) (x : CollEng) : (s.setEngine n x).atomErrs = s.atomErrs := rfl
@[simp] theorem State.setEngine_bursts (n : Nat) (x : CollEng) : (s.setEngine n x).bursts = s.bursts := rfl
@[simp] theorem State.setEngine_pinHits (n : Nat) (x : CollEng) : (s.setEngine n x).pinHits = s.pinHits := rfl
@[simp] theorem State.setEngine_caErrs (n : Nat) (x : CollEng) : (s.setEngine n x).caErrs = s.caErrs := rfl
@[simp] theorem State.setEngine_upsets (n : Nat) (x : CollEng) : (s.setEngine n x).upsets = s.upsets := rfl
@[simp] theorem State.setEngine_loaders (n : Nat) (x : CollEng) : (s.setEngine n x).loaders = s.loaders := rfl
@[simp] theorem State.setEngine_svcs (n : Nat) (x : CollEng) : (s.setEngine n x).svcs = s.svcs := rfl
@[simp] theorem State.setEngine_pastures (n : Nat) (x : CollEng) : (s.setEngine n x).pastures = s.pastures := rfl
@[simp] theorem State.setEngine_cores (n : Nat) (x : CollEng) : (s.setEngine n x).cores = s.cores := rfl
@[simp] theorem State.setEngine_windows (n : Nat) (x : CollEng) : (s.setEngine n x).windows = s.windows := rfl
@[simp] theorem State.setEngine_frozen (n : Nat) (x : CollEng) : (s.setEngine n x).frozen = s.frozen := rfl
@[simp] theorem State.setEngine_qps (n : Nat) (x : CollEng) : (s.setEngine n x).qps = s.qps := rfl
@[simp] theorem State.setEngine_ports (n : Nat) (x : CollEng) : (s.setEngine n x).ports = s.ports := rfl
@[simp] theorem State.setEngine_msix (n : Nat) (x : CollEng) : (s.setEngine n x).msix = s.msix := rfl
@[simp] theorem State.setEngine_hostOut (n : Nat) (x : CollEng) : (s.setEngine n x).hostOut = s.hostOut := rfl
@[simp] theorem State.setEngine_heldRecs (n : Nat) (x : CollEng) : (s.setEngine n x).heldRecs = s.heldRecs := rfl
@[simp] theorem State.setEngine_links (n : Nat) (x : CollEng) : (s.setEngine n x).links = s.links := rfl
@[simp] theorem State.setEngine_nsrs (n : Nat) (x : CollEng) : (s.setEngine n x).nsrs = s.nsrs := rfl
@[simp] theorem State.setEngine_appliers (n : Nat) (x : CollEng) : (s.setEngine n x).appliers = s.appliers := rfl
@[simp] theorem State.setEngine_drovers (n : Nat) (x : CollEng) : (s.setEngine n x).drovers = s.drovers := rfl
@[simp] theorem State.setEngine_trhs (n : Nat) (x : CollEng) : (s.setEngine n x).trhs = s.trhs := rfl
@[simp] theorem State.setEngine_collIn (n : Nat) (x : CollEng) : (s.setEngine n x).collIn = s.collIn := rfl
@[simp] theorem State.setEngine_collSeq (n : Nat) (x : CollEng) : (s.setEngine n x).collSeq = s.collSeq := rfl
@[simp] theorem State.setEngine_calls (n : Nat) (x : CollEng) : (s.setEngine n x).calls = s.calls := rfl
@[simp] theorem State.setEngine_roll (n : Nat) (x : CollEng) : (s.setEngine n x).roll = s.roll := rfl
@[simp] theorem State.setEngine_rcd (n : Nat) (x : CollEng) : (s.setEngine n x).rcd = s.rcd := rfl
@[simp] theorem State.setEngine_jobRanks (n : Nat) (x : CollEng) : (s.setEngine n x).jobRanks = s.jobRanks := rfl
@[simp] theorem State.setEngine_lineOut (n : Nat) (x : CollEng) : (s.setEngine n x).lineOut = s.lineOut := rfl
@[simp] theorem State.setEngine_reqs (n : Nat) (x : CollEng) : (s.setEngine n x).reqs = s.reqs := rfl
@[simp] theorem State.setEngine_nextTag (n : Nat) (x : CollEng) : (s.setEngine n x).nextTag = s.nextTag := rfl
@[simp] theorem State.setEngine_scheds (n : Nat) (x : CollEng) : (s.setEngine n x).scheds = s.scheds := rfl
@[simp] theorem State.setEngine_sram (n : Nat) (x : CollEng) : (s.setEngine n x).sram = s.sram := rfl
@[simp] theorem State.setEngine_mram (n : Nat) (x : CollEng) : (s.setEngine n x).mram = s.mram := rfl
@[simp] theorem State.setEngine_logClosed (n : Nat) (x : CollEng) : (s.setEngine n x).logClosed = s.logClosed := rfl
@[simp] theorem State.setEngine_flush (n : Nat) (x : CollEng) : (s.setEngine n x).flush = s.flush := rfl
@[simp] theorem State.setEngine_flushes (n : Nat) (x : CollEng) : (s.setEngine n x).flushes = s.flushes := rfl
@[simp] theorem State.setEngine_str (n : Nat) (x : CollEng) : (s.setEngine n x).str = s.str := rfl
@[simp] theorem State.setEngine_meas (n : Nat) (x : CollEng) : (s.setEngine n x).meas = s.meas := rfl
@[simp] theorem State.setEngine_committed (n : Nat) (x : CollEng) : (s.setEngine n x).committed = s.committed := rfl
@[simp] theorem State.setEngine_sec (n : Nat) (x : CollEng) : (s.setEngine n x).sec = s.sec := rfl
@[simp] theorem State.setEngine_pwr (n : Nat) (x : CollEng) : (s.setEngine n x).pwr = s.pwr := rfl
@[simp] theorem State.setEngine_mgt (n : Nat) (x : CollEng) : (s.setEngine n x).mgt = s.mgt := rfl
@[simp] theorem State.setEngine_released (n : Nat) (x : CollEng) : (s.setEngine n x).released = s.released := rfl
@[simp] theorem State.setEngine_powerFailed (n : Nat) (x : CollEng) : (s.setEngine n x).powerFailed = s.powerFailed := rfl
@[simp] theorem State.setEngine_sysRst (n : Nat) (x : CollEng) : (s.setEngine n x).sysRst = s.sysRst := rfl
@[simp] theorem State.setEngine_thermTrip (n : Nat) (x : CollEng) : (s.setEngine n x).thermTrip = s.thermTrip := rfl
@[simp] theorem State.setEngine_vioDown (n : Nat) (x : CollEng) : (s.setEngine n x).vioDown = s.vioDown := rfl
@[simp] theorem State.setEngine_fabricCut (n : Nat) (x : CollEng) : (s.setEngine n x).fabricCut = s.fabricCut := rfl
@[simp] theorem State.setEngine_untrained (n : Nat) (x : CollEng) : (s.setEngine n x).untrained = s.untrained := rfl
@[simp] theorem State.setEngine_answer (n : Nat) (x : CollEng) : (s.setEngine n x).answer = s.answer := rfl
@[simp] theorem State.setEngine_free (n : Nat) (x : CollEng) : (s.setEngine n x).free = s.free := rfl
@[simp] theorem State.setEngine_pending (n : Nat) (x : CollEng) : (s.setEngine n x).pending = s.pending := rfl

/-! ### setWin -/

@[simp] theorem State.setWin_grade (c i j : Nat) (w : Word) : (s.setWin c i j w).grade = s.grade := rfl
@[simp] theorem State.setWin_regs (c i j : Nat) (w : Word) : (s.setWin c i j w).regs = s.regs := rfl
@[simp] theorem State.setWin_mem (c i j : Nat) (w : Word) : (s.setWin c i j w).mem = s.mem := rfl
@[simp] theorem State.setWin_stamp (c i j : Nat) (w : Word) : (s.setWin c i j w).stamp = s.stamp := rfl
@[simp] theorem State.setWin_atomErrs (c i j : Nat) (w : Word) : (s.setWin c i j w).atomErrs = s.atomErrs := rfl
@[simp] theorem State.setWin_bursts (c i j : Nat) (w : Word) : (s.setWin c i j w).bursts = s.bursts := rfl
@[simp] theorem State.setWin_pinHits (c i j : Nat) (w : Word) : (s.setWin c i j w).pinHits = s.pinHits := rfl
@[simp] theorem State.setWin_caErrs (c i j : Nat) (w : Word) : (s.setWin c i j w).caErrs = s.caErrs := rfl
@[simp] theorem State.setWin_upsets (c i j : Nat) (w : Word) : (s.setWin c i j w).upsets = s.upsets := rfl
@[simp] theorem State.setWin_loaders (c i j : Nat) (w : Word) : (s.setWin c i j w).loaders = s.loaders := rfl
@[simp] theorem State.setWin_svcs (c i j : Nat) (w : Word) : (s.setWin c i j w).svcs = s.svcs := rfl
@[simp] theorem State.setWin_pastures (c i j : Nat) (w : Word) : (s.setWin c i j w).pastures = s.pastures := rfl
@[simp] theorem State.setWin_cores (c i j : Nat) (w : Word) : (s.setWin c i j w).cores = s.cores := rfl
@[simp] theorem State.setWin_frozen (c i j : Nat) (w : Word) : (s.setWin c i j w).frozen = s.frozen := rfl
@[simp] theorem State.setWin_qps (c i j : Nat) (w : Word) : (s.setWin c i j w).qps = s.qps := rfl
@[simp] theorem State.setWin_ports (c i j : Nat) (w : Word) : (s.setWin c i j w).ports = s.ports := rfl
@[simp] theorem State.setWin_msix (c i j : Nat) (w : Word) : (s.setWin c i j w).msix = s.msix := rfl
@[simp] theorem State.setWin_hostOut (c i j : Nat) (w : Word) : (s.setWin c i j w).hostOut = s.hostOut := rfl
@[simp] theorem State.setWin_heldRecs (c i j : Nat) (w : Word) : (s.setWin c i j w).heldRecs = s.heldRecs := rfl
@[simp] theorem State.setWin_links (c i j : Nat) (w : Word) : (s.setWin c i j w).links = s.links := rfl
@[simp] theorem State.setWin_nsrs (c i j : Nat) (w : Word) : (s.setWin c i j w).nsrs = s.nsrs := rfl
@[simp] theorem State.setWin_appliers (c i j : Nat) (w : Word) : (s.setWin c i j w).appliers = s.appliers := rfl
@[simp] theorem State.setWin_drovers (c i j : Nat) (w : Word) : (s.setWin c i j w).drovers = s.drovers := rfl
@[simp] theorem State.setWin_trhs (c i j : Nat) (w : Word) : (s.setWin c i j w).trhs = s.trhs := rfl
@[simp] theorem State.setWin_engines (c i j : Nat) (w : Word) : (s.setWin c i j w).engines = s.engines := rfl
@[simp] theorem State.setWin_collIn (c i j : Nat) (w : Word) : (s.setWin c i j w).collIn = s.collIn := rfl
@[simp] theorem State.setWin_collSeq (c i j : Nat) (w : Word) : (s.setWin c i j w).collSeq = s.collSeq := rfl
@[simp] theorem State.setWin_calls (c i j : Nat) (w : Word) : (s.setWin c i j w).calls = s.calls := rfl
@[simp] theorem State.setWin_roll (c i j : Nat) (w : Word) : (s.setWin c i j w).roll = s.roll := rfl
@[simp] theorem State.setWin_rcd (c i j : Nat) (w : Word) : (s.setWin c i j w).rcd = s.rcd := rfl
@[simp] theorem State.setWin_jobRanks (c i j : Nat) (w : Word) : (s.setWin c i j w).jobRanks = s.jobRanks := rfl
@[simp] theorem State.setWin_lineOut (c i j : Nat) (w : Word) : (s.setWin c i j w).lineOut = s.lineOut := rfl
@[simp] theorem State.setWin_reqs (c i j : Nat) (w : Word) : (s.setWin c i j w).reqs = s.reqs := rfl
@[simp] theorem State.setWin_nextTag (c i j : Nat) (w : Word) : (s.setWin c i j w).nextTag = s.nextTag := rfl
@[simp] theorem State.setWin_scheds (c i j : Nat) (w : Word) : (s.setWin c i j w).scheds = s.scheds := rfl
@[simp] theorem State.setWin_sram (c i j : Nat) (w : Word) : (s.setWin c i j w).sram = s.sram := rfl
@[simp] theorem State.setWin_mram (c i j : Nat) (w : Word) : (s.setWin c i j w).mram = s.mram := rfl
@[simp] theorem State.setWin_logClosed (c i j : Nat) (w : Word) : (s.setWin c i j w).logClosed = s.logClosed := rfl
@[simp] theorem State.setWin_flush (c i j : Nat) (w : Word) : (s.setWin c i j w).flush = s.flush := rfl
@[simp] theorem State.setWin_flushes (c i j : Nat) (w : Word) : (s.setWin c i j w).flushes = s.flushes := rfl
@[simp] theorem State.setWin_str (c i j : Nat) (w : Word) : (s.setWin c i j w).str = s.str := rfl
@[simp] theorem State.setWin_meas (c i j : Nat) (w : Word) : (s.setWin c i j w).meas = s.meas := rfl
@[simp] theorem State.setWin_committed (c i j : Nat) (w : Word) : (s.setWin c i j w).committed = s.committed := rfl
@[simp] theorem State.setWin_sec (c i j : Nat) (w : Word) : (s.setWin c i j w).sec = s.sec := rfl
@[simp] theorem State.setWin_pwr (c i j : Nat) (w : Word) : (s.setWin c i j w).pwr = s.pwr := rfl
@[simp] theorem State.setWin_mgt (c i j : Nat) (w : Word) : (s.setWin c i j w).mgt = s.mgt := rfl
@[simp] theorem State.setWin_released (c i j : Nat) (w : Word) : (s.setWin c i j w).released = s.released := rfl
@[simp] theorem State.setWin_powerFailed (c i j : Nat) (w : Word) : (s.setWin c i j w).powerFailed = s.powerFailed := rfl
@[simp] theorem State.setWin_sysRst (c i j : Nat) (w : Word) : (s.setWin c i j w).sysRst = s.sysRst := rfl
@[simp] theorem State.setWin_thermTrip (c i j : Nat) (w : Word) : (s.setWin c i j w).thermTrip = s.thermTrip := rfl
@[simp] theorem State.setWin_vioDown (c i j : Nat) (w : Word) : (s.setWin c i j w).vioDown = s.vioDown := rfl
@[simp] theorem State.setWin_fabricCut (c i j : Nat) (w : Word) : (s.setWin c i j w).fabricCut = s.fabricCut := rfl
@[simp] theorem State.setWin_untrained (c i j : Nat) (w : Word) : (s.setWin c i j w).untrained = s.untrained := rfl
@[simp] theorem State.setWin_answer (c i j : Nat) (w : Word) : (s.setWin c i j w).answer = s.answer := rfl
@[simp] theorem State.setWin_free (c i j : Nat) (w : Word) : (s.setWin c i j w).free = s.free := rfl
@[simp] theorem State.setWin_pending (c i j : Nat) (w : Word) : (s.setWin c i j w).pending = s.pending := rfl

/-! ### setSecWord -/

@[simp] theorem State.setSecWord_grade (i : Nat) (w : Word) : (s.setSecWord i w).grade = s.grade := rfl
@[simp] theorem State.setSecWord_regs (i : Nat) (w : Word) : (s.setSecWord i w).regs = s.regs := rfl
@[simp] theorem State.setSecWord_mem (i : Nat) (w : Word) : (s.setSecWord i w).mem = s.mem := rfl
@[simp] theorem State.setSecWord_stamp (i : Nat) (w : Word) : (s.setSecWord i w).stamp = s.stamp := rfl
@[simp] theorem State.setSecWord_atomErrs (i : Nat) (w : Word) : (s.setSecWord i w).atomErrs = s.atomErrs := rfl
@[simp] theorem State.setSecWord_bursts (i : Nat) (w : Word) : (s.setSecWord i w).bursts = s.bursts := rfl
@[simp] theorem State.setSecWord_pinHits (i : Nat) (w : Word) : (s.setSecWord i w).pinHits = s.pinHits := rfl
@[simp] theorem State.setSecWord_caErrs (i : Nat) (w : Word) : (s.setSecWord i w).caErrs = s.caErrs := rfl
@[simp] theorem State.setSecWord_upsets (i : Nat) (w : Word) : (s.setSecWord i w).upsets = s.upsets := rfl
@[simp] theorem State.setSecWord_loaders (i : Nat) (w : Word) : (s.setSecWord i w).loaders = s.loaders := rfl
@[simp] theorem State.setSecWord_svcs (i : Nat) (w : Word) : (s.setSecWord i w).svcs = s.svcs := rfl
@[simp] theorem State.setSecWord_pastures (i : Nat) (w : Word) : (s.setSecWord i w).pastures = s.pastures := rfl
@[simp] theorem State.setSecWord_cores (i : Nat) (w : Word) : (s.setSecWord i w).cores = s.cores := rfl
@[simp] theorem State.setSecWord_windows (i : Nat) (w : Word) : (s.setSecWord i w).windows = s.windows := rfl
@[simp] theorem State.setSecWord_frozen (i : Nat) (w : Word) : (s.setSecWord i w).frozen = s.frozen := rfl
@[simp] theorem State.setSecWord_qps (i : Nat) (w : Word) : (s.setSecWord i w).qps = s.qps := rfl
@[simp] theorem State.setSecWord_ports (i : Nat) (w : Word) : (s.setSecWord i w).ports = s.ports := rfl
@[simp] theorem State.setSecWord_msix (i : Nat) (w : Word) : (s.setSecWord i w).msix = s.msix := rfl
@[simp] theorem State.setSecWord_hostOut (i : Nat) (w : Word) : (s.setSecWord i w).hostOut = s.hostOut := rfl
@[simp] theorem State.setSecWord_heldRecs (i : Nat) (w : Word) : (s.setSecWord i w).heldRecs = s.heldRecs := rfl
@[simp] theorem State.setSecWord_links (i : Nat) (w : Word) : (s.setSecWord i w).links = s.links := rfl
@[simp] theorem State.setSecWord_nsrs (i : Nat) (w : Word) : (s.setSecWord i w).nsrs = s.nsrs := rfl
@[simp] theorem State.setSecWord_appliers (i : Nat) (w : Word) : (s.setSecWord i w).appliers = s.appliers := rfl
@[simp] theorem State.setSecWord_drovers (i : Nat) (w : Word) : (s.setSecWord i w).drovers = s.drovers := rfl
@[simp] theorem State.setSecWord_trhs (i : Nat) (w : Word) : (s.setSecWord i w).trhs = s.trhs := rfl
@[simp] theorem State.setSecWord_engines (i : Nat) (w : Word) : (s.setSecWord i w).engines = s.engines := rfl
@[simp] theorem State.setSecWord_collIn (i : Nat) (w : Word) : (s.setSecWord i w).collIn = s.collIn := rfl
@[simp] theorem State.setSecWord_collSeq (i : Nat) (w : Word) : (s.setSecWord i w).collSeq = s.collSeq := rfl
@[simp] theorem State.setSecWord_calls (i : Nat) (w : Word) : (s.setSecWord i w).calls = s.calls := rfl
@[simp] theorem State.setSecWord_roll (i : Nat) (w : Word) : (s.setSecWord i w).roll = s.roll := rfl
@[simp] theorem State.setSecWord_rcd (i : Nat) (w : Word) : (s.setSecWord i w).rcd = s.rcd := rfl
@[simp] theorem State.setSecWord_jobRanks (i : Nat) (w : Word) : (s.setSecWord i w).jobRanks = s.jobRanks := rfl
@[simp] theorem State.setSecWord_lineOut (i : Nat) (w : Word) : (s.setSecWord i w).lineOut = s.lineOut := rfl
@[simp] theorem State.setSecWord_reqs (i : Nat) (w : Word) : (s.setSecWord i w).reqs = s.reqs := rfl
@[simp] theorem State.setSecWord_nextTag (i : Nat) (w : Word) : (s.setSecWord i w).nextTag = s.nextTag := rfl
@[simp] theorem State.setSecWord_scheds (i : Nat) (w : Word) : (s.setSecWord i w).scheds = s.scheds := rfl
@[simp] theorem State.setSecWord_sram (i : Nat) (w : Word) : (s.setSecWord i w).sram = s.sram := rfl
@[simp] theorem State.setSecWord_mram (i : Nat) (w : Word) : (s.setSecWord i w).mram = s.mram := rfl
@[simp] theorem State.setSecWord_logClosed (i : Nat) (w : Word) : (s.setSecWord i w).logClosed = s.logClosed := rfl
@[simp] theorem State.setSecWord_flush (i : Nat) (w : Word) : (s.setSecWord i w).flush = s.flush := rfl
@[simp] theorem State.setSecWord_flushes (i : Nat) (w : Word) : (s.setSecWord i w).flushes = s.flushes := rfl
@[simp] theorem State.setSecWord_str (i : Nat) (w : Word) : (s.setSecWord i w).str = s.str := rfl
@[simp] theorem State.setSecWord_meas (i : Nat) (w : Word) : (s.setSecWord i w).meas = s.meas := rfl
@[simp] theorem State.setSecWord_committed (i : Nat) (w : Word) : (s.setSecWord i w).committed = s.committed := rfl
@[simp] theorem State.setSecWord_pwr (i : Nat) (w : Word) : (s.setSecWord i w).pwr = s.pwr := rfl
@[simp] theorem State.setSecWord_mgt (i : Nat) (w : Word) : (s.setSecWord i w).mgt = s.mgt := rfl
@[simp] theorem State.setSecWord_released (i : Nat) (w : Word) : (s.setSecWord i w).released = s.released := rfl
@[simp] theorem State.setSecWord_powerFailed (i : Nat) (w : Word) : (s.setSecWord i w).powerFailed = s.powerFailed := rfl
@[simp] theorem State.setSecWord_sysRst (i : Nat) (w : Word) : (s.setSecWord i w).sysRst = s.sysRst := rfl
@[simp] theorem State.setSecWord_thermTrip (i : Nat) (w : Word) : (s.setSecWord i w).thermTrip = s.thermTrip := rfl
@[simp] theorem State.setSecWord_vioDown (i : Nat) (w : Word) : (s.setSecWord i w).vioDown = s.vioDown := rfl
@[simp] theorem State.setSecWord_fabricCut (i : Nat) (w : Word) : (s.setSecWord i w).fabricCut = s.fabricCut := rfl
@[simp] theorem State.setSecWord_untrained (i : Nat) (w : Word) : (s.setSecWord i w).untrained = s.untrained := rfl
@[simp] theorem State.setSecWord_answer (i : Nat) (w : Word) : (s.setSecWord i w).answer = s.answer := rfl
@[simp] theorem State.setSecWord_free (i : Nat) (w : Word) : (s.setSecWord i w).free = s.free := rfl
@[simp] theorem State.setSecWord_pending (i : Nat) (w : Word) : (s.setSecWord i w).pending = s.pending := rfl

/-! ### msixOn -/

@[simp] theorem State.msixOn_grade (p v : Nat) : (s.msixOn p v).grade = s.grade := rfl
@[simp] theorem State.msixOn_regs (p v : Nat) : (s.msixOn p v).regs = s.regs := rfl
@[simp] theorem State.msixOn_mem (p v : Nat) : (s.msixOn p v).mem = s.mem := rfl
@[simp] theorem State.msixOn_stamp (p v : Nat) : (s.msixOn p v).stamp = s.stamp := rfl
@[simp] theorem State.msixOn_atomErrs (p v : Nat) : (s.msixOn p v).atomErrs = s.atomErrs := rfl
@[simp] theorem State.msixOn_bursts (p v : Nat) : (s.msixOn p v).bursts = s.bursts := rfl
@[simp] theorem State.msixOn_pinHits (p v : Nat) : (s.msixOn p v).pinHits = s.pinHits := rfl
@[simp] theorem State.msixOn_caErrs (p v : Nat) : (s.msixOn p v).caErrs = s.caErrs := rfl
@[simp] theorem State.msixOn_upsets (p v : Nat) : (s.msixOn p v).upsets = s.upsets := rfl
@[simp] theorem State.msixOn_loaders (p v : Nat) : (s.msixOn p v).loaders = s.loaders := rfl
@[simp] theorem State.msixOn_svcs (p v : Nat) : (s.msixOn p v).svcs = s.svcs := rfl
@[simp] theorem State.msixOn_pastures (p v : Nat) : (s.msixOn p v).pastures = s.pastures := rfl
@[simp] theorem State.msixOn_cores (p v : Nat) : (s.msixOn p v).cores = s.cores := rfl
@[simp] theorem State.msixOn_windows (p v : Nat) : (s.msixOn p v).windows = s.windows := rfl
@[simp] theorem State.msixOn_frozen (p v : Nat) : (s.msixOn p v).frozen = s.frozen := rfl
@[simp] theorem State.msixOn_qps (p v : Nat) : (s.msixOn p v).qps = s.qps := rfl
@[simp] theorem State.msixOn_ports (p v : Nat) : (s.msixOn p v).ports = s.ports := rfl
@[simp] theorem State.msixOn_hostOut (p v : Nat) : (s.msixOn p v).hostOut = s.hostOut := rfl
@[simp] theorem State.msixOn_heldRecs (p v : Nat) : (s.msixOn p v).heldRecs = s.heldRecs := rfl
@[simp] theorem State.msixOn_links (p v : Nat) : (s.msixOn p v).links = s.links := rfl
@[simp] theorem State.msixOn_nsrs (p v : Nat) : (s.msixOn p v).nsrs = s.nsrs := rfl
@[simp] theorem State.msixOn_appliers (p v : Nat) : (s.msixOn p v).appliers = s.appliers := rfl
@[simp] theorem State.msixOn_drovers (p v : Nat) : (s.msixOn p v).drovers = s.drovers := rfl
@[simp] theorem State.msixOn_trhs (p v : Nat) : (s.msixOn p v).trhs = s.trhs := rfl
@[simp] theorem State.msixOn_engines (p v : Nat) : (s.msixOn p v).engines = s.engines := rfl
@[simp] theorem State.msixOn_collIn (p v : Nat) : (s.msixOn p v).collIn = s.collIn := rfl
@[simp] theorem State.msixOn_collSeq (p v : Nat) : (s.msixOn p v).collSeq = s.collSeq := rfl
@[simp] theorem State.msixOn_calls (p v : Nat) : (s.msixOn p v).calls = s.calls := rfl
@[simp] theorem State.msixOn_roll (p v : Nat) : (s.msixOn p v).roll = s.roll := rfl
@[simp] theorem State.msixOn_rcd (p v : Nat) : (s.msixOn p v).rcd = s.rcd := rfl
@[simp] theorem State.msixOn_jobRanks (p v : Nat) : (s.msixOn p v).jobRanks = s.jobRanks := rfl
@[simp] theorem State.msixOn_lineOut (p v : Nat) : (s.msixOn p v).lineOut = s.lineOut := rfl
@[simp] theorem State.msixOn_reqs (p v : Nat) : (s.msixOn p v).reqs = s.reqs := rfl
@[simp] theorem State.msixOn_nextTag (p v : Nat) : (s.msixOn p v).nextTag = s.nextTag := rfl
@[simp] theorem State.msixOn_scheds (p v : Nat) : (s.msixOn p v).scheds = s.scheds := rfl
@[simp] theorem State.msixOn_sram (p v : Nat) : (s.msixOn p v).sram = s.sram := rfl
@[simp] theorem State.msixOn_mram (p v : Nat) : (s.msixOn p v).mram = s.mram := rfl
@[simp] theorem State.msixOn_logClosed (p v : Nat) : (s.msixOn p v).logClosed = s.logClosed := rfl
@[simp] theorem State.msixOn_flush (p v : Nat) : (s.msixOn p v).flush = s.flush := rfl
@[simp] theorem State.msixOn_flushes (p v : Nat) : (s.msixOn p v).flushes = s.flushes := rfl
@[simp] theorem State.msixOn_str (p v : Nat) : (s.msixOn p v).str = s.str := rfl
@[simp] theorem State.msixOn_meas (p v : Nat) : (s.msixOn p v).meas = s.meas := rfl
@[simp] theorem State.msixOn_committed (p v : Nat) : (s.msixOn p v).committed = s.committed := rfl
@[simp] theorem State.msixOn_sec (p v : Nat) : (s.msixOn p v).sec = s.sec := rfl
@[simp] theorem State.msixOn_pwr (p v : Nat) : (s.msixOn p v).pwr = s.pwr := rfl
@[simp] theorem State.msixOn_mgt (p v : Nat) : (s.msixOn p v).mgt = s.mgt := rfl
@[simp] theorem State.msixOn_released (p v : Nat) : (s.msixOn p v).released = s.released := rfl
@[simp] theorem State.msixOn_powerFailed (p v : Nat) : (s.msixOn p v).powerFailed = s.powerFailed := rfl
@[simp] theorem State.msixOn_sysRst (p v : Nat) : (s.msixOn p v).sysRst = s.sysRst := rfl
@[simp] theorem State.msixOn_thermTrip (p v : Nat) : (s.msixOn p v).thermTrip = s.thermTrip := rfl
@[simp] theorem State.msixOn_vioDown (p v : Nat) : (s.msixOn p v).vioDown = s.vioDown := rfl
@[simp] theorem State.msixOn_fabricCut (p v : Nat) : (s.msixOn p v).fabricCut = s.fabricCut := rfl
@[simp] theorem State.msixOn_untrained (p v : Nat) : (s.msixOn p v).untrained = s.untrained := rfl
@[simp] theorem State.msixOn_answer (p v : Nat) : (s.msixOn p v).answer = s.answer := rfl
@[simp] theorem State.msixOn_free (p v : Nat) : (s.msixOn p v).free = s.free := rfl
@[simp] theorem State.msixOn_pending (p v : Nat) : (s.msixOn p v).pending = s.pending := rfl

/-! ### msixBoth -/

@[simp] theorem State.msixBoth_grade (v : Nat) : (s.msixBoth v).grade = s.grade := rfl
@[simp] theorem State.msixBoth_regs (v : Nat) : (s.msixBoth v).regs = s.regs := rfl
@[simp] theorem State.msixBoth_mem (v : Nat) : (s.msixBoth v).mem = s.mem := rfl
@[simp] theorem State.msixBoth_stamp (v : Nat) : (s.msixBoth v).stamp = s.stamp := rfl
@[simp] theorem State.msixBoth_atomErrs (v : Nat) : (s.msixBoth v).atomErrs = s.atomErrs := rfl
@[simp] theorem State.msixBoth_bursts (v : Nat) : (s.msixBoth v).bursts = s.bursts := rfl
@[simp] theorem State.msixBoth_pinHits (v : Nat) : (s.msixBoth v).pinHits = s.pinHits := rfl
@[simp] theorem State.msixBoth_caErrs (v : Nat) : (s.msixBoth v).caErrs = s.caErrs := rfl
@[simp] theorem State.msixBoth_upsets (v : Nat) : (s.msixBoth v).upsets = s.upsets := rfl
@[simp] theorem State.msixBoth_loaders (v : Nat) : (s.msixBoth v).loaders = s.loaders := rfl
@[simp] theorem State.msixBoth_svcs (v : Nat) : (s.msixBoth v).svcs = s.svcs := rfl
@[simp] theorem State.msixBoth_pastures (v : Nat) : (s.msixBoth v).pastures = s.pastures := rfl
@[simp] theorem State.msixBoth_cores (v : Nat) : (s.msixBoth v).cores = s.cores := rfl
@[simp] theorem State.msixBoth_windows (v : Nat) : (s.msixBoth v).windows = s.windows := rfl
@[simp] theorem State.msixBoth_frozen (v : Nat) : (s.msixBoth v).frozen = s.frozen := rfl
@[simp] theorem State.msixBoth_qps (v : Nat) : (s.msixBoth v).qps = s.qps := rfl
@[simp] theorem State.msixBoth_ports (v : Nat) : (s.msixBoth v).ports = s.ports := rfl
@[simp] theorem State.msixBoth_hostOut (v : Nat) : (s.msixBoth v).hostOut = s.hostOut := rfl
@[simp] theorem State.msixBoth_heldRecs (v : Nat) : (s.msixBoth v).heldRecs = s.heldRecs := rfl
@[simp] theorem State.msixBoth_links (v : Nat) : (s.msixBoth v).links = s.links := rfl
@[simp] theorem State.msixBoth_nsrs (v : Nat) : (s.msixBoth v).nsrs = s.nsrs := rfl
@[simp] theorem State.msixBoth_appliers (v : Nat) : (s.msixBoth v).appliers = s.appliers := rfl
@[simp] theorem State.msixBoth_drovers (v : Nat) : (s.msixBoth v).drovers = s.drovers := rfl
@[simp] theorem State.msixBoth_trhs (v : Nat) : (s.msixBoth v).trhs = s.trhs := rfl
@[simp] theorem State.msixBoth_engines (v : Nat) : (s.msixBoth v).engines = s.engines := rfl
@[simp] theorem State.msixBoth_collIn (v : Nat) : (s.msixBoth v).collIn = s.collIn := rfl
@[simp] theorem State.msixBoth_collSeq (v : Nat) : (s.msixBoth v).collSeq = s.collSeq := rfl
@[simp] theorem State.msixBoth_calls (v : Nat) : (s.msixBoth v).calls = s.calls := rfl
@[simp] theorem State.msixBoth_roll (v : Nat) : (s.msixBoth v).roll = s.roll := rfl
@[simp] theorem State.msixBoth_rcd (v : Nat) : (s.msixBoth v).rcd = s.rcd := rfl
@[simp] theorem State.msixBoth_jobRanks (v : Nat) : (s.msixBoth v).jobRanks = s.jobRanks := rfl
@[simp] theorem State.msixBoth_lineOut (v : Nat) : (s.msixBoth v).lineOut = s.lineOut := rfl
@[simp] theorem State.msixBoth_reqs (v : Nat) : (s.msixBoth v).reqs = s.reqs := rfl
@[simp] theorem State.msixBoth_nextTag (v : Nat) : (s.msixBoth v).nextTag = s.nextTag := rfl
@[simp] theorem State.msixBoth_scheds (v : Nat) : (s.msixBoth v).scheds = s.scheds := rfl
@[simp] theorem State.msixBoth_sram (v : Nat) : (s.msixBoth v).sram = s.sram := rfl
@[simp] theorem State.msixBoth_mram (v : Nat) : (s.msixBoth v).mram = s.mram := rfl
@[simp] theorem State.msixBoth_logClosed (v : Nat) : (s.msixBoth v).logClosed = s.logClosed := rfl
@[simp] theorem State.msixBoth_flush (v : Nat) : (s.msixBoth v).flush = s.flush := rfl
@[simp] theorem State.msixBoth_flushes (v : Nat) : (s.msixBoth v).flushes = s.flushes := rfl
@[simp] theorem State.msixBoth_str (v : Nat) : (s.msixBoth v).str = s.str := rfl
@[simp] theorem State.msixBoth_meas (v : Nat) : (s.msixBoth v).meas = s.meas := rfl
@[simp] theorem State.msixBoth_committed (v : Nat) : (s.msixBoth v).committed = s.committed := rfl
@[simp] theorem State.msixBoth_sec (v : Nat) : (s.msixBoth v).sec = s.sec := rfl
@[simp] theorem State.msixBoth_pwr (v : Nat) : (s.msixBoth v).pwr = s.pwr := rfl
@[simp] theorem State.msixBoth_mgt (v : Nat) : (s.msixBoth v).mgt = s.mgt := rfl
@[simp] theorem State.msixBoth_released (v : Nat) : (s.msixBoth v).released = s.released := rfl
@[simp] theorem State.msixBoth_powerFailed (v : Nat) : (s.msixBoth v).powerFailed = s.powerFailed := rfl
@[simp] theorem State.msixBoth_sysRst (v : Nat) : (s.msixBoth v).sysRst = s.sysRst := rfl
@[simp] theorem State.msixBoth_thermTrip (v : Nat) : (s.msixBoth v).thermTrip = s.thermTrip := rfl
@[simp] theorem State.msixBoth_vioDown (v : Nat) : (s.msixBoth v).vioDown = s.vioDown := rfl
@[simp] theorem State.msixBoth_fabricCut (v : Nat) : (s.msixBoth v).fabricCut = s.fabricCut := rfl
@[simp] theorem State.msixBoth_untrained (v : Nat) : (s.msixBoth v).untrained = s.untrained := rfl
@[simp] theorem State.msixBoth_answer (v : Nat) : (s.msixBoth v).answer = s.answer := rfl
@[simp] theorem State.msixBoth_free (v : Nat) : (s.msixBoth v).free = s.free := rfl
@[simp] theorem State.msixBoth_pending (v : Nat) : (s.msixBoth v).pending = s.pending := rfl

/-! ### Reading after writing -/

/-- A register reads as what was stored, and no other register changes. -/
theorem State.reg_setReg (off k : Nat) (w : Word) :
    (s.setReg off w).reg k = if k = off then w else s.reg k := spGet_spSet _ _ _ _ _

@[simp] theorem State.reg_setReg_self (off : Nat) (w : Word) : (s.setReg off w).reg off = w := spGet_spSet_self _ _ _ _

theorem State.reg_setReg_other {off k : Nat} (w : Word) (h : k ≠ off) : (s.setReg off w).reg k = s.reg k :=
  spGet_spSet_other _ _ _ h

theorem State.reg_setFld_other {off k : Nat} (f : Fld) (v : Nat) (h : k ≠ off) :
    (s.setFld off f v).reg k = s.reg k := s.reg_setReg_other _ h

@[simp] theorem State.reg_setFld_self (off : Nat) (f : Fld) (v : Nat) :
    (s.setFld off f v).reg off = fset f v (s.reg off) := s.reg_setReg_self _ _

/-- A field reads as what was stored, modulo its width. -/
theorem State.fld_setFld_self (off : Nat) (f : Fld) (v : Nat) (h1 : f.lo ≤ f.hi) (h2 : f.hi < 64) :
    (s.setFld off f v).fld off f = v % 2 ^ f.width := by
  simp [State.fld, fget_fset_self f v _ h1 h2]

theorem State.reg_flag_other {off k : Nat} (f : Fld) (h : k ≠ off) : (s.flag off f).reg k = s.reg k :=
  s.reg_setFld_other f 1 h

theorem State.reg_count_other {off k : Nat} (n : Nat) (h : k ≠ off) : (s.count off n).reg k = s.reg k :=
  s.reg_setReg_other _ h

@[simp] theorem State.reg_count_self (off n : Nat) : (s.count off n).reg off = satWord n (s.reg off) :=
  s.reg_setReg_self _ _

theorem State.reg_wide_other {off k : Nat} (n : Nat) (h : k ≠ off) : (s.wide off n).reg k = s.reg k :=
  s.reg_setReg_other _ h

@[simp] theorem State.reg_wide_self (off n : Nat) : (s.wide off n).reg off = s.reg off + BitVec.ofNat 64 n :=
  s.reg_setReg_self _ _

/-- A byte of memory reads as what was stored, and no other byte changes. -/
theorem State.byte_setByte (a k : Nat) (b : Byte) :
    (s.setByte a b).byte k = if k = a then b else s.byte k := spGet_spSet _ _ _ _ _

@[simp] theorem State.byte_setReg (off k : Nat) (w : Word) : (s.setReg off w).byte k = s.byte k := rfl

@[simp] theorem State.core_setCore_self (c : Nat) (x : Core) : (s.setCore c x).core c = x := spGet_spSet_self _ _ _ _

theorem State.core_setCore_other {c k : Nat} (x : Core) (h : k ≠ c) : (s.setCore c x).core k = s.core k :=
  spGet_spSet_other _ _ _ h

@[simp] theorem State.qp_setQp_self (n : Nat) (x : Qp) : (s.setQp n x).qp n = x := spGet_spSet_self _ _ _ _

@[simp] theorem State.sched_setSched_self (n : Nat) (x : Sched) : (s.setSched n x).sched n = x := spGet_spSet_self _ _ _ _

theorem State.sched_setSched_other {n k : Nat} (x : Sched) (h : k ≠ n) : (s.setSched n x).sched k = s.sched k :=
  spGet_spSet_other _ _ _ h

@[simp] theorem State.lnk_setLnk_self (n : Nat) (x : Lnk) : (s.setLnk n x).lnk n = x := spGet_spSet_self _ _ _ _

@[simp] theorem State.nsr_setNsr_self (n : Nat) (x : Nsr) : (s.setNsr n x).nsr n = x := spGet_spSet_self _ _ _ _

@[simp] theorem State.applier_setApplier_self (n : Nat) (x : Applier) : (s.setApplier n x).applier n = x :=
  spGet_spSet_self _ _ _ _

@[simp] theorem State.drover_setDrover_self (n : Nat) (x : Drover) : (s.setDrover n x).drover n = x :=
  spGet_spSet_self _ _ _ _

@[simp] theorem State.trh_setTrh_self (n : Nat) (x : Trh) : (s.setTrh n x).trh n = x := spGet_spSet_self _ _ _ _

@[simp] theorem State.engine_setEngine_self (n : Nat) (x : CollEng) : (s.setEngine n x).engine n = x :=
  spGet_spSet_self _ _ _ _

@[simp] theorem State.win_setWin_self (c i k : Nat) (w : Word) : (s.setWin c i k w).win c i k = w :=
  spGet_spSet_self _ _ _ _

@[simp] theorem State.secWord_setSecWord_self (i : Nat) (w : Word) : (s.setSecWord i w).secWord i = w :=
  spGet_spSet_self _ _ _ _

/-! ### Registers are untouched by the other stores -/

@[simp] theorem State.reg_setByte (a : Nat) (b : Byte) (k : Nat) : (s.setByte a b).reg k = s.reg k := rfl
@[simp] theorem State.live_setByte (a : Nat) (b : Byte) : (s.setByte a b).live = s.live := rfl
@[simp] theorem State.reg_setBadSyms (a v : Nat) (k : Nat) : (s.setBadSyms a v).reg k = s.reg k := rfl
@[simp] theorem State.live_setBadSyms (a v : Nat) : (s.setBadSyms a v).live = s.live := rfl
@[simp] theorem State.reg_setParityErrs (p n : Nat) (k : Nat) : (s.setParityErrs p n).reg k = s.reg k := rfl
@[simp] theorem State.live_setParityErrs (p n : Nat) : (s.setParityErrs p n).live = s.live := rfl
@[simp] theorem State.reg_setCore (c : Nat) (x : Core) (k : Nat) : (s.setCore c x).reg k = s.reg k := rfl
@[simp] theorem State.live_setCore (c : Nat) (x : Core) : (s.setCore c x).live = s.live := rfl
@[simp] theorem State.reg_onCore (c : Nat) (f : Core → Core) (k : Nat) : (s.onCore c f).reg k = s.reg k := rfl
@[simp] theorem State.live_onCore (c : Nat) (f : Core → Core) : (s.onCore c f).live = s.live := rfl
@[simp] theorem State.reg_setQp (n : Nat) (x : Qp) (k : Nat) : (s.setQp n x).reg k = s.reg k := rfl
@[simp] theorem State.live_setQp (n : Nat) (x : Qp) : (s.setQp n x).live = s.live := rfl
@[simp] theorem State.reg_setPortCfg (n : Nat) (x : PortCfg) (k : Nat) : (s.setPortCfg n x).reg k = s.reg k := rfl
@[simp] theorem State.live_setPortCfg (n : Nat) (x : PortCfg) : (s.setPortCfg n x).live = s.live := rfl
@[simp] theorem State.reg_setSched (n : Nat) (x : Sched) (k : Nat) : (s.setSched n x).reg k = s.reg k := rfl
@[simp] theorem State.live_setSched (n : Nat) (x : Sched) : (s.setSched n x).live = s.live := rfl
@[simp] theorem State.reg_setLnk (n : Nat) (x : Lnk) (k : Nat) : (s.setLnk n x).reg k = s.reg k := rfl
@[simp] theorem State.live_setLnk (n : Nat) (x : Lnk) : (s.setLnk n x).live = s.live := rfl
@[simp] theorem State.reg_setNsr (n : Nat) (x : Nsr) (k : Nat) : (s.setNsr n x).reg k = s.reg k := rfl
@[simp] theorem State.live_setNsr (n : Nat) (x : Nsr) : (s.setNsr n x).live = s.live := rfl
@[simp] theorem State.reg_setApplier (n : Nat) (x : Applier) (k : Nat) : (s.setApplier n x).reg k = s.reg k := rfl
@[simp] theorem State.live_setApplier (n : Nat) (x : Applier) : (s.setApplier n x).live = s.live := rfl
@[simp] theorem State.reg_setDrover (n : Nat) (x : Drover) (k : Nat) : (s.setDrover n x).reg k = s.reg k := rfl
@[simp] theorem State.live_setDrover (n : Nat) (x : Drover) : (s.setDrover n x).live = s.live := rfl
@[simp] theorem State.reg_setTrh (n : Nat) (x : Trh) (k : Nat) : (s.setTrh n x).reg k = s.reg k := rfl
@[simp] theorem State.live_setTrh (n : Nat) (x : Trh) : (s.setTrh n x).live = s.live := rfl
@[simp] theorem State.reg_setEngine (n : Nat) (x : CollEng) (k : Nat) : (s.setEngine n x).reg k = s.reg k := rfl
@[simp] theorem State.live_setEngine (n : Nat) (x : CollEng) : (s.setEngine n x).live = s.live := rfl
@[simp] theorem State.reg_setWin (c i j : Nat) (w : Word) (k : Nat) : (s.setWin c i j w).reg k = s.reg k := rfl
@[simp] theorem State.live_setWin (c i j : Nat) (w : Word) : (s.setWin c i j w).live = s.live := rfl
@[simp] theorem State.reg_setSecWord (i : Nat) (w : Word) (k : Nat) : (s.setSecWord i w).reg k = s.reg k := rfl
@[simp] theorem State.live_setSecWord (i : Nat) (w : Word) : (s.setSecWord i w).live = s.live := rfl
@[simp] theorem State.reg_msixOn (p v : Nat) (k : Nat) : (s.msixOn p v).reg k = s.reg k := rfl
@[simp] theorem State.live_msixOn (p v : Nat) : (s.msixOn p v).live = s.live := rfl
@[simp] theorem State.reg_msixBoth (v : Nat) (k : Nat) : (s.msixBoth v).reg k = s.reg k := rfl
@[simp] theorem State.live_msixBoth (v : Nat) : (s.msixBoth v).live = s.live := rfl
@[simp] theorem State.byte_setFld (off : Nat) (f : Fld) (v : Nat) (k : Nat) : (s.setFld off f v).byte k = s.byte k := rfl
@[simp] theorem State.byte_flag (off : Nat) (f : Fld) (k : Nat) : (s.flag off f).byte k = s.byte k := rfl
@[simp] theorem State.byte_count (off n : Nat) (k : Nat) : (s.count off n).byte k = s.byte k := rfl
@[simp] theorem State.byte_clearCount (off : Nat) (k : Nat) : (s.clearCount off).byte k = s.byte k := rfl
@[simp] theorem State.byte_wide (off n : Nat) (k : Nat) : (s.wide off n).byte k = s.byte k := rfl
@[simp] theorem State.byte_setBadSyms (a v : Nat) (k : Nat) : (s.setBadSyms a v).byte k = s.byte k := rfl
@[simp] theorem State.byte_setParityErrs (p n : Nat) (k : Nat) : (s.setParityErrs p n).byte k = s.byte k := rfl
@[simp] theorem State.byte_setCore (c : Nat) (x : Core) (k : Nat) : (s.setCore c x).byte k = s.byte k := rfl
@[simp] theorem State.byte_onCore (c : Nat) (f : Core → Core) (k : Nat) : (s.onCore c f).byte k = s.byte k := rfl
@[simp] theorem State.byte_setQp (n : Nat) (x : Qp) (k : Nat) : (s.setQp n x).byte k = s.byte k := rfl
@[simp] theorem State.byte_setPortCfg (n : Nat) (x : PortCfg) (k : Nat) : (s.setPortCfg n x).byte k = s.byte k := rfl
@[simp] theorem State.byte_setSched (n : Nat) (x : Sched) (k : Nat) : (s.setSched n x).byte k = s.byte k := rfl
@[simp] theorem State.byte_setLnk (n : Nat) (x : Lnk) (k : Nat) : (s.setLnk n x).byte k = s.byte k := rfl
@[simp] theorem State.byte_setNsr (n : Nat) (x : Nsr) (k : Nat) : (s.setNsr n x).byte k = s.byte k := rfl
@[simp] theorem State.byte_setApplier (n : Nat) (x : Applier) (k : Nat) : (s.setApplier n x).byte k = s.byte k := rfl
@[simp] theorem State.byte_setDrover (n : Nat) (x : Drover) (k : Nat) : (s.setDrover n x).byte k = s.byte k := rfl
@[simp] theorem State.byte_setTrh (n : Nat) (x : Trh) (k : Nat) : (s.setTrh n x).byte k = s.byte k := rfl
@[simp] theorem State.byte_setEngine (n : Nat) (x : CollEng) (k : Nat) : (s.setEngine n x).byte k = s.byte k := rfl
@[simp] theorem State.byte_setWin (c i j : Nat) (w : Word) (k : Nat) : (s.setWin c i j w).byte k = s.byte k := rfl
@[simp] theorem State.byte_setSecWord (i : Nat) (w : Word) (k : Nat) : (s.setSecWord i w).byte k = s.byte k := rfl
@[simp] theorem State.byte_msixOn (p v : Nat) (k : Nat) : (s.msixOn p v).byte k = s.byte k := rfl
@[simp] theorem State.byte_msixBoth (v : Nat) (k : Nat) : (s.msixBoth v).byte k = s.byte k := rfl

end Sys2Proof.Machine
end

