-- ==== Sys2Proof/Laws/Ops.lean ====
section
/-! SUPPORT. What the shared operations can do: which fields each changes, which registers it leaves alone, and that each keeps the
canonical form of the stores. -/

namespace Sys2Proof.Machine

variable (s : State)

/-! ### Canonical form -/

/-- A store of a register keeps the canonical form. -/
theorem canonical_setReg {s : State} (off : Nat) (w : Word) (h : Canonical s) : Canonical (s.setReg off w) :=
  ⟨h.1, spSet_wf _ _ _ _ h.2⟩

theorem canonical_setFld {s : State} (off : Nat) (f : Fld) (v : Nat) (h : Canonical s) : Canonical (s.setFld off f v) :=
  canonical_setReg _ _ h

theorem canonical_flag {s : State} (off : Nat) (f : Fld) (h : Canonical s) : Canonical (s.flag off f) := canonical_setReg _ _ h

theorem canonical_count {s : State} (off n : Nat) (h : Canonical s) : Canonical (s.count off n) := canonical_setReg _ _ h

theorem canonical_clearCount {s : State} (off : Nat) (h : Canonical s) : Canonical (s.clearCount off) := canonical_setReg _ _ h

theorem canonical_wide {s : State} (off n : Nat) (h : Canonical s) : Canonical (s.wide off n) := canonical_setReg _ _ h

/-- A store of a byte keeps the canonical form. -/
theorem canonical_setByte {s : State} (a : Nat) (b : Byte) (h : Canonical s) : Canonical (s.setByte a b) :=
  ⟨spSet_wf _ _ _ _ h.1, h.2⟩

/-- A change of other state keeps the canonical form. -/
theorem canonical_congr {s t : State} (h : Canonical s) (h1 : t.mem = s.mem) (h2 : t.stamp = s.stamp) (h3 : t.regs = s.regs)
    (h4 : t.grade = s.grade) : Canonical t := by
  unfold Canonical; rw [h1, h2, h3, h4]; exact h

theorem canonical_foldl {α : Type} {f : State → α → State} (hf : ∀ s a, Canonical s → Canonical (f s a)) (l : List α) :
    ∀ s, Canonical s → Canonical (l.foldl f s) := by
  induction l with
  | nil => exact fun _ h => h
  | cons a t ih => exact fun s h => ih _ (hf s a h)

theorem canonical_setBytes (bs : List Byte) : ∀ (s : State) (a : Nat), Canonical s → Canonical (s.setBytes a bs) := by
  induction bs with
  | nil => exact fun _ _ h => h
  | cons b t ih => exact fun s a h => ih _ _ (canonical_setByte a b h)

theorem canonical_putBytes (keep : Nat → Bool) (bs : List Byte) :
    ∀ (s : State) (a : Nat), Canonical s → Canonical (putBytes keep s a bs) := by
  induction bs with
  | nil => exact fun _ _ h => h
  | cons b t ih =>
    intro s a h
    rw [putBytes]
    split
    · exact ih _ _ (canonical_setByte a b h)
    · exact ih _ _ h

/-! ### Relations between the state before and after an operation -/

/-- An operation of the scheduler's and the Logbook's kind: nothing but registers, schedulers, vectors, the Logbook's SRAM, the
frozen sub-masters and the draw changes. -/
def Recorded (s t : State) : Prop :=
  t = { s with regs := t.regs, scheds := t.scheds, msix := t.msix, sram := t.sram, frozen := t.frozen, free := t.free }

theorem recorded_refl (s : State) : Recorded s s := rfl

theorem recorded_trans {s t u : State} (h1 : Recorded s t) (h2 : Recorded t u) : Recorded s u := by
  unfold Recorded at *; rw [h2, h1]

theorem recorded_setReg (off : Nat) (w : Word) : Recorded s (s.setReg off w) := rfl

theorem recorded_flag (off : Nat) (f : Fld) : Recorded s (s.flag off f) := recorded_setReg s _ _

theorem recorded_count (off n : Nat) : Recorded s (s.count off n) := recorded_setReg s _ _

theorem recorded_wide (off n : Nat) : Recorded s (s.wide off n) := recorded_setReg s _ _

theorem recorded_msixBoth (v : Nat) : Recorded s (s.msixBoth v) := rfl

theorem regsBut_refl (l : List Nat) (s : State) : RegsBut l s s := fun _ _ => rfl

theorem regsBut_trans {l : List Nat} {s t u : State} (h1 : RegsBut l s t) (h2 : RegsBut l t u) : RegsBut l s u :=
  fun k hk => (h2 k hk).trans (h1 k hk)

theorem regsBut_mono {l m : List Nat} {s t : State} (h : ∀ k ∈ l, k ∈ m) (h1 : RegsBut l s t) : RegsBut m s t :=
  fun k hk => h1 k (fun hl => hk (h k hl))

theorem regsBut_setReg {l : List Nat} {off : Nat} (w : Word) (h : off ∈ l) : RegsBut l s (s.setReg off w) :=
  fun _ hk => s.reg_setReg_other w (fun he => hk (he ▸ h))

theorem recorded_foldl {α : Type} {f : State → α → State} (hf : ∀ s a, Recorded s (f s a)) (l : List α) :
    ∀ s, Recorded s (l.foldl f s) := by
  induction l with
  | nil => exact fun s => recorded_refl s
  | cons a t ih => exact fun s => recorded_trans (hf s a) (ih _)

/-! ### Events and the Logbook -/

theorem recorded_event (f src arg : Nat) : Recorded s (s.event f src arg) := by
  unfold State.event
  dsimp only
  split
  · rfl
  · split
    · rfl
    · exact recorded_trans (recorded_trans (s := s) (by exact rfl) (recorded_count _ _ _)) (recorded_flag _ _ _)

theorem canonical_event {s : State} (f src arg : Nat) (h : Canonical s) : Canonical (s.event f src arg) := by
  unfold State.event
  dsimp only
  split
  · exact canonical_congr h rfl rfl rfl rfl
  · split
    · exact canonical_congr h rfl rfl rfl rfl
    · exact canonical_flag _ _ (canonical_count _ _ (canonical_congr h rfl rfl rfl rfl))

theorem event_reg {f : Nat} (src arg k : Nat) (h1 : k ≠ SCH_STALLS f) (h2 : k ≠ SCH_ERR f) :
    (s.event f src arg).reg k = s.reg k := by
  unfold State.event
  dsimp only
  split
  · rfl
  · split
    · rfl
    · rw [State.reg_flag_other _ _ h2, State.reg_count_other _ _ h1]; rfl

theorem recorded_eventAll (src arg : Nat) : Recorded s (s.eventAll src arg) :=
  recorded_foldl (fun s f => recorded_event s f src arg) _ s

theorem canonical_eventAll {s : State} (src arg : Nat) (h : Canonical s) : Canonical (s.eventAll src arg) :=
  canonical_foldl (fun _ f h => canonical_event f src arg h) _ s h

theorem eventAll_reg (src arg k : Nat) (h : k ∉ recordRegs) : (s.eventAll src arg).reg k = s.reg k := by
  simp only [recordRegs, List.mem_cons, not_or] at h
  obtain ⟨-, -, -, a0, a1, a2, a3, b0, b1, b2, b3, -⟩ := h
  simp only [State.eventAll, List.foldl]
  rw [event_reg _ _ _ _ a3 b3, event_reg _ _ _ _ a2 b2, event_reg _ _ _ _ a1 b1, event_reg _ _ _ _ a0 b0]

theorem recorded_log (code kind inst p0 p1 p2 p3 : Nat) : Recorded s (s.log code kind inst p0 p1 p2 p3) := by
  unfold State.log
  split
  · rfl
  · split
    · rfl
    · dsimp only
      split
      · rfl
      · split
        · exact recorded_trans (s := s) (by exact rfl) (recorded_eventAll _ _ _)
        · rfl

theorem canonical_log {s : State} (code kind inst p0 p1 p2 p3 : Nat) (h : Canonical s) :
    Canonical (s.log code kind inst p0 p1 p2 p3) := by
  unfold State.log
  split
  · exact h
  · split
    · exact canonical_count _ _ h
    · dsimp only
      have hw : ∀ (m : Sparse (BitVec 256)) (n : Nat), Canonical (({ s with sram := m } : State).wide LOG_SRAM_HEAD n) :=
        fun m n => canonical_wide _ _ (canonical_congr h rfl rfl rfl rfl)
      split
      · exact canonical_count _ _ h
      · split
        · exact canonical_eventAll _ _ (canonical_congr (hw _ _) rfl rfl rfl rfl)
        · exact hw _ _

theorem log_reg (code kind inst p0 p1 p2 p3 k : Nat) (h : k ∉ recordRegs) :
    (s.log code kind inst p0 p1 p2 p3).reg k = s.reg k := by
  have h' := h
  simp only [recordRegs, List.mem_cons, not_or] at h
  obtain ⟨hl, hd, hs, -⟩ := h
  unfold State.log
  split
  · rfl
  · split
    · exact State.reg_count_other _ _ hl
    · dsimp only
      split
      · exact State.reg_count_other _ _ hd
      · split
        · rw [eventAll_reg _ _ _ _ h', State.reg_msixBoth, State.reg_wide_other _ _ hs]; rfl
        · rw [State.reg_wide_other _ _ hs]; rfl

theorem recorded_logFree (code kind inst : Nat) : Recorded s (s.logFree code kind inst) :=
  recorded_trans (s := s) (by exact rfl) (recorded_log _ _ _ _ _ _ _ _)

theorem canonical_logFree {s : State} (code kind inst : Nat) (h : Canonical s) : Canonical (s.logFree code kind inst) :=
  canonical_log _ _ _ _ _ _ _ (canonical_congr h rfl rfl rfl rfl)

theorem logFree_reg (code kind inst k : Nat) (h : k ∉ recordRegs) : (s.logFree code kind inst).reg k = s.reg k :=
  log_reg _ _ _ _ _ _ _ _ k h

/-! ### The Hall monitor -/

theorem recorded_violate (m : Mst) (code kind gaddr p1 p2 p3 : Nat) : Recorded s (s.violate m code kind gaddr p1 p2 p3) := by
  unfold State.violate
  dsimp only
  refine recorded_trans ?_ (recorded_eventAll _ _ _)
  refine recorded_trans (t := State.log _ _ _ _ _ _ _ _) ?_ (by exact rfl)
  refine recorded_trans ?_ (recorded_log _ _ _ _ _ _ _ _)
  split <;> rfl

theorem canonical_violate {s : State} (m : Mst) (code kind gaddr p1 p2 p3 : Nat) (h : Canonical s) :
    Canonical (s.violate m code kind gaddr p1 p2 p3) := by
  unfold State.violate
  dsimp only
  refine canonical_eventAll _ _ (canonical_congr (canonical_log _ _ _ _ _ _ _ (canonical_count _ _ (canonical_setReg _ _
    (canonical_setReg _ _ ?_)))) rfl rfl rfl rfl)
  split
  · exact h
  · exact canonical_congr h rfl rfl rfl rfl

/-- A violation writes HMN_VIOL, HMN_VIOL_ADDR, HMN_VIOLATIONS and what recording writes, no other register. -/
theorem violate_reg (m : Mst) (code kind gaddr p1 p2 p3 k : Nat) (h : k ∉ recordRegs) (h1 : k ≠ HMN_VIOL)
    (h2 : k ≠ HMN_VIOL_ADDR) (h3 : k ≠ HMN_VIOLATIONS) : (s.violate m code kind gaddr p1 p2 p3).reg k = s.reg k := by
  unfold State.violate
  dsimp only
  rw [eventAll_reg _ _ _ _ h, State.reg_msixBoth, log_reg _ _ _ _ _ _ _ _ _ h, State.reg_count_other _ _ h3,
    State.reg_setReg_other _ _ h2, State.reg_setReg_other _ _ h1]
  split <;> rfl

theorem recorded_frozenCommand (m : Mst) (status : Nat) : Recorded s (s.frozenCommand m status) := by
  unfold State.frozenCommand
  dsimp only
  split
  · exact recorded_trans (s := s) (by exact rfl) (recorded_log _ _ _ _ _ _ _ _)
  · rfl

theorem canonical_frozenCommand {s : State} (m : Mst) (status : Nat) (h : Canonical s) :
    Canonical (s.frozenCommand m status) := by
  unfold State.frozenCommand
  dsimp only
  split
  · exact canonical_log _ _ _ _ _ _ _ (canonical_congr (canonical_count HMN_VIOLATIONS 1 h) rfl rfl rfl rfl)
  · exact canonical_count _ _ h

theorem recorded_thaw (all : Bool) (cls sub by_ : Nat) : Recorded s (s.thaw all cls sub by_) := by
  unfold State.thaw
  dsimp only
  split
  · rfl
  · exact recorded_trans (s := s) (by exact rfl) (recorded_log _ _ _ _ _ _ _ _)

theorem canonical_thaw {s : State} (all : Bool) (cls sub by_ : Nat) (h : Canonical s) : Canonical (s.thaw all cls sub by_) := by
  unfold State.thaw
  dsimp only
  split
  · exact h
  · exact canonical_log _ _ _ _ _ _ _ (canonical_congr h rfl rfl rfl rfl)

/-! ### Local memory -/

/-- What the counters, the marks, the errors and the records of an access change: never a byte of memory. -/
def Counted (s t : State) : Prop :=
  t = { s with regs := t.regs, scheds := t.scheds, msix := t.msix, sram := t.sram, frozen := t.frozen, free := t.free,
               atomErrs := t.atomErrs, bursts := t.bursts, pinHits := t.pinHits, caErrs := t.caErrs, upsets := t.upsets }

theorem counted_refl (s : State) : Counted s s := rfl

theorem counted_trans {s t u : State} (h1 : Counted s t) (h2 : Counted t u) : Counted s u := by
  unfold Counted at *; rw [h2, h1]

theorem counted_of_recorded {s t : State} (h : Recorded s t) : Counted s t := by
  unfold Recorded at h; unfold Counted; rw [h]

theorem counted_foldl {α : Type} {f : State → α → State} (hf : ∀ s a, Counted s (f s a)) (l : List α) :
    ∀ s, Counted s (l.foldl f s) := by
  induction l with
  | nil => exact fun s => counted_refl s
  | cons a t ih => exact fun s => counted_trans (hf s a) (ih _)

theorem counted_autoMark (p pc pin : Nat) (told : Bool) : Counted s (autoMark s p pc pin told) := by
  unfold autoMark
  dsimp only
  split
  · exact counted_of_recorded (recorded_trans (recorded_trans (recorded_setReg s _ _) (recorded_flag _ _ _)) (recorded_log _ _ _ _ _ _ _ _))
  · split
    · exact counted_of_recorded (recorded_log _ _ _ _ _ _ _ _)
    · rfl

theorem counted_pinHit (p pc pin : Nat) : Counted s (pinHit p pc s pin) := by
  unfold pinHit
  dsimp only
  split
  · exact counted_trans (s := s) (by exact rfl) (counted_autoMark _ _ _ _ _)
  · rfl

theorem counted_burst (atom : Nat) : Counted s (burst s atom) := by
  unfold burst
  dsimp only
  split
  · rfl
  · split <;> rfl

theorem counted_corrected (atom : Nat) : Counted s (corrected s atom) := by
  unfold corrected
  dsimp only
  split
  · exact counted_trans (counted_of_recorded (recorded_trans (recorded_count s _ _) (recorded_flag _ _ _)))
      (counted_foldl (fun s pin => counted_pinHit s _ _ pin) _ _)
  · exact counted_of_recorded (recorded_trans (recorded_count s _ _) (recorded_flag _ _ _))

theorem counted_ueRead (atom : Nat) : Counted s (ueRead s atom) := by
  unfold ueRead
  dsimp only
  exact counted_of_recorded (recorded_trans (recorded_trans (recorded_trans (recorded_trans (recorded_count s _ _) (recorded_flag _ _ _))
    (recorded_setReg _ _ _)) (recorded_log _ _ _ _ _ _ _ _)) (recorded_msixBoth _ _))

theorem counted_stackCommand (atom : Nat) : Counted s (stackCommand s atom).2 := by
  unfold stackCommand
  dsimp only
  split <;> rfl

theorem counted_readAtom (atom : Nat) : Counted s (readAtom s atom).2 := by
  have hs := counted_stackCommand s atom
  unfold readAtom
  split
  · rfl
  · dsimp only
    split
    · exact counted_trans hs (counted_ueRead _ _)
    · have hb : Counted s (burst ((stackCommand s atom).2.wide (MEM_BYTES_READ (pastureOf (atom * 64))) 64) atom) :=
        counted_trans hs (counted_trans (counted_of_recorded (recorded_wide _ _ _)) (counted_burst _ atom))
      split
      · exact hb
      · exact counted_trans hb (counted_corrected _ _)
      · exact counted_trans hb (counted_ueRead _ _)

theorem counted_setBadSyms (atom v : Nat) : Counted s (s.setBadSyms atom v) := rfl

theorem counted_storeAtom (atom : Nat) : Counted s (storeAtom s atom) := by
  have hb : Counted s (burst (s.wide (MEM_BYTES_WRITTEN (pastureOf (atom * 64))) 64) atom) :=
    counted_trans (counted_of_recorded (recorded_wide s _ _)) (counted_burst _ atom)
  unfold storeAtom
  generalize burst (s.wide (MEM_BYTES_WRITTEN (pastureOf (atom * 64))) 64) atom = u at hb ⊢
  exact counted_trans hb (counted_setBadSyms u atom 0)

theorem counted_writeAtom (a n atom : Nat) : Counted s (writeAtom a n s atom).2 := by
  have hr := counted_readAtom s atom
  have hs := counted_stackCommand s atom
  unfold writeAtom
  split
  · rfl
  · by_cases hw : coversAtom a n atom = true
    · cases hl : stackCommand s atom with
      | mk lost u =>
        rw [hl] at hs
        cases lost
        · simpa [hw] using counted_trans hs (counted_storeAtom u atom)
        · simpa [hw] using counted_trans hs (counted_ueRead u atom)
    · cases hl : readAtom s atom with
      | mk lost u =>
        rw [hl] at hr
        cases lost
        · simpa [hw] using counted_trans hr (counted_storeAtom u atom)
        · simpa [hw] using hr

theorem counted_eachAtom {f : State → Nat → Bool × State} (hf : ∀ s t, Counted s (f s t).2) (l : List Nat) :
    ∀ s, Counted s (eachAtom f l s).2 := by
  induction l with
  | nil => exact fun s => counted_refl s
  | cons t l ih => exact fun s => counted_trans (hf s t) (ih _)

theorem counted_sramCorrected : Counted s (sramCorrected s) :=
  counted_of_recorded (recorded_trans (recorded_count s _ _) (recorded_flag _ _ _))

theorem counted_sramReport (kind inst off act : Nat) : Counted s (sramReport kind inst off act s) :=
  counted_of_recorded (recorded_trans (recorded_trans (recorded_count s _ _) (recorded_setReg _ _ _)) (recorded_log _ _ _ _ _ _ _ _))

theorem counted_sramData (kind inst off : Nat) : Counted s (sramData kind inst off s) :=
  counted_trans (counted_sramReport s _ _ _ _) (counted_of_recorded (recorded_flag _ _ _))

theorem counted_meetUpsets (l : List Upset) (s : State) : Counted s (meetUpsets l s).2 := by
  induction l with
  | nil => exact counted_refl s
  | cons u t ih =>
    rw [meetUpsets]
    dsimp only
    split
    · exact counted_trans ih (counted_sramData _ _ _ _)
    · exact counted_trans ih (counted_trans (by exact rfl) (counted_sramCorrected _))

theorem counted_meetSram (a n : Nat) : Counted s (meetSram a n s).2 := by
  unfold meetSram
  split
  · exact counted_refl s
  · exact counted_meetUpsets _ _

theorem counted_writeSram (a n : Nat) : Counted s (writeSram a n s).2 := by
  unfold writeSram
  split
  · exact counted_refl s
  · exact counted_trans (by exact rfl) (counted_meetUpsets _ _)

theorem counted_readMem (a n : Nat) : Counted s (s.readMem a n).2.2 :=
  counted_trans (counted_eachAtom counted_readAtom (atomsOf a n) s) (counted_meetSram _ _ _)

/-- A read of memory changes no byte of it. -/
theorem readMem_mem (a n : Nat) : (s.readMem a n).2.2.mem = s.mem := by
  have h := counted_readMem s a n
  unfold Counted at h
  rw [h]

theorem readMem_byte (a n k : Nat) : (s.readMem a n).2.2.byte k = s.byte k := by
  have h := counted_readMem s a n
  unfold Counted at h
  rw [h]; rfl

/-- Reading structures in memory changes no byte of it. -/
theorem counted_touch (l : List (Nat × Nat)) : ∀ s : State, Counted s (s.touch l).2 := by
  induction l with
  | nil => exact fun s => counted_refl s
  | cons p t ih => exact fun s => counted_trans (counted_readMem s p.1 p.2) (ih _)

/-- What the bytes of a write do to a byte of memory. -/
theorem putBytes_byte (keep : Nat → Bool) (bs : List Byte) : ∀ (s : State) (a k : Nat),
    (putBytes keep s a bs).byte k =
      if a ≤ k ∧ k < a + bs.length ∧ keep k = true then (bs[k - a]?).getD 0 else s.byte k := by
  induction bs with
  | nil => intro s a k; rw [putBytes, if_neg (by simp; omega)]
  | cons b t ih =>
    intro s a k
    rw [putBytes, ih]
    by_cases hk : k = a
    · subst hk
      rw [if_neg (by omega)]
      by_cases hkeep : keep k = true
      · simp [hkeep, State.byte_setByte]
      · simp [hkeep]
    · have hlen : (b :: t).length = t.length + 1 := rfl
      by_cases hr : a + 1 ≤ k ∧ k < a + 1 + t.length ∧ keep k = true
      · rw [if_pos hr, if_pos ⟨by omega, by omega, hr.2.2⟩]
        have : k - a = (k - (a + 1)) + 1 := by omega
        rw [this, List.getElem?_cons_succ]
      · have hr' : ¬(a ≤ k ∧ k < a + (b :: t).length ∧ keep k = true) := by
          rintro ⟨h1, h2, h3⟩
          exact hr ⟨by omega, by omega, h3⟩
        rw [if_neg hr, if_neg hr']
        by_cases hkeep : keep a = true
        · rw [if_pos hkeep, State.byte_setByte, if_neg hk]
        · rw [if_neg hkeep]

theorem putBytes_shape (keep : Nat → Bool) (bs : List Byte) : ∀ (s : State) (a : Nat),
    putBytes keep s a bs = { s with mem := (putBytes keep s a bs).mem } := by
  induction bs with
  | nil => intro s a; rfl
  | cons b t ih =>
    intro s a
    rw [putBytes, ih]
    split <;> rfl

/-- What a write settles before it stores its bytes: the atoms that failed, and the state with the counters and records. -/
def writeSettled (s : State) (a n : Nat) : List Nat × State :=
  ((eachAtom (writeAtom a n) (atomsOf a n) s).1, (writeSram a n (eachAtom (writeAtom a n) (atomsOf a n) s).2).2)

theorem counted_writeSettled (a n : Nat) : Counted s (writeSettled s a n).2 :=
  counted_trans (counted_eachAtom (fun s t => counted_writeAtom s a n t) _ s) (counted_writeSram _ _ _)

theorem putMem_eq (a : Nat) (bs : List Byte) :
    (s.putMem a bs).2 = putBytes (writeKept (writeSettled s a bs.length).2 (writeSettled s a bs.length).1) (writeSettled s a bs.length).2 a bs := rfl

theorem counted_setMem {s t : State} (h : Counted s t) (m : Sparse Byte) : Counted { s with mem := m } { t with mem := m } := by
  unfold Counted at *; rw [h]

/-- A write of memory changes memory, counters, errors and records, nothing else. -/
theorem putMem_shape (a : Nat) (bs : List Byte) : Counted { s with mem := (s.putMem a bs).2.mem } (s.putMem a bs).2 := by
  have e := putBytes_shape (writeKept (writeSettled s a bs.length).2 (writeSettled s a bs.length).1) bs (writeSettled s a bs.length).2 a
  rw [putMem_eq, e]
  exact counted_setMem (counted_writeSettled s a bs.length) _

/-- What a write of memory does to each byte: the bytes written change, but for those of an atom that is not written (R279) and of an
SRAM word with a double-bit error that it covers in part; every other byte reads as before. -/
theorem putMem_byte (a : Nat) (bs : List Byte) (k : Nat) :
    (s.putMem a bs).2.byte k =
      if a ≤ k ∧ k < a + bs.length ∧ writeKept (writeSettled s a bs.length).2 (writeSettled s a bs.length).1 k = true then (bs[k - a]?).getD 0
      else s.byte k := by
  have h := counted_writeSettled s a bs.length
  have e : (writeSettled s a bs.length).2.byte k = s.byte k := by unfold Counted at h; rw [h]; rfl
  rw [putMem_eq, putBytes_byte, e]

/-- A unit's own write is dropped where the load area takes none, and is put there elsewhere (R398, R399). -/
theorem writeMem_snd (a : Nat) (bs : List Byte) : (s.writeMem a bs).2 = if loadShut s a then s else (s.putMem a bs).2 := by
  unfold State.writeMem; split <;> rfl

/-- A unit's own write changes memory, counters, errors and records, nothing else. -/
theorem writeMem_shape (a : Nat) (bs : List Byte) : Counted { s with mem := (s.writeMem a bs).2.mem } (s.writeMem a bs).2 := by
  rw [writeMem_snd]
  split
  · exact counted_refl _
  · exact putMem_shape s a bs

/-- A unit's own write leaves every byte outside the bytes written as it was. -/
theorem writeMem_byte_other (a : Nat) (bs : List Byte) (k : Nat) (h : k < a ∨ a + bs.length ≤ k) :
    (s.writeMem a bs).2.byte k = s.byte k := by
  rw [writeMem_snd]
  split
  · rfl
  · rw [putMem_byte, if_neg (by omega)]

end Sys2Proof.Machine
end

