-- ==== Sys2Proof/Laws/RegMap.lean ====
section
/-! SUPPORT. Where the registers that commands act on lie in the register map, and what a permitted write of one comes to. -/

namespace Sys2Proof.Machine

/-! ### Blocks -/

theorem findBlk_here {off : Nat} {b : Blk} {t : List Blk}
    (h : b.place.1 ≤ off ∧ off < b.place.1 + b.place.2.1 * b.place.2.2) :
    findBlk off (b :: t) = some (b, (off - b.place.1) / b.place.2.1, (off - b.place.1) % b.place.2.1) := by
  rw [findBlk]; exact if_pos h

theorem findBlk_next {off : Nat} {b : Blk} {t : List Blk}
    (h : ¬(b.place.1 ≤ off ∧ off < b.place.1 + b.place.2.1 * b.place.2.2)) : findBlk off (b :: t) = findBlk off t := by
  rw [findBlk]; exact if_neg h

theorem findBlk_glb (rel : Nat) (hr : rel < 0x10000) : findBlk (0x0 + rel) allBlks = some (.glb, 0, rel) := by
  have h1 : (0x0 + rel - 0x0) / 0x10000 = 0 := by omega
  have h2 : (0x0 + rel - 0x0) % 0x10000 = rel := by omega
  rw [allBlks]
  repeat (first | rw [findBlk_here (by simp only [Blk.place]; omega)] | rw [findBlk_next (by simp only [Blk.place]; omega)])
  simp only [Blk.place, h1, h2]

theorem findBlk_hmn (rel : Nat) (hr : rel < 0x10000) : findBlk (0x100000 + rel) allBlks = some (.hmn, 0, rel) := by
  have h1 : (0x100000 + rel - 0x100000) / 0x10000 = 0 := by omega
  have h2 : (0x100000 + rel - 0x100000) % 0x10000 = rel := by omega
  rw [allBlks]
  repeat (first | rw [findBlk_here (by simp only [Blk.place]; omega)] | rw [findBlk_next (by simp only [Blk.place]; omega)])
  simp only [Blk.place, h1, h2]

theorem findBlk_log (rel : Nat) (hr : rel < 0x20000) : findBlk (0x200000 + rel) allBlks = some (.log, 0, rel) := by
  have h1 : (0x200000 + rel - 0x200000) / 0x20000 = 0 := by omega
  have h2 : (0x200000 + rel - 0x200000) % 0x20000 = rel := by omega
  rw [allBlks]
  repeat (first | rw [findBlk_here (by simp only [Blk.place]; omega)] | rw [findBlk_next (by simp only [Blk.place]; omega)])
  simp only [Blk.place, h1, h2]

theorem findBlk_str (rel : Nat) (hr : rel < 0x10000) : findBlk (0x400000 + rel) allBlks = some (.str, 0, rel) := by
  have h1 : (0x400000 + rel - 0x400000) / 0x10000 = 0 := by omega
  have h2 : (0x400000 + rel - 0x400000) % 0x10000 = rel := by omega
  rw [allBlks]
  repeat (first | rw [findBlk_here (by simp only [Blk.place]; omega)] | rw [findBlk_next (by simp only [Blk.place]; omega)])
  simp only [Blk.place, h1, h2]

theorem findBlk_que (u rel : Nat) (hu : u < 16384) (hr : rel < 0x40) :
    findBlk (0x800000 + rel + u * 0x40) allBlks = some (.que, u, rel) := by
  have h1 : (0x800000 + rel + u * 0x40 - 0x800000) / 0x40 = u := by omega
  have h2 : (0x800000 + rel + u * 0x40 - 0x800000) % 0x40 = rel := by omega
  rw [allBlks]
  repeat (first | rw [findBlk_here (by simp only [Blk.place]; omega)] | rw [findBlk_next (by simp only [Blk.place]; omega)])
  simp only [Blk.place, h1, h2]

theorem findBlk_cor (u rel : Nat) (hu : u < 32) (hr : rel < 0x40000) :
    findBlk (0x1000000 + rel + u * 0x40000) allBlks = some (.cor, u, rel) := by
  have h1 : (0x1000000 + rel + u * 0x40000 - 0x1000000) / 0x40000 = u := by omega
  have h2 : (0x1000000 + rel + u * 0x40000 - 0x1000000) % 0x40000 = rel := by omega
  rw [allBlks]
  repeat (first | rw [findBlk_here (by simp only [Blk.place]; omega)] | rw [findBlk_next (by simp only [Blk.place]; omega)])
  simp only [Blk.place, h1, h2]

theorem findBlk_drv (u rel : Nat) (hu : u < 4) (hr : rel < 0x40000) :
    findBlk (0x1800000 + rel + u * 0x40000) allBlks = some (.drv, u, rel) := by
  have h1 : (0x1800000 + rel + u * 0x40000 - 0x1800000) / 0x40000 = u := by omega
  have h2 : (0x1800000 + rel + u * 0x40000 - 0x1800000) % 0x40000 = rel := by omega
  rw [allBlks]
  repeat (first | rw [findBlk_here (by simp only [Blk.place]; omega)] | rw [findBlk_next (by simp only [Blk.place]; omega)])
  simp only [Blk.place, h1, h2]

theorem findBlk_mem (u rel : Nat) (hu : u < 8) (hr : rel < 0x20000) :
    findBlk (0x1C00000 + rel + u * 0x20000) allBlks = some (.mem, u, rel) := by
  have h1 : (0x1C00000 + rel + u * 0x20000 - 0x1C00000) / 0x20000 = u := by omega
  have h2 : (0x1C00000 + rel + u * 0x20000 - 0x1C00000) % 0x20000 = rel := by omega
  rw [allBlks]
  repeat (first | rw [findBlk_here (by simp only [Blk.place]; omega)] | rw [findBlk_next (by simp only [Blk.place]; omega)])
  simp only [Blk.place, h1, h2]

theorem findBlk_sram (rel : Nat) (hr : rel < 0x1000) : findBlk (0x1F00000 + rel) allBlks = some (.sram, 0, rel) := by
  have h1 : (0x1F00000 + rel - 0x1F00000) / 0x1000 = 0 := by omega
  have h2 : (0x1F00000 + rel - 0x1F00000) % 0x1000 = rel := by omega
  rw [allBlks]
  repeat (first | rw [findBlk_here (by simp only [Blk.place]; omega)] | rw [findBlk_next (by simp only [Blk.place]; omega)])
  simp only [Blk.place, h1, h2]

theorem findBlk_lnk (u rel : Nat) (hu : u < 96) (hr : rel < 0x4000) :
    findBlk (0x2000000 + rel + u * 0x4000) allBlks = some (.lnk, u, rel) := by
  have h1 : (0x2000000 + rel + u * 0x4000 - 0x2000000) / 0x4000 = u := by omega
  have h2 : (0x2000000 + rel + u * 0x4000 - 0x2000000) % 0x4000 = rel := by omega
  rw [allBlks]
  repeat (first | rw [findBlk_here (by simp only [Blk.place]; omega)] | rw [findBlk_next (by simp only [Blk.place]; omega)])
  simp only [Blk.place, h1, h2]

theorem findBlk_lnkd (rel : Nat) (hr : rel < 0x4000) : findBlk (0x2200000 + rel) allBlks = some (.lnkd, 0, rel) := by
  have h1 : (0x2200000 + rel - 0x2200000) / 0x4000 = 0 := by omega
  have h2 : (0x2200000 + rel - 0x2200000) % 0x4000 = rel := by omega
  rw [allBlks]
  repeat (first | rw [findBlk_here (by simp only [Blk.place]; omega)] | rw [findBlk_next (by simp only [Blk.place]; omega)])
  simp only [Blk.place, h1, h2]

theorem findBlk_col (rel : Nat) (hr : rel < 0x1000) : findBlk (0x2400000 + rel) allBlks = some (.col, 0, rel) := by
  have h1 : (0x2400000 + rel - 0x2400000) / 0x1000 = 0 := by omega
  have h2 : (0x2400000 + rel - 0x2400000) % 0x1000 = rel := by omega
  rw [allBlks]
  repeat (first | rw [findBlk_here (by simp only [Blk.place]; omega)] | rw [findBlk_next (by simp only [Blk.place]; omega)])
  simp only [Blk.place, h1, h2]

theorem findBlk_eng (u rel : Nat) (hu : u < 2) (hr : rel < 0x10000) :
    findBlk (0x2410000 + rel + u * 0x10000) allBlks = some (.eng, u, rel) := by
  have h1 : (0x2410000 + rel + u * 0x10000 - 0x2410000) / 0x10000 = u := by omega
  have h2 : (0x2410000 + rel + u * 0x10000 - 0x2410000) % 0x10000 = rel := by omega
  rw [allBlks]
  repeat (first | rw [findBlk_here (by simp only [Blk.place]; omega)] | rw [findBlk_next (by simp only [Blk.place]; omega)])
  simp only [Blk.place, h1, h2]

theorem findBlk_rcd (rel : Nat) (hr : rel < 0x1000) : findBlk (0x2500000 + rel) allBlks = some (.rcd, 0, rel) := by
  have h1 : (0x2500000 + rel - 0x2500000) / 0x1000 = 0 := by omega
  have h2 : (0x2500000 + rel - 0x2500000) % 0x1000 = rel := by omega
  rw [allBlks]
  repeat (first | rw [findBlk_here (by simp only [Blk.place]; omega)] | rw [findBlk_next (by simp only [Blk.place]; omega)])
  simp only [Blk.place, h1, h2]

theorem findBlk_trh (u rel : Nat) (hu : u < 2) (hr : rel < 0x40000) :
    findBlk (0x2600000 + rel + u * 0x40000) allBlks = some (.trh, u, rel) := by
  have h1 : (0x2600000 + rel + u * 0x40000 - 0x2600000) / 0x40000 = u := by omega
  have h2 : (0x2600000 + rel + u * 0x40000 - 0x2600000) % 0x40000 = rel := by omega
  rw [allBlks]
  repeat (first | rw [findBlk_here (by simp only [Blk.place]; omega)] | rw [findBlk_next (by simp only [Blk.place]; omega)])
  simp only [Blk.place, h1, h2]

theorem findBlk_emb (rel : Nat) (hr : rel < 0x1000) : findBlk (0x2700000 + rel) allBlks = some (.emb, 0, rel) := by
  have h1 : (0x2700000 + rel - 0x2700000) / 0x1000 = 0 := by omega
  have h2 : (0x2700000 + rel - 0x2700000) % 0x1000 = rel := by omega
  rw [allBlks]
  repeat (first | rw [findBlk_here (by simp only [Blk.place]; omega)] | rw [findBlk_next (by simp only [Blk.place]; omega)])
  simp only [Blk.place, h1, h2]

theorem findBlk_schf (u rel : Nat) (hu : u < 4) (hr : rel < 0x10000) :
    findBlk (0x2800000 + rel + u * 0x10000) allBlks = some (.schf, u, rel) := by
  have h1 : (0x2800000 + rel + u * 0x10000 - 0x2800000) / 0x10000 = u := by omega
  have h2 : (0x2800000 + rel + u * 0x10000 - 0x2800000) % 0x10000 = rel := by omega
  rw [allBlks]
  repeat (first | rw [findBlk_here (by simp only [Blk.place]; omega)] | rw [findBlk_next (by simp only [Blk.place]; omega)])
  simp only [Blk.place, h1, h2]

theorem findBlk_schd (rel : Nat) (hr : rel < 0x100) : findBlk (0x2840000 + rel) allBlks = some (.schd, 0, rel) := by
  have h1 : (0x2840000 + rel - 0x2840000) / 0x100 = 0 := by omega
  have h2 : (0x2840000 + rel - 0x2840000) % 0x100 = rel := by omega
  rw [allBlks]
  repeat (first | rw [findBlk_here (by simp only [Blk.place]; omega)] | rw [findBlk_next (by simp only [Blk.place]; omega)])
  simp only [Blk.place, h1, h2]

theorem findBlk_schc (u rel : Nat) (hu : u < 8) (hr : rel < 0x40) :
    findBlk (0x2840100 + rel + u * 0x40) allBlks = some (.schc, u, rel) := by
  have h1 : (0x2840100 + rel + u * 0x40 - 0x2840100) / 0x40 = u := by omega
  have h2 : (0x2840100 + rel + u * 0x40 - 0x2840100) % 0x40 = rel := by omega
  rw [allBlks]
  repeat (first | rw [findBlk_here (by simp only [Blk.place]; omega)] | rw [findBlk_next (by simp only [Blk.place]; omega)])
  simp only [Blk.place, h1, h2]

theorem findBlk_pwr (rel : Nat) (hr : rel < 0x1000) : findBlk (0x3000000 + rel) allBlks = some (.pwr, 0, rel) := by
  have h1 : (0x3000000 + rel - 0x3000000) / 0x1000 = 0 := by omega
  have h2 : (0x3000000 + rel - 0x3000000) % 0x1000 = rel := by omega
  rw [allBlks]
  repeat (first | rw [findBlk_here (by simp only [Blk.place]; omega)] | rw [findBlk_next (by simp only [Blk.place]; omega)])
  simp only [Blk.place, h1, h2]

theorem findBlk_clk (rel : Nat) (hr : rel < 0x1000) : findBlk (0x3010000 + rel) allBlks = some (.clk, 0, rel) := by
  have h1 : (0x3010000 + rel - 0x3010000) / 0x1000 = 0 := by omega
  have h2 : (0x3010000 + rel - 0x3010000) % 0x1000 = rel := by omega
  rw [allBlks]
  repeat (first | rw [findBlk_here (by simp only [Blk.place]; omega)] | rw [findBlk_next (by simp only [Blk.place]; omega)])
  simp only [Blk.place, h1, h2]

theorem findBlk_thm (rel : Nat) (hr : rel < 0x1000) : findBlk (0x3020000 + rel) allBlks = some (.thm, 0, rel) := by
  have h1 : (0x3020000 + rel - 0x3020000) / 0x1000 = 0 := by omega
  have h2 : (0x3020000 + rel - 0x3020000) % 0x1000 = rel := by omega
  rw [allBlks]
  repeat (first | rw [findBlk_here (by simp only [Blk.place]; omega)] | rw [findBlk_next (by simp only [Blk.place]; omega)])
  simp only [Blk.place, h1, h2]

theorem findBlk_sec (rel : Nat) (hr : rel < 0x4000) : findBlk (0x3400000 + rel) allBlks = some (.sec, 0, rel) := by
  have h1 : (0x3400000 + rel - 0x3400000) / 0x4000 = 0 := by omega
  have h2 : (0x3400000 + rel - 0x3400000) % 0x4000 = rel := by omega
  rw [allBlks]
  repeat (first | rw [findBlk_here (by simp only [Blk.place]; omega)] | rw [findBlk_next (by simp only [Blk.place]; omega)])
  simp only [Blk.place, h1, h2]

theorem findBlk_mgt (rel : Nat) (hr : rel < 0x1000) : findBlk (0x3800000 + rel) allBlks = some (.mgt, 0, rel) := by
  have h1 : (0x3800000 + rel - 0x3800000) / 0x1000 = 0 := by omega
  have h2 : (0x3800000 + rel - 0x3800000) % 0x1000 = rel := by omega
  rw [allBlks]
  repeat (first | rw [findBlk_here (by simp only [Blk.place]; omega)] | rw [findBlk_next (by simp only [Blk.place]; omega)])
  simp only [Blk.place, h1, h2]

/-! ### Registers -/

theorem regAt_COR_CTRL (n : Nat) (h : n < 32) : regAt (COR_CTRL n) = some ⟨.cor, n, 0, ⟨0x8, 0, 1, 32, [⟨3, 3, .wo, 0⟩, ⟨2, 2, .wo, 0⟩, ⟨1, 1, .wo, 0⟩, ⟨0, 0, .wo, 0⟩]⟩⟩ := by
  rw [regAt, show COR_CTRL n = 0x1000000 + 0x8 + n * 0x40000 from rfl, findBlk_cor n 0x8 h (by omega)]; rfl

theorem regAt_COR_RETIRE (n : Nat) (h : n < 32) : regAt (COR_RETIRE n) = some ⟨.cor, n, 0, ⟨0x50, 0, 1, 32, [⟨15, 0, .wo, 0⟩]⟩⟩ := by
  rw [regAt, show COR_RETIRE n = 0x1000000 + 0x50 + n * 0x40000 from rfl, findBlk_cor n 0x50 h (by omega)]; rfl

theorem regAt_COR_ARR_CTRL (n : Nat) (h : n < 32) : regAt (COR_ARR_CTRL n) = some ⟨.cor, n, 0, ⟨0x10018, 0, 1, 32, [⟨0, 0, .wo, 0⟩]⟩⟩ := by
  rw [regAt, show COR_ARR_CTRL n = 0x1000000 + 0x10018 + n * 0x40000 from rfl, findBlk_cor n 0x10018 h (by omega)]; rfl

theorem regAt_DRV_CTRL (n : Nat) (h : n < 4) : regAt (DRV_CTRL n) = some ⟨.drv, n, 0, ⟨0x8, 0, 1, 32, [⟨3, 3, .wo, 0⟩, ⟨2, 2, .wo, 0⟩, ⟨1, 1, .wo, 0⟩, ⟨0, 0, .wo, 0⟩]⟩⟩ := by
  rw [regAt, show DRV_CTRL n = 0x1800000 + 0x8 + n * 0x40000 from rfl, findBlk_drv n 0x8 h (by omega)]; rfl

theorem regAt_COL_ENG_CTRL (n : Nat) (h : n < 2) : regAt (COL_ENG_CTRL n) = some ⟨.eng, n, 0, ⟨0x8, 0, 1, 32, [⟨2, 2, .wo, 0⟩, ⟨1, 1, .wo, 0⟩, ⟨0, 0, .wo, 0⟩]⟩⟩ := by
  rw [regAt, show COL_ENG_CTRL n = 0x2410000 + 0x8 + n * 0x10000 from rfl, findBlk_eng n 0x8 h (by omega)]; rfl

theorem regAt_COL_CTRL : regAt COL_CTRL = some ⟨.col, 0, 0, ⟨0x50, 0, 1, 32, [⟨0, 0, .wo, 0⟩]⟩⟩ := by
  rw [regAt, show COL_CTRL = 0x2400000 + 0x50 from rfl, findBlk_col 0x50 (by omega)]; rfl

theorem regAt_TRH_CTRL (n : Nat) (h : n < 2) : regAt (TRH_CTRL n) = some ⟨.trh, n, 0, ⟨0x8, 0, 1, 32, [⟨3, 3, .wo, 0⟩, ⟨2, 2, .wo, 0⟩, ⟨1, 1, .wo, 0⟩, ⟨0, 0, .wo, 0⟩]⟩⟩ := by
  rw [regAt, show TRH_CTRL n = 0x2600000 + 0x8 + n * 0x40000 from rfl, findBlk_trh n 0x8 h (by omega)]; rfl

theorem regAt_EMB_CTRL : regAt EMB_CTRL = some ⟨.emb, 0, 0, ⟨0x0, 0, 1, 32, [⟨0, 0, .wo, 0⟩]⟩⟩ := by
  rw [regAt, show EMB_CTRL = 0x2700000 + 0x0 from rfl, findBlk_emb 0x0 (by omega)]; rfl

theorem regAt_QUE_CTRL (n : Nat) (h : n < 16384) : regAt (QUE_CTRL n) = some ⟨.que, n, 0, ⟨0x30, 0, 1, 32, [⟨0, 0, .wo, 0⟩]⟩⟩ := by
  rw [regAt, show QUE_CTRL n = 0x800000 + 0x30 + n * 0x40 from rfl, findBlk_que n 0x30 h (by omega)]; rfl

theorem regAt_QUE_CFG (n : Nat) (h : n < 16384) : regAt (QUE_CFG n) = some ⟨.que, n, 0, ⟨0x10, 0, 1, 32, [⟨31, 31, .rw, 0⟩, ⟨30, 30, .rw, 0⟩, ⟨29, 29, .rw, 0⟩, ⟨28, 28, .rw, 0⟩, ⟨27, 27, .rw, 0⟩, ⟨26, 26, .rw, 0⟩, ⟨25, 22, .rw, 4⟩, ⟨21, 18, .rw, 4⟩, ⟨10, 0, .rw, 0⟩]⟩⟩ := by
  rw [regAt, show QUE_CFG n = 0x800000 + 0x10 + n * 0x40 from rfl, findBlk_que n 0x10 h (by omega)]; rfl

theorem regAt_LNK_CTRL (n : Nat) (h : n < 96) : regAt (LNK_CTRL n) = some ⟨.lnk, n, 0, ⟨0x8, 0, 1, 32, [⟨1, 1, .wo, 0⟩, ⟨0, 0, .wo, 0⟩]⟩⟩ := by
  rw [regAt, show LNK_CTRL n = 0x2000000 + 0x8 + n * 0x4000 from rfl, findBlk_lnk n 0x8 h (by omega)]; rfl

theorem regAt_MEM_CTRL (n : Nat) (h : n < 8) : regAt (MEM_CTRL n) = some ⟨.mem, n, 0, ⟨0x8, 0, 1, 32, [⟨1, 1, .wo, 0⟩, ⟨0, 0, .wo, 0⟩]⟩⟩ := by
  rw [regAt, show MEM_CTRL n = 0x1C00000 + 0x8 + n * 0x20000 from rfl, findBlk_mem n 0x8 h (by omega)]; rfl

theorem regAt_MEM_SRAM_CTRL : regAt MEM_SRAM_CTRL = some ⟨.sram, 0, 0, ⟨0x0, 0, 1, 32, [⟨0, 0, .wo, 0⟩]⟩⟩ := by
  rw [regAt, show MEM_SRAM_CTRL = 0x1F00000 + 0x0 from rfl, findBlk_sram 0x0 (by omega)]; rfl

theorem regAt_NSR_CTRL (n : Nat) (h : n < 8) : regAt (NSR_CTRL n) = some ⟨.mem, n, 0, ⟨0x10008, 0, 1, 32, [⟨0, 0, .wo, 0⟩]⟩⟩ := by
  rw [regAt, show NSR_CTRL n = 0x1C00000 + 0x10008 + n * 0x20000 from rfl, findBlk_mem n 0x10008 h (by omega)]; rfl

theorem regAt_SCH_POST (n : Nat) (h : n < 8) : regAt (SCH_POST n) = some ⟨.schc, n, 0, ⟨0x8, 0, 1, 64, [⟨62, 61, .wo, 0⟩, ⟨60, 56, .wo, 0⟩, ⟨55, 55, .wo, 0⟩, ⟨54, 43, .wo, 0⟩, ⟨42, 33, .wo, 0⟩, ⟨31, 0, .wo, 0⟩]⟩⟩ := by
  rw [regAt, show SCH_POST n = 0x2840100 + 0x8 + n * 0x40 from rfl, findBlk_schc n 0x8 h (by omega)]; rfl

theorem regAt_SCH_ACK (n : Nat) (h : n < 8) : regAt (SCH_ACK n) = some ⟨.schc, n, 0, ⟨0x28, 0, 1, 32, [⟨1, 0, .wo, 0⟩]⟩⟩ := by
  rw [regAt, show SCH_ACK n = 0x2840100 + 0x28 + n * 0x40 from rfl, findBlk_schc n 0x28 h (by omega)]; rfl

theorem regAt_SCH_CANCEL (n : Nat) (h : n < 8) : regAt (SCH_CANCEL n) = some ⟨.schc, n, 0, ⟨0x30, 0, 1, 32, [⟨13, 12, .wo, 0⟩, ⟨11, 0, .wo, 0⟩]⟩⟩ := by
  rw [regAt, show SCH_CANCEL n = 0x2840100 + 0x30 + n * 0x40 from rfl, findBlk_schc n 0x30 h (by omega)]; rfl

theorem regAt_SCH_CTRL (n : Nat) (h : n < 4) : regAt (SCH_CTRL n) = some ⟨.schf, n, 0, ⟨0x38, 0, 1, 32, [⟨0, 0, .wo, 0⟩]⟩⟩ := by
  rw [regAt, show SCH_CTRL n = 0x2800000 + 0x38 + n * 0x10000 from rfl, findBlk_schf n 0x38 h (by omega)]; rfl

theorem regAt_SCH_FW_LOAD : regAt SCH_FW_LOAD = some ⟨.schd, 0, 0, ⟨0x8, 0, 1, 32, [⟨31, 0, .wo, 0⟩]⟩⟩ := by
  rw [regAt, show SCH_FW_LOAD = 0x2840000 + 0x8 from rfl, findBlk_schd 0x8 (by omega)]; rfl

theorem regAt_SCH_FW_STATUS : regAt SCH_FW_STATUS = some ⟨.schd, 0, 0, ⟨0x10, 0, 1, 32, [⟨31, 24, .ro, 0⟩, ⟨23, 16, .ro, 0⟩, ⟨15, 12, .ro, 0⟩, ⟨8, 8, .rw, 0⟩, ⟨1, 0, .ro, 0⟩]⟩⟩ := by
  rw [regAt, show SCH_FW_STATUS = 0x2840000 + 0x10 from rfl, findBlk_schd 0x10 (by omega)]; rfl

theorem regAt_SCH_RESET : regAt SCH_RESET = some ⟨.schd, 0, 0, ⟨0x18, 0, 1, 32, [⟨31, 0, .wo, 0⟩]⟩⟩ := by
  rw [regAt, show SCH_RESET = 0x2840000 + 0x18 from rfl, findBlk_schd 0x18 (by omega)]; rfl

theorem regAt_PWR_CTRL : regAt PWR_CTRL = some ⟨.pwr, 0, 0, ⟨0x0, 0, 1, 32, [⟨0, 0, .rw, 0⟩]⟩⟩ := by
  rw [regAt, show PWR_CTRL = 0x3000000 + 0x0 from rfl, findBlk_pwr 0x0 (by omega)]; rfl

theorem regAt_LOG_CTRL : regAt LOG_CTRL = some ⟨.log, 0, 0, ⟨0x0, 0, 1, 32, [⟨1, 1, .wo, 0⟩, ⟨0, 0, .wo, 0⟩]⟩⟩ := by
  rw [regAt, show LOG_CTRL = 0x200000 + 0x0 from rfl, findBlk_log 0x0 (by omega)]; rfl

theorem regAt_LOG_FREEZE : regAt LOG_FREEZE = some ⟨.log, 0, 0, ⟨0x8, 0, 1, 32, [⟨0, 0, .rw, 0⟩]⟩⟩ := by
  rw [regAt, show LOG_FREEZE = 0x200000 + 0x8 from rfl, findBlk_log 0x8 (by omega)]; rfl

theorem regAt_LOG_CURSOR : regAt LOG_CURSOR = some ⟨.log, 0, 0, ⟨0x10, 0, 1, 64, [⟨63, 63, .rw, 0⟩, ⟨17, 0, .rw, 0⟩]⟩⟩ := by
  rw [regAt, show LOG_CURSOR = 0x200000 + 0x10 from rfl, findBlk_log 0x10 (by omega)]; rfl

theorem regAt_HMN_CTRL : regAt HMN_CTRL = some ⟨.hmn, 0, 0, ⟨0x0, 0, 1, 32, [⟨0, 0, .wo, 0⟩]⟩⟩ := by
  rw [regAt, show HMN_CTRL = 0x100000 + 0x0 from rfl, findBlk_hmn 0x0 (by omega)]; rfl

theorem regAt_HMN_THAW : regAt HMN_THAW = some ⟨.hmn, 0, 0, ⟨0x20, 0, 1, 32, [⟨31, 31, .wo, 0⟩, ⟨29, 16, .wo, 0⟩, ⟨7, 0, .wo, 0⟩]⟩⟩ := by
  rw [regAt, show HMN_THAW = 0x100000 + 0x20 from rfl, findBlk_hmn 0x20 (by omega)]; rfl

theorem regAt_HMN_WIN_WRITE : regAt HMN_WIN_WRITE = some ⟨.hmn, 0, 0, ⟨0x120, 0, 1, 32, [⟨15, 8, .wo, 0⟩, ⟨7, 0, .wo, 0⟩]⟩⟩ := by
  rw [regAt, show HMN_WIN_WRITE = 0x100000 + 0x120 from rfl, findBlk_hmn 0x120 (by omega)]; rfl

theorem regAt_REC_CTRL : regAt REC_CTRL = some ⟨.rcd, 0, 0, ⟨0x0, 0, 1, 32, [⟨1, 1, .wo, 0⟩, ⟨0, 0, .wo, 0⟩]⟩⟩ := by
  rw [regAt, show REC_CTRL = 0x2500000 + 0x0 from rfl, findBlk_rcd 0x0 (by omega)]; rfl

theorem regAt_STR_STAGE : regAt STR_STAGE = some ⟨.str, 0, 0, ⟨0x0, 0, 1, 64, [⟨47, 0, .wo, 0⟩]⟩⟩ := by
  rw [regAt, show STR_STAGE = 0x400000 + 0x0 from rfl, findBlk_str 0x0 (by omega)]; rfl

theorem regAt_STR_COMMIT : regAt STR_COMMIT = some ⟨.str, 0, 0, ⟨0x8, 0, 1, 32, [⟨31, 0, .wo, 0⟩]⟩⟩ := by
  rw [regAt, show STR_COMMIT = 0x400000 + 0x8 from rfl, findBlk_str 0x8 (by omega)]; rfl

theorem regAt_SEC_CMD : regAt SEC_CMD = some ⟨.sec, 0, 0, ⟨0x8, 0, 1, 32, [⟨23, 8, .wo, 0⟩, ⟨7, 0, .wo, 0⟩]⟩⟩ := by
  rw [regAt, show SEC_CMD = 0x3400000 + 0x8 from rfl, findBlk_sec 0x8 (by omega)]; rfl

theorem regAt_GLB_PRIV_OFFER : regAt GLB_PRIV_OFFER = some ⟨.glb, 0, 0, ⟨0x48, 0, 1, 32, [⟨1, 1, .w1c, 0⟩, ⟨0, 0, .rw, 0⟩]⟩⟩ := by
  rw [regAt, show GLB_PRIV_OFFER = 0x0 + 0x48 from rfl, findBlk_glb 0x48 (by omega)]; rfl

theorem regAt_GLB_PRIV_ACCEPT : regAt GLB_PRIV_ACCEPT = some ⟨.glb, 0, 0, ⟨0x50, 0, 1, 32, [⟨0, 0, .wo, 0⟩]⟩⟩ := by
  rw [regAt, show GLB_PRIV_ACCEPT = 0x0 + 0x50 from rfl, findBlk_glb 0x50 (by omega)]; rfl

/-! ### Bytes of numbers -/

@[simp] theorem leBytes_length (n v : Nat) : (leBytes n v).length = n := by
  induction n generalizing v with
  | zero => rfl
  | succ n ih => simp [leBytes, ih]

/-- The number that a number's bytes spell. -/
theorem leNat_leBytes (n v : Nat) : leNat (leBytes n v) = v % 2 ^ (8 * n) := by
  induction n generalizing v with
  | zero => simp [leBytes, leNat, Nat.mod_one]
  | succ n ih =>
    have h : 2 ^ (8 * (n + 1)) = 256 * 2 ^ (8 * n) := by rw [Nat.mul_add, Nat.pow_add]; omega
    rw [leBytes, leNat, ih, h, Nat.mod_mul, BitVec.toNat_ofNat]

/-! ### The write -/

/-- A permitted write of a register at its own address and width is the write of that register. -/
theorem writeOwn_eq {m : Mst} {off v : Nat} {s : State} {r : RegAt} (h : MayWrite m off s) (hr : regAt off = some r)
    (hs : inSecWindow off = false) (hw : r.desc.width / 8 * 8 = r.desc.width) :
    writeOwn m off v s = regWrite m r off (BitVec.ofNat 64 (v % 2 ^ r.desc.width)) s := by
  obtain ⟨⟨-, h1, h2, h3, h4, h5⟩, -⟩ := h
  have hb : regBytes off = r.desc.width / 8 := by simp [regBytes, hr]
  have h8 : 8 * (r.desc.width / 8) = r.desc.width := by omega
  simp only [writeOwn, busWrite, h1, h2, h3, mmioWrite, leBytes_length, leNat_leBytes]
  rw [hb] at h4 h5 ⊢
  simp [h4, h5, hs, hr, hw, h8]

end Sys2Proof.Machine
end

