-- ==== Sys2Proof/Tests/Slice0.lean ====
section
/-! SUPPORT. The model's own tests: small checks of single commands, and for every statement with hypotheses states that meet them. -/

-- Each proof is checked before the next one begins: many checks at once need more memory than the sandbox has.
set_option Elab.async false

namespace Sys2Proof.Tests

open Sys2Proof.Machine

/-- A device whose units run. -/
def dev : State := { State.reset with released := true }

/-- A privileged master: the direct path of port 0 (R363, R368). -/
abbrev port0 : Mst := ⟨0, 0x3FFF⟩

/-! ### General -/

/-- Meets the hypotheses of the statement of this name. -/
theorem witness_EveryCommandKeepsTheQueue :
    always (.nop 3 false false) = false ∧ State.reset.live = false := by
  decide +kernel

/-- Meets the hypotheses of the statement of this name. -/
theorem witness_TimeIsKeptInMram :
    dev.pending = [] ∧ (dev.reg SCH_TICK + 1).toNat % 1000 ≠ 0 ∧
    ((dev.setReg SCH_TICK 999).reg SCH_TICK + 1).toNat % 1000 = 0 ∧ (dev.setReg SCH_TICK 999).fld LOG_MS LOG_MS_ms < 3599999 ∧
    3599999 ≤ ((dev.setReg SCH_TICK 999).setFld LOG_MS LOG_MS_ms 3599999).fld LOG_MS LOG_MS_ms := by
  decide +kernel

/-- Meets the hypotheses of the statement of this name. -/
theorem witness_PlainRegisterWrite :
    Admits port0 (SCH_CFG 2) [0, 0, 17, 0].length dev ∧ inSecWindow (SCH_CFG 2) = false ∧
    (regAt (SCH_CFG 2)).isSome = true ∧ (regAt (SCH_CFG 2)).all (fun r => decide (4 * 8 = r.desc.width) && blkPresent dev.grade r &&
      !r.desc.hasRwl && (regAction port0 r (SCH_CFG 2) 0x110000).isNone) = true := by
  simp only [Admits]; decide +kernel

/-- Meets the hypotheses of the statement of this name. -/
theorem witness_PlainRegisterWrite_rwl :
    Admits port0 (LNK_CFG 3) 4 { dev with committed := true } ∧ (regAt (LNK_CFG 3)).any (fun r => r.desc.hasRwl &&
      decide (4 * 8 = r.desc.width) && blkPresent 1 r) = true ∧ inSecWindow (LNK_CFG 3) = false ∧
    (regAt (COR_MODE 5)).any (fun r => atRest r (dev.setCore 5 { state := .holiday }) && !atRest r (rouseReg r (dev.setCore 5 { state := .holiday })) && blkPresent 1 r && decide (4 * 8 = r.desc.width)) = true ∧
    Admits port0 (COR_MODE 5) 4 (dev.setCore 5 { state := .holiday }) ∧ (dev.setCore 5 { state := .holiday }).bit PWR_STATUS PWR_STATUS_standby = false ∧
    (((dev.setCore 5 { state := .holiday }).setFld PWR_STATUS PWR_STATUS_standby 1).bit PWR_STATUS PWR_STATUS_standby = true ∧
      Admits port0 (COR_MODE 5) 4 ((dev.setCore 5 { state := .holiday }).setFld PWR_STATUS PWR_STATUS_standby 1)) := by
  simp only [Admits]; decide +kernel

/-- Meets the hypotheses of the statement of this name. -/
theorem witness_DiscardedRegisterWrites :
    Admits port0 (SCH_CFG 2) 8 dev ∧ inSecWindow (SCH_CFG 2) = false ∧ Admits port0 (SCH_CFG 2 + 1) 1 dev ∧
    (regAt (SCH_CFG 2)).all (fun r => decide (8 * 8 ≠ r.desc.width)) = true ∧ regAt (SCH_CFG 2 + 1) = none := by
  simp only [Admits]; decide +kernel

/-- Meets the hypotheses of the statement of this name. -/
theorem witness_AbsentUnits :
    Admits port0 (COR_MODE 31) 4 { dev with grade := 3 } ∧ inSecWindow (COR_MODE 31) = false ∧
    (regAt (COR_MODE 31)).any (fun r => !blkPresent 3 r) = true := by
  simp only [Admits]; decide +kernel

/-- Meets the hypotheses of the statement of this name. -/
theorem witness_RefusedWrites :
    dev.live = true ∧ inMmio (mmioBase + SCH_RESET) = true ∧ pathFrozen dev ⟨1, 0x3FFF⟩ SCH_RESET = false ∧
    writeBarred dev ⟨1, 0x3FFF⟩ SCH_RESET 4 = true ∧ permitted dev 1 dev.devId (mmioBase + SCH_RESET) 4 kMmio = true ∧
    permitted (dev.setWin 1 0 2 0) 1 dev.devId (mmioBase + SCH_RESET) 4 kMmio = false ∧
    pathFrozen { dev with frozen := [{ mst := port0 }] } port0 SCH_RESET = true := by
  decide +kernel

theorem witness_EveryStepKeepsCanonical : Canonical dev ∧ ∃ t, step dev = .next t :=
  ⟨by simp only [Canonical]; decide +kernel, _, rfl⟩

theorem witness_EveryStepKeepsRunNumbers : (∀ c, Numbered (dev.core c)) ∧ ∃ t, step dev = .next t :=
  ⟨fun _ => ⟨List.nodup_nil, fun _ h => (List.not_mem_nil h).elim, fun _ h => (List.not_mem_nil h).elim⟩, _, rfl⟩

/-! ### Scheduler -/

/-- An item. -/
abbrev itemA : Item := { handle := 0, level := 4, thread := 12 }

/-- A second item, of another thread and a higher level. -/
abbrev itemB : Item := { handle := 1, level := 20, thread := 13 }

/-- Fold 0's scheduler in a state of its own. -/
def schedDev (x : Sched) : State := (dev.setFld SCH_FW_STATUS SCH_FW_STATUS_state 3).setSched 0 x

/-- Meets the hypotheses of the statement of this name. -/
theorem witness_SchedulerAcknowledge_take :
    0 < 8 ∧ MayWrite (ctrlMst 0) (SCH_ACK 0) (schedDev { slot0 := some { item := itemA } }) ∧
    (schedDev { slot0 := some { item := itemA } }).slot 0 = some { item := itemA } := by
  simp only [MayWrite, MayWriteBytes, Admits]; decide +kernel

/-- For done and yield. -/
theorem witness_SchedulerAcknowledge_yield :
    1 < 8 ∧ MayWrite (ctrlMst 1) (SCH_ACK 1) (schedDev { slot1 := some { item := itemA, taken := true, preempt := true } }) ∧
    (schedDev { slot1 := some { item := itemA, taken := true, preempt := true } }).slot 1 =
      some { item := itemA, taken := true, preempt := true } := by
  simp only [MayWrite, MayWriteBytes, Admits]; decide +kernel

/-- Meets the hypotheses of the statement of this name. -/
theorem witness_MisfitAcknowledgementFlagged :
    7 < 8 ∧ MayWrite (ctrlMst 7) (SCH_ACK 7) (schedDev {}) ∧ (schedDev {}).slot 7 = none := by
  simp only [MayWrite, MayWriteBytes, Admits]; decide +kernel

/-- Meets the hypotheses of the statement of this name. -/
theorem witness_SchedulerPostAndCancel :
    7 < 8 ∧ MayWrite (ctrlMst 7) (SCH_POST 7) (schedDev {}) ∧ ((schedDev {}).sched 1).stalled.contains 7 = false ∧ fget SCH_POST_delay (BitVec.ofNat 64 (2 ^ 61)) = 0 ∧
    ((schedDev {}).sched 1).used < 8192 ∧ 0 < fget SCH_POST_delay (BitVec.ofNat 64 (2 ^ 61 + 5)) ∧ ((schedDev {}).sched 1).freeTt = some 0 := by
  simp only [MayWrite, MayWriteBytes, Admits]; decide +kernel

/-- Meets the hypotheses of the statement of this name. -/
theorem witness_SchedulerPostAndCancel_cancel :
    0 < 8 ∧ MayWrite (ctrlMst 0) (SCH_CANCEL 0) (schedDev { tt := [⟨0, 9, itemA⟩] }) ∧
    (⟨0, 9, itemA⟩ : TtEnt) ∈ ((schedDev { tt := [⟨0, 9, itemA⟩] }).sched (fget SCH_CANCEL_fold (BitVec.ofNat 64 (0 % 2 ^ 32)))).tt ∧
    (⟨0, 9, itemA⟩ : TtEnt).idx = fget SCH_CANCEL_handle (BitVec.ofNat 64 (0 % 2 ^ 32)) ∧
    ((schedDev { tt := [⟨0, 9, itemA⟩] }).sched (fget SCH_CANCEL_fold (BitVec.ofNat 64 (1 % 2 ^ 32)))).tt.all
      (fun e => decide (e.idx ≠ fget SCH_CANCEL_handle (BitVec.ofNat 64 (1 % 2 ^ 32)))) = true ∧
    ((schedDev { tt := [⟨0, 9, itemA⟩] }).reg SCH_TICK).toNat < 9 ∧ 0 ≤ ((schedDev { tt := [⟨0, 0, itemA⟩] }).reg SCH_TICK).toNat ∧
    ((schedDev { tt := [⟨0, 0, itemA⟩] }).sched 0).used < 8192 ∧ ((schedDev { tt := [⟨0, 0, itemA⟩] }).sched 0).cut = false := by
  simp only [MayWrite, MayWriteBytes, Admits]; decide +kernel

/-- Meets the hypotheses of the statement of this name. -/
theorem witness_SchedulerOffersTheFirstEligible_dispatch :
    (schedDev { ready := [itemA, itemB] }).live = true ∧ fwState (schedDev { ready := [itemA, itemB] }) = 3 ∧
    ((schedDev { ready := [itemA, itemB] }).sched 0).chosen = some itemB ∧
    ((schedDev { ready := [itemA, itemB] }).sched 0).slot0 = none := by
  decide +kernel

/-- Fold 0 with both cores running and a higher item ready; `a` and `b` are the levels of what runs. -/
def busyDev (a b : Nat) : State :=
  schedDev { ready := [itemB], slot0 := some { item := { itemA with handle := 2, level := a, thread := 1 }, taken := true, serial := 0 }
             slot1 := some { item := { itemA with handle := 3, level := b, thread := 2 }, taken := true, serial := 1 } }

/-- The first pre-empts core 0, the second, a tie, core 1. -/
theorem witness_SchedulerOffersTheFirstEligible_preempt :
    ((busyDev 4 8).sched 0).chosen = some itemB ∧ ((busyDev 8 8).sched 0).chosen = some itemB ∧
    (busyDev 4 8).fld (SCH_CFG 0) SCH_CFG_preempt_en = 1 ∧ (busyDev 4 8).fld (SCH_CFG 0) SCH_CFG_preempt_min ≤ itemB.level ∧
    (busyDev 8 8).fld (SCH_CFG 0) SCH_CFG_preempt_en = 1 ∧ (busyDev 8 8).fld (SCH_CFG 0) SCH_CFG_preempt_min ≤ itemB.level := by
  decide +kernel

/-- Meets the hypotheses of the statement of this name. -/
theorem witness_FirmwareLoadAndReset_load :
    (4096 < 2 ^ 32) ∧ MayWrite port0 SCH_FW_LOAD (dev.setFld SCH_FW_STATUS SCH_FW_STATUS_state 1) ∧
    fwState (dev.setFld SCH_FW_STATUS SCH_FW_STATUS_state 1) = 1 ∧ MayWrite port0 SCH_FW_LOAD dev ∧ fwState dev ≠ 1 := by
  simp only [MayWrite, MayWriteBytes, Admits]; decide +kernel

/-- Meets the hypotheses of the statement of this name. -/
theorem witness_FirmwareLoadAndReset_verify :
    (dev.setFld SCH_FW_STATUS SCH_FW_STATUS_state 2).live = true ∧ fwState (dev.setFld SCH_FW_STATUS SCH_FW_STATUS_state 2) = 2 := by
  decide +kernel

/-- Meets the hypotheses of the statement of this name. -/
theorem witness_FirmwareLoadAndReset_others :
    7 < 8 ∧ MayWrite (ctrlMst 7) SCH_FW_STATUS (schedDev {}) ∧ MayWrite port0 (SCH_CTRL 3) dev ∧ MayWrite port0 SCH_RESET dev ∧ dev.sec.blow = none := by
  simp only [MayWrite, MayWriteBytes, Admits]; decide +kernel

/-! ### Security -/

/-- Meets the hypotheses of the statement of this name. -/
theorem witness_AttestationByMailbox :
    MayWrite port0 SEC_CMD dev ∧ dev.bit SEC_STATUS SEC_STATUS_busy = false ∧ 3 < 2 ^ 16 ∧ Admits port0 0x3402008 8 dev ∧ inSecWindow 0x3402008 = true ∧
    (dev.setFld SEC_STATUS SEC_STATUS_busy 1).bit SEC_STATUS SEC_STATUS_busy = true ∧ MayWrite port0 SEC_CMD (dev.setFld SEC_STATUS SEC_STATUS_busy 1) ∧
    Admits port0 0x3403FF8 8 (dev.setFld SEC_STATUS SEC_STATUS_busy 1) ∧ inSecWindow 0x3403FF8 = true := by
  simp only [MayWrite, MayWriteBytes, Admits]; decide +kernel

/-- Meets the hypotheses of the statement of this name. -/
theorem witness_AttestationByDoeAndSideband :
    1 < 2 ∧ dev.live = true ∧ portOff dev 1 = false ∧ State.reset.live = false ∧ dev.vioDown = false ∧ State.reset.vioDown = false ∧
    State.reset.fld MGT_STATUS MGT_STATUS_mode = 0 ∧
    (State.reset.setFld MGT_STATUS MGT_STATUS_mode 2).fld MGT_STATUS MGT_STATUS_mode = busMode ⟨true, true, none⟩ := by
  decide +kernel

/-- A device whose firmware of svn 6 runs, with a floor of 5 or 6, and what the fuses do. -/
def floorDev (floor : Nat) (b h : Option Nat) : State :=
  { (dev.setFld SCH_FW_STATUS SCH_FW_STATUS_state 3).setFld SEC_FUSE SEC_FUSE_svn_floor floor with
    sec := { fwSvn := some 6, blow := b, heldReset := h } }

/-- Meets the hypotheses of the statement of this name. -/
theorem witness_RollbackFloorRises_commit :
    MayWrite port0 SEC_CMD (floorDev 5 none none) ∧ (floorDev 5 none none).bit SEC_STATUS SEC_STATUS_busy = false ∧
    fwState (floorDev 5 none none) = 3 ∧ svnFloor (floorDev 5 none none) < 6 ∧ svnFloor (floorDev 6 none none) = 6 := by
  simp only [MayWrite, MayWriteBytes, Admits]; decide +kernel

/-- Meets the hypotheses of the statement of this name. -/
theorem witness_RollbackFloorRises_step :
    svnFloor (floorDev 5 (some 6) none) < 6 ∧ svnFloor (floorDev 5 (some 64) (some 0)) < 64 ∧
    (floorDev 5 (some 64) (some 0)).sec.heldReset ≠ none := by
  decide +kernel

/-- Meets the hypotheses of the statement of this name. -/
theorem witness_TestAccessUnlock :
    ({ dev with mgt := { tap := 0x40 } } : State).mgt.tap = 0x40 ∧ MayWrite port0 SEC_CMD dev ∧
    dev.bit SEC_STATUS SEC_STATUS_busy = false ∧ LogOpen dev := by
  simp only [MayWrite, MayWriteBytes, Admits, LogOpen]; decide +kernel

/-! ### Power, clocks, temperature -/

/-- Meets the hypotheses of the statement of this name. -/
theorem witness_PowerOnRailsAndDeviceReset :
    dev.sysRst = false ∧ dev.sec.blow = none ∧ (floorDev 5 (some 6) none).sysRst = false ∧ (floorDev 5 (some 6) none).sec.blow ≠ none := by
  decide +kernel

/-- Meets the hypotheses of the statement of this name. -/
theorem witness_SupplyFaultsAreFatal :
    dev.released = true ∧ dev.live = true ∧ dev.has .core 31 = true ∧ dev.has .drover 3 = true ∧ dev.has .coll 1 = true ∧
    dev.has .trh 1 = true ∧ LogOpen dev := by
  simp only [LogOpen]; decide +kernel

/-- A device with a core, a Drover and the engines in recess, and timers set. -/
def restDev : State :=
  (((dev.setCore 5 { state := .recess }).setDrover 1 { rest := 1 }).setEngine 0 { rest := 1 }).setTrh 1 { rest := 1 }

/-- The same units on holiday. -/
def holidayDev : State :=
  (((dev.setCore 5 { state := .holiday, slept := .recess }).setDrover 1 { rest := 2 }).setEngine 0 { rest := 2 }).setTrh 1 { rest := 2 }

/-- A device with queue pair 300 enabled. -/
def qpDev : State := dev.setFld (QUE_CFG 300) QUE_CFG_enable 1

/-- Meets the hypotheses of the statement of this name. -/
theorem witness_StandbyAndHoliday_enabled :
    MayWrite port0 PWR_CTRL qpDev ∧ 300 < 16384 ∧ qpEnabled qpDev 300 = true := by
  simp only [MayWrite, MayWriteBytes, Admits]; decide +kernel

/-- Meets the hypotheses of the statement of this name. -/
theorem witness_StandbyAndHoliday_enter :
    MayWrite port0 PWR_CTRL dev ∧ dev.has .stack 7 = true := by
  simp only [MayWrite, MayWriteBytes, Admits]; decide +kernel

/-- The rest of the hypotheses: no queue pair of the device is enabled. -/
theorem witness_StandbyAndHoliday_disabled : ∀ n, n < 16384 → qpEnabled dev n = false := by
  intro n h
  have h1 : ¬MGT_STATUS = QUE_CFG n := by simp only [MGT_STATUS, QUE_CFG]; omega
  have h2 : spGet (regReset 1) [(MGT_STATUS, mgtStrapped)] (QUE_CFG n) = regReset 1 (QUE_CFG 0) := by
    rw [spGet, if_neg h1, spGet, regReset, regReset, regAt_QUE_CFG n h, regAt_QUE_CFG 0 (by decide)]
    simp only [blkPresent, resetOf]
  have h3 : fbit QUE_CFG_enable (regReset 1 (QUE_CFG 0)) = false := by decide +kernel
  exact (congrArg (fbit QUE_CFG_enable) h2).trans h3

/-- Meets the hypotheses of the statement of this name. -/
theorem witness_StandbyAndHoliday_exit :
    (holidayDev.setFld PWR_STATUS PWR_STATUS_standby 1).live = true ∧
    (holidayDev.setFld PWR_STATUS PWR_STATUS_standby 1).bit PWR_STATUS PWR_STATUS_standby = true ∧
    ((holidayDev.setFld PWR_STATUS PWR_STATUS_standby 1).core 5).state = .holiday ∧ holidayDev.has .core 5 = true := by
  decide +kernel

/-- Meets the hypotheses of the statement of this name. -/
theorem witness_StandbyAndHoliday_holiday :
    restDev.live = true ∧ (restDev.core 5).state = .recess ∧ restDev.fld PWR_IDLE PWR_IDLE_core_us ≠ 0 ∧
    restDev.fld PWR_IDLE PWR_IDLE_engine_us ≠ 0 ∧ (restDev.drover 1).rest = 1 ∧ (restDev.engine 0).rest = 1 ∧ (restDev.trh 1).rest = 1 ∧
    restDev.has .drover 1 = true ∧ restDev.has .coll 0 = true ∧ restDev.has .trh 1 = true ∧ restDev.has .core 5 = true ∧
    (restDev.core 31).state = .idle ∧ (restDev.core 31).inbox = [] ∧ (restDev.core 31).starting = none ∧ (restDev.drover 2).settle.rest = 1 ∧ restDev.has .core 31 = true := by
  decide +kernel

/-- Meets the hypotheses of the statement of this name. -/
theorem witness_StandbyAndHoliday_wake :
    holidayDev.live = true ∧ holidayDev.bit PWR_STATUS PWR_STATUS_standby = false ∧ (holidayDev.core 5).state = .holiday ∧
    (holidayDev.core 5).slept = .recess ∧ (holidayDev.drover 1).rest = 2 ∧ (holidayDev.engine 0).rest = 2 ∧ (holidayDev.trh 1).rest = 2 := by
  decide +kernel

/-- Meets the hypotheses of the statement of this name. -/
theorem witness_FrequencyAndPowerCap :
    dev.live = true ∧ dev.has .core 31 = true ∧ dev.fld PWR_STATUS PWR_STATUS_cap_w * 1000 < 1400001 ∧
    8 < dev.fld PWR_STATUS PWR_STATUS_cap_limit ∧ dev.fld PWR_STATUS PWR_STATUS_cap_limit = 21 ∧
    (setCapLimit dev 8).fld PWR_STATUS PWR_STATUS_cap_limit = 8 ∧ LogOpen dev ∧
    ({ setCapLimit dev 20 with pwr := { below := 99 } } : State).fld PWR_STATUS PWR_STATUS_cap_limit = 20 ∧
    1000000 * 100 < (setCapLimit dev 20).fld PWR_STATUS PWR_STATUS_cap_w * 97000 := by
  simp only [LogOpen]; decide +kernel

/-- Meets the hypotheses of the statement of this name. -/
theorem witness_ThermalLimitsAndStops :
    dev.live = true ∧ 4 * dev.fld THM_CFG THM_CFG_throttle ≤
      (dev.setFld (THM_SENSOR 3) THM_SENSOR_temp 400).fld (THM_SENSOR (hottest (dev.setFld (THM_SENSOR 3) THM_SENSOR_temp 400) (rangeFrom 0 24)))
        THM_SENSOR_temp ∧
    (setThermal dev 1 20).fld (CLK_CORE 16) CLK_CORE_thermal < 21 ∧ 20 ≤ dev.fld (CLK_CORE 0) CLK_CORE_thermal ∧ dev.bit THM_STATUS THM_STATUS_tripped = false ∧
    dev.powerFailed = false ∧ LogOpen dev ∧ dev.fld (THM_SENSOR 0) THM_SENSOR_temp < 4 * dev.fld THM_CFG THM_CFG_alert := by
  simp only [LogOpen]; decide +kernel

/-! ### Logbook, Hall monitor, recorder -/

/-- Meets the hypotheses of the statement of this name. -/
theorem witness_LogbookWritesRecordsWhole :
    ({ dev with logClosed := true } : State).logClosed = true ∧ dev.logClosed = false ∧ dev.bit LOG_FREEZE LOG_FREEZE_frozen = false ∧
    (dev.setFld LOG_FREEZE LOG_FREEZE_frozen 1).bit LOG_FREEZE LOG_FREEZE_frozen = true ∧
    ((dev.reg LOG_SRAM_HEAD).toNat - (dev.reg LOG_SRAM_FLUSHED).toNat) + (recordSlots dev 0x1008 0 2 0 0 0 0).length ≤ 32768 ∧
    32768 < (((dev.setReg LOG_SRAM_HEAD 32768).reg LOG_SRAM_HEAD).toNat - ((dev.setReg LOG_SRAM_HEAD 32768).reg LOG_SRAM_FLUSHED).toNat) +
      (recordSlots (dev.setReg LOG_SRAM_HEAD 32768) 0x1008 0 2 0 0 0 0).length := by
  decide +kernel

/-- Meets the hypotheses of the statement of this name. -/
theorem witness_LogbookFlushesAndCursor :
    MayWrite port0 LOG_CTRL dev ∧ dev.flush = none ∧ MayWrite port0 LOG_CTRL { dev with flush := some (3, 4) } ∧
    MayWrite port0 LOG_FREEZE dev ∧ MayWrite port0 LOG_CURSOR dev ∧ 3 < 16 ∧ 4 - (dev.reg LOG_SRAM_FLUSHED).toNat ≤ 262144 ∧
    (dev.reg LOG_MRAM_HEAD).toNat + 262144 < 2 ^ 64 := by
  simp only [MayWrite, MayWriteBytes, Admits]; decide +kernel

/-- Meets the hypotheses of the statement of this name. -/
theorem witness_HallMonitorAndRecorderCommands :
    MayWrite port0 HMN_WIN_WRITE dev ∧ MayWrite port0 HMN_THAW { dev with frozen := [{ mst := ⟨2, 0⟩ }] } ∧
    MayWrite port0 (QUE_CTRL 300) { dev with frozen := [{ mst := dev.qpMst 300 }] } ∧
    MayWrite port0 HMN_CTRL dev ∧ MayWrite port0 REC_CTRL dev ∧ 138 ≤ 138 ∧ 255 < 256 := by
  simp only [MayWrite, MayWriteBytes, Admits]; decide +kernel

/-! ### Management -/

/-- Meets the hypotheses of the statement of this name. -/
theorem witness_SidebandModeAndIntegrity :
    dev.fld MGT_STATUS MGT_STATUS_mode = 0 ∧ dev.vioDown = false ∧ (dev.setFld MGT_STATUS MGT_STATUS_mode 2).fld MGT_STATUS MGT_STATUS_mode ≠ 0 ∧
    (dev.setFld MGT_STATUS MGT_STATUS_mode 2).fld MGT_STATUS MGT_STATUS_mode ≠ busMode ⟨false, false, none⟩ ∧ 5 ∉ [0x00, 0x01, 0x7E] := by
  decide +kernel

/-- As for MctpAndPldmAnswers. -/
theorem witness_ManagementCommands :
    dev.fld MGT_STATUS MGT_STATUS_mode = 0 ∧ strangeMsg ⟨false, true, some 0x7E⟩ = false ∧ dev.vioDown = false ∧ dev.released = true ∧
    dev.sysRst = false ∧ dev.bit MGT_CFG MGT_CFG_sb_control = true ∧
    (dev.setFld MGT_CFG MGT_CFG_sb_control 0).bit MGT_CFG MGT_CFG_sb_control = false ∧ LogOpen dev ∧
    (dev.flag MGT_ERR MGT_ERR_pec).bit MGT_ERR MGT_ERR_pec = true := by
  simp only [LogOpen]; decide +kernel

/-- R479: FORCE_OWNER over a good I3C transfer makes port 1 the privileged port. -/
theorem test_forceOwner : (match exec (.forceOwner ⟨false, true, none⟩ 1) dev with
    | .next t => owner t
    | _ => 0) = 1 := by decide +kernel

/-- R481: IDCODE answers 0x1465_8B47, little-endian. -/
theorem test_idcode : (match exec .idcode dev with
    | .next t => t.answer
    | _ => []) = [0x47, 0x8B, 0x65, 0x14] := by decide +kernel

/-! ### Host interface -/

/-- Meets the hypotheses of the statement of this name. -/
theorem witness_DoorbellsMoveIndices_enable :
    MayWrite port0 (QUE_CFG 300) (dev.setFld (QUE_STATUS 300) QUE_STATUS_class 1) ∧ qpEnabled (dev.setFld (QUE_STATUS 300) QUE_STATUS_class 1) 300 = false ∧
    (dev.setFld (QUE_STATUS 300) QUE_STATUS_class 1).fld (QUE_STATUS 300) QUE_STATUS_class ≠ 0 ∧ 4 ≤ fget QUE_CFG_cq_size (BitVec.ofNat 64 (0x1100000 % 2 ^ 31)) ∧
    4 ≤ fget QUE_CFG_sq_size (BitVec.ofNat 64 (0x1100000 % 2 ^ 31)) ∧ bitsOf 0x1100000 17 11 = 0 := by
  simp only [MayWrite, MayWriteBytes, Admits]; decide +kernel

/-- Meets the hypotheses of the statement of this name. -/
theorem witness_DoorbellsMoveIndices :
    qpDev.live = true ∧ qpDev.isFrozen (barMst 1) = false ∧ boundElsewhere qpDev 1 300 = false ∧ portOff qpDev 1 = false ∧ [5, 0, 0, 0].length = 4 ∧
    qpEnabled qpDev 300 = true ∧ qpEnabled dev 300 = false ∧ 0 < modDiff 16 1 (qpDev.fld (QUE_INDEX 300) QUE_INDEX_sq_tail) ∧
    modDiff 16 1 (qpDev.fld (QUE_INDEX 300) QUE_INDEX_sq_head) ≤ (2 ^ qpDev.fld (QUE_CFG 300) QUE_CFG_sq_size : Nat) ∧
    ((2 ^ qpDev.fld (QUE_CFG 300) QUE_CFG_sq_size : Nat) : Int) < modDiff 16 32767 (qpDev.fld (QUE_INDEX 300) QUE_INDEX_sq_head) := by
  decide +kernel

/-- A device with queue pair 5 bound to port 0 and the core class, with rings of 16 entries: configured, and enabled or not. -/
def boundDev (on : Nat) : State :=
  (dev.setReg (QUE_CFG 5) (BitVec.ofNat 64 (on * 2 ^ 31 + 4 * 2 ^ 22 + 4 * 2 ^ 18))).setFld (QUE_STATUS 5) QUE_STATUS_class 1

/-- Meets the hypotheses of the statement of this name. -/
theorem witness_QueuePairsEnableAndDisable :
    MayWrite port0 (QUE_CFG 5) (boundDev 0) ∧ MayWrite port0 (QUE_CFG 5) (boundDev 1) ∧
    4 ≤ fget QUE_CFG_cq_size (BitVec.ofNat 64 ((4 * 2 ^ 22 + 4 * 2 ^ 18) % 2 ^ 31)) ∧
    4 ≤ fget QUE_CFG_sq_size (BitVec.ofNat 64 ((4 * 2 ^ 22 + 4 * 2 ^ 18) % 2 ^ 31)) ∧ qpEnabled (boundDev 0) 5 = false ∧
    (boundDev 0).fld (QUE_STATUS 5) QUE_STATUS_class ≠ 0 ∧ (boundDev 1).qpPort 5 = 0 ∧ (boundDev 1).live = true ∧ portOff (boundDev 1) 0 = false ∧
    ((boundDev 1).reg (QUE_CFG 5)).toNat = 2 ^ 31 + (4 * 2 ^ 22 + 4 * 2 ^ 18) % 2 ^ 31 ∧ bitsOf (4 * 2 ^ 22 + 4 * 2 ^ 18) 17 11 = 0 ∧
    fget QUE_CFG_cq_size (BitVec.ofNat 64 (0 % 2 ^ 31)) < 4 ∧ MayWrite port0 (QUE_CTRL 5) (boundDev 1) ∧
    ({ boundDev 1 with qps := [(5, { owed := 1 })] } : State).qp 5 = { owed := 1 } := by
  simp only [MayWrite, MayWriteBytes, Admits]; decide +kernel

/-- Meets the hypotheses of the statement of this name. -/
theorem witness_PrivilegeHandover :
    MayWrite port0 GLB_PRIV_OFFER dev ∧ 0 = owner dev ∧ MayWrite ⟨1, 0x3FFF⟩ GLB_PRIV_OFFER dev ∧ MayWrite ⟨1, 0x3FFF⟩ GLB_PRIV_ACCEPT dev ∧
    1 ≠ owner dev ∧ dev.bit GLB_PRIV_OFFER GLB_PRIV_OFFER_offer = false ∧ MayWrite port0 GLB_PRIV_ACCEPT dev ∧
    (dev.setFld GLB_PRIV_OFFER GLB_PRIV_OFFER_offer 1).bit GLB_PRIV_OFFER GLB_PRIV_OFFER_offer = true := by
  simp only [MayWrite, MayWriteBytes, Admits]; decide +kernel

/-- Queue pair 5 enabled with one descriptor waiting; `loc` says whether its ring is in local memory. -/
def ringDev (loc : Nat) : State :=
  ((boundDev 1).setFld (QUE_INDEX 5) QUE_INDEX_sq_tail 1).setFld (QUE_CFG 5) QUE_CFG_sq_loc loc

/-- The same with stack 0 serving. -/
def readyDev (loc : Nat) : State := (ringDev loc).setFld (MEM_STATUS 0) MEM_STATUS_state 1

/-- Whether a read of local memory is answered. -/
def answered : Access → Bool
  | .done _ ue _ => !ue
  | _ => false

/-- Meets the hypotheses of the statement of this name. -/
theorem witness_DescriptorsAreFetchedInOrder :
    (ringDev 0).live = true ∧ mayFetch (ringDev 0) 5 = true ∧ (ringDev 0).bit (QUE_CFG 5) QUE_CFG_sq_loc = false ∧ mayFetch dev 5 = false ∧
    mayFetch (readyDev 1) 5 = true ∧ (readyDev 1).bit (QUE_CFG 5) QUE_CFG_sq_loc = true ∧
    answered (localRead ((readyDev 1).qpMst 5) 0 64 (readyDev 1)) = true := by
  decide +kernel

/-- A START of core 3 by its queue pair's target byte, with id 7. -/
def startD : List Byte := [1, 0x23, 7, 0] ++ List.replicate 60 0

/-- Core 3 in service. -/
def servedDev : State := (ringDev 0).setCore 3 { inService := true }

/-- Meets the hypotheses of the statement of this name. -/
theorem witness_AcceptanceChecksInOrder :
    servedDev.live = true ∧ startD.length = 64 ∧ qpEnabled servedDev 5 = true ∧ servedDev.mixed = false ∧ portOff servedDev (servedDev.qpPort 5) = false ∧
    servedDev.bit (QUE_CFG 5) QUE_CFG_sq_loc = false ∧ servedDev.bit (QUE_CFG 5) QUE_CFG_wydak = false ∧
    servedDev.fld (QUE_INDEX 5) QUE_INDEX_sq_head ≠ servedDev.fld (QUE_INDEX 5) QUE_INDEX_sq_tail ∧
    servedDev.fld (QUE_INDEX 5) QUE_INDEX_cq_tail = servedDev.fld (QUE_INDEX 5) QUE_INDEX_cq_head ∧
    (servedDev.qp 5).owed < 2 ^ servedDev.fld (QUE_CFG 5) QUE_CFG_cq_size ∧ targetBad 1 3 = false ∧ targetOf servedDev 5 (fieldAt startD 1 1) = (1, 3) ∧
    targetAbsent { ringDev 0 with grade := 3 } 1 31 1 startD = true ∧ targetAbsent servedDev 1 3 1 startD = false ∧ servedDev.qpFrozen 5 = false ∧
    (neededMst servedDev 1 3 1).all (fun m => !servedDev.isFrozen m) = true ∧
    ((bodyOf 1 1).any (fun u => unlistedZero u startD) && rangesOk 1 1 startD) = true ∧
    servedDev.bit (QUE_CFG 5) QUE_CFG_epoch_check = false ∧ countsIn 1 1 startD = none ∧ countsIn 3 1 startD = some 0 ∧ ({ servedDev with frozen := [{ mst := ⟨0, 5⟩ }] } : State).qpFrozen 5 = true := by
  decide +kernel

/-- Meets the hypotheses of the statement of this name. -/
theorem witness_CompletionRecordsAreWritten :
    ((ringDev 0).qp 5).gen = (⟨5, 7, 0⟩ : CmdRef).gen ∧ ((ringDev 0).qp 5).gen ≠ (⟨5, 7, 1⟩ : CmdRef).gen ∧
    (ringDev 0).bit (QUE_CFG 5) QUE_CFG_cq_loc = false ∧ ((readyDev 0).setFld (QUE_CFG 5) QUE_CFG_cq_loc 1).bit (QUE_CFG 5) QUE_CFG_cq_loc = true ∧
    Writes ((readyDev 0).qpMst 5) 0x4000000 32 (readyDev 0) ∧ (readyDev 0).fld (QUE_STATUS 5) QUE_STATUS_class ≠ 0 ∧ (readyDev 0).qpPort 5 = 0 ∧ portOff (readyDev 0) 0 = false ∧
    portOff ((ringDev 0).setPortCfg 0 { low := true }) ((ringDev 0).qpPort 5) = true := by
  simp only [Writes, Serves, Sound]; decide +kernel

/-- Whether a read or write of local memory is a violation. -/
def violates : Access → Bool
  | .bad _ _ => true
  | _ => false

/-- Meets the hypotheses of the statement of this name. -/
theorem witness_DirectAccessAndFetchFailures :
    dev.live = true ∧ portOff dev 1 = false ∧ mayFetch (ringDev 0) 5 = true ∧ 0x4000000 + 64 ≤ bar4Size dev 1 ∧ bar4Size dev 1 = 0x8000000000 ∧ (readyDev 0).isFrozen (barMst 1) = false ∧
    answered (localRead (barMst 1) 0x4000000 64 (readyDev 0)) = true ∧ answered (localStore (barMst 1) 0x4000000 [1, 2] (readyDev 0)) = true ∧
    violates (localRead (barMst 1) 0x4000000 64 ((readyDev 0).setWin 1 0 2 0)) = true ∧
    violates (localStore (barMst 1) 0x4000000 [1] ((readyDev 0).setWin 1 0 2 0)) = true ∧ qpEnabled (ringDev 0) 5 = true ∧
    (ringDev 0).bit (QUE_CFG 5) QUE_CFG_sq_loc = false := by
  decide +kernel

/-- Core 3 with a TALLY_ADD of 2 at tally 1 waiting, and a limit. -/
def tallyDev (limit : Nat) : State :=
  ((ringDev 0).setCore 3 { inService := true, inbox := [⟨⟨5, 7, 0⟩, 2, [2, 0x23, 7, 0, 0, 0, 0, 0, 1, 0, 0, 0, 2, 0, 0, 0], 0⟩] }).setFld
    (COR_TALLY 3 1) COR_TALLY_limit limit

/-- Meets the hypotheses of the statement of this name. -/
theorem witness_TallyCommandAndWydakGather_tally :
    (tallyDev 5).live = true ∧ (tallyDev 5).mixed = false ∧ (tallyDev 5).upsets = [] ∧ (tallyDev 5).has .core 3 = true ∧
    (((tallyDev 5).core 3).inbox.head?.all (fun m => decide (m.code = 2))) = true ∧ ((tallyDev 5).core 3).inbox ≠ [] ∧ (tallyDev 5).fld (COR_TALLY 3 1) COR_TALLY_limit = 5 ∧
    (tallyDev 5).fld (COR_TALLY 3 1) COR_TALLY_count + 2 ≤ 5 ∧ (tallyDev 1).fld (COR_TALLY 3 1) COR_TALLY_limit < 2 := by
  decide +kernel

/-- Drover 1 with the head command a Wydak gather of one entry: rows of 16 bytes, list at 64 MiB, to 64 MiB + 4096. -/
def wydakDev : State :=
  (readyDev 0).setDrover 1 { inbox := [(1, ⟨⟨5, 7, 0⟩, wydakCode, [1, 0, 16, 0, 1, 0, 0, 0, 0, 0, 0, 4, 0, 0, 0, 0,
    0, 0x10, 0, 4, 0, 0, 0, 0, 0, 0, 0, 0, 7, 0, 0, 0], 0⟩)] }

/-- Meets the hypotheses of the statement of this name. -/
theorem witness_TallyCommandAndWydakGather_wydak :
    (drHead wydakDev 1 wydakCode).isSome = true ∧ wydakDev.isFrozen (drMst 1) = false ∧
    answered (localRead (wydakDev.qpMst 5) 0x4000000 4 (wydakDev.dropDr 1)) = true ∧
    (match wydakRows (wydakDev.qpMst 5) 0 16 0 [(0, 0x4001000)] wydakDev with
      | .done _ => true
      | _ => false) = true ∧ 0 % 2 ^ 24 ≠ 0xFFFFFF ∧ 0xFFFFFF % 2 ^ 24 = 0xFFFFFF ∧
    answered (localWrite (wydakDev.qpMst 5) 0x4001000 (List.replicate 16 0) wydakDev) = true := by
  decide +kernel

/-! ### Links -/

/-- Link 3 in a state of R312, with one kept block. -/
def linkDev (st : Nat) : State :=
  (((dev.setFld (LNK_STATUS 3) LNK_STATUS_state st).setFld (LNK_SEQ 3) LNK_SEQ_tx_next 1).setFld (LNK_SEQ 3) LNK_SEQ_tx_acked
    65535).setLnk 3 { retry := [⟨0, [7], [0]⟩] }

/-- Meets the hypotheses of the statement of this name. -/
theorem witness_LinkStateChanges :
    (linkDev 1).live = true ∧ (linkDev 1).has .link 3 = true ∧ lnkTraining (linkDev 1) 3 = true ∧ lnkTraining (linkDev 5) 3 = false ∧
    (linkDev 2).lnkState 3 = 2 ∧ (linkDev 4).lnkState 3 = 4 ∧ ((linkDev 4).lnk 3).retry ≠ [] ∧ lnkLive (linkDev 4) 3 = true ∧
    ((linkDev 4).lnk 3).resends < max 1 ((linkDev 4).fld (LNK_RETRY_CFG 3) LNK_RETRY_CFG_max_retries) ∧ (linkDev 5).lnkState 3 = 5 ∧
    max 1 ((linkDev 4).fld (LNK_RETRY_CFG 3) LNK_RETRY_CFG_max_retries) ≤ (((linkDev 4).setLnk 3 { resends := 16 }).lnk 3).resends ∧
    (linkDev 5).bit (LNK_RETRY_CFG 3) LNK_RETRY_CFG_auto_retrain = true ∧ MayWrite port0 (LNK_CTRL 3) (linkDev 4) ∧
    firstTraining ((linkDev 0).setFld (LNK_CFG 3) LNK_CFG_enable 1) 3 = true := by
  simp only [MayWrite, MayWriteBytes, Admits]; decide +kernel

/-- The control word of a block with a sequence number, an ack and a kind, its crc good. -/
def goodCtl (data : List Byte) (seq ack kind : Nat) : Nat :=
  let c := ctlWord seq ack 0 0 0 kind
  c + blockCrc (padTo 120 0 data) c

/-- The first bytes of a DATA block that begins a READ for device 0: 120 bytes in all, or more. -/
def readHead (len : Nat) : List Byte := [1, 0, 0, 0, 0, 0] ++ leBytes 2 len

/-- Meets the hypotheses of the statement of this name. -/
theorem witness_LinkBlocksAreTakenInOrder :
    (linkDev 4).has .link 3 = true ∧ lnkLive (linkDev 4) 3 = true ∧ lnkLive (linkDev 5) 3 = false ∧ blockGood [1] 0 = false ∧
    blockGood [1] (goodCtl [1] 0 65535 0) = true ∧ ((linkDev 4).lnk 3).tx = [] ∧ ((linkDev 4).lnk 3).out = [] ∧ freePlaces (linkDev 4) 3 0 ≠ [] ∧
    freePlaces ((linkDev 4).setLnk 3 { slots := (rangeFrom 0 16).map (fun i => { ty := 1, place := i }) }) 3 0 = [] ∧
    0 < modDiff 16 (bitsOf (goodCtl [1] 5 65535 0) 63 48) ((linkDev 4).fld (LNK_SEQ 3) LNK_SEQ_rx_expected) ∧
    modDiff 16 (bitsOf (goodCtl [1] 65533 65535 0) 63 48) ((linkDev 4).fld (LNK_SEQ 3) LNK_SEQ_rx_expected) < 0 ∧
    modDiff 16 (bitsOf (goodCtl (readHead 200) 0 65535 0) 63 48) ((linkDev 4).fld (LNK_SEQ 3) LNK_SEQ_rx_expected) = 0 ∧
    fieldAt (padTo 120 0 (readHead 200)) 6 2 = 200 ∧ 32 + fieldAt (padTo 120 0 (readHead 88)) 6 2 = 120 ∧ (linkDev 4).committed = false ∧
    recMode (linkDev 4) ≠ 1 ∧ (linkDev 3).lnkState 3 = 3 ∧ ((linkDev 3).lnk 3).gotInit = false := by
  decide +kernel

/-- Meets the hypotheses of the statement of this name. -/
theorem witness_LinkBlocksAreTakenInOrder_nak :
    0 < modDiff 16 (bitsOf (goodCtl [1] 5 0 2) 47 32) ((linkDev 4).fld (LNK_SEQ 3) LNK_SEQ_tx_acked) ∧
    modDiff 16 (bitsOf (goodCtl [1] 5 0 2) 47 32) (((linkDev 4).fld (LNK_SEQ 3) LNK_SEQ_tx_next + 65535) % 65536) ≤ 0 ∧
    ((linkDev 4).lnk 3).retry.filter (fun x => decide (0 < modDiff 16 x.seq 0)) = [] ∧ ((linkDev 4).lnk 3).retry ≠ [] ∧
    ((linkDev 4).lnk 3).resends < max 1 ((linkDev 4).fld (LNK_RETRY_CFG 3) LNK_RETRY_CFG_max_retries) := by
  decide +kernel

/-! ### Structure image -/

/-- A device whose structure unit is in a given state, stack 0 serving. -/
def strDev (x : StrSt) : State := { dev.setFld (MEM_STATUS 0) MEM_STATUS_state 1 with str := x }

/-- The same with a commit mixed, in which core 2 has still to switch. -/
def mixedDev : State :=
  { ((dev.setFld STR_STATUS STR_STATUS_mixed 1).setReg STR_PENDING_CORES 4).setFld STR_TIMEOUT STR_TIMEOUT_us 9 with
    str := { force := some ([], []) } }

/-- An image of one section: its bytes with their checks. -/
def oneImg (ty : Nat) (body : List Byte) : List Byte :=
  let sec (c : Nat) : List Byte := leBytes 2 ty ++ leBytes 2 1 ++ leBytes 4 (16 + body.length) ++ leBytes 4 c ++ leBytes 4 0 ++ body
  let h := padTo 0xFC 0 (padTo 0x40 0 (leBytes 4 0x52545346 ++ leBytes 2 1 ++ leBytes 2 1 ++ leBytes 4 (0x110 + body.length) ++ leBytes 4 0) ++
    leBytes 2 ty ++ leBytes 2 0 ++ leBytes 4 0x100)
  h ++ leBytes 4 (crc32c h) ++ sec (crc32c (sec 0))

/-- An image with a POWER section, a cap of 1,000 W; one with a CORE section that takes core 2 out of service. -/
def powerImg : List Byte := oneImg 8 (padTo 48 0 (leBytes 2 1000))
def coreImg : List Byte := oneImg 1 (padTo 176 0 [1, 0, 0, 0, 1])

/-- A device with an image of bytes at 64 MiB, its staging under way. -/
def imgDev (b : List Byte) : State :=
  { strDev { staging := some 0x4000000 } with
    mem := ((rangeFrom 0x4000000 b.length).zip b).filter (fun p => decide (p.2 ≠ 0)) }

/-- Whether a staging finds the image good. -/
def imageGood (b : List Byte) : Bool :=
  let x := readImage 0x4000000 (imgDev b)
  !x.2.1 && decide (x.1.length = imgLength x.1) && (imageFault x.2.2 0x4000000 x.1).isNone

/-- Meets the hypotheses of the statement of this name. -/
theorem witness_StructureImageIsStagedAndCommitted :
    MayWrite port0 STR_STAGE dev ∧ dev.bit STR_STATUS STR_STATUS_staging = false ∧ dev.mixed = false ∧ mixedDev.mixed = true ∧
    MayWrite port0 STR_STAGE mixedDev ∧ MayWrite port0 STR_COMMIT dev ∧ (strDev { staging := some 0x4000000 }).str.staging = some 0x4000000 ∧
    waits dev 0x4000000 = true ∧ waits (strDev {}) 0x4000000 = false ∧ waits (strDev {}) copyArea = false ∧ imageLies (strDev {}) 0xE000000000 0x100 = false ∧
    imageLies (strDev {}) 0x4000000 0x100 = true ∧ permitted (strDev {}) 138 (strDev {}).devId 0x4000000 0x100 kRead = true ∧
    (imageFault (strDev {}) 0x4000000 []).isSome = true ∧ (readImage 0x4000000 (strDev {})).1.length ≠ imgLength (readImage 0x4000000 (strDev {})).1 ∧ imageGood powerImg = true ∧ imgBase [] + 1 = 1 ∧
    fget STR_COMMIT_epoch 1 = (imgBase [] + 1) % 2 ^ 32 ∧ fget STR_COMMIT_epoch 5 ≠ (imgBase [] + 1) % 2 ^ 32 ∧ dev.committed = false := by
  simp only [MayWrite, MayWriteBytes, Admits]; decide +kernel

/-- Meets the hypotheses of the statement of this name. -/
theorem witness_StructureImageIsStagedAndCommitted_held :
    (let s := (mixedDev.setFld (COR_TALLY 2 1) COR_TALLY_limit 3)
     ({ s with str := { s.str with heldAdds := [⟨5, false, 0, 2, 1, 1⟩] } } : State).str.heldAdds.length = 1 ∧ s.has .core 2 = true ∧
       s.fld (COR_TALLY 2 1) COR_TALLY_limit ≠ 0 ∧ s.fld (COR_TALLY 2 1) COR_TALLY_count + 1 ≤ s.fld (COR_TALLY 2 1) COR_TALLY_limit ∧ (s.core 2).waiters = []) := by
  decide +kernel

/-- Meets the hypotheses of the statement of this name. -/
theorem witness_StructureImageIsStagedAndCommitted_switch :
    mixedDev.str.force = some ([], []) ∧ mixedDev.str.late = false ∧ bitOf (mixedDev.fld STR_PENDING_CORES STR_PENDING_CORES_cores) 2 = true ∧
    mixedDev.fld STR_PENDING_CORES STR_PENDING_CORES_cores = 2 ^ 2 ∧ coreIdle (mixedDev.core 2) = true ∧ (mixedDev.core 2).holdA = false ∧
    waitingCores (strDev { next := some (1, [], []) }) [] = [] ∧
    2 ∈ waitingCores ((strDev { next := some (1, coreImg, []) }).setCore 2 { am := { life := .live } }) coreImg ∧ mixedDev.fld STR_TIMEOUT STR_TIMEOUT_us ≠ 0 ∧
    mixedDev.str.since + 9 ≤ ((mixedDev.setReg SCH_TICK 10).reg SCH_TICK).toNat ∧ coreIdle ({ am := { life := .live } } : Core) = false := by
  decide +kernel

/-! ### Memory system -/

/-- Stack 1 in a state, at a temperature, with errors in its atom 0. -/
def memDev (st temp bad : Nat) : State :=
  { (dev.setFld (MEM_STATUS 1) MEM_STATUS_state st).setFld (MEM_STATUS 1) MEM_STATUS_temp temp with
    atomErrs := if bad = 0 then [] else [(0x40000000, if bad = 1 then 1 else 0x0101010101)] }

/-- Meets the hypotheses of the statement of this name. -/
theorem witness_StackAndSramMaintenance :
    (memDev 0 0 0).live = true ∧ (memDev 0 0 0).has .stack 1 = true ∧ (memDev 0 0 0).fld (MEM_STATUS 1) MEM_STATUS_state = 0 ∧
    (memDev 1 90 0).fld (MEM_STATUS 1) MEM_STATUS_state = 1 ∧
    (memDev 1 0 0).fld (MEM_SCRUB 1) MEM_SCRUB_period_hours ≠ 0 ∧ (memDev 1 0 0).atomErr 0x40000000 = 0 ∧
    (memDev 1 0 1).atomErr 0x40000000 = 1 ∧ (memDev 1 0 0).parityErrs 1 = 0 ∧ 3 < ((memDev 1 0 0).setParityErrs 1 5).parityErrs 1 ∧ (memDev 1 0 2).atomErr 0x40000000 = 2 ∧
    (memDev 1 0 0).fld (MEM_SCRUB_POS 1) MEM_SCRUB_POS_position = 0 ∧ MayWrite port0 (MEM_CTRL 1) (memDev 1 0 0) ∧
    MayWrite port0 (MEM_MARK 1 63) (memDev 1 0 0) ∧ fget MEM_MARK_pin 36 = 36 ∧ fget MEM_MARK_pin 35 < 36 ∧
    MayWrite port0 MEM_SRAM_CTRL (memDev 1 0 0) ∧ sramHere dev 0 32 0 = false ∧ sramHere dev 8 9 0 = true ∧ sramHere dev 3 31 0 = true ∧
    sramHere dev 4 31 0 = true ∧ sramHere dev 7 7 0 = true ∧
    sramHere (dev.setLnk 3 { slots := [{ ty := 1 }] }) 9 3 0 = true ∧ sramHere dev 9 3 0 = false ∧
    sramHere (dev.setLnk 4 { tx := [{ ty := 1, via := some (3, 0) }] }) 9 3 0 = true := by
  simp only [MayWrite, MayWriteBytes, Admits]; decide +kernel

/-- Local memory that holds runs of bytes, given by rising address. -/
def memOf (l : List (Nat × List Byte)) : Sparse Byte :=
  ((l.map (fun p => (rangeFrom p.1 p.2.length).zip p.2)).flatten).filter (fun p => decide (p.2 ≠ 0))

/-- The descriptor of table 3: two FP32 elements, four rows, its directory at 0x10_0000_3000. -/
def tableBytes : List Byte :=
  leBytes 4 0x4C424154 ++ leBytes 2 1 ++ leBytes 2 2 ++ leBytes 2 3 ++ leBytes 2 2 ++ leBytes 4 0 ++ leBytes 8 4 ++ leBytes 8 0x1000003000 ++
    leBytes 8 0 ++ leBytes 8 0 ++ leBytes 8 0x1000004000 ++ leBytes 8 0

/-- The entry of row 1 of table 3, and a gradient record for it. -/
def rowEnt : DirEnt := ⟨0, 1, 0, 0x200, 5⟩
def rowGrad : List Byte := gradBytes ⟨0, 3, 0, 1, 0, 2, 0⟩ [0x3F800000, 0x40000000]

/-- Stack 1 serving with table 3 registered, its row 1 placed, and one record of the step in the even half. -/
def tableDev : State :=
  { ((((dev.setFld (MEM_STATUS 1) MEM_STATUS_state 1).setReg EMB_TABLE_REG (BitVec.ofNat 64 0x1000001000)).setFld (EMB_REC 1) EMB_REC_base
      0x10001).setFld (EMB_REC 1) EMB_REC_size_mib 2).setFld (EMB_STATUS 1) EMB_STATUS_used_even 2 with
    mem := memOf [(0x1000001018, leBytes 8 0x1000002000), (0x1000002000, tableBytes), (0x1000003008, leBytes 8 rowEnt.word),
      (0x1000008000, leBytes 4 0x40A00000), (0x1000100000, rowGrad)] }

/-- The same with the skip flag of the step delivered at applier 1. -/
def appDev (skip : Bool) : State := tableDev.setApplier 1 { flag := some skip }

/-- Meets the hypotheses of the statement of this name. -/
theorem witness_RowApplicationAndReducerCounts :
    (appDev false).live = true ∧ (appDev false).has .stack 1 = true ∧ ((appDev true).applier 1).flag = some true ∧
    ((appDev false).applier 1).flag = some false ∧ ((appDev false).applier 1).refusing false = false ∧ (tableDev.applier 1).flag = none ∧
    touchedRows (records ((appDev false).bytes (halfBase (appDev false) 1 false) (halfUsed (appDev false) 1 false)) 2) = [(3, 1)] ∧
    (match (appDev false).registered 3 with
      | some t0 => decide (ownEntry (appDev false) t0 1 = some (0x1000003008, rowEnt)) && decide (slotSize t0 0 = 64)
      | none => false) = true ∧ rowEnt.unplaced = false ∧ rowEnt.addr = 0x1000008000 ∧
    SoundAll (appDev false) ([(halfBase (appDev false) 1 false, 32), (0x1000003008, 8), (0x1000004000, 64), (0x1000008000, 64)] ++ tableReads (appDev false) 3) ∧
    MayWrite port0 EMB_CTRL dev ∧ MayWrite port0 (NSR_CTRL 1) dev ∧
    (memDev 0 0 0).fld (MEM_STATUS 1) MEM_STATUS_state = 0 ∧ (memDev 1 0 0).fld (MEM_STATUS 1) MEM_STATUS_state = 1 ∧
    (memDev 1 0 0).fld (MEM_SCRUB 1) MEM_SCRUB_period_hours ≠ 0 ∧ MayWrite port0 (MEM_CTRL 1) (memDev 1 0 0) ∧
    MayWrite port0 (MEM_MARK 1 63) (memDev 1 0 0) ∧ fget MEM_MARK_pin 35 < 36 ∧ MayWrite port0 MEM_SRAM_CTRL (memDev 1 0 0) ∧ sramHere dev 0 31 0 = true := by
  simp only [MayWrite, MayWriteBytes, Admits, SoundAll, Sound]
  repeat' apply And.intro
  all_goals decide +kernel

/-! ### Core programs -/

/-- A program header of generation 7 with code at 0x10_0010_0000, one block in each stream, and tally 1 declared with limit 9. -/
def headerBytes : List Byte :=
  let b := padTo 0x20 0 (leBytes 4 0x48505846 ++ leBytes 2 1 ++ leBytes 2 7 ++ leBytes 8 0x1000100000 ++ leBytes 4 0 ++ leBytes 4 1 ++ leBytes 4 1 ++
    leBytes 4 1) ++ leBytes 8 0x1000200000 ++ leBytes 4 0 ++ leBytes 4 8
  let h := padTo 0xFFC 0 (padTo 0x258 0 b ++ leBytes 4 2 ++ leBytes 4 9)
  h ++ leBytes 4 (blockCheck 0x1000000000 7 h)

/-- Core 5 with its code region in the serving stack 1, in a given state. -/
def coreDev (k : Core) : State := (dev.setFld (MEM_STATUS 1) MEM_STATUS_state 1).setCore 5 k

/-- A START of that header taken and not begun. -/
def startDev : State := { coreDev { starting := some (0x1000000000, 7) } with mem := memOf [(0x1000000000, headerBytes)] }

/-- Meets the hypotheses of the statement of this name. -/
theorem witness_CoreProgramsStartAndAreControlled_start :
    startDev.live = true ∧ startDev.has .core 5 = true ∧ (startDev.core 5).starting = some (0x1000000000, 7) ∧ startDev.mixed = false ∧
    Reads (aMst 5) 0x1000000000 4096 startDev := by
  simp only [Reads, Serves, Sound]; decide +kernel

/-- The header that startDev holds is good. -/
theorem witness_CoreProgramsStartAndAreControlled_header :
    headerBad startDev 5 7 0x1000000000 headerBytes = false := by
  decide +kernel

/-- The header is refused under another generation. -/
theorem witness_CoreProgramsStartAndAreControlled_refused :
    headerBad startDev 5 8 0x1000000000 headerBytes = true := by
  decide +kernel

/-- Meets the hypotheses of the statement of this name. -/
theorem witness_CoreProgramsStartAndAreControlled :
    MayWrite port0 (COR_CTRL 5) (coreDev {}) ∧ MayWrite port0 (COR_RETIRE 5) (coreDev {}) ∧ MayWrite port0 (COR_ARR_CTRL 5) (coreDev {}) ∧
    ((coreDev { state := .running, runs := [{ rid := 0, unit := 1, deferred := false, word := 0, addr := 0 }] }).core 5).runs ≠ [] ∧
    Admits port0 (COR_CTRL 5) (regBytes (COR_CTRL 5)) (coreDev { state := .recess }) ∧ Admits port0 (COR_RETIRE 5) (regBytes (COR_RETIRE 5)) (coreDev { state := .recess }) ∧
    Admits port0 (COR_ARR_CTRL 5) (regBytes (COR_ARR_CTRL 5)) (coreDev { state := .recess }) ∧ ((coreDev { inService := false }).core 5).inService = false ∧
    ((coreDev { state := .halted }).core 5).state = .halted ∧ (coreDev { state := .recess }).bit PWR_STATUS PWR_STATUS_standby = false ∧ (coreDev {}).upsets = [] ∧ ((coreDev { retiring := some 3 }).core 5).retiring = some 3 := by
  simp only [MayWrite, MayWriteBytes, Admits]; decide +kernel

/-- Core 5 running a program of generation 7 whose region is at 0x10_0010_0000. -/
def runCore : Core :=
  { state := .running, prog := { gen := 7, base := 0x1000100000, aBlocks := 1, xBlocks := 1, xFirst := 1, checkTable := 0x1000200000 }
    am := { life := .live, pos := 0x1000100000, stall := 1 }, xm := { life := .live, pos := 0x1000101000, stall := 1 } }

/-- The same with its main A context stalled on a queue at a yield point and an entry in the deferred queue. -/
def yieldCore : Core :=
  { runCore with am := { runCore.am with stall := 2 }, deferQ := [⟨0x1000100000, 0x1000101000, 7, 0⟩]
                 stagedA := [{ addr := 0x1000100000, gen := 7, ok := true, code := [BitVec.ofNat 128 (2 ^ 119)] }] }

/-- Meets the hypotheses of the statement of this name. -/
theorem witness_CoreEventsFollowTheirRules :
    (coreDev {}).has .core 5 = true ∧ runCore.up = true ∧ runCore.inService = true ∧ runCore.runs.any (fun r => r.chk && decide (r.rid < 1)) = false ∧
    ({ runCore with runs := [{ rid := 0, unit := 0, deferred := false, word := BitVec.ofNat 128 (2 ^ 118), addr := 0 }] } : Core).runs.any (fun r => r.chk && decide (r.rid < 1)) = true ∧ wanted runCore false 0 = true ∧ wanted runCore false 1 = false ∧
    (coreDev runCore).isFrozen (aMst 5) = false ∧ Reads (aMst 5) 0x1000200000 4 (coreDev runCore) ∧ Reads (aMst 5) 0x1000100000 4096 (coreDev runCore) ∧
    ({ coreDev {} with frozen := [{ mst := aMst 5 }] } : State).isFrozen (aMst 5) = true ∧
    checkMeets 4 (transferCheck 64 0 [1, 2, 3, 4]) (transferCheck 64 0 [1, 2, 3, 4]) = true ∧ checkMeets 4 (transferCheck 64 0 [1, 2, 3, 4]) 0 = false ∧
    (coreDev runCore).fld (COR_STALL_LIMIT 5) COR_STALL_LIMIT_cycles ≠ 0 ∧ runCore.allRest = false ∧
    ({ yieldCore with xm := { life := .ended } } : Core).allRest = true := by
  simp only [Reads, Serves, Sound]; decide +kernel

/-- Meets the hypotheses of the statement of this name. -/
theorem witness_CoreEventsFollowTheirRules_deferred :
    ((coreDev yieldCore).setFld (COR_DEFER_CTRL 5) COR_DEFER_CTRL_stall_threshold 9).fld (COR_DEFER_CTRL 5) COR_DEFER_CTRL_stall_threshold ≠ 0 ∧
    yieldCore.up = true ∧ yieldCore.deferQ ≠ [] ∧ (yieldCore.ctx false false).life = .live ∧ 2 ≤ (yieldCore.ctx false false).stall ∧
    atYield yieldCore false false = true ∧ ((startDeferred yieldCore).ctx false true).life = .live ∧ runCore.executes 7 = true ∧
    runCore.executes 3 = false ∧ ({ runCore with aDef := true, ad := { life := .ended } } : Core).ad.life = .ended := by
  decide +kernel

/-! ### Streams of a core -/

/-- `Issues` as a test. -/
def issuesB (s : State) (c : Nat) (x d : Bool) (w : Code) : Bool :=
  s.live && s.has .core c && (s.core c).mayIssue x d && (x || !s.isFrozen (aMst c)) && decide ((s.core c).wordAt x ((s.core c).ctx x d).pos = some w) &&
    (x || !decide (opcode w < 0x10) || !(s.core c).holdA) &&
    stagedClean (s.core c) x ((s.core c).ctx x d).pos && decide (issueTrap s c x d w = none)

theorem issues_iff (s : State) (c : Nat) (x d : Bool) (w : Code) : Issues s c x d w ↔ issuesB s c x d w = true := by
  by_cases h : opcode w < 0x10 <;> cases x <;> simp [Issues, issuesB, and_assoc, h]

/-- An instruction whose fields are given by their lowest bits. -/
def instr (op : Nat) (fs : List (Nat × Nat)) : Code := BitVec.ofNat 128 (op * 2 ^ 120 + (fs.map (fun f => f.2 * 2 ^ f.1)).sum)

/-- Core 5 with instructions at the start of both of its streams' staged blocks, in a given core state. -/
def codeDev (k : Core) (l : List Code) : State :=
  coreDev { k with stagedA := [{ addr := 0x1000100000, gen := 7, ok := true, code := l }], stagedX := [{ addr := 0x1000101000, gen := 7, ok := true, code := l }] }

/-- Meets the hypotheses of the statement of this name. -/
theorem witness_StreamInstructionsIssueOrTrap :
    (codeDev runCore [instr opNOP []]).live = true ∧ (codeDev runCore []).has .core 5 = true ∧ ((codeDev runCore []).core 5).mayIssue true false = true ∧
    ((codeDev runCore [instr opNOP []]).core 5).wordAt true 0x1000101000 = some (instr opNOP []) ∧ ((codeDev runCore []).core 5).wordAt true 0x1000101000 = none ∧
    issueTrap (codeDev runCore []) 5 false false (instr opVADD []) = some (0x02, 0x6003) ∧ opAllowed false opVADD = false ∧ opAllowed false opJUMP = true ∧
    issueTrap (codeDev runCore []) 5 false false (instr opPHASE []) = some (0x02, 0x6008) ∧ runCore.busy false false = false ∧ ({ runCore with holdA := true } : Core).holdA = true := by
  decide +kernel

/-- Meets the hypotheses of the statement of this name. -/
theorem witness_StreamInstructionsIssueOrTrap_runs :
    (({ runCore with runs := [{ rid := 0, unit := 0, deferred := false, word := instr opLOAD [], addr := 0 }] } : Core)).busy false false = true ∧
    opcode (instr opLOAD []) ≠ opSTORE ∧ runCore.runs[0]? = none := by
  decide +kernel

/-- Meets the hypotheses of the statement of this name. -/
theorem witness_ControlAndScalarInstructions :
    [(instr opNOP [], true), (instr opEND [], true), (instr opJUMP [(88, 2)], true), (instr opLOOP [(64, 1), (80, 3)], true), (instr opLOOP [(64, 1)], false),
      (instr opSETX [(108, 3), (44, 5)], false), (instr opADDX [(108, 3), (44, 5)], false), (instr opFENCE [], false), (instr opRETIRE [(96, 6)], false),
      (instr opDEFER [(58, 1)], false), (instr opWAIT [(106, 2), (74, 1)], false), (instr opLOOP [(118, 1), (64, 1), (60, 2)], false)].all (fun p =>
      (codeDev runCore [p.1]).live && (codeDev runCore [p.1]).has .core 5 && ((codeDev runCore [p.1]).core 5).mayIssue p.2 false &&
        !(codeDev runCore [p.1]).isFrozen (aMst 5) && (((codeDev runCore [p.1]).core 5).wordAt p.2 (((codeDev runCore [p.1]).core 5).ctx p.2 false).pos == some p.1) &&
        !((codeDev runCore [p.1]).core 5).holdA && (issueTrap (codeDev runCore [p.1]) 5 p.2 false p.1).isNone) = true := by
  decide +kernel

/-- Meets the hypotheses of the statement of this name. -/
theorem witness_ControlAndScalarInstructions_issues :
    Issues ((codeDev runCore [instr opPHASE [(109, 1)]]).setReg (COL_PHASE 1) (fset COL_PHASE_valid 1 0)) 5 false false (instr opPHASE [(109, 1)]) := by
  simp only [issues_iff]; decide +kernel

/-- Meets the hypotheses of the statement of this name. -/
theorem witness_ControlAndScalarInstructions_memory :
    mapped (codeDev runCore []) 0x2000000000 4 = true ∧ Reads (aMst 5) 0x1000000000 4 (codeDev runCore []) ∧ mapped (codeDev runCore []) 0x900000000000 4 = false ∧
    (codeDev runCore []).tally 5 2 < 1 := by
  simp only [Reads, Serves, Sound]; decide +kernel

/-- Meets the hypotheses of the statement of this name. -/
theorem witness_ControlAndScalarInstructions_tally :
    (let s := ((codeDev runCore [instr opADD [(106, 2), (74, 3)]]).setFld (COR_TALLY 5 2) COR_TALLY_limit 9).setFld (COR_TALLY 5 2) COR_TALLY_count 4
     let r (dev n : Nat) : Code := instr opADD [(118, 1), (106, 2), (74, n), (58, dev), (53, 5)]
     Issues s 5 false false (instr opADD [(106, 2), (74, 3)]) ∧ s.fld (COR_TALLY 5 2) COR_TALLY_limit ≠ 0 ∧ s.tally 5 2 + 3 ≤ s.fld (COR_TALLY 5 2) COR_TALLY_limit ∧
       ¬s.tally 5 2 + 6 ≤ s.fld (COR_TALLY 5 2) COR_TALLY_limit ∧ s.devId = 0 ∧ replaying s = false ∧ permitted s 7 0 (mmioBase + COR_TALLY 5 2) 8 kTally = true ∧
       permitted s 7 9 (mmioBase + COR_TALLY 5 2) 8 kTally = true ∧ permitted s 7 0x7FF0 (mmioBase + COR_TALLY 5 2) 8 kTally = true ∧
       (issueTrap s 5 false false (r 0 3)).isNone = true ∧ (issueTrap s 5 false false (r 9 3)).isNone = true) := by
  simp only [issues_iff]; decide +kernel

/-- The core of `codeDev` with a queue 3 of 32-byte FP32 rows at its A-stream's ends, and address registers. -/
def moveCore : Core :=
  { runCore with am := { runCore.am with ax := [0x1000300000, 0x1000300040, 0x800A000000] }
                 queues := [(3, { fmt := 1, units := 2, prod := 1, cons := 1, rows := [List.replicate 32 7, List.replicate 32 9] })] }

/-- A LOAD of two rows of queue 3, a STORE of them, a COPY of two rows of four bytes, a TLOAD of 2 × 2 bytes into scratch. -/
def moves : List Code :=
  [instr opLOAD [(118, 1), (107, 3), (47, 2)], instr opSTORE [(107, 3), (47, 2)], instr opCOPY [(104, 1), (95, 1), (86, 3), (60, 64), (36, 4)],
    instr opTLOAD [(117, 1), (104, 2), (95, 1), (86, 1), (60, 64), (36, 4)]]

/-- Meets the hypotheses of the statement of this name. -/
theorem witness_ControlAndScalarInstructions_held :
    (let w : Code := instr opADD [(118, 1), (106, 2), (74, 1), (53, 2)]
     let s := ((codeDev runCore [w]).setReg STR_PENDING_CORES 4).setReg STR_EPOCH 1
     Issues s 5 false false w ∧ holdsAdd s 5 2 = true ∧ holdsAdd s 5 6 = false ∧ permitted s 7 0 (mmioBase + COR_TALLY 2 2) 8 kTally = true ∧ s.devId = 0) := by
  simp only [issues_iff]; decide +kernel

/-- Meets the hypotheses of the statement of this name. -/
theorem witness_LoadStoreCopyAndTload :
    (let f (k : Nat) : Prop := Issues (codeDev moveCore [moves.getD k 0]) 5 false false (moves.getD k 0) ∧ accessFree moveCore (moves.getD k 0) = true ∧
       laneFree moveCore (moves.getD k 0) = true
     f 0 ∧ f 1 ∧ f 2 ∧ f 3) ∧ Numbered moveCore ∧ 2 ≤ (moveCore.queue 3).rows.length ∧
    (moveCore.queue 3).rows.length + 2 ≤ queueCap 2 ∧ (moveCore.queue 3).full = false ∧
    reach (codeDev moveCore []) 5 false 0x1000300000 = .here 0x1000300000 ∧ reach (codeDev moveCore []) 5 false 0x9001000300000 = .there 9 0x1000300000 := by
  simp only [issues_iff, Numbered]; decide +kernel

/-- Meets the hypotheses of the statement of this name. -/
theorem witness_LoadStoreCopyAndTload_memory :
    (let s := codeDev moveCore []
     Reads (aMst 5) 0x1000300000 32 s ∧ Reads (aMst 5) 0x1000300020 32 s ∧ Writes (aMst 5) 0x1000300000 32 s ∧ Writes (aMst 5) 0x1000300020 32 s ∧
       Writes (aMst 5) 0x800A000000 2 s ∧ Writes (aMst 5) 0x800A000004 2 s ∧ permitted s 7 9 0x1000300000 32 kRead = true ∧ replaying s = false ∧
       mapped s 0x800000000000 32 = false) := by
  simp only [Reads, Writes, Serves, Sound]
  repeat' apply And.intro
  all_goals decide +kernel

/-- Meets the hypotheses of the statement of this name. -/
theorem witness_LoadStoreCopyAndTload_answer :
    (let r : Run := { rid := 0, unit := 0, deferred := false, word := instr opLOAD [(107, 3), (47, 1)], addr := 0x1000100000, await := some 4, resp := some (0, [], [1]) }
     let k : Core := { moveCore with runs := [r], nextRid := 1 }
     Numbered k ∧ k.up = true ∧ k.runs[0]? = some r ∧ r.row + 1 = cb r.word 70 47 ∧ (k.queue 3).size ≤ 4096) := by
  simp only [Numbered]; decide +kernel

/-- A full queue, an empty one, no free place and no place in the stream lane. -/
theorem witness_LoadStoreCopyAndTload_full :
    ((moveCore.setQueue 3 { moveCore.queue 3 with units := 4096, rows := [[0]] }).queue 3).full = true ∧ (({ moveCore with queues := [] } : Core).queue 3).rows = [] ∧
    accessFree { moveCore with runs := [{ rid := 0, unit := 0, deferred := false, word := instr opLOAD [(107, 3)], addr := 0 }] } (instr opLOAD [(107, 3)]) = false ∧
    laneFree { moveCore with checks := List.replicate 8 ⟨0, false, 0, 0, 0, []⟩ } (instr opLOAD [(118, 1)]) = false := by
  decide +kernel

/-- Table 3 beside core 5, whose queue 3 holds one row of two FP32 values and whose index tensor names row 1. -/
def gatherDev (w : Code) (road : List (Nat × List Byte)) : State :=
  let k : Core := { runCore with
    am := { runCore.am with ax := [0x800A000000, 0x1000002000, BitVec.ofNat 64 (staging 0 + slotOffset dev 0 0)] }
    queues := [(3, { fmt := 6, units := 1, prod := 1, cons := 1, rows := [leBytes 4 0x3F800000 ++ leBytes 12 0] })]
    stagedA := [{ addr := 0x1000100000, gen := 7, ok := true, code := [w] }] }
  let s := tableDev.setCore 5 k
  { s with mem := s.mem ++ memOf ((0x800A000000, [1]) :: road) }

/-- A GATHER of one row into queue 3, and a SCATTER_ADD of one. -/
def gather1 : Code := instr opGATHER [(107, 3), (99, 1), (67, 1)]
def scatter1 : Code := instr opSCATTER [(107, 3), (99, 1), (67, 1)]

/-- Meets the hypotheses of the statement of this name. -/
theorem witness_GatherAndScatterAdd :
    (let s := gatherDev gather1 []
     let k := issuer s 5 false false
     Issues s 5 false false gather1 ∧ Numbered (s.core 5) ∧ accessFree k gather1 = true ∧ laneFree k gather1 = true ∧
       Issues (gatherDev (gather1 ||| 1 <<< 114) []) 5 false false (gather1 ||| 1 <<< 114) ∧
       reach s 5 false 0x1000002000 = .here 0x1000002000 ∧ Reads (aMst 5) 0x1000002000 64 s ∧ (k.queue 3).rows.length + 1 ≤ queueCap (k.queue 3).units ∧
       Reads (aMst 5) 0x800A000000 4 s ∧ tableGood (s.bytes 0x1000002000 64) = true ∧ s.num 0x800A000000 4 = 1) := by
  simp only [issues_iff, Numbered, Reads, Serves, Sound]; decide +kernel

/-- Meets the hypotheses of the statement of this name. -/
theorem witness_GatherAndScatterAdd_row :
    RowHere 5 kRead (tableOf 0x1000002000 tableBytes) 1 0 2 0x1000003008 rowEnt (gatherDev gather1 []) ∧
    RowHere 5 kWrite (tableOf 0x1000002000 tableBytes) 1 0 2 0x1000003008 rowEnt (gatherDev scatter1 []) ∧ (tableOf 0x1000002000 tableBytes).rows ≤ 4 := by
  simp only [RowHere, Reads, Serves, Sound]
  repeat' apply And.intro
  all_goals decide +kernel

/-- Meets the hypotheses of the statement of this name. -/
theorem witness_GatherAndScatterAdd_record :
    (let s := gatherDev scatter1 []
     let t := tableOf 0x1000002000 tableBytes
     Issues s 5 false false scatter1 ∧ s.registered 3 = some t ∧ (ownEntry s t 1).map (fun y => y.2) = some rowEnt ∧ (s.applier 1).refusing false = false ∧
       decide (s.stepLo % 2 = 1) = false ∧ halfUsed s 1 false + gradSize 2 ≤ halfSize s 1 ∧ 1 ≤ ((s.core 5).queue 3).rows.length ∧
       Sound s (halfBase s 1 false + halfUsed s 1 false) (gradSize 2) ∧ SoundAll s (tableReads s 3) ∧ SoundAll s [(0x1000003008, 8)] ∧ s.stubAt rowEnt.addr = none) := by
  simp only [issues_iff, SoundAll, Sound]; decide +kernel

/-- A hop of one edge from row 1 to one destination, in road slot 0 of Drover 0, and a GATHER that sums it. -/
def hopAt : Nat := staging 0 + slotOffset dev 0 0
def hopBytes : List (Nat × List Byte) :=
  [(hopAt, leBytes 4 1 ++ leBytes 4 1 ++ leBytes 4 1 ++ leBytes 4 1 ++ leBytes 8 0 ++ leBytes 8 0x80 ++ leBytes 8 0x100 ++ leBytes 8 0x140 ++ leBytes 16 0),
    (hopAt + 0x80, leBytes 8 1), (hopAt + 0x100, leBytes 8 (2 ^ 48)), (hopAt + 0x140, leBytes 14 0 ++ leBytes 2 0x3C00)]
def sum1 : Code := instr opGATHER [(117, 1), (114, 1), (107, 3), (103, 2), (99, 1), (67, 1)]
def hopDev : State := (gatherDev sum1 hopBytes).setReg (DRV_ROAD_STEP 0 0) 0

/-- Meets the hypotheses of the statement of this name. -/
theorem witness_GatherAndScatterAdd_road :
    (let h := hopDev.bytes hopAt 64
     Issues hopDev 5 false false sum1 ∧ slotOfAddr hopDev 0 hopAt = 0 ∧ roadViolation (hopDev.core 5) false sum1 (fieldAt h 4 4) = false ∧ companion (hopDev.core 5) false sum1 = 0 ∧
       fieldAt h 4 4 = 1 ∧ fieldAt h 8 4 = 1 ∧ fieldAt h 0xC 4 = 1 ∧ (hopDev.drover 0).rows = [] ∧ (hopDev.reg (DRV_ROAD_STEP 0 0)).toNat ≤ (hopDev.reg COL_STEP).toNat ∧
       Reads (aMst 5) hopAt 64 hopDev ∧ hopDev.num (hopAt + fieldAt h 0x20 8) 8 = 2 ^ 48 ∧ hopDev.num (hopAt + fieldAt h 0x28 8 + 4) 4 = 0 ∧
       hopDev.num (hopAt + fieldAt h 0x28 8) 4 < fieldAt h 0 4 ∧ hopDev.num (hopAt + fieldAt h 0x18 8) 5 = 1 ∧ rowEnt.pasture = 1) := by
  simp only [issues_iff, Reads, Serves, Sound]; decide +kernel

/-! ### The arrays -/

/-- A core with tile rows in queue 3, a descriptor and metadata rows in queue 4, ids 1, 0, 9 in queue 6, and queues 7 and 8 for EXPERT. -/
def tileCore (rows : Nat) : Core :=
  { runCore with queues :=
      [(3, { fmt := 2, units := 1, cons := 2, rows := List.replicate rows [] }),
       (4, { fmt := 2, units := 2, cons := 2, rows := (leBytes 1 0xD4 ++ leBytes 1 0 ++ leBytes 2 128 ++ leBytes 12 0 ++ leBytes 2 512) :: List.replicate 64 [] }),
       (6, { fmt := 0x10, units := 1, cons := 2, rows := [[1, 0, 9] ++ List.replicate 13 0] }), (7, { fmt := 0x12, units := 1, prod := 2 }),
       (8, { fmt := 0x12, units := 1, prod := 2 })] }

def mload1 : Code := instr opMLOAD [(107, 3)]
def mload24 : Code := instr opMLOAD [(118, 1), (116, 2), (107, 3), (102, 4)]
def expert1 : Code := instr opEXPERT [(107, 6), (102, 7), (97, 8), (63, 3), (55, 1)]

/-- Meets the hypotheses of the statement of this name. -/
theorem witness_TilesEpilogueWordsAndExpert :
    Issues (codeDev (tileCore 128) [mload1]) 5 true false mload1 ∧ Issues (codeDev (tileCore 128) [mload24]) 5 true false mload24 ∧
    Issues (codeDev (tileCore 0) [expert1]) 5 true false expert1 ∧ Issues (codeDev (tileCore 0) [instr opMSWAP []]) 5 true false (instr opMSWAP []) ∧
    Issues (codeDev (tileCore 0) [instr opEPI [(93, 1)]]) 5 true false (instr opEPI [(93, 1)]) ∧ Numbered (tileCore 0) ∧
    ((tileCore 128).queue 3).rows.length = 128 ∧ (tileCore 128).stealOf 0 = none ∧ tileHeld (tileCore 128) 0 = false ∧ (tileCore 0).sub 0 = {} ∧ laneBusy (tileCore 0) 0 = false ∧ vecBusy (tileCore 0) = false := by
  simp only [issues_iff, Numbered]; decide +kernel

/-- Meets the hypotheses of the statement of this name. -/
theorem witness_TilesEpilogueWordsAndExpert_tile :
    (let s := codeDev (tileCore 128) [mload24]
     let desc := ((tileCore 128).queue 4).rows.getD 0 []
     descGood (widthOf s 5) desc = true ∧ descGood 256 desc = false ∧ 65 ≤ ((tileCore 128).queue 4).rows.length ∧ fieldAt desc 1 1 = 0 ∧
       servedDense s 5 mload24 2 0 0 = false ∧ servedDense s 5 (mload24 ^^^ 3 <<< 116) 2 0 0 = true) := by
  decide +kernel

/-- Meets the hypotheses of the statement of this name. -/
theorem witness_TilesEpilogueWordsAndExpert_swap :
    (let k := (tileCore 128).setSub 0 { shadow := { feed := some mload24, tile24 := true, sparseKind := true, dense := true, vals := List.replicate 64 [], meta24 := List.replicate 32 [] }, filled := true }
     let p := (k.sub 0).shadow
     (k.sub 0).filled = true ∧ p.dense = true ∧ p.feed = some mload24 ∧ p.vals.length ≤ p.rowsIn ∧ p.rowsIn - p.vals.length ≤ (k.queue 3).rows.length ∧
       64 - p.meta24.length ≤ (k.queue 4).rows.length) := by
  decide +kernel

/-- Meets the hypotheses of the statement of this name. -/
theorem witness_TilesEpilogueWordsAndExpert_busy :
    laneBusy { tileCore 0 with runs := [{ rid := 0, unit := 1, deferred := false, word := 0, addr := 0 }] } 0 = true ∧
    vecBusy { tileCore 0 with runs := [{ rid := 0, unit := 9, deferred := false, word := 0, addr := 0 }] } = true ∧
    bitOf (BitVec.ofNat 64 (2 ^ 63)).toNat 63 = true ∧ ((tileCore 0).queue 6).rows.length = 1 ∧ (3 + 16 - 1) / ((tileCore 0).queue 6).size = 1 := by
  decide +kernel

/-- Core 5 with a plane of 1.0 in E4M3, two rows in queue 3, and queue 8 of FP32 rows of `units` units; some running instructions. -/
def arrayCore (units : Nat) (runs : List Run) : Core :=
  { runCore with runs := runs, nextRid := 1, subs := [(0, { active := { fmt := 2, vals := List.replicate 128 (List.replicate 512 0x38) } })]
                 queues := [(3, { fmt := 2, units := 1, cons := 2, rows := [List.replicate 128 0x38, List.replicate 128 0x40] }),
                   (8, { fmt := 6, units := units, prod := 2 })] }

/-- MSTREAM of two rows of queue 3: ADD in class G, OVERWRITE, raw to queue 8, through the epilogue to queue 8. -/
def strAdd : Code := instr opMSTREAM [(107, 3), (115, 1), (117, 1), (63, 2)]
def strSet : Code := instr opMSTREAM [(107, 3), (63, 2)]
def strRaw : Code := instr opMSTREAM [(107, 3), (118, 1), (102, 8), (63, 2)]
def strEpi : Code := instr opMSTREAM [(107, 3), (118, 1), (114, 1), (102, 8), (63, 2)]

/-- An MSTREAM on lane 0 of which no row of its two has been taken. -/
def victim (w : Code) : Run := { rid := 0, unit := 1, deferred := false, word := w, addr := 0, nums := [1, 2, 1, 0, 0, 0, 0, 0, 1, 0, 0] }

/-- Meets the hypotheses of the statement of this name. -/
theorem witness_StreamsThroughTheArray :
    (let k := arrayCore 128 []
     [strAdd, strSet, strRaw, strEpi].all (fun w => issuesB (codeDev k [w]) 5 true false w) = true ∧ k.runs = [] ∧ (k.queue 3).rows.length = 2 ∧
       xRows strAdd = 2 ∧ nanHalts (codeDev k [strAdd]) 5 1 = false ∧ classFits k 0 0 0 1 = true ∧ classFits k 0 1 0 1 = true ∧
       (segSpill (segAdd (codeDev k [strAdd]) 5 0 0 0 1 []) 5 0 0 0 1).1 = true ∧ k.stealOf 0 = none ∧ (k.queue 8).size = 4 * widthOf (codeDev k []) 5 ∧
       (k.queue 8).rows.length + 2 ≤ queueCap 128 ∧ qoutOk strRaw k 8 = true ∧ qoutOk strEpi k 8 = true ∧
       (k.queue 8).size * 8 = widthOf (codeDev k []) 5 * (qoutFmt k strEpi).bits ∧ k.segs = [] ∧ splitOf (codeDev k []) 5 = 0) := by
  decide +kernel

/-- Meets the hypotheses of the statement of this name. -/
theorem witness_StreamsThroughTheArray_forms :
    (let k := arrayCore 32 []
     let s := ((codeDev k [strEpi]).setFld (COR_ARR_CFG 5) COR_ARR_CFG_split 2)
     issuesB s 5 true false strEpi = true ∧ splitOf s 5 ≠ 0 ∧ (k.queue 8).size * 8 = widthOf s 5 * (qoutFmt k strEpi).bits ∧
       classFits (k.setSeg 0 0 0 { cls := 2 }) 0 0 0 1 = false ∧ issuesB (codeDev (k.setSeg 0 0 0 { cls := 2 }) [strAdd]) 5 true false strAdd = true ∧
       laneBusy (arrayCore 32 [victim strRaw]) 0 = true ∧ issuesB (codeDev (arrayCore 32 [victim strRaw]) [strSet]) 5 true false strSet = true) := by
  decide +kernel

/-- Meets the hypotheses of the statement of this name. -/
theorem witness_StreamsThroughTheArray_steal :
    (let s := ((codeDev (arrayCore 32 [victim strRaw]) []).setFld (COR_ARR_CFG 5) COR_ARR_CFG_split 2).setReg (COR_ARR_STEAL 5) 0x10003
     let t := ((codeDev (arrayCore 128 [victim strAdd]) []).setReg (COR_ARR_STEAL 5) 0x10003).setReg (COR_ARR_STEAL 6) 0x10003
     s.live = true ∧ s.has .core 5 = true ∧ (s.core 5).up = true ∧ 1 < nSubs (splitOf s 5) ∧ s.bit (COR_ARR_STEAL 5) COR_ARR_STEAL_enable = true ∧
       laneIdle (s.core 5) 1 = true ∧ stealVictim s 5 1 = some (victim strRaw) ∧ nanHalts s 5 1 = false ∧ ((s.core 5).queue 8).size = 4 * widthOf s 5 ∧
       qoutOk strRaw (s.core 5) 8 = true ∧ t.has .core 6 = true ∧ t.bit (COR_ARR_STEAL 6) COR_ARR_STEAL_cross_core = true ∧
       (t.core 5).runs.find? (crossVictim t 5) = some (victim strAdd) ∧ interlocked t 5 (victim strAdd) = false ∧ (t.core 6).runs = [] ∧
       (segSpill (segAdd t 5 0 0 0 1 []) 5 0 0 0 1).1 = true ∧ stealVictim t 5 1 = none ∧ (victim strRaw).num mnSpill = 0 ∧ (victim strRaw).num mnSwap = 1 ∧
       (s.core 5).steals = [] ∧ interlocked s 5 (victim strRaw) = false ∧ min 64 ((victim strRaw).num mnCount - 0) ≤ ((s.core 5).queue 3).rows.length ∧ arrayIdle t 6 = true ∧ s.stealsAcross 5 = false ∧ s.upsets = []) := by
  decide +kernel

/-- Meets the hypotheses of the statement of this name. -/
theorem witness_StreamsThroughTheArray_arrives :
    (let z : Steal := { thief := 6, lane := 0, cross := true, rid := 0, first := 0, limit := 1, buf := [some [0x3F800000]] }
     let t := codeDev { arrayCore 128 [{ victim strAdd with row := 1 }] with steals := [z] } []
     t.has .core 6 = true ∧ (t.core 5).up = true ∧ (t.core 5).steals.find? (fun z => z.cross && decide (z.thief = 6)) = some z ∧ z.buf = [[0x3F800000]].map some ∧
       (segSpill (segAdd t 5 0 0 0 1 [f32 0x3F800000]) 5 0 0 0 1).1 = true ∧ interlocked t 5 { victim strAdd with row := 1 } = false) := by
  decide +kernel

/-- Meets the hypotheses of the statement of this name. -/
theorem witness_TilesEpilogueWordsAndExpert_steal :
    (let z : Steal := { thief := 5, lane := 0, cross := false, rid := 0, limit := 1 }
     let k : Core := { tileCore 0 with steals := [z], runs := [victim strRaw], nextRid := 1 }
     k.stealOf 0 = some z ∧ k.owes z = true ∧ ({ k with runs := [] } : Core).owes z = false ∧ (k.endSteal z).stealOf 0 = none) := by
  decide +kernel

/-! ### The vector engine -/

/-- Core 5 with FP32 rows in queues 3 and 4, room in queues 8 (FP32), 9 (block-scaled E4M3), 10 (E8), FP32 and remainder queues for UPDATE from 12. -/
def vecCore : Core :=
  let r (b : Nat) : List Byte := List.replicate 16 (BitVec.ofNat 8 b)
  { runCore with flag := some false, queues :=
      [(3, { fmt := 6, units := 1, cons := 2, rows := [r 1, r 2, r 3, r 4] }), (4, { fmt := 6, units := 1, cons := 2, rows := [r 5, r 6] }),
       (8, { fmt := 6, units := 1, prod := 2 }), (9, { fmt := 0x82, units := 1, prod := 2 }), (10, { fmt := 8, units := 1, prod := 2 }),
       (12, { fmt := 6, units := 1, cons := 2, rows := [r 1] }), (13, { fmt := 6, units := 1, cons := 2, rows := [r 2] }),
       (14, { fmt := 6, units := 4, cons := 2, rows := [List.replicate 64 0] }), (18, { fmt := 6, units := 1, prod := 2 })] }

/-- A vector instruction's word: opcode, selectors of a, b and d, rows, and other fields. -/
def vecWord (op a b dst n : Nat) (l : List (Nat × Nat)) : Code := instr op ([(32, n), (96, a), (80, b), (64, dst)] ++ l)

/-- Selectors of None and of row r of bank A. -/
def selNone : Nat := 0x4000
def selAcc (r : Nat) : Nat := 0x8000 + r

/-- One word of each vector instruction on vecCore, sources and destination in queues or accumulator rows. -/
def vecWords : List (Nat × Code) :=
  ([opVADD, opVSUB, opVMUL, opVAXPY, opVMAX, opVMIN, opVCMP, opVAND, opVOR, opVXOR, opVIADD].map (fun op => (op, vecWord op 3 4 8 2 []))) ++
    ([opVABS, opVNEG, opVMOV, opVEXP, opVRCP, opVRSQRT].map (fun op => (op, vecWord op 3 selNone (selAcc 1) 2 []))) ++ [(opVFMA, vecWord opVFMA 3 3 (selAcc 1) 2 [])]

/-- Meets the hypotheses of the statement of this name. -/
theorem witness_VectorInstructionsComputeByElement :
    vecWords.map (fun p => p.1) = [opVADD, opVSUB, opVMUL, opVAXPY, opVMAX, opVMIN, opVCMP, opVAND, opVOR, opVXOR, opVIADD, opVABS, opVNEG, opVMOV, opVEXP, opVRCP,
      opVRSQRT, opVFMA] ∧ vecOps.all (fun op => vecWords.any (fun p => p.1 == op)) = true ∧
    vecWords.all (fun p => issuesB (codeDev vecCore [p.2]) 5 true false p.2 && decide (opcode p.2 = p.1)) = true ∧ vecCore.runs = [] ∧
    (vecCore.queue 3).rows.length = 4 ∧ (vecCore.queue 4).rows.length = 2 ∧ 0 < (vecCore.queue 8).units ∧ (vecCore.queue 8).rows.length + 2 ≤ queueCap 1 ∧
    vecWords.all (fun p => decide (vRows p.2 = 2)) = true ∧
    vecBusy { vecCore with runs := [{ rid := 0, unit := 9, deferred := false, word := 0, addr := 0 }] } = true := by
  decide +kernel

/-- Meets the hypotheses of the statement of this name. -/
theorem witness_VectorInstructionsComputeByElement_nan :
    nanHalts (codeDev vecCore []) 5 3 = true ∧ nanHalts ((codeDev vecCore []).setReg (COR_NAN_CTRL 5) 0) 5 3 = false ∧
    (decodeF .fp32 (rneF .fp32 (addV (f32 0x7FC00000) (f32 0x01010101)))).isNan = true ∧ (codeDev vecCore []).bit (COR_NAN_FIRST 5) COR_NAN_FIRST_valid = false ∧
    (decodeF .fp32 (rneF .fp32 (addV (f32 0x01010101) (f32 0x05050505)))).isNan = false := by
  decide +kernel

/-- Meets the hypotheses of the statement of this name. -/
theorem witness_ConversionAndCompression :
    (let w := vecWord opCVT 3 10 9 2 [(115, 1), (113, 1)]
     let x := vecWord opCVT 3 selNone (selAcc 1) 2 []
     let ck : Core := { runCore with queues :=
       [(3, { fmt := 2, units := 2, cons := 2, rows := List.replicate 256 (List.replicate 32 0x38) }), (8, { fmt := 1, units := 1, prod := 2 }), (9, { fmt := 2, units := 2, prod := 2 })] }
     let y := vecWord opCOMPRESS 3 8 9 256 []
     issuesB (codeDev vecCore [w]) 5 true false w = true ∧ issuesB (codeDev vecCore [x]) 5 true false x = true ∧ issuesB (codeDev ck [y]) 5 true false y = true ∧
       (ck.queue 3).rows.length = 256 ∧ vRows y = 256 ∧ (ck.queue 9).size = (ck.queue 3).size ∧ (ck.queue 8).size = (ck.queue 3).size * 8 / 8 / 2 ∧
       0 < (ck.queue 8).units ∧ 65 ≤ queueCap 1 ∧ 256 ≤ queueCap 2 ∧ nanHalts (codeDev ck []) 5 3 = true ∧ (vecCore.queue 3).rows.length = 4) := by
  decide +kernel

/-- Meets the hypotheses of the statement of this name. -/
theorem witness_ConversionAndCompression_groups :
    (groupCol .e4m3 false [1, 2, 3, 0]).overfull = true ∧ (groupCol .e4m3 true [1, 2, 3, 0]).idx = (1, 2) ∧ (groupCol .e4m3 true [1, 2, 0, 0]).idx = (0, 1) ∧
    (nonZeros ([1, 2, 3, 0].map (decodeF .e4m3))).length = 3 ∧ (nonZeros ([1, 2, 0, 0].map (decodeF .e4m3))).length = 2 ∧ [1, 2, 3, 0].all (fun x => !(decodeF .e4m3 x).isNan) = true := by
  decide +kernel

/-- Meets the hypotheses of the statement of this name. -/
theorem witness_ReductionAndUpdate :
    (let w0 := vecWord opREDUCE 3 selNone 8 4 [(112, 3)]
     let w1 := vecWord opREDUCE 3 selNone (selAcc 1) 4 [(114, 1), (112, 2)]
     let u := instr opUPDATE [(107, 12), (72, 1)]
     issuesB (codeDev vecCore [w0]) 5 true false w0 = true ∧ issuesB (codeDev vecCore [w1]) 5 true false w1 = true ∧ cbit w0 114 = false ∧ cbit w1 114 = true ∧
       issuesB (codeDev vecCore [u]) 5 true false u = true ∧ vecCore.flag = some false ∧ runCore.flag = none ∧ vRows w0 = 4 ∧ (vecCore.queue 3).rows.length = 4 ∧
       cb u 103 72 = 1 ∧ cb u 106 104 = 0 ∧ cbit u 118 = false ∧ (vecCore.queue 12).rows.length = 1 ∧ (vecCore.queue 13).rows.length = 1 ∧ (vecCore.queue 14).rows.length = 1 ∧
       (vecCore.queue 18).size = (vecCore.queue 12).size ∧ (vecCore.queue 12).rows.all (fun r => decide (r.length = 16)) = true ∧ vecBusy vecCore = false ∧
       issuesB (codeDev { vecCore with flag := none } [u]) 5 true false u = true) := by
  decide +kernel

/-! ### Drovers -/

/-- Four nodes of which node 0 leads to 1 and 2 and node 1 to 3; a plan of one full hop over a train list of nodes 0 and 1; stack 1 serving. -/
def graphBytes : List (Nat × List Byte) :=
  [(0x1000400000, leBytes 4 0x4A444150 ++ leBytes 2 1 ++ leBytes 2 0 ++ leBytes 4 3 ++ leBytes 4 1 ++ leBytes 8 4 ++ leBytes 8 0 ++ leBytes 8 0x1000400100 ++
      leBytes 8 4 ++ leBytes 8 0x1000400080 ++ leBytes 8 0),
   (0x1000400100, leBytes 16 (2 * 2 ^ 48 + 0x1000400200)), (0x1000400110, leBytes 16 (2 * 2 ^ 80 + 2 ^ 48 + 0x1000400240)),
   (0x1000400200, leBytes 8 (11 * 2 ^ 48 + 2 ^ 40 + 1) ++ leBytes 3 1), (0x1000400240, leBytes 8 (9 * 2 ^ 48 + 3) ++ leBytes 1 0),
   (0x1000400300, leBytes 4 0x4E414C50 ++ leBytes 1 1 ++ leBytes 11 0 ++ leBytes 8 0x1000400400 ++ leBytes 8 2 ++ leBytes 32 0),
   (0x1000400340, leBytes 1 4 ++ leBytes 31 0 ++ List.replicate 32 255), (0x1000400400, leBytes 8 0 ++ leBytes 8 1)]

def sampleDesc (step : Nat) : List Byte := leBytes 8 0 ++ leBytes 8 0x1000400300 ++ leBytes 8 step ++ leBytes 8 0 ++ leBytes 8 0 ++ leBytes 4 2 ++ leBytes 20 0
def topoDesc (first : Nat) : List Byte := leBytes 8 0 ++ leBytes 8 0x1000500000 ++ leBytes 8 first ++ leBytes 40 0

/-- Drover 1 over that graph with the head command of its inbox. -/
def graphDev (k : Drover) : State :=
  { ((coreDev {}).setReg (DRV_ADJ_BASE 1) 0x1000400000).setDrover 1 k with mem := memOf graphBytes }
def headed (code : Nat) (desc : List Byte) : Drover := { inbox := [(1, ⟨⟨5, 7, 0⟩, code, desc, 0⟩)] }

/-- A SAMPLE of that plan for step 0, waiting, and as it is when its road is built. -/
def smpOf0 (built : Bool) : Smp :=
  let x := smpOf 0 1 0 ⟨⟨5, 7, 0⟩, 1, sampleDesc 0, 0⟩ ((graphDev {}).bytes 0x1000400300 128)
  if built then { x with started := true, topo := 0x1000400000, adj := (graphDev {}).bytes 0x1000400000 64, seeds := [0, 1], hops := [[[⟨1, 0, 0, 0, 0⟩, ⟨2, 0, 0, 1, 1⟩], [⟨3, 0, 0, 2, 0⟩]]], built := true } else x

/-- A prefetch of rows 1 and 9 of table 3, and a row of it. -/
def feed0 : Feed := { serial := 0, step := 0, fold := 1, topo := 0, table := tableBytes, desc := 0x1000002000, col0 := 0, ncols := 0, keys := [1, 9] }
def pfRow (ver check : Nat) : PfRow := ⟨7, 0, 1, 0, 0x1000002000, tableBytes, 1, 0, 2, { rowEnt with ver := ver }.word, 2, [], check⟩
def feedDev (l : List Feed) (rows : List PfRow) : State := tableDev.setDrover 1 { feeds := l, rows := rows, serial := 1 }

/-- Meets the hypotheses of the statement of this name. -/
theorem witness_DroversBuildAndServeRoads :
    (let s := graphDev (headed 1 (sampleDesc 0))
     let p := s.bytes 0x1000400300 64
     let a := adjOf (s.bytes 0x1000400000 64)
     s.live = true ∧ s.mixed = false ∧ s.has .drover 1 = true ∧ (s.drover 1).halted = false ∧ (s.drover 1).rest < 2 ∧ s.isFrozen (drMst 1) = false ∧
       Reads (drMst 1) 0x1000400300 64 s ∧ Reads (drMst 1) 0x1000400340 64 s ∧ fieldAt p 4 1 = 1 ∧ planGood (s.bytes 0x1000400300 128) = true ∧
       planSuits a (s.bytes 0x1000400300 128) = true ∧ a.good = true ∧ fieldAt p 0x18 8 = 2 ∧ mayStart s 1 (smpOf0 false) = true ∧
       topoFor s 1 0 = 0x1000400000 ∧ Reads (drMst 1) 0x1000400000 64 s ∧ 4 ≤ hashCap s 1 ∧ featTable (smpOf0 false) = none ∧ (smpOf0 false).hops = [] ∧
       SoundAll s ((a.ranges, 16) :: (seedPlaces s (smpOf0 false)).map (fun p => (p, 8))) ∧
       ((a.ranges, 16) :: (seedPlaces s (smpOf0 false)).map (fun p => (p, 8))).all (fun p => mapped s p.1 p.2 && permitted s 35 s.devId p.1 p.2 kRead && !waits s p.1) = true ∧
       ({ graphDev (headed 1 (sampleDesc 0)) with frozen := [{ mst := drMst 1 }] } : State).isFrozen (drMst 1) = true ∧
       mayStart (s.setReg (DRV_ROAD_STEP 1 0) 3) 1 (smpOf0 false) = false ∧ fieldAt p 0x18 8 < 1 + 2) := by
  simp only [Reads, Serves, Sound, SoundAll]
  repeat' apply And.intro
  all_goals decide +kernel

/-- Meets the hypotheses of the statement of this name. -/
theorem witness_DroversBuildAndServeRoads_nodes :
    (let s := graphDev {}
     let a := adjOf (s.bytes 0x1000400000 64)
     [0, 1].map (fun i => s.num (0x1000400400 + 8 * perm (seedOf s) 0 2 i) 8) = [0, 1] ∧ (homeOf s a 0).dev = s.devId ∧ (homeOf s a 1).dev = s.devId ∧
       (∀ q ∈ adjReads s a 0 ++ adjReads s a 1, Reads (drMst 1) q.1 q.2 s) ∧
       [0, 1].all (fun v => match nodeEdges 1 a ((homeOf s a v).base + (v - (homeOf s a v).first)) (fun deg => blocksRead (seedOf s) 0 1 v deg ⟨4, false, 0, 0, 0, 2 ^ 256 - 1⟩) s with
         | .ok es _ _ => decide (es.map (·.nbr) = if v = 0 then [1, 2] else [3])
         | _ => false) = true) := by
  simp only [Reads, Serves, Sound]; decide +kernel

/-- Meets the hypotheses of the statement of this name. -/
theorem witness_DroversBuildAndServeRoads_start :
    (let s := graphDev { samples := [smpOf0 false], serial := 1 }
     let t := graphDev { samples := [smpOf0 true], serial := 1 }
     let b := roadBytes t (adjOf (t.bytes 0x1000400000 64)) (smpOf0 true)
     (s.drover 1).samples.find? (fun x => !x.started && mayStart s 1 x) = some (smpOf0 false) ∧ (t.drover 1).samples.find? (·.built) = some (smpOf0 true) ∧
       b.length = 512 ∧ t.fld (DRV_STAGING_CFG 1) DRV_STAGING_CFG_slot_units = 64 ∧ 63 * 0x10000 < 64 * 0x10000 ∧
       Sound t (staging 1 + slotOffset t 1 0) 512 ∧ (∀ y ∈ atomsOf (staging 1 + slotOffset t 1 0) 512, inPasture (y * 64) = false) ∧
       (t.setReg (DRV_STAGING_CFG 1) 0).fld (DRV_STAGING_CFG 1) DRV_STAGING_CFG_slot_units * 0x10000 < 512 ∧ (smpOf0 true).topo = 0x1000400000) := by
  simp only [Sound]; decide +kernel

/-- Meets the hypotheses of the statement of this name. -/
theorem witness_DroversBuildAndServeRoads_topo :
    (let s := graphDev (headed 2 (topoDesc 4))
     let y := graphDev { headed 2 (topoDesc 4) with topos := [(9, 0x1000500000)] }
     let z := graphDev { headed 2 (topoDesc 4) with top := some 4 }
     s.live = true ∧ (s.drover 1).top = none ∧ (s.drover 1).topos = [] ∧ (s.reg COL_STEP).toNat = 0 ∧ (y.drover 1).topos.any (fun p => decide (0 < p.1)) = true ∧
       (z.drover 1).top = some 4 ∧ fieldAt (topoDesc 4) 0x10 8 = 4) := by
  decide +kernel

/-- Meets the hypotheses of the statement of this name. -/
theorem witness_DroversBuildAndServeRoads_prefetch :
    (let t := tableOf 0x1000002000 tableBytes
     let s := feedDev [feed0] []
     let e := feedDev [{ feed0 with entry := some rowEnt.word, known := true }] []
     parseTable 0x1000002000 tableBytes = some t ∧ s.live = true ∧ s.isFrozen (drMst 1) = false ∧ entryAt s t 1 = some (s.devId, 0x1000003008) ∧ 1 < t.rows ∧ t.rows ≤ 9 ∧
       Reads (drMst 1) 0x1000003008 8 s ∧ dirEnt (s.num 0x1000003008 8) = rowEnt ∧ dirEnt rowEnt.word = rowEnt ∧ rowEnt.unplaced = false ∧ rowEnt.dev = e.devId ∧
       waits e rowEnt.addr = false ∧ e.stubAt rowEnt.addr = none ∧ rowPlaced rowEnt.addr rowEnt.cls t.elems = true ∧
       (colSpan rowEnt.cls 0 2) = (0, 8) ∧ permitted e 35 rowEnt.dev rowEnt.addr 8 kRead = true ∧ permitted e 35 9 rowEnt.addr 8 kRead = true ∧
       SoundAll e (rowPieces rowEnt.addr rowEnt.cls t.elems 0 2) ∧ mapped e rowEnt.addr 8 = true ∧ 64 ≤ prefetchSize e 1 ∧
       prefetchSize e 1 < prefetchSize e 1 + 64 ∧ t.ranged = false ∧ entryPlace e t 1 = 0x1000003008 ∧ permitted e 35 0 0x1000003008 8 kRead = true ∧
       permitted (e.setWin 35 0 2 0) 35 0 0x1000003008 8 kRead = false) := by
  simp only [Reads, Serves, Sound, SoundAll]; decide +kernel

/-- Meets the hypotheses of the statement of this name. -/
theorem witness_DroversBuildAndServeRoads_check :
    (let s := feedDev [] [pfRow 0 1]
     (s.drover 1).rows.find? (fun z => decide (z.id = 7) && decide (z.check = 1)) = some (pfRow 0 1) ∧ entryAt s (tableOf 0x1000002000 (pfRow 0 1).table) 1 = some (s.devId, 0x1000003008) ∧
       (dirEnt (s.num 0x1000003008 8)).dev = s.devId ∧ Reads (drMst 1) 0x1000003008 8 s ∧ (dirEnt (s.num 0x1000003008 8)).ver = (dirEnt (pfRow rowEnt.ver 1).entry).ver ∧
       (dirEnt (pfRow 6 1).entry).ver ≠ rowEnt.ver ∧ topoVersion s (topoFor s 1 0) = 0) := by
  simp only [Reads, Serves, Sound, SoundAll]; decide +kernel

/-- Meets the hypotheses of the statement of this name. -/
theorem witness_DroversBuildAndServeRoads_remote :
    (let x := { smpOf0 false with started := true }
     let r : Req := { tag := 3, dst := 9, owner := .sample 1 0, addr := 0, crc := 0, len := 0, ty := 6, got := 0 }
     let s : State := { (graphDev { samples := [x] }).setFld (DRV_REMOTE_TIMEOUT 1) DRV_REMOTE_TIMEOUT_us 5 with reqs := [r] }
     s.fld (DRV_REMOTE_TIMEOUT 1) DRV_REMOTE_TIMEOUT_us ≠ 0 ∧ (s.drover 1).samples.find? (fun x => decide (x.serial = 0)) = some x ∧
       s.reqs.find? (fun r => match r.owner with
         | .sample e n => decide (e = 1) && decide (n = 0)
         | _ => false) = some r ∧ LogOpen s ∧ MayWrite port0 (DRV_CTRL 1) s ∧ Admits port0 (DRV_CTRL 1) (regBytes (DRV_CTRL 1)) (graphDev { rest := 1 }) ∧ (graphDev { rest := 1 }).bit PWR_STATUS PWR_STATUS_standby = false ∧ x.built = false ∧ (graphDev {}).has .drover 1 = true) := by
  simp only [LogOpen, MayWrite, MayWriteBytes, Admits]; decide +kernel

/-! ### Collectives and Roll call -/

/-- Groups 0 (this device alone) and 1 (this device and device 9) of the group table, and four FP32 values to combine. -/
def groupBytes : List (Nat × List Byte) :=
  [(0x1000600000, leBytes 8 1 ++ leBytes 8 0x1000600100 ++ leBytes 8 2 ++ leBytes 8 0x1000600110), (0x1000600110, leBytes 4 (9 * 2 ^ 16)),
   (0x1000700000, leBytes 4 0x3F800000 ++ leBytes 4 0x40000000 ++ leBytes 8 0)]

/-- A collective descriptor: group, elements, format, operator, notify, flags. -/
def collDesc (group elems fmt op notify flags : Nat) : List Byte :=
  leBytes 8 0 ++ leBytes 8 0x1000700000 ++ leBytes 8 0x1000700100 ++ leBytes 16 0 ++ leBytes 8 elems ++ leBytes 4 7 ++ leBytes 2 group ++ leBytes 2 0 ++
    leBytes 2 0 ++ leBytes 2 notify ++ leBytes 1 fmt ++ leBytes 1 op ++ leBytes 1 flags ++ leBytes 1 0

/-- Engine 0 with a command of a code at its head, and with active collectives and messages. -/
def collCmd (code : Nat) (desc : List Byte) : Cmd := ⟨⟨5, 7, 0⟩, code, desc, 0⟩
def collDev (inbox : List Cmd) (active : List Coll) (msgs : List CollMsg) : State :=
  { ((coreDev {}).setReg COL_GROUP_BASE 0x1000600000).setEngine 0 { inbox := inbox, active := active } with mem := memOf groupBytes, collIn := msgs }

/-- The device ids of a group's rank list. -/
def ranksOf (s : State) (g : Nat) : List Nat := idsOf (s.bytes (fieldAt (s.bytes (groupAt s g) 16) 8 8) (2 * fieldAt (s.bytes (groupAt s g) 16) 0 4))

/-- An active ALL_REDUCE of group 0, and the device's own message of it. -/
def reduce0 (notify flags : Nat) : Coll := { cmd := collCmd 1 (collDesc 0 4 6 1 notify flags), group := 0, seq := 0, ranks := [0], me := 0 }
def reduceMsg (elems : Nat) : CollMsg := ⟨0, 0, 0, [1, 7, elems, 6, 1, 0], false, 0, 1, 0, 16, leBytes 4 0x3F800000 ++ leBytes 4 0x40000000 ++ leBytes 8 0⟩

/-- A ROLL at the head of engine 0, a fence or not. -/
def rollDev (fence : Bool) : State := collDev [collCmd 7 (leBytes 62 0 ++ leBytes 1 (if fence then 2 else 0) ++ leBytes 1 0)] [] []

/-- Engine 0 with a PERMUTE of one move of eight bytes to itself at its head, in group 0. -/
def permDev : State :=
  let s := collDev [collCmd 6 (collDesc 0 1 6 0 0 0)] [] []
  { s with mem := memOf (graphBytes ++ groupBytes.take 2 ++ [(0x1000700000, leBytes 8 0x1000600000 ++ leBytes 4 0 ++ leBytes 8 0x1000700200 ++ leBytes 4 8)]) }

/-- Meets the hypotheses of the statement of this name. -/
theorem witness_CollectivesAndRollCall :
    [(1, 1), (2, 1), (3, 0), (4, 0), (5, 0)].all (fun p => (let s := collDev [collCmd p.1 (collDesc 0 4 6 p.2 0 0)] [] []
       let P := collPar (collDesc 0 4 6 p.2 0 0)
       s.live && s.has .coll 0 && !s.mixed && !s.isFrozen (engMst 0) && pairingOk p.1 P && decide (ranksOf s P.group = [s.devId]) && decide (P.root < 1) &&
         decide (scaleBytes P 4 = 0) && decide (elemBytes P.fmt P.elems = 16) && collPlace s P.src 16)) = true ∧
    Reads (engMst 0) 0x1000700000 16 (collDev [] [] []) ∧ ranksOf (collDev [] [] []) 1 = [0, 9] ∧ Reads (engMst 0) 0x1000600000 16 (collDev [] [] []) ∧
    Reads (engMst 0) 0x1000600100 2 (collDev [] [] []) ∧ collPlace (collDev [] [] []) 0x1000600000 16 = true ∧ collPlace (collDev [] [] []) 0x1000600100 2 = true ∧
    pairingOk 1 (collPar (collDesc 0 4 6 9 0 0)) = false := by
  simp only [Reads, Serves, Sound]; decide +kernel

/-- Meets the hypotheses of the statement of this name. -/
theorem witness_CollectivesAndRollCall_permute :
    (let P := collPar (collDesc 0 1 6 0 0 0)
     let moves := roundsOf ((chunksOf 24 (permDev.bytes P.src 24)).map moveOf)
     pairingOk 6 P = true ∧ moves = [[⟨0x1000600000, 0, 0x1000700200, 8⟩]] ∧ collPlace permDev P.src 24 = true ∧ Reads (engMst 0) 0x1000700000 24 permDev ∧
       collPlace permDev 0x1000600000 8 = true ∧ Reads (engMst 0) 0x1000600000 8 permDev ∧ ranksOf permDev 0 = [permDev.devId]) := by
  simp only [Reads, Serves, Sound]; decide +kernel

/-- Meets the hypotheses of the statement of this name. -/
theorem witness_CollectivesAndRollCall_complete :
    (let s := collDev [] [reduce0 0 0] [reduceMsg 4]
     let y := collDev [] [{ reduce0 0 1 with cmd := collCmd 6 (collDesc 0 1 6 0 0 0) }] [{ reduceMsg 4 with params := [6, 7, 1, 6, 0, 0], total := 20, data := leBytes 8 0x1000700200 ++ leBytes 12 8 }]
     (s.engine 0).active[0]? = some (reduce0 0 0) ∧ mismatched s (reduce0 0 0) = false ∧ (allMsgs s (reduce0 0 0) 0).isSome = true ∧ mismatched (collDev [] [] [reduceMsg 5]) (reduce0 0 0) = true ∧
       allMsgs (collDev [] [] []) (reduce0 0 0) 0 = none ∧ collPlace s 0x1000700100 16 = true ∧ Writes (engMst 0) 0x1000700100 16 s ∧
       (reduceAll s (collPar (reduce0 0 0).cmd.desc) [(reduceMsg 4).data]).codes = [0x3F800000, 0x40000000, 0, 0] ∧
       allCalled y (reduce0 0 1) = false ∧ allCalled { y with calls := [⟨0, 0, 0, 0⟩] } (reduce0 0 1) = true ∧
       mismatched y { reduce0 0 1 with cmd := collCmd 6 (collDesc 0 1 6 0 0 0) } = false ∧
       (match allMsgs y { reduce0 0 1 with cmd := collCmd 6 (collDesc 0 1 6 0 0 0) } 0 with
        | some l => decide (l.flatMap (fun b => movedRanges b.length b) = [(0x1000700200, leBytes 8 0)])
        | none => false) = true ∧ bitOf (collPar (reduce0 0 1).cmd.desc).flags 0 = true ∧ bitOf (collPar (reduce0 0x8000 0).cmd.desc).notify 15 = true) := by
  simp only [Writes, Serves, Sound]; decide +kernel

/-- Meets the hypotheses of the statement of this name. -/
theorem witness_CollectivesAndRollCall_rolls :
    (rollDev false).live = true ∧ (rollDev true).isFrozen (engMst 0) = false ∧ modDiff 16 (rollNext (rollDev true)) (rollReleased (rollDev true)) ≤ 2 ∧
    stepWorkDone (rollDev true) = true ∧ rollCount (rollDev true) 0 = rollChildren (rollDev true) 0 ∧ rollParent (rollDev true) 0 = (rollDev true).devId ∧
    ((rollDev true).roll.side 0).children = [] ∧ ((rollDev true).roll.side 0).allFence = true ∧ (rollDev true).roll.waiting = [] ∧
    (let s := (rollDev false).setFld COL_ROLL_CFG COL_ROLL_CFG_children 2
     rollCount s 0 < rollChildren s 0) ∧ rollParent ((rollDev false).setFld COL_ROLL_CFG COL_ROLL_CFG_parent 9) 0 ≠ 0 ∧
    (let s := (rollDev false).setFld COL_ROLL_STATUS COL_ROLL_STATUS_round_next 2
     2 < modDiff 16 (rollNext s) (rollReleased s) ∧ LogOpen s) ∧ stepWorkDone (appDev false) = false := by
  simp only [LogOpen]; decide +kernel

/-- Meets the hypotheses of the statement of this name. -/
theorem witness_CollectivesAndRollCall_times :
    (let s := (collDev [] [reduce0 0 0] []).setFld COL_TIMEOUT COL_TIMEOUT_us 9
     let y : State := { s with roll := { waiting := [(⟨5, 7, 0⟩, 1, false)] } }
     s.live = true ∧ s.fld COL_TIMEOUT COL_TIMEOUT_us ≠ 0 ∧ allMsgs s (reduce0 0 0) 0 = none ∧ y.live = true ∧ y.fld COL_TIMEOUT COL_TIMEOUT_us ≠ 0 ∧ LogOpen y ∧
       MayWrite port0 (COL_ENG_CTRL 0) s ∧ MayWrite port0 (COL_ENG_CTRL 1) s ∧ MayWrite port0 COL_CTRL s ∧ (s.engine 1).active = [] ∧ (s.engine 1).inbox = [] ∧
       Admits port0 (COL_ENG_CTRL 1) (regBytes (COL_ENG_CTRL 1)) (s.setEngine 1 { rest := 1 }) ∧ (s.setEngine 1 { rest := 1 }).bit PWR_STATUS PWR_STATUS_standby = false ∧ s.has .coll 1 = true) := by
  simp only [LogOpen, MayWrite, MayWriteBytes, Admits]; decide +kernel

/-! ### Transhumance engines and control kernel services -/

/-- Stack 1 as tableDev has it, with a region of two slots at 0x10_0000_A000 whose first slot is owned, and a list of one entry. -/
def herdDev (k : Trh) : State :=
  { (tableDev.setReg (MEM_REGION_BASE 1) (BitVec.ofNat 64 (2 ^ 48 + 0x1000800000))).setTrh 0 k with
    mem := memOf [(0x1000001018, leBytes 8 0x1000002000), (0x1000002000, tableBytes), (0x1000003008, leBytes 8 rowEnt.word),
      (0x1000008000, leBytes 4 0x40A00000), (0x1000700000, leBytes 8 3 ++ leBytes 8 1),
      (0x1000800000, leBytes 8 0x100000A000 ++ leBytes 8 128 ++ leBytes 4 3 ++ leBytes 4 1 ++ leBytes 8 0x1000900000),
      (0x1000900000, leBytes 8 (3 * 2 ^ 48) ++ leBytes 8 0xFFFFFFFFFFFFFFFF)] }

/-- A MIGRATE or RECLASS of the list, and a migration of row 1 of table 3 to slot 1. -/
def herdCmd (code : Nat) : Cmd := ⟨⟨5, 7, 0⟩, code, leBytes 8 0 ++ leBytes 8 0x1000700000 ++ leBytes 4 1, 0⟩
def mig1 (dev state acks : Nat) (dirty : List Nat) : Mig :=
  { id := 4, table := 3, row := 1, desc := 0x1000002000, slotA := 0x1000008000, clsA := 0, ver := 5, dev := dev, slotB := 0x100000A040, clsB := 0, tbl := tableBytes, timeout := 1000, state := state, acks := acks, dirty := dirty }

/-- Control core 0 running a service command of queue pair 5. -/
def svcOf (code phase : Nat) (body : List Byte) : Svc := ⟨0, 3, ⟨⟨5, 7, 0⟩, code, leBytes 8 0 ++ body, 0⟩, 100, phase⟩
def svcDev (v : Svc) : State :=
  { (((((herdDev {}).setFld (MEM_STATUS 0) MEM_STATUS_state 1).setFld (MEM_STATUS 2) MEM_STATUS_state 1).setFld SCH_FW_STATUS SCH_FW_STATUS_kernel_ready 1).setFld SCH_FW_STATUS SCH_FW_STATUS_state 3).setSched 0 { slot0 := some { item := { itemA with arg := v.arg }, taken := true } } with svcs := [v] }

/-- Meets the hypotheses of the statement of this name. -/
theorem witness_MigrationsAndKernelServices :
    [1, 2].all (fun c => (let s := herdDev { inbox := [herdCmd c] }
       s.live && s.has .trh 0 && !s.mixed && !s.isFrozen (trMst 0) && decide ((s.trh 0).rest < 2))) = true ∧ Reads (trMst 0) 0x1000700000 16 (herdDev {}) ∧
    (herdDev { inbox := [herdCmd 1] }).isFrozen (trMst 0) = false ∧ ({ herdDev { inbox := [herdCmd 1] } with frozen := [{ mst := trMst 0 }] } : State).isFrozen (trMst 0) = true ∧
    [homedRow (herdDev {}) 0 4 1, homedRow (herdDev {}) 1 3 1].all (fun h => match h with
      | .none _ => true
      | _ => false) = true ∧ SoundAll (herdDev {}) (tableReads (herdDev {}) 3) ∧ Reads (trMst 0) 0x1000003008 8 (herdDev {}) ∧
    SoundAll (herdDev {}) (slotReads (herdDev {}) 1 64) ∧ (({ herdDev {} with frozen := [{ mst := trMst 0 }] } : State).isFrozen (trMst 0)) = true ∧
    (match homedRow ({ herdDev {} with frozen := [{ mst := trMst 0 }] } : State) 0 3 1 with
      | .fails f _ => decide (f = 5)
      | _ => false) = true ∧
    (match homedRow (herdDev {}) 0 3 1 with
      | .here t e _ => decide (e = rowEnt) && !t.ranged && decide (t.wide ≤ 0) && decide (t.narrow < 4) && decide (slotSize t 0 = 64) &&
          decide (freeSlotIn (herdDev {}) 1 64 = some 0x100000A040) && decide (freeSlotIn (herdDev {}) 1 128 = none) &&
          decide ((slotPlace (herdDev {}) 0x100000A040).map (fun p => (p.1.owners, p.2)) = some (0x1000900000, 1))
      | _ => false) = true ∧ ({ migs := [mig1 0 0 0 []] } : Trh).migrating 3 1 = true ∧ LogOpen (herdDev {}) ∧
    SoundAll (herdDev {}) [(0x1000900008, 8), (0x1000008000, 64), (0x100000A040, 64)] := by
  simp only [Reads, Serves, SoundAll, Sound, LogOpen]; decide +kernel

/-- Meets the hypotheses of the statement of this name. -/
theorem witness_MigrationsAndKernelServices_commit :
    appsDone { herdDev {} with appliers := (appDev false).appliers } = false ∧
    [(mig1 0 0 0 [], 0), (mig1 0 2 0 [0], 0), (mig1 9 0 0 [], 0), (mig1 9 2 0 [0], 0), (mig1 9 0 1 [], 1), (mig1 0 1 0 [], 2), (mig1 9 1 0 [], 2)].all (fun q =>
      (let s := ((herdDev { migs := [q.1] }).setFld (EMB_STATUS 1) EMB_STATUS_used_even 0).setFld COL_STEP_FLAGS COL_STEP_FLAGS_delivered 1
       s.live && decide ((s.trh 0).migs.find? (fun m => decide (m.id = 4)) = some q.1) && decide (q.1.timeout ≠ 0) && decide (movedBytes s q.1 (s.bytes 0x1000008000 64) = s.bytes 0x1000008000 64) &&
         appsDone s && decide ((s.trh 0).migs.filter (commits s 0) = (if q.2 = 2 then [q.1] else [])) &&
         decide (ownEntry s q.1.tableOf 1 = some (0x1000003008, rowEnt)) && decide ((s.nsr 1).stubs.length < 16384) &&
         decide (slotSize q.1.tableOf 0 = 64))) = true ∧
    ({ mig1 9 2 0 [] with sent := true } : Mig).sent = true ∧ (mig1 9 2 0 [0]).dirty ≠ [] ∧ Reads (trMst 0) 0x1000008000 64 (herdDev {}) ∧ Writes (trMst 0) 0x100000A040 64 (herdDev {}) ∧
    permitted (herdDev {}) 40 9 0x100000A040 64 kWrite = true ∧ permitted ((herdDev {}).setWin 40 0 2 0) 40 9 0x100000A040 64 kWrite = false ∧
    mapped (herdDev {}) 0xE000000000 64 = false ∧ moveBad (herdDev {}) 0 0x1000008000 64 0 0x100000A040 64 = none ∧
    moveBad ((herdDev {}).setWin 40 0 2 0) 0 0x1000008000 64 0 0x100000A040 64 ≠ none ∧ loadEnd ≤ 0x1000900008 ∧ Writes (trMst 0) 0x1000003008 8 (herdDev {}) ∧
    SoundAll (herdDev {}) (entryReads (mig1 0 1 0 []).tableOf) ∧ tableWaits (herdDev {}) 3 = false ∧ (herdDev {}).bit PWR_STATUS PWR_STATUS_standby = false ∧
    MayWrite port0 (TRH_CTRL 0) (herdDev { migs := [mig1 0 0 0 []] }) ∧ MayWrite port0 (TRH_CTRL 0) (herdDev {}) ∧
    Admits port0 (TRH_CTRL 0) (regBytes (TRH_CTRL 0)) (herdDev { rest := 1 }) ∧ Reads (trMst 0) 0x1000003008 8 (herdDev { migs := [mig1 0 1 0 []] }) ∧ (herdDev {}).roll.held = [] := by
  simp only [MayWrite, MayWriteBytes, Admits, Reads, Writes, Serves, Sound, SoundAll]
  repeat' apply And.intro
  all_goals decide +kernel

/-- Meets the hypotheses of the statement of this name. -/
theorem witness_MigrationsAndKernelServices_services :
    (let alloc (kind size : Nat) : Svc := svcOf 1 0 (leBytes 8 size ++ leBytes 4 1 ++ [21] ++ leBytes 1 kind ++ [2, 1, 1])
     let free (b : Nat) : Svc := svcOf 2 0 (leBytes 8 b)
     let far (code dev : Nat) : Svc := svcOf code 0 (leBytes 8 (mmioBase + SCH_TICK) ++ leBytes 2 dev ++ leBytes 6 0 ++ leBytes 8 5)
     [alloc 1 5, alloc 3 5, alloc 1 0x2000000000, free 0x100000A000, free 0, svcOf 0x10 0 (leBytes 8 77), svcOf 0x13 0 (leBytes 4 9), svcOf 0x14 0 [1], svcOf 0x14 0 [2],
       far 0x11 0, far 0x12 0, far 0x11 9, far 0x12 9].all (fun v =>
       (let s := svcDev v
        s.live && decide (served s 0 v.cmd.code = some v) && decide (s.atomErrs = []) && decide (s.caErrs = []) && decide (s.upsets = []) && !tablesWait s [0, 1, 2] && !s.isFrozen (ctrlMst 0) && permitted s 138 (fieldAt v.cmd.desc 0x10 2) (mmioBase + SCH_TICK) 8 kMmio)) = true ∧
     tryOrder (svcDev (alloc 1 5)) 2 1 true = [1] ∧ placeIn (svcDev (alloc 1 5)) 1 0x200000 (2 ^ 21) = some 0x1000200000 ∧
     placeIn (svcDev (alloc 1 5)) 1 0x2000000000 (2 ^ 21) = none ∧ (regions (svcDev (free 0)) 1).map (·.base) = [0x100000A000] ∧ regions (svcDev (free 0)) 2 = [] ∧
     pastureOpen (svcDev (free 0)) 2 = true ∧ pastureOpen ((svcDev (free 0)).setFld (MEM_STATUS 2) MEM_STATUS_state 2) 2 = false ∧
     (svcDev (far 0x11 9)).devId = 0 ∧ tryOrder (svcDev (alloc 3 5)) 2 1 true = [1] ∧ SoundAll (svcDev (free 0)) (regionReads (svcDev (free 0)) [1, 2]) ∧
     permitted ((svcDev (far 0x11 0)).setWin 138 0 2 0) 138 0 (mmioBase + SCH_TICK) 8 kMmio = false ∧ served dev 0 1 = none ∧ (served (svcDev (alloc 1 5)) 0 0x11 = none) ∧
     ((svcDev (alloc 1 5)).committed || !kernelUp (svcDev (alloc 1 5)) || mute (svcDev (alloc 1 5)) (ctrlMst 0)) = false ∧
     permitted (svcDev (alloc 1 5)) 138 0 (mmioBase + 8) 8 kMmio = true) := by
  simp only [SoundAll, Sound]; decide +kernel

/-- Meets the hypotheses of the statement of this name. -/
theorem witness_MigrationsAndKernelServices_times :
    (let s := (svcDev (svcOf 0x11 1 [])).setReg SCH_TICK 10100
     let y := (svcDev (svcOf 0x13 2 [])).setReg SCH_TICK 100
     s.live = true ∧ s.svcs[0]? = some (svcOf 0x11 1 []) ∧ 100 + 10000 ≤ (s.reg SCH_TICK).toNat ∧ y.svcs[0]? = some (svcOf 0x13 2 []) ∧ 100 ≤ (y.reg SCH_TICK).toNat ∧
       y.svcs[1]? = none) := by
  decide +kernel

/-! ### Packets in ingress slots -/

/-- A state with a packet in slot 0 of link 3, and the packets that the witnesses put there. -/
def pkDev (s : State) (p : Packet) : State := s.setLnk 3 { slots := [p] }
def pk (ty addr : Nat) (args : List Nat) (data : List Byte) : Packet := { ty := ty, addr := addr, src := 9, args := args, data := data }
def rowPk : Packet := pk 0x04 0x1000008000 [0, 2, 0, 2] []
def redPk (slot : Nat) : Packet := pk 0x05 0x1000008000 [1, 1, 1, 0, 2, 2, 1, slot, 0, 0, 0] []
def stubDev : State := tableDev.setNsr 1 { stubs := [{ slot := 0x1000008000, entry := 7, eng := 0, table := 3, row := 1 }] }

/-- Roll call with two children, of which one has arrived in round 0. -/
def callDev (children : Nat) (kids : List Nat) : State :=
  let s := (dev.setFld COL_ROLL_CFG COL_ROLL_CFG_children children).setFld COL_ROLL_STATUS COL_ROLL_STATUS_count_even kids.length
  { s with roll := { even := { children := kids } } }

/-- As callDev, with the device's own arrival counted too. -/
def ownCall (children : Nat) (kids : List Nat) : State := (callDev children kids).setFld COL_ROLL_STATUS COL_ROLL_STATUS_count_even (kids.length + 1)

/-- A device that waits for the answer of device 9 to the request of tag 5 and a type. -/
def askDev (s : State) (ty : Nat) (o : ReqOwner) : State := { s with reqs := [{ tag := 5, dst := 9, owner := o, ty := ty }] }
def answer (ty status : Nat) : Packet := { ty := ty, src := 9, tag := 5, status := status }

/-- A replay whose record holds one request entry from device 9 on link 3. -/
def replayDev : State :=
  let s := (((coreDev {}).setFld REC_CFG REC_CFG_mode 2).setFld REC_STATUS REC_STATUS_state 2).setReg REC_BASE (BitVec.ofNat 64 0x1000A00000)
  { s with mem := memOf [(0x1000A00018, [1]), (0x1000A00040, leBytes 4 0 ++ leBytes 2 32 ++ [3, 0]), (0x1000A00060, [1, 0, 0, 0, 9])] }

/-- Meets the hypotheses of the statement of this name. -/
theorem witness_PacketsAreServedAnsweredOrDropped :
    (let s := pkDev tableDev (pk 0x01 0x1000008000 [4] [])
     let w := pkDev tableDev (pk 0x02 0x1000008000 [] [1, 2, 3, 4])
     s.live = true ∧ placeErrs s 3 0 = [] ∧ ((placeErrs { s with upsets := [⟨9, 3, 0, true⟩] } 3 0).any (·.double)) = true ∧ (s.lnk 3).slots[0]? = some (pk 0x01 0x1000008000 [4] []) ∧ newerThan (s.fld STR_EPOCH STR_EPOCH_current) (pk 0x01 0x1000008000 [4] []) = false ∧
       newerThan (s.fld STR_EPOCH STR_EPOCH_current) { rowPk with epoch := 1 } = true ∧ s.isFrozen (ingressMst 3) = false ∧
       ({ s with frozen := [{ mst := ingressMst 3 }] } : State).isFrozen (ingressMst 3) = true ∧ Reads (ingressMst 3) 0x1000008000 4 s ∧ Writes (ingressMst 3) 0x1000008000 4 w ∧
       inMmio (mmioBase + 8) = true ∧ mapped s 0x7000000000 4 = true ∧ waitsFor s 0x7000000000 4 = true ∧ stampHeld s 0 0x1000008000 = false ∧ permitted s 45 0 0x7000000000 4 kRead = true ∧
       permitted s 45 0 0x7000000000 4 kWrite = true ∧ mapped s 0xE000000000 4 = false ∧ permitted (s.setWin 45 0 2 0) 45 0 0x1000008000 4 kRead = false ∧
       permitted (s.setWin 45 0 2 0) 45 0 0x1000008000 4 kWrite = false) := by
  simp only [Reads, Writes, Serves, Sound]; decide +kernel

/-- Meets the hypotheses of the statement of this name. -/
theorem witness_PacketsAreServedAnsweredOrDropped_tally :
    (let p := pk 0x03 0 [3, 1, 2] []
     let s := pkDev (tallyDev 5) p
     s.live = true ∧ newerThan (coreEpoch s 3) p = false ∧ newerThan (coreEpoch s 3) { p with epoch := 1 } = true ∧ permitted s 45 0 (mmioBase + COR_TALLY 3 1) 8 kTally = true ∧
       permitted (s.setWin 45 0 2 0) 45 0 (mmioBase + COR_TALLY 3 1) 8 kTally = false ∧ s.has .core 3 = true ∧ s.fld (COR_TALLY 3 1) COR_TALLY_limit = 5 ∧
       s.fld (COR_TALLY 3 1) COR_TALLY_count + 2 ≤ 5 ∧ (s.core 3).waiters = [] ∧ (pkDev (tallyDev 1) p).fld (COR_TALLY 3 1) COR_TALLY_limit < 2 ∧ s.upsets = [] ∧ LogOpen s) := by
  simp only [LogOpen]; decide +kernel

/-- Meets the hypotheses of the statement of this name. -/
theorem witness_PacketsAreServedAnsweredOrDropped_rows :
    (let s := pkDev tableDev rowPk
     let ok (y : State) : Bool := mapped y (valueSpan 0x1000008000 0 0 2).1 (valueSpan 0x1000008000 0 0 2).2 &&
       permitted y 45 0 (valueSpan 0x1000008000 0 0 2).1 (valueSpan 0x1000008000 0 0 2).2 kRead
     ¬ 2 ≤ stepLag s rowPk.stepLo ∧ 2 ≤ stepLag (s.setReg COL_STEP 2) rowPk.stepLo ∧ waits s 0x1000008000 = false ∧ waits s 0x2000008000 = true ∧
       rowPlaced 0x1000008000 0 2 = true ∧ rowPlaced 0x1000008000 5 2 = false ∧ s.stubAt 0x1000008000 = none ∧ ok s = true ∧ ok (s.setWin 45 0 2 0) = false ∧
       (pkDev stubDev rowPk).stubAt 0x1000008000 ≠ none ∧ ok (pkDev stubDev rowPk) = true ∧
       SoundAll s (rowPieces 0x1000008000 0 2 0 2) ∧
       (argSrcs 1 ((redPk 0x1000008000).args.drop 7)).map (fun x => (x.slot, rowPlaced x.slot x.cls 2)) = [(0x1000008000, true)] ∧
       (argSrcs 1 ((redPk 0x2000008000).args.drop 7)).any (fun x => decide (pastureOf x.slot = 1)) = false ∧ LogOpen s) := by
  simp only [LogOpen, SoundAll, Sound]; decide +kernel

/-- Meets the hypotheses of the statement of this name. -/
theorem witness_PacketsAreServedAnsweredOrDropped_samples :
    (let s := pkDev (graphDev {}) (pk 0x06 0 [0, 1, 3, 1] (leBytes 64 0))
     let adj := adjOf (s.bytes 0x1000400000 64)
     servingDrover s 1 = 1 ∧ (s.drover 1).rest < 2 ∧ topoOfVersion s 1 3 = some 0x1000400000 ∧ topoOfVersion s 1 4 = none ∧
       s.isFrozen (drMst 1) = false ∧ waitsFor s 0x1000400000 64 = false ∧ waitsFor s adj.ranges (16 * adj.rangeCount) = false ∧
       reachesDev s 45 0 kRead = true ∧ reachesDev (s.setWin 45 0 2 0) 45 0 kRead = false ∧
       SoundAll s [(0x1000400000, 64), (adj.ranges, 16 * adj.rangeCount)] ∧ (∀ q ∈ adjReads s adj 1, Reads (drMst 1) q.1 q.2 s) ∧
       (match nodeEdges 1 adj ((homeOf s adj 1).base + (1 - (homeOf s adj 1).first)) (fun deg => blocksRead (seedOf s) 0 1 1 deg (hopOf (leBytes 64 0))) s with
        | .ok es _ _ => decide (es.map (·.nbr) = [3])
        | _ => false) = true ∧ ¬ (({ rest := 2 } : Drover).rest < 2) ∧ (serveAll 0 1 3 (leBytes 64 0) [1] (s.freeSlot 3 0)).isSome = true ∧
       (serveAll 0 1 4 (leBytes 64 0) [1] (s.freeSlot 3 0)).any (fun r => r.1 != 0) = true) := by
  simp only [SoundAll, Sound, Reads, Serves]; decide +kernel

/-- Meets the hypotheses of the statement of this name. -/
theorem witness_PacketsAreServedAnsweredOrDropped_records :
    (let p := pk 0x07 0x1000008000 [] rowGrad
     let s := pkDev tableDev p
     let h := gradHead rowGrad
     recordSpan s h = [(0x1000008000, 8)] ∧ mapped s 0x1000008000 8 = true ∧ permitted s 45 0 0x1000008000 8 kWrite = true ∧ stepLag s h.stepLo < 2 ∧
       2 ≤ stepLag (s.setReg COL_STEP 2) h.stepLo ∧ (match s.registered 3 with
        | some t => decide (h.row < t.rows) && decide (ownEntry s t h.row = some (0x1000003008, rowEnt)) && decide (h.col0 + h.ncols ≤ t.elems)
        | none => false) = true ∧ rowEnt.unplaced = false ∧ rowEnt.dev = s.devId ∧ rowEnt.pasture = 1 ∧ s.registered 4 = none ∧ recordSpan s { h with table := 4 } = [] ∧
       (s.applier 1).refusing false = false ∧ ((s.setApplier 1 { refE := true }).applier 1).refusing false = true ∧ halfUsed s 1 false + gradSize 2 ≤ halfSize s 1 ∧ loadEnd ≤ halfBase s 1 false + halfUsed s 1 false ∧ tableWaits s 3 = false ∧ tableWaits s 4 = false ∧
       rowGrad.length ≤ gradSize 2 ∧ halfSize (s.setFld (EMB_REC 1) EMB_REC_size_mib 0) 1 < halfUsed s 1 false + gradSize 2 ∧
       Sound s (halfBase s 1 false + halfUsed s 1 false) (gradSize 2) ∧ SoundAll s (tableReads s 3) ∧ SoundAll s (tableReads s 4) ∧ s.stubAt 0x1000008000 = none ∧
       rowEnt.addr = 0x1000008000 ∧ tableFaulty s 4 = false ∧ Reads (ingressMst 3) 0x1000003008 8 s ∧ waits s 0x1000003008 = false ∧
       (match s.registered 3 with
        | some t => decide (ownEntry (s.setFld LNK_DEVICE_ID LNK_DEVICE_ID_device 4) t 1 = some (0x1000003008, rowEnt)) && (ownEntry s t 9).isSome
        | none => false) = true ∧ (pkDev stubDev p).stubAt 0x1000008000 ≠ none ∧ LogOpen s) := by
  simp only [Reads, Serves, SoundAll, Sound, LogOpen]; decide +kernel

/-- Meets the hypotheses of the statement of this name. -/
theorem witness_PacketsAreServedAnsweredOrDropped_calls :
    (let s := callDev 2 [8]
     modDiff 16 0 (rollReleased s) = 1 ∧ 2 < modDiff 16 5 (rollReleased s) ∧ modDiff 16 65535 (rollReleased s) ≤ 0 ∧ 8 ∈ (s.roll.side 0).children ∧ 9 ∉ (s.roll.side 0).children ∧
       rollCount (countArrival (callDev 3 [8]) 0 true true (some 9)) 0 ≠ rollChildren (callDev 3 [8]) 0 + 1 ∧ rollChildren (callDev 3 [8]) 0 = 3 ∧ rollCount (countArrival (callDev 2 [8]) 0 true true (some 9)) 0 = 2 ∧
       rollCount (countArrival (ownCall 2 [8]) 0 true true (some 9)) 0 = 2 + 1 ∧ rollChildren (ownCall 2 [8]) 0 = 2 ∧ rollParent s 0 = s.devId ∧ rollParent (s.setFld COL_ROLL_CFG COL_ROLL_CFG_parent 4) 0 ≠ 0 ∧ collOver s 0 0 = false ∧ SoundAll tableDev (tableReads tableDev 3) ∧ s.roll.held = [] ∧ LogOpen s ∧
       tableDev.registered 3 ≠ none ∧ (partners (tableDev.setReg (TRH_PARTNER 0 0) (fset TRH_PARTNER_valid 1 (fset TRH_PARTNER_device 9 0))) 0) = [9] ∧
       (dev.setFld (LNK_STATUS 3) LNK_STATUS_state 3).lnkState 3 = 3 ∧ ({ gotInit := true } : Lnk).gotInit = true ∧
       (tableDev.registered 3).any (fun t => decide (1 < t.rows) && !t.ranged && decide (loadEnd ≤ t.base + 8)) = true ∧
       (let d := ((((pkDev dev { pk 0xC1 (mmioBase + SCH_TICK) [] [] with vc := 3 }).setFld SCH_FW_STATUS SCH_FW_STATUS_kernel_ready 1).setFld SCH_FW_STATUS SCH_FW_STATUS_state 3).setSched 0 { slot0 := some { item := { handle := 1, level := 0, thread := 0, arg := 3 }, taken := true } })
        fwState d = 3 ∧ d.bit SCH_FW_STATUS SCH_FW_STATUS_kernel_ready = true ∧ mgmtServed d 0 3 0 = true ∧ mgmtServed d 1 3 0 = false) ∧
       permitted dev 45 0 (mmioBase + SCH_TICK) 8 kMmio = true ∧ permitted (dev.setWin 45 0 2 0) 45 0 (mmioBase + SCH_TICK) 8 kMmio = false) := by
  simp only [LogOpen, SoundAll, Sound]; decide +kernel

/-- Meets the hypotheses of the statement of this name. -/
theorem witness_PacketsAreServedAnsweredOrDropped_answers :
    [(0x01, 0x41), (0x02, 0x42), (0x03, 0x43), (0x04, 0x44), (0x05, 0x45), (0x06, 0x46), (0x07, 0x47), (0x08, 0x48), (0xC1, 0xE1), (0xC2, 0xE2)].all (fun q =>
      (let s := pkDev (askDev dev q.1 .other) (answer q.2 0)
       s.live && (s.reqs.find? (fun r => decide (r.tag = 5) && decide (r.dst = 9) && decide (q.2 = r.ty + (if r.ty = 0xC1 ∨ r.ty = 0xC2 then 0x20 else 0x40)))).isSome)) = true ∧
    dev.reqs = [] ∧ ((herdDev { migs := [mig1 9 0 1 []] }).trh 0).migs.find? (fun g => decide (g.id = 4)) = some (mig1 9 0 1 []) ∧
    awaiting (svcDev (svcOf 0x11 1 [])) 0 (svcOf 0x11 1 []).arg = some (svcOf 0x11 1 []) ∧ ((askDev dev 1 (.run 5 0)).reqs.map (·.owner)) = [.run 5 0] := by
  decide +kernel

/-- Meets the hypotheses of the statement of this name. -/
theorem witness_PacketsAreServedAnsweredOrDropped_replay :
    replayDev.live = true ∧ replaying replayDev = true ∧ recNext replayDev = some (64, none) ∧ replaying dev = false ∧
    SoundAll replayDev ((recBase replayDev + 96, 32) :: (recBase replayDev, 64) :: (recBase replayDev + 64, 38) :: replayGroupReads replayDev) ∧
    (recEntries replayDev (recCount replayDev) 64).map (·.1) = [64] ∧
    (recPacket replayDev 64).1 = 3 ∧ (recPacket replayDev 64).2.2.length = 0 ∧ (freePlaces replayDev 3 (creditIdx (pk 1 0 [] []))).isEmpty = false ∧
    freePlaces (replayDev.setLnk 3 { slots := (rangeFrom 0 16).map (fun j => { pk 1 0 [] [] with place := j }) }) 3 (creditIdx (pk 1 0 [] [])) = [] := by
  simp only [SoundAll, Sound]; decide +kernel

/-! ### Well-formedness and the manual's worked examples -/

/-- One command for each check, which it fails, and one that passes them. -/
theorem test_wellFormed_refuses :
    [Instr.start 32, .sample 4, .privilegeAccept 139 0, .privilegeAccept 0 16384, .registerWrite 0 0 0x8000000 [], .queueThaw 0 0 16384,
      .allReduce 2, .alloc 8, .readReq 96 0, .steal 0 4, .refresh 8, .corRetire 0 0 0 65536].map wellFormed = List.replicate 12 false ∧
    [Instr.start 31, .sample 3, .privilegeAccept 138 16383, .readReq 95 0, .steal 31 3].all wellFormed = true := by
  decide +kernel

/-- 03_instruction_set, "encoding one MSTREAM": rows 2,048 from q4 into bank A, class G, op 1. -/
theorem test_mstream_encoding :
    (let w : Code := BitVec.ofNat 128 (0x8228200000000400 * 2 ^ 64)
     opcode w = opMSTREAM ∧ cbit w 119 = false ∧ cbit w 118 = false ∧ cbit w 117 = true ∧ cb w 116 115 = 1 ∧ cb w 114 112 = 0 ∧ cb w 111 107 = 4 ∧ cb w 94 63 = 2048) := by
  decide +kernel

/-- 05_number_formats, "one block to P4 with an E8 scale". -/
theorem test_p4_block :
    (let l := [0x41F00000, 0xC0466666, 0x3F666666, 0x41200000, 0x7FC00000, 0x80000000].map f32
     let sc := chooseE8 FFmt.p4.emax (amaxOf (l.filter (fun v => !v.isNan)))
     sc = 0x81 ∧ l.map (fun v => convF .p4 .rne true 0 (divV v (decodeE8 sc))) = [7, 0xA, 0, 4, 8, 0] ∧
       l.map (fun v => convF .p4 .rtz true 0 (divV v (decodeE8 sc))) = [7, 9, 0, 4, 8, 0] ∧
       decodeF .fp16 (chooseFp16 .p4 (amaxOf (l.filter (fun v => !v.isNan)))) = decodeF .fp16 0x4500) := by
  decide +kernel

/-- 07_drover_sampling, "one short block": five neighbours of 0x12_0000_4400. -/
theorem test_short_block :
    (let a : Adj := { times := false, weights := true, version := 0, rangeCount := 0, nodes := 2 ^ 40, entries := 0, entryCount := 0, ranges := 0, good := true }
     let b := leBytes 8 0x00404412000043F0 ++ leBytes 2 0x11 ++ leBytes 2 0 ++ leBytes 2 0xBFF ++ leBytes 2 0x12 ++ [0, 1, 2, 3, 4, 0] ++
       (leBytes 2 5 ++ leBytes 2 6 ++ leBytes 2 7 ++ leBytes 2 8 ++ leBytes 2 9) ++ leBytes 32 0
     (readBlockEdges a b).map (fun l => l.map (fun e => (e.nbr, e.rel, e.weight))) =
       some [(0x12000043F0, 0, 5), (0x1200004401, 1, 6), (0x1200004401, 2, 7), (0x1200005000, 3, 8), (0x1200005012, 4, 9)]) := by
  decide +kernel

/-- 10_memory_system, "where a program block lies", and 01_architecture, "forming a global address". -/
theorem test_addresses :
    pseudoChannel 0x234127000 = 34 ∧ mappedAt dev 0x9005400000 = true ∧ mappedAt dev 0x9005800000 = false := by
  decide +kernel

/-- 09_embedding_tables, "one row touched four times": the exact sum of the column is 2.0. -/
theorem test_exact_column :
    columnGrad ([0x4B800000, 0x3F800000, 0x3F800000, 0xCB800000].map (fun v => (⟨0, 7, 0, 0, 0, 1, 0⟩, [v]))) 0 = f32 0x40000000 := by
  decide +kernel

end Sys2Proof.Tests
end

section
/-! SUPPORT. Permitted register writes, the fields that one stores, records of the Logbook, and the state after reset. -/

namespace Sys2Proof.Machine

/-! ### The state after reset (O3, O4) -/

/-- A reset window's word: the third word of window 0 of each class opens it, and all others are zero (R426). -/
theorem win_reset (cls idx k : Nat) (hi : idx < 256) (hk : k < 4) :
    State.reset.win cls idx k = if idx = 0 ∧ k = 2 then BitVec.ofNat 64 (2 ^ 40 + 15 * 2 ^ 32 + 0xFFFF * 2 ^ 16) else 0 := by
  have h1 : (cls * 1024 + idx * 4 + k) / 4 % 256 = idx := by omega
  have h2 : (cls * 1024 + idx * 4 + k) % 4 = k := by omega
  show winReset (cls * 1024 + idx * 4 + k) = _
  rw [winReset, h1, h2]

/-- After reset window 0 of a class permits every access, and no other window is open. -/
theorem winPermits_reset (cls idx : Nat) (hi : idx < 256) : winPermits State.reset cls idx 7 0 64 kRead = true ↔ idx = 0 := by
  unfold winPermits
  rw [win_reset cls idx 0 hi (by omega), win_reset cls idx 1 hi (by omega), win_reset cls idx 2 hi (by omega)]
  by_cases h : idx = 0
  · simp only [h, true_and, if_true]; decide +kernel
  · simp only [h, false_and, if_false, iff_false]; decide +kernel

/-! ### A permitted register write (O8 to O10) -/

/-- A register write that its master may make is the write of the register space. -/
theorem exec_registerWrite_of_admits {cls sub off : Nat} {bs : List Byte} {s : State} (h : Admits ⟨cls, sub⟩ off bs.length s) :
    exec (.registerWrite cls sub off bs) s = .next (mmioWrite ⟨cls, sub⟩ off bs s) := by
  obtain ⟨hlive, hmute, hpath, hin, hperm, -⟩ := h
  have hoff : ¬(cls < 2 ∧ 0x4000000 ≤ off) := by
    simp only [inMmio, Bool.and_eq_true, decide_eq_true_eq] at hin; omega
  rw [exec, execRegisterWrite]
  simp only [if_neg hoff]
  simp [whileLive, hlive, busWrite, hmute, hpath, hin, hperm]

/-- Where there is no register, a write outside the security controller's data window is discarded (R7). -/
theorem mmioWrite_of_none {m : Mst} {off : Nat} {bs : List Byte} {s : State} (hb : writeBarred s m off bs.length = false)
    (hs : inSecWindow off = false) (hr : regAt off = none) : mmioWrite m off bs s = s := by
  simp [mmioWrite, hb, hs, hr]

/-- A write at a register's address is the write of the register, if it has its width, and is discarded otherwise (R7). -/
theorem mmioWrite_of_some {m : Mst} {off : Nat} {bs : List Byte} {s : State} {r : RegAt} (hb : writeBarred s m off bs.length = false)
    (hs : inSecWindow off = false) (hr : regAt off = some r) : mmioWrite m off bs s =
      if bs.length * 8 = r.desc.width then regWrite m r off (BitVec.ofNat 64 (leNat bs)) s else s := by
  simp [mmioWrite, hb, hs, hr]

/-- A permitted write at a register's own address and width is the write of that register. -/
theorem exec_registerWrite_own {cls sub off : Nat} {bs : List Byte} {s : State} {r : RegAt} (h : Admits ⟨cls, sub⟩ off bs.length s)
    (hs : inSecWindow off = false) (hr : regAt off = some r) (hw : bs.length * 8 = r.desc.width) :
    exec (.registerWrite cls sub off bs) s = .next (regWrite ⟨cls, sub⟩ r off (BitVec.ofNat 64 (leNat bs)) s) := by
  obtain ⟨-, -, -, -, -, hb⟩ := id h
  rw [exec_registerWrite_of_admits h, mmioWrite_of_some hb hs hr, if_pos hw]

/-! ### Units at rest -/

/-- Waking a unit changes units alone. -/
theorem rouseReg_shape (r : RegAt) (s : State) : rouseReg r s =
    { s with cores := (rouseReg r s).cores, drovers := (rouseReg r s).drovers, engines := (rouseReg r s).engines, trhs := (rouseReg r s).trhs } := by
  unfold rouseReg
  split
  · rfl
  · split <;> rfl

theorem rouseReg_of_awake {r : RegAt} {s : State} (h : atRest r s = false) : rouseReg r s = s := by
  simp [rouseReg, h]

theorem rouseCore_state (k : Core) : (rouseCore k).state ≠ .recess ∧ (rouseCore k).state ≠ .holiday := by
  unfold rouseCore wakeCore wakeState
  cases hk : k.state <;> cases hs : k.slept <;> simp [hk]

theorem rouseRest_ne (n : Nat) : rouseRest n ≠ 1 ∧ rouseRest n ≠ 2 := by
  unfold rouseRest; split <;> omega

/-- But in standby, an access leaves the register's unit awake. -/
theorem atRest_rouseReg {r : RegAt} {s : State} (hs : s.bit PWR_STATUS PWR_STATUS_standby = false) : atRest r (rouseReg r s) = false := by
  cases ha : atRest r s with
  | false => rwa [rouseReg_of_awake ha]
  | true =>
    have hgo : (!atRest r s || s.bit PWR_STATUS PWR_STATUS_standby) = false := by simp [ha, hs]
    simp only [rouseReg, hgo, Bool.false_eq_true, if_false]
    cases hb : r.blk <;> simp only [atRest, hb, Bool.false_eq_true] at ha ⊢
    case cor => simp [State.onCore, rouseCore_state]
    case drv => simp [State.drover, State.setDrover, rouseRest_ne]
    case eng => simp [State.engine, State.setEngine, rouseRest_ne]
    case trh => simp [rouseRest_ne]

/-- What lets a master write does not depend on the units that a register access wakes. -/
theorem admits_rouseReg {m : Mst} {off n : Nat} {s : State} (r : RegAt) (h : Admits m off n s) : Admits m off n (rouseReg r s) := by
  rw [rouseReg_shape]; exact h

/-- Out of standby, the write of a register is its write with the unit awake. -/
theorem regWrite_rouseReg {m : Mst} {r : RegAt} {off : Nat} {v : Word} {s : State} (hp : blkPresent s.grade r = true)
    (hs : s.bit PWR_STATUS PWR_STATUS_standby = false) : regWrite m r off v (rouseReg r s) = regWrite m r off v s := by
  have hawake := atRest_rouseReg (r := r) hs
  have hgrade : (rouseReg r s).grade = s.grade := by rw [rouseReg_shape]
  simp [regWrite, rouseReg_of_awake hawake, hawake, hgrade, hp, hs]

/-! ### Fields of a write -/

/-- The fields of a register lie in a word, and no two share a bit. -/
def fieldsApart (l : List FDesc) : Bool :=
  l.all (fun f => decide (f.lo ≤ f.hi) && decide (f.hi < 64)) &&
    decide (l.Pairwise (fun f g => g.hi < f.lo ∨ f.hi < g.lo))

/-- The tables of the registers give every register such fields. -/
theorem fieldsApart_of_tables : ∀ b ∈ allBlks, b.regs.all (fun d => fieldsApart d.flds) = true := by
  decide +kernel

theorem mem_of_findBlk {off : Nat} {l : List Blk} {b : Blk} {u rel : Nat} (h : findBlk off l = some (b, u, rel)) : b ∈ l := by
  induction l with
  | nil => cases h
  | cons a t ih =>
    by_cases hin : a.place.1 ≤ off ∧ off < a.place.1 + a.place.2.1 * a.place.2.2
    · rw [findBlk_here hin] at h; cases h; exact List.mem_cons_self ..
    · rw [findBlk_next hin] at h; exact List.mem_cons_of_mem _ (ih h)

theorem desc_mem_of_findReg {b : Blk} {u rel : Nat} {l : List RDesc} {r : RegAt} (h : findReg b u rel l = some r) : r.desc ∈ l := by
  induction l with
  | nil => cases h
  | cons d t ih =>
    rw [findReg] at h
    split at h
    · split at h
      · cases h; exact List.mem_cons_self ..
      · exact List.mem_cons_of_mem _ (ih h)
    · split at h
      · cases h; exact List.mem_cons_self ..
      · exact List.mem_cons_of_mem _ (ih h)

/-- Every register of the map has such fields. -/
theorem fieldsApart_of_regAt {off : Nat} {r : RegAt} (h : regAt off = some r) : fieldsApart r.desc.flds = true := by
  unfold regAt at h
  split at h
  · cases h
  · next b u rel hb => exact List.all_eq_true.mp (fieldsApart_of_tables b (mem_of_findBlk hb)) _ (desc_mem_of_findReg h)

/-- A field of the bitwise and of two words is the bitwise and of their fields. -/
theorem fget_and (f : Fld) (a b : Word) : fget f (a &&& b) = Nat.land (fget f a) (fget f b) := by
  apply Nat.eq_of_testBit_eq
  intro i
  rw [fget_bit, show Nat.land (fget f a) (fget f b) = fget f a &&& fget f b from rfl, Nat.testBit_and, fget_bit, fget_bit,
    BitVec.getLsbD_and]
  cases decide (i < f.width) <;> rfl

/-- What a field holds after a write of `v` over a word in which it held what it holds in `old` (R8). -/
def fieldAfter (v old : Word) (f : FDesc) : Nat :=
  let fl : Fld := ⟨f.hi, f.lo⟩
  match f.acc with
  | .rw => fget fl v
  | .rwl => fget fl v
  | .w1c => fget fl (old &&& ~~~v)
  | .ro => fget fl old
  | .wo => fget fl old

theorem fieldAfter_congr {v a b : Word} {f : FDesc} (h : fget ⟨f.hi, f.lo⟩ a = fget ⟨f.hi, f.lo⟩ b) :
    fieldAfter v a f = fieldAfter v b f := by
  unfold fieldAfter
  cases f.acc <;> simp only [fget_and, h]

theorem fget_lt (f : Fld) (w : Word) : fget f w < 2 ^ f.width := Nat.mod_lt _ (Nat.two_pow_pos _)

theorem fget_writeField_self {v old : Word} {f : FDesc} (hf : f.lo ≤ f.hi) (h64 : f.hi < 64) :
    fget ⟨f.hi, f.lo⟩ (writeField true v old f) = fieldAfter v old f := by
  unfold writeField fieldAfter
  cases f.acc <;> simp only [if_true, fget_fset_self ⟨f.hi, f.lo⟩ _ _ hf h64, Nat.mod_eq_of_lt (fget_lt _ _)]

theorem fget_writeField_other {v old : Word} {f g : FDesc} (hf : f.lo ≤ f.hi) (hg : g.hi < 64) (h : g.hi < f.lo ∨ f.hi < g.lo) :
    fget ⟨g.hi, g.lo⟩ (writeField true v old f) = fget ⟨g.hi, g.lo⟩ old := by
  unfold writeField
  cases f.acc <;> simp only [if_true, fget_fset_other ⟨f.hi, f.lo⟩ ⟨g.hi, g.lo⟩ _ _ hf hg h]

/-- Writing fields apart from `g` leaves `g` alone. -/
theorem fget_foldl_writeField_other {v : Word} {g : FDesc} (hg : g.hi < 64) (l : List FDesc) (a : Word) (hl : ∀ f ∈ l, f.lo ≤ f.hi)
    (h : ∀ f ∈ l, g.hi < f.lo ∨ f.hi < g.lo) :
    fget ⟨g.hi, g.lo⟩ (l.foldl (fun a f => writeField true v a f) a) = fget ⟨g.hi, g.lo⟩ a := by
  induction l generalizing a with
  | nil => rfl
  | cons f t ih =>
    rw [List.foldl_cons, ih _ (fun f hf => hl f (List.mem_cons_of_mem _ hf)) (fun f hf => h f (List.mem_cons_of_mem _ hf)),
      fget_writeField_other (hl f (List.mem_cons_self ..)) hg (h f (List.mem_cons_self ..))]

/-- After a write with the locks open, every field of the register holds what its access type says (R8). -/
theorem fget_writeFields {d : RDesc} {v old : Word} {f : FDesc} (hd : fieldsApart d.flds = true) (hf : f ∈ d.flds) :
    fget ⟨f.hi, f.lo⟩ (writeFields true v d old) = fieldAfter v old f := by
  simp only [fieldsApart, Bool.and_eq_true, decide_eq_true_eq, List.all_eq_true] at hd
  obtain ⟨hin, hapart⟩ := hd
  unfold writeFields
  generalize d.flds = l at hin hapart hf
  induction l generalizing old with
  | nil => cases hf
  | cons g t ih =>
    obtain ⟨hg, ht⟩ := List.pairwise_cons.mp hapart
    have hlo : ∀ x ∈ t, x.lo ≤ x.hi := fun x hx => (hin x (List.mem_cons_of_mem _ hx)).1
    rw [List.foldl_cons]
    rcases List.mem_cons.mp hf with rfl | hf
    · rw [fget_foldl_writeField_other (hin f (List.mem_cons_self ..)).2 t _ hlo (fun x hx => (hg x hx).symm),
        fget_writeField_self (hin f (List.mem_cons_self ..)).1 (hin f (List.mem_cons_self ..)).2]
    · rw [ih (fun x hx => hin x (List.mem_cons_of_mem _ hx)) ht hf]
      exact fieldAfter_congr
        (fget_writeField_other (hin g (List.mem_cons_self ..)).1 (hin f (List.mem_cons_of_mem _ hf)).2 (hg f hf))

/-! ### A record of the Logbook -/

theorem event_sram (f src arg : Nat) (s : State) : (s.event f src arg).sram = s.sram := by
  unfold State.event
  dsimp only
  split
  · rfl
  · split <;> rfl

theorem eventAll_sram (src arg : Nat) (s : State) : (s.eventAll src arg).sram = s.sram := by
  simp only [State.eventAll, List.foldl, event_sram]

theorem packSlots_length (l : List Nat) : (packSlots l).length = (l.length + 1) / 2 := by
  induction l using packSlots.induct with
  | case1 => rfl
  | case2 a => simp [packSlots]
  | case3 a b t ih => simp only [packSlots, List.length_cons, ih]; omega

theorem rangeFrom_length (a n : Nat) : (rangeFrom a n).length = n := by
  induction n generalizing a with
  | zero => rfl
  | succ n ih => simp [rangeFrom, ih]

/-- A record is its fixed part and at most 16 entries of a snapshot, two to a slot (R430, R432). -/
theorem recordSlots_eq (s : State) (code kind inst p0 p1 p2 p3 : Nat) : ∃ es : List Nat, es.length ≤ 16 ∧
    recordSlots s code kind inst p0 p1 p2 p3 = logFixed s code es.length kind inst p0 p1 p2 p3 :: packSlots es := by
  refine ⟨_, ?_, rfl⟩
  split
  · exact Nat.zero_le _
  · split
    · rw [logEntries, List.length_map, rangeFrom_length]; exact Nat.min_le_left ..
    · exact Nat.zero_le _

/-- The slots written from `head` on leave the slots that they do not reach. -/
theorem logSlot_putSlots_other (l : List (BitVec 256)) (m : Sparse (BitVec 256)) (head j : Nat)
    (h : ∀ i, i < l.length → (head + i) % 32768 ≠ j) : logSlot (putSlots m head l) j = logSlot m j := by
  induction l generalizing m head with
  | nil => rfl
  | cons w t ih =>
    rw [putSlots, ih]
    · exact spGet_spSet_other _ _ _ (h 0 (Nat.zero_lt_succ _)).symm
    · intro i hi
      rw [Nat.add_assoc, Nat.add_comm 1 i]
      exact h (i + 1) (Nat.succ_lt_succ hi)

/-- The first of the slots written, at most as many as the ring holds, lies at the head. -/
theorem logSlot_putSlots_head (w : BitVec 256) (t : List (BitVec 256)) (m : Sparse (BitVec 256)) (head : Nat) (ht : t.length < 32768) :
    logSlot (putSlots m head (w :: t)) (head % 32768) = w := by
  rw [putSlots, logSlot_putSlots_other _ _ _ _ (fun i hi => by omega)]
  exact spGet_spSet_self _ _ _ _

/-- An open Logbook takes a record whole, at its head (R430, R433). -/
theorem hasRecord_log {s : State} (h : LogOpen s) (code kind inst p0 p1 p2 p3 : Nat) :
    HasRecord s (s.log code kind inst p0 p1 p2 p3) code kind inst p0 p1 p2 p3 := by
  obtain ⟨hclosed, hfrozen, hroom⟩ := h
  obtain ⟨es, hes, hslots⟩ := recordSlots_eq s code kind inst p0 p1 p2 p3
  have hpack := packSlots_length es
  have hlen : ¬((s.reg LOG_SRAM_HEAD).toNat - (s.reg LOG_SRAM_FLUSHED).toNat + (packSlots es).length + 1 > 32768) := by omega
  refine ⟨es.length, hes, ?_⟩
  have hsram : (s.log code kind inst p0 p1 p2 p3).sram = putSlots s.sram (s.reg LOG_SRAM_HEAD).toNat
      (logFixed s code es.length kind inst p0 p1 p2 p3 :: packSlots es) := by
    unfold State.log
    rw [hclosed, hfrozen, hslots]
    simp only [Bool.false_eq_true, if_false, List.length_cons, ← Nat.add_assoc, if_neg hlen]
    split
    · rw [eventAll_sram]; rfl
    · rfl
  rw [hsram]
  exact logSlot_putSlots_head _ _ _ _ (by omega)

/-! ### The write of a locked register -/

/-- A locked RWL register stays as it is: the error is flagged and recorded (R8, R357). -/
theorem rwlLocked_spec (m : Mst) (off : Nat) (s : State) :
    RegsBut (STR_ERR :: recordRegs) s (rwlLocked m off s) ∧ (rwlLocked m off s).bit STR_ERR STR_ERR_rwl_locked = true ∧
      (rwlLocked m off s).mem = s.mem ∧ (rwlLocked m off s).cores = s.cores ∧
      (LogOpen s → HasRecord s (rwlLocked m off s) 0x8802 0 3 off m.cls (s.fld STR_EPOCH STR_EPOCH_current) 0) := by
  have hflag : ∀ k, k ≠ STR_ERR → (s.flag STR_ERR STR_ERR_rwl_locked).reg k = s.reg k := fun k hk => State.reg_flag_other _ _ hk
  have hrec : Recorded (s.flag STR_ERR STR_ERR_rwl_locked) (rwlLocked m off s) := recorded_log _ _ _ _ _ _ _ _
  have hkeep : STR_ERR ∉ recordRegs := by decide
  refine ⟨fun k hk => ?_, ?_, ?_, ?_, fun hopen => ?_⟩
  · rw [List.mem_cons, not_or] at hk
    rw [rwlLocked, log_reg _ _ _ _ _ _ _ _ _ hk.2, hflag k hk.1]
  · rw [State.bit, rwlLocked, log_reg _ _ _ _ _ _ _ _ _ hkeep, State.flag, State.reg_setFld_self, fbit,
      fget_fset_self _ _ _ (by decide) (by decide)]
    decide
  · rw [hrec]; rfl
  · rw [hrec]; rfl
  · have hlog : LogOpen (s.flag STR_ERR STR_ERR_rwl_locked) := by
      unfold LogOpen State.bit
      rw [hflag LOG_FREEZE (by decide), hflag LOG_SRAM_HEAD (by decide), hflag LOG_SRAM_FLUSHED (by decide)]
      exact hopen
    obtain ⟨n, hn, hslot⟩ := hasRecord_log hlog 0x8802 0 3 off m.cls (s.fld STR_EPOCH STR_EPOCH_current) 0
    refine ⟨n, hn, ?_⟩
    simp only [logFixed, State.fld, hflag LOG_SRAM_HEAD (by decide), hflag LOG_POWER_CYCLES (by decide), hflag LOG_HOURS (by decide),
      hflag LOG_MS (by decide)] at hslot
    exact hslot

end Sys2Proof.Machine
end

section
/-! SUPPORT. What every command keeps: the commands that wait, the grade, and the canonical form of memory and of the register store.
One lemma for each function of the model that changes the state, in the model's order, built from the lemmas of the functions it calls. -/

namespace Sys2Proof.Machine

/-- What every command keeps: the commands that wait, the grade, and the canonical form of memory and of the register store. -/
structure Keeps (s t : State) : Prop where
  pending : t.pending = s.pending
  grade : t.grade = s.grade
  canonical : Canonical s → Canonical t

/-- As `Keeps`, of the state in an answer that may hold none. -/
inductive KeepsIn (s : State) : Option State → Prop
  | none : KeepsIn s none
  | some {t : State} (h : Keeps s t) : KeepsIn s (some t)

/-- The state that an access leaves, unless it is held. -/
abbrev Access.left : Access → Option State
  | .done _ _ t => some t
  | .held => none
  | .bad _ t => some t

/-- The state that a row request leaves. -/
abbrev RowAns.state : RowAns → State
  | .got _ _ t => t
  | .moved _ t => t
  | .refused t => t

/-- The state that a reduce request leaves. -/
abbrev RedAns.state : RedAns → State
  | .got _ _ _ t => t
  | .moved _ t => t
  | .refused _ t => t

/-- The state that reading a node's edges leaves, unless it is held. -/
abbrev NodeRes.left : NodeRes → Option State
  | .ok _ _ t => some t
  | .malformed _ t => some t
  | .frozen t => some t
  | .failed t => some t
  | .held => none

/-- The state that an engine's look-up of a row leaves, unless it is held. -/
abbrev RowHome.left : RowHome → Option State
  | .here _ _ t => some t
  | .none t => some t
  | .fails _ t => some t
  | .held => .none

/-- The state that one row of a running instruction leaves. -/
abbrev RowRes.state : RowRes → State
  | .more t _ => t
  | .wait t _ _ => t
  | .done t _ => t
  | .stop t => t

/-- The state that a step of an A-stream access leaves. -/
abbrev Fetch.state : Fetch → State
  | .got _ t _ => t
  | .again t _ => t
  | .hold t _ => t
  | .stop t => t

/-- The state that a Wydak gather leaves, unless it is held. -/
abbrev WydakRes.left : WydakRes → Option State
  | .done t => some t
  | .held => none
  | .failed _ _ t => some t

variable {s₀ s t : State}

/-! ### How the relation is built up -/

protected theorem Keeps.refl (s : State) : Keeps s s := ⟨rfl, rfl, id⟩

/-- A change of other state than the queue, the grade, memory and the register store. -/
protected theorem Keeps.update (h : Keeps s₀ s)
    (e : (t.pending, t.grade, t.regs, t.mem, t.stamp) = (s.pending, s.grade, s.regs, s.mem, s.stamp)) : Keeps s₀ t := by
  obtain ⟨hp, hg, hr, hm, hs⟩ : _ ∧ _ ∧ _ ∧ _ ∧ _ := by simpa using e
  exact ⟨hp.trans h.pending, hg.trans h.grade, fun c => canonical_congr (h.canonical c) hm hs hr hg⟩

protected theorem Keeps.ite {c : Prop} {d : Decidable c} {a b : State} (ha : Keeps s₀ a) (hb : Keeps s₀ b) :
    Keeps s₀ (@ite State c d a b) := by
  split
  · exact ha
  · exact hb

protected theorem Keeps.foldl {α : Type} {f : State → α → State} {l : List α} (h : Keeps s₀ s)
    (hf : ∀ {t a}, Keeps s₀ t → Keeps s₀ (f t a)) : Keeps s₀ (l.foldl f s) := by
  induction l generalizing s with
  | nil => exact h
  | cons a l ih => exact ih (hf h)

/-- As `Keeps.foldl`, over answers that hold a state at `p`. -/
theorem Keeps.foldl_of {α β : Type} (p : β → State) {f : β → α → β} {l : List α} {b : β} (h : Keeps s₀ (p b))
    (hf : ∀ {b a}, Keeps s₀ (p b) → Keeps s₀ (p (f b a))) : Keeps s₀ (p (l.foldl f b)) := by
  induction l generalizing b with
  | nil => exact h
  | cons a l ih => exact ih (hf h)

/-- The state that a pattern `M` finds in a pair. -/
protected theorem Keeps.pair {α : Type} {M : α × State → (α → State → State) → State} {q : α × State} {f : α → State → State}
    (hM : ∀ a t f, M (a, t) f = f a t) (h : Keeps s₀ q.2) (hf : ∀ {a t}, Keeps s₀ t → Keeps s₀ (f a t)) : Keeps s₀ (M q f) := by
  obtain ⟨a, t⟩ := q
  rw [hM]
  exact hf h

/-- The state that a pattern `M` finds in a triple. -/
protected theorem Keeps.triple {α β : Type} {M : α × β × State → (α → β → State → State) → State} {q : α × β × State}
    {f : α → β → State → State} (hM : ∀ a b t f, M (a, b, t) f = f a b t) (h : Keeps s₀ q.2.2)
    (hf : ∀ {a b t}, Keeps s₀ t → Keeps s₀ (f a b t)) : Keeps s₀ (M q f) := by
  obtain ⟨a, b, t⟩ := q
  rw [hM]
  exact hf h

/-- As `Keeps.pair`, of the state at `p` in what the pattern gives. -/
theorem Keeps.pair_of {α γ : Type} (p : γ → State) {M : α × State → (α → State → γ) → γ} {q : α × State} {f : α → State → γ}
    (hM : ∀ a t f, M (a, t) f = f a t) (h : Keeps s₀ q.2) (hf : ∀ {a t}, Keeps s₀ t → Keeps s₀ (p (f a t))) : Keeps s₀ (p (M q f)) := by
  obtain ⟨a, t⟩ := q
  rw [hM]
  exact hf h

/-- As `Keeps.pair_of`, where the state comes first. -/
theorem Keeps.first_of {α γ : Type} (p : γ → State) {M : State × α → (State → α → γ) → γ} {q : State × α} {f : State → α → γ}
    (hM : ∀ t a f, M (t, a) f = f t a) (h : Keeps s₀ q.1) (hf : ∀ {t a}, Keeps s₀ t → Keeps s₀ (p (f t a))) : Keeps s₀ (p (M q f)) := by
  obtain ⟨t, a⟩ := q
  rw [hM]
  exact hf h

/-- As `Keeps.triple`, of the state at `p` in what the pattern gives. -/
theorem Keeps.triple_of {α β γ : Type} (p : γ → State) {M : α × β × State → (α → β → State → γ) → γ} {q : α × β × State}
    {f : α → β → State → γ} (hM : ∀ a b t f, M (a, b, t) f = f a b t) (h : Keeps s₀ q.2.2)
    (hf : ∀ {a b t}, Keeps s₀ t → Keeps s₀ (p (f a b t))) : Keeps s₀ (p (M q f)) := by
  obtain ⟨a, b, t⟩ := q
  rw [hM]
  exact hf h

/-- The state that a pattern `M` gives for what an option holds. -/
protected theorem Keeps.option {α : Type} {M : Option α → (Unit → State) → (α → State) → State} {x : Option α} {n : Unit → State}
    {f : α → State} (hn : ∀ n f, M none n f = n ()) (hf : ∀ a n f, M (some a) n f = f a) (h0 : Keeps s₀ (n ()))
    (h1 : ∀ a, Keeps s₀ (f a)) : Keeps s₀ (M x n f) := by
  cases x with
  | none => rw [hn]; exact h0
  | some a => rw [hf]; exact h1 a

/-- What is known of the state in an answer holds of the state that a pattern finds in it. -/
theorem Keeps.of_eq {α : Type} {g : α → State} {x y : α} (h : Keeps s₀ (g x)) (e : x = y) (hy : g y = t) : Keeps s₀ t := by
  subst e hy; exact h

theorem KeepsIn.of_eq {α : Type} {g : α → Option State} {x y : α} (h : KeepsIn s₀ (g x)) (e : x = y) (hy : g y = Option.some t) :
    Keeps s₀ t := by
  subst e; rw [hy] at h; cases h; assumption

protected theorem KeepsIn.getD {o : Option State} (ho : KeepsIn s₀ o) (h : Keeps s₀ s) : Keeps s₀ (o.getD s) := by
  cases ho with
  | none => exact h
  | some ht => exact ht

/-! ### Stores of registers and bytes -/

protected theorem Keeps.setReg {off : Nat} {w : Word} (h : Keeps s₀ s) : Keeps s₀ (s.setReg off w) :=
  ⟨h.pending, h.grade, fun c => canonical_setReg _ _ (h.canonical c)⟩

protected theorem Keeps.setByte {a : Nat} {b : Byte} (h : Keeps s₀ s) : Keeps s₀ (s.setByte a b) :=
  ⟨h.pending, h.grade, fun c => canonical_setByte _ _ (h.canonical c)⟩

/-! ### Registers, units and draws -/

protected theorem Keeps.setFld {off : Nat} {f : Fld} {v : Nat} (h : Keeps s₀ s) : Keeps s₀ (s.setFld off f v) := h.setReg

protected theorem Keeps.setCore {c : Nat} {x : Core} (h : Keeps s₀ s) : Keeps s₀ (s.setCore c x) := h.update (by rfl)

protected theorem Keeps.onCore {c : Nat} {f : Core → Core} (h : Keeps s₀ s) : Keeps s₀ (s.onCore c f) := h.setCore

protected theorem Keeps.setQp {n : Nat} {x : Qp} (h : Keeps s₀ s) : Keeps s₀ (s.setQp n x) := h.update (by rfl)

protected theorem Keeps.setSched {f : Nat} {x : Sched} (h : Keeps s₀ s) : Keeps s₀ (s.setSched f x) := h.update (by rfl)

protected theorem Keeps.setPortCfg {n : Nat} {x : PortCfg} (h : Keeps s₀ s) : Keeps s₀ (s.setPortCfg n x) := h.update (by rfl)

protected theorem Keeps.setLnk {n : Nat} {x : Lnk} (h : Keeps s₀ s) : Keeps s₀ (s.setLnk n x) := h.update (by rfl)

protected theorem Keeps.setNsr {n : Nat} {x : Nsr} (h : Keeps s₀ s) : Keeps s₀ (s.setNsr n x) := h.update (by rfl)

protected theorem Keeps.setApplier {n : Nat} {x : Applier} (h : Keeps s₀ s) : Keeps s₀ (s.setApplier n x) := h.update (by rfl)

protected theorem Keeps.setDrover {n : Nat} {x : Drover} (h : Keeps s₀ s) : Keeps s₀ (s.setDrover n x) := h.update (by rfl)

protected theorem Keeps.setTrh {n : Nat} {x : Trh} (h : Keeps s₀ s) : Keeps s₀ (s.setTrh n x) := h.update (by rfl)

protected theorem Keeps.setEngine {n : Nat} {x : CollEng} (h : Keeps s₀ s) : Keeps s₀ (s.setEngine n x) := h.update (by rfl)

protected theorem Keeps.drawBool (h : Keeps s₀ s) : Keeps s₀ s.drawBool.2 := h.update (by rfl)

protected theorem Keeps.drawWord (h : Keeps s₀ s) : Keeps s₀ s.drawWord.2 := h.update (by rfl)

/-! ### Sticky flags and counters -/

protected theorem Keeps.flag {off : Nat} {f : Fld} (h : Keeps s₀ s) : Keeps s₀ (s.flag off f) := h.setFld

protected theorem Keeps.count {off n : Nat} (h : Keeps s₀ s) : Keeps s₀ (s.count off n) := h.setReg

protected theorem Keeps.clearCount {off : Nat} (h : Keeps s₀ s) : Keeps s₀ (s.clearCount off) := h.setReg

protected theorem Keeps.wide {off n : Nat} (h : Keeps s₀ s) : Keeps s₀ (s.wide off n) := h.setReg

/-! ### Registers that show state held elsewhere -/

protected theorem Keeps.setWin {cls idx k : Nat} {w : Word} (h : Keeps s₀ s) : Keeps s₀ (s.setWin cls idx k w) := h.update (by rfl)

protected theorem Keeps.setSecWord {i : Nat} {w : Word} (h : Keeps s₀ s) : Keeps s₀ (s.setSecWord i w) := h.update (by rfl)

/-! ### The operations that every unit shares -/

protected theorem Keeps.msixOn {port v : Nat} (h : Keeps s₀ s) : Keeps s₀ (s.msixOn port v) := h.update (by rfl)

protected theorem Keeps.msixBoth {v : Nat} (h : Keeps s₀ s) : Keeps s₀ (s.msixBoth v) := h.msixOn.msixOn

protected theorem Keeps.event {f src arg : Nat} (h : Keeps s₀ s) : Keeps s₀ (s.event f src arg) :=
  .ite h.setSched (.ite h.setSched h.setSched.count.flag)

protected theorem Keeps.eventAll {src arg : Nat} (h : Keeps s₀ s) : Keeps s₀ (s.eventAll src arg) := h.foldl fun ht => ht.event

protected theorem Keeps.log {code kind inst p0 p1 p2 p3 : Nat} (h : Keeps s₀ s) : Keeps s₀ (s.log code kind inst p0 p1 p2 p3) :=
  .ite h (.ite h.count (.ite h.count (.ite (h.update (by rfl)).wide.msixBoth.eventAll (h.update (by rfl)).wide)))

protected theorem Keeps.logFree {code kind inst : Nat} (h : Keeps s₀ s) : Keeps s₀ (s.logFree code kind inst) := (h.update (by rfl)).log

protected theorem Keeps.violate {m : Mst} {code kind gaddr p1 p2 p3 : Nat} (h : Keeps s₀ s) :
    Keeps s₀ (s.violate m code kind gaddr p1 p2 p3) :=
  .eventAll (.msixBoth (.log (.count (.setReg (.setReg (.ite h (h.update (by rfl))))))))

protected theorem Keeps.violateAddr {m : Mst} {code kind gaddr : Nat} (h : Keeps s₀ s) : Keeps s₀ (s.violateAddr m code kind gaddr) :=
  h.violate

protected theorem Keeps.frozenCommand {m : Mst} {status : Nat} (h : Keeps s₀ s) : Keeps s₀ (s.frozenCommand m status) :=
  .ite (h.count.update (by rfl)).log h.count

protected theorem Keeps.thaw {all : Bool} {cls sub by_ : Nat} (h : Keeps s₀ s) :
    Keeps s₀ (s.thaw all cls sub by_) := .ite h (h.update (by rfl)).log

protected theorem Keeps.rouseReg {r : RegAt} (h : Keeps s₀ s) : Keeps s₀ (rouseReg r s) := by
  unfold rouseReg
  refine .ite h ?_
  dsimp only
  split
  · exact h.onCore
  · exact h.setDrover
  · exact h.setEngine
  · exact h.setTrh

protected theorem Keeps.rouseRead {off n : Nat} (h : Keeps s₀ s) : Keeps s₀ (rouseRead s off n) := by
  unfold rouseRead
  refine h.foldl fun ht => ?_
  split
  · exact .ite ht.rouseReg ht
  · exact ht

protected theorem Keeps.wakeUnit {a : Sleeper} (h : Keeps s₀ s) : Keeps s₀ (wakeUnit s a) := by
  unfold wakeUnit
  dsimp only
  split
  · exact .ite h.onCore h
  · exact .ite h.setDrover h
  · exact .ite h.setEngine h

protected theorem Keeps.wakeAt {a : Nat} (h : Keeps s₀ s) : Keeps s₀ (wakeAt s a) := by
  unfold wakeAt
  split
  · exact h.wakeUnit
  · exact h

protected theorem Keeps.setBytes {a : Nat} {bs : List Byte} (h : Keeps s₀ s) : Keeps s₀ (s.setBytes a bs) := by
  induction bs generalizing a s with
  | nil => exact h
  | cons b t ih => exact ih h.setByte

protected theorem Keeps.ueRead {atom : Nat} (h : Keeps s₀ s) : Keeps s₀ (ueRead s atom) := h.count.flag.setReg.log.msixBoth

protected theorem Keeps.setBadSyms {atom v : Nat} (h : Keeps s₀ s) : Keeps s₀ (s.setBadSyms atom v) := h.update (by rfl)

protected theorem Keeps.autoMark {p pc pin : Nat} {told : Bool} (h : Keeps s₀ s) : Keeps s₀ (autoMark s p pc pin told) :=
  .ite h.setReg.flag.log (.ite h.log h)

protected theorem Keeps.pinHit {p pc pin : Nat} (h : Keeps s₀ s) :
    Keeps s₀ (pinHit p pc s pin) := .ite (h.update (by rfl)).autoMark (h.update (by rfl))

protected theorem Keeps.burst {atom : Nat} (h : Keeps s₀ s) :
    Keeps s₀ (burst s atom) := .ite h (.ite (h.update (by rfl)) (h.update (by rfl)))

protected theorem Keeps.corrected {atom : Nat} (h : Keeps s₀ s) : Keeps s₀ (corrected s atom) :=
  .ite (h.count.flag.foldl fun ht => ht.pinHit) h.count.flag

protected theorem Keeps.setParityErrs {p n : Nat} (h : Keeps s₀ s) : Keeps s₀ (s.setParityErrs p n) := h.update (by rfl)

protected theorem Keeps.stackCommand {atom : Nat} (h : Keeps s₀ s) : Keeps s₀ (stackCommand s atom).2 := by
  unfold stackCommand
  dsimp only
  split
  · exact h
  · exact h.setParityErrs.flag

protected theorem Keeps.readAtom {atom : Nat} (h : Keeps s₀ s) : Keeps s₀ (readAtom s atom).2 := by
  unfold readAtom
  dsimp only
  split
  · exact h
  · split
    · exact h.stackCommand.ueRead
    · split
      · exact h.stackCommand.wide.burst
      · exact h.stackCommand.wide.burst.corrected
      · exact h.stackCommand.wide.burst.ueRead

protected theorem Keeps.storeAtom {atom : Nat} (h : Keeps s₀ s) : Keeps s₀ (storeAtom s atom) := h.wide.burst.setBadSyms

protected theorem Keeps.writeAtom {a n atom : Nat} (h : Keeps s₀ s) : Keeps s₀ (writeAtom a n s atom).2 := by
  unfold writeAtom
  split
  · exact h
  · extract_lets whole
    have h1 : Keeps s₀ (if whole then stackCommand s atom else readAtom s atom).2 := by
      split
      · exact h.stackCommand
      · exact h.readAtom
    exact .pair_of Prod.snd (fun _ _ _ => rfl) h1 fun h1 => .ite h1.storeAtom (.ite h1.ueRead h1)

protected theorem Keeps.eachAtom {f : State → Nat → Bool × State} {l : List Nat} (h : Keeps s₀ s)
    (hf : ∀ {t a}, Keeps s₀ t → Keeps s₀ (f t a).2) : Keeps s₀ (eachAtom f l s).2 := by
  induction l generalizing s with
  | nil => exact h
  | cons a l ih => exact ih (hf h)

protected theorem Keeps.sramCorrected (h : Keeps s₀ s) : Keeps s₀ (sramCorrected s) := h.count.flag

protected theorem Keeps.sramReport {kind inst off act : Nat} (h : Keeps s₀ s) : Keeps s₀ (sramReport kind inst off act s) :=
  h.count.setReg.log

protected theorem Keeps.sramData {kind inst off : Nat} (h : Keeps s₀ s) : Keeps s₀ (sramData kind inst off s) := h.sramReport.flag

protected theorem Keeps.meetUpsets {l : List Upset} (h : Keeps s₀ s) : Keeps s₀ (meetUpsets l s).2 := by
  induction l with
  | nil => exact h
  | cons u t ih =>
    rw [meetUpsets]
    dsimp only
    split
    · exact ih.sramData
    · exact Keeps.sramCorrected (ih.update (by rfl))

protected theorem Keeps.meetSram {a n : Nat} (h : Keeps s₀ s) : Keeps s₀ (meetSram a n s).2 := by
  unfold meetSram
  split
  · exact h
  · exact h.meetUpsets

protected theorem Keeps.readMem {a n : Nat} (h : Keeps s₀ s) : Keeps s₀ (s.readMem a n).2.2 := by
  unfold State.readMem
  dsimp only
  exact .meetSram (h.eachAtom fun ht => ht.readAtom)

protected theorem Keeps.touch {l : List (Nat × Nat)} (h : Keeps s₀ s) : Keeps s₀ (s.touch l).2 := by
  induction l generalizing s with
  | nil => exact h
  | cons p t ih => exact ih h.readMem

protected theorem Keeps.putBytes {keep : Nat → Bool} {a : Nat} {bs : List Byte} (h : Keeps s₀ s) : Keeps s₀ (putBytes keep s a bs) := by
  induction bs generalizing a s with
  | nil => exact h
  | cons b t ih => exact ih (.ite h.setByte h)

protected theorem Keeps.writeSram {a n : Nat} (h : Keeps s₀ s) : Keeps s₀ (writeSram a n s).2 := by
  unfold writeSram
  dsimp only
  split
  · exact h
  · exact (h.update (by rfl)).meetUpsets

protected theorem Keeps.putMem {a : Nat} {bs : List Byte} (h : Keeps s₀ s) : Keeps s₀ (s.putMem a bs).2 := by
  unfold State.putMem
  dsimp only
  exact .putBytes (.writeSram (h.eachAtom fun ht => ht.writeAtom))

protected theorem Keeps.writeMem {a : Nat} {bs : List Byte} (h : Keeps s₀ s) : Keeps s₀ (s.writeMem a bs).2 := by
  unfold State.writeMem
  split
  · exact h
  · exact h.putMem

protected theorem Keeps.localReadAs {passed : Bool} {m : Mst} {a n : Nat} (h : Keeps s₀ s) :
    KeepsIn s₀ (localReadAs passed m a n s).left := by
  unfold localReadAs
  dsimp only
  split
  · exact .none
  · split
    · exact .some h.violateAddr
    · split
      · exact .some h.violateAddr
      · split
        · exact .none
        · split
          · exact .some h.rouseRead
          · exact .some h.wakeAt.readMem

protected theorem Keeps.localRead {m : Mst} {a n : Nat} (h : Keeps s₀ s) : KeepsIn s₀ (localRead m a n s).left := h.localReadAs

protected theorem Keeps.localStoreAs {passed : Bool} {m : Mst} {a : Nat} {bs : List Byte} (h : Keeps s₀ s) :
    KeepsIn s₀ (localStoreAs passed m a bs s).left := by
  unfold localStoreAs
  dsimp only
  split
  · exact .none
  · split
    · exact .some h.violateAddr
    · split
      · exact .some h
      · split
        · exact .some h.violateAddr
        · split
          · exact .some h.violateAddr
          · split
            · exact .none
            · exact .some h.wakeAt.putMem

protected theorem Keeps.localStore {m : Mst} {a : Nat} {bs : List Byte} (h : Keeps s₀ s) : KeepsIn s₀ (localStore m a bs s).left :=
  h.localStoreAs

protected theorem Keeps.irq {a : Option (Nat × Nat)} (h : Keeps s₀ s) : Keeps s₀ (s.irq a) := by
  unfold State.irq
  split
  · exact h.msixOn
  · exact h

protected theorem Keeps.putRecord {passed : Bool} {r : HeldRec} (h : Keeps s₀ s) : Keeps s₀ (putRecord passed r s) := by
  unfold putRecord
  refine .ite h.irq ?_
  split
  · exact h.update (by rfl)
  · rename_i e
    exact (h.localStoreAs.of_eq e rfl).irq
  · rename_i e
    exact (h.localStoreAs.of_eq e rfl).irq

protected theorem Keeps.releaseRecs (h : Keeps s₀ s) : Keeps s₀ (releaseRecs s) := (h.update (by rfl)).foldl fun ht => ht.putRecord

protected theorem Keeps.complete {r : CmdRef} {status result detail aux : Nat} (h : Keeps s₀ s) :
    Keeps s₀ (s.complete r status result detail aux) := by
  unfold State.complete
  refine .ite h (.ite h.flag.setQp ?_)
  extract_lets cfg size tail base a bs s1 s2 s3
  have h1 : Keeps s₀ s1 := .ite h.putRecord (h.update (by rfl)).irq
  have h2 : Keeps s₀ s2 := h1.setFld
  have h3 : Keeps s₀ s3 := .ite h2.setFld h2
  exact h3.setQp

/-! ### The replay recorder -/

protected theorem Keeps.noteUsed {n : Nat} (h : Keeps s₀ s) : Keeps s₀ (noteUsed s n) := h.setFld

protected theorem Keeps.recHeader {used n epoch : Nat} (h : Keeps s₀ s) : Keeps s₀ (recHeader s used n epoch) := h.writeMem.noteUsed

protected theorem Keeps.recStart {replay : Bool} (h : Keeps s₀ s) :
    Keeps s₀ (recStart replay s) := .ite h.setFld (.ite (h.update (by rfl)).setFld h)

protected theorem Keeps.recAbort (h : Keeps s₀ s) : Keeps s₀ (recAbort s) := (h.update (by rfl)).setFld

protected theorem Keeps.recClear (h : Keeps s₀ s) : Keeps s₀ (recClear s) := h.clearCount

protected theorem Keeps.recFence {step : Nat} (h : Keeps s₀ s) : Keeps s₀ (recFence step s) :=
  .ite h (.ite h.recHeader.setFld (.ite h.setFld h))

protected theorem Keeps.recWrite {link : Nat} {key : Option Req} {pkt : List Byte} (h : Keeps s₀ s) : Keeps s₀ (recWrite s link key pkt) :=
  .ite h.flag h.writeMem.writeMem.writeMem.noteUsed

protected theorem Keeps.recTake {link vc ty stepLo tag : Nat} {pkt : List Byte} (h : Keeps s₀ s) :
    Keeps s₀ (recTake s link vc ty stepLo tag pkt) := by
  unfold recTake
  refine .ite h (.ite ?_ (.ite h.recWrite h))
  split
  · exact h.recWrite
  · exact h

protected theorem Keeps.recScan (h : Keeps s₀ s) : Keeps s₀ (recScan s) := h.touch

protected theorem Keeps.suppress {ty addr crc len tag : Nat} (h : Keeps s₀ s) : Keeps s₀ (suppress s ty addr crc len tag) := by
  unfold suppress
  have h0 := h.wide (off := REC_SUPPRESSED) (n := 1)
  have h1 := h0.recScan
  refine .ite h0.count.flag (.ite h0 ?_)
  generalize recScan _ = s1 at h1 ⊢
  dsimp only
  split
  · exact h1.update (by rfl)
  · exact h1.count.flag

/-! ### Ilbegal links -/

protected theorem Keeps.sendBlock {n kind seq : Nat} {data : List Byte} (h : Keeps s₀ s) : Keeps s₀ (sendBlock s n kind seq data) := by
  unfold sendBlock
  dsimp only
  exact h.update (by rfl)

protected theorem Keeps.sendCtl {n kind : Nat} (h : Keeps s₀ s) : Keeps s₀ (sendCtl s n kind) := h.sendBlock

protected theorem Keeps.sendData {n : Nat} {ends : List Nat} {data : List Byte} (h : Keeps s₀ s) : Keeps s₀ (sendData n ends s data) :=
  h.sendBlock.setLnk.setFld.wide

protected theorem Keeps.oweCredit {a : Option (Nat × Nat)} (h : Keeps s₀ s) : Keeps s₀ (s.oweCredit a) := by
  unfold State.oweCredit
  dsimp only
  split
  · exact h
  · exact h.setLnk

protected theorem Keeps.bufferReport {n vc cls place : Nat} (h : Keeps s₀ s) : Keeps s₀ (bufferReport n vc cls place s) := by
  unfold bufferReport
  dsimp only
  exact h.drawWord.count.setReg.log.flag.flag.count.log

protected theorem Keeps.cleanPlace {n place : Nat} (h : Keeps s₀ s) : Keeps s₀ (cleanPlace s n place) := h.update (by rfl)

protected theorem Keeps.meetPlace {n place : Nat} (h : Keeps s₀ s) : Keeps s₀ (meetPlace n place s).2 := by
  unfold meetPlace
  dsimp only
  split
  · exact h.cleanPlace
  · exact h.cleanPlace.foldl fun ht => ht.sramCorrected

protected theorem Keeps.readPassed {n i : Nat} (h : Keeps s₀ s) : Keeps s₀ (readPassed n i s).2 := by
  unfold readPassed
  dsimp only
  split
  · exact h
  · split
    · exact h
    · split
      · rename_i e2
        exact h.meetPlace.of_eq e2 rfl
      · rename_i e2
        exact (h.meetPlace.of_eq e2 rfl).setLnk.bufferReport.oweCredit

protected theorem Keeps.beginPacket {n i : Nat} {w : List Nat} (h : Keeps s₀ s) : Keeps s₀ (beginPacket n i w s) := by
  unfold beginPacket
  dsimp only
  split
  · rename_i e
    exact h.readPassed.of_eq e rfl
  · rename_i e
    exact (h.readPassed.of_eq e rfl).setLnk.wide

protected theorem Keeps.sendNext {n : Nat} (h : Keeps s₀ s) : Keeps s₀ (sendNext n s) := by
  unfold sendNext
  dsimp only
  exact h.setLnk.sendData.foldl fun ht => ht.oweCredit

protected theorem Keeps.pump {n fuel : Nat} (h : Keeps s₀ s) : Keeps s₀ (pump n fuel s) := by
  induction fuel generalizing s with
  | zero => exact h
  | succ fuel ih =>
    rw [pump]
    refine .ite h ?_
    split
    · exact ih h.beginPacket
    · exact .ite h (ih h.sendNext)

protected theorem Keeps.pumpLink {n : Nat} (h : Keeps s₀ s) : Keeps s₀ (s.pumpLink n) := .ite h.pump h

protected theorem Keeps.sendOn {n : Nat} {p : Packet} (h : Keeps s₀ s) : Keeps s₀ (s.sendOn n p) := h.setLnk.pumpLink

protected theorem Keeps.discard {n reason src ty : Nat} (h : Keeps s₀ s) : Keeps s₀ (s.discard n reason src ty) := h.flag.count.log

protected theorem Keeps.discardOwn {src ty : Nat} (h : Keeps s₀ s) : Keeps s₀ (s.discardOwn src ty) := by
  unfold State.discardOwn
  dsimp only
  exact h.drawWord.log

protected theorem Keeps.send {from_ : Option Nat} {p : Packet} (h : Keeps s₀ s) : Keeps s₀ (s.send from_ p) := by
  unfold State.send
  refine .ite h (.ite h.suppress (.ite ?_ ?_))
  · split
    · exact h.discard.oweCredit
    · exact h
  · split
    · split
      · exact h.discard.oweCredit
      · exact h.discardOwn
    · exact h.sendOn

protected theorem Keeps.request {ty dst addr : Nat} {args : List Nat} {data : List Byte} {o : ReqOwner} (h : Keeps s₀ s) :
    Keeps s₀ (s.request ty dst addr args data o).2 :=
  (h.update (by rfl)).send

protected theorem Keeps.respond {p : Packet} {status : Nat} {args : List Nat} {data : List Byte} (h : Keeps s₀ s) :
    Keeps s₀ (s.respond p status args data) :=
  h.send

protected theorem Keeps.freeSlot {n i : Nat} (h : Keeps s₀ s) : Keeps s₀ (s.freeSlot n i) := by
  unfold State.freeSlot
  dsimp only
  split
  · exact h
  · exact h.setLnk.cleanPlace

protected theorem Keeps.loseBegun {m : Nat} {e : Sending} (h : Keeps s₀ s) : Keeps s₀ (loseBegun m e s) :=
  .ite (h.update (by rfl)).setLnk h.setLnk.oweCredit

protected theorem Keeps.bufferDouble {n place : Nat} (h : Keeps s₀ s) : Keeps s₀ (bufferDouble n place s) := by
  unfold bufferDouble
  dsimp only
  split
  · exact h.bufferReport.freeSlot
  · split
    · exact h.bufferReport.setLnk.oweCredit
    · split
      · exact h.bufferReport.loseBegun
      · exact h.bufferReport

protected theorem Keeps.packetIn {n : Nat} {h' pl : List Byte} (h : Keeps s₀ s) : Keeps s₀ (packetIn s n h' pl) := by
  unfold packetIn
  dsimp only
  split
  · exact h.wide.discard
  · exact .ite (.ite h.wide.cleanPlace.discard.oweCredit
      (.ite h.wide.cleanPlace.discard.oweCredit
      (.ite h.wide.cleanPlace.discard.oweCredit (.ite h.wide.cleanPlace.recTake.setLnk.event h.wide.cleanPlace.recTake.setLnk))))
      h.wide.cleanPlace.send

protected theorem Keeps.takePackets {n fuel : Nat} (h : Keeps s₀ s) : Keeps s₀ (takePackets n fuel s) := by
  induction fuel generalizing s with
  | zero => exact h
  | succ fuel ih =>
    rw [takePackets]
    dsimp only
    split
    · exact h
    · exact .ite h.setLnk (.ite h (ih h.setLnk.packetIn))

protected theorem Keeps.takeCtl {n ctl : Nat} (h : Keeps s₀ s) : Keeps s₀ (takeCtl s n ctl) := .pumpLink (.ite h.setLnk.setFld h.setLnk)

protected theorem Keeps.sendNak {n : Nat} (h : Keeps s₀ s) : Keeps s₀ (sendNak s n) := .ite h h.setLnk.sendCtl

protected theorem Keeps.setLnkState {n st : Nat} (h : Keeps s₀ s) : Keeps s₀ (setLnkState s n st) := .ite h.setFld h.setFld.eventAll

protected theorem Keeps.loseLink {n : Nat} (h : Keeps s₀ s) : Keeps s₀ (loseLink s n) :=
  .setFld (.count (h.setLnk.foldl fun ht => ht.oweCredit))

protected theorem Keeps.goDown {n reason : Nat} (h : Keeps s₀ s) : Keeps s₀ (goDown s n reason) := h.loseLink.flag.setLnkState.log

protected theorem Keeps.resend {n : Nat} (h : Keeps s₀ s) : Keeps s₀ (resend s n) :=
  .ite h (.ite h.goDown (h.setLnk.count.foldl fun ht => ht.sendBlock))

protected theorem Keeps.fecCount {n good bad : Nat} (h : Keeps s₀ s) : Keeps s₀ (fecCount s n good bad) := h.count.count

protected theorem Keeps.keepSeries {n sent : Nat} (h : Keeps s₀ s) : Keeps s₀ (keepSeries n sent s) := .ite h.sendCtl h

protected theorem Keeps.takeBlock {n : Nat} {data : List Byte} (h : Keeps s₀ s) : Keeps s₀ (takeBlock n data s) :=
  h.setLnk.setFld.wide.takePackets.sendCtl

protected theorem Keeps.dataBlock {n : Nat} {data : List Byte} {ctl good bad : Nat} (h : Keeps s₀ s) :
    Keeps s₀ (dataBlock n data ctl good bad s) :=
  .ite h (.keepSeries (.ite h.fecCount.count.sendNak
    (.ite h.fecCount.takeCtl.sendNak (.ite h.fecCount.takeCtl h.fecCount.takeCtl.takeBlock))))

protected theorem Keeps.nakBlock {n : Nat} {data : List Byte} {ctl good bad : Nat} (h : Keeps s₀ s) :
    Keeps s₀ (nakBlock n data ctl good bad s) :=
  .ite h (.keepSeries (.ite h.fecCount.sendNak h.fecCount.takeCtl.resend))

protected theorem Keeps.idleBlock {n : Nat} {data : List Byte} {ctl good bad : Nat} (h : Keeps s₀ s) :
    Keeps s₀ (idleBlock n data ctl good bad s) :=
  .ite h (.keepSeries (.ite h.fecCount.sendNak h.fecCount.takeCtl))

protected theorem Keeps.initBlock {n : Nat} {data : List Byte} {ctl good bad : Nat} (h : Keeps s₀ s) :
    Keeps s₀ (initBlock n data ctl good bad s) :=
  .ite h (.keepSeries (.ite h.fecCount.sendNak
    (.ite h.fecCount.takeCtl (.ite h.fecCount.takeCtl.sendCtl h.fecCount.takeCtl.setLnk.setFld.sendCtl.sendOn))))

protected theorem Keeps.retryDeadline {n : Nat} (h : Keeps s₀ s) : Keeps s₀ (retryDeadline n s) := .ite h.resend h

protected theorem Keeps.laneTrained {n k snr prec st : Nat} (h : Keeps s₀ s) : Keeps s₀ (laneTrained s n k snr prec st) := h.setReg

protected theorem Keeps.linkTrainingDone {n snr0 snr1 prec0 prec1 : Nat} (h : Keeps s₀ s) :
    Keeps s₀ (linkTrainingDone n snr0 snr1 prec0 prec1 s) :=
  .ite h.laneTrained.laneTrained.setLnkState h

protected theorem Keeps.trainingTimeout {n : Nat} (h : Keeps s₀ s) : Keeps s₀ (trainingTimeout n s) := by
  unfold trainingTimeout
  refine .ite ?_ h
  dsimp only
  exact h.laneTrained.laneTrained.flag.logFree.drawWord.goDown

protected theorem Keeps.alignmentDone {n : Nat} (h : Keeps s₀ s) : Keeps s₀ (alignmentDone n s) := .ite h.setLnkState.sendCtl h

protected theorem Keeps.lossOfLock {n : Nat} (h : Keeps s₀ s) : Keeps s₀ (lossOfLock n s) := .ite h.goDown h

protected theorem Keeps.startTraining {n : Nat} (h : Keeps s₀ s) : Keeps s₀ (startTraining s n) := h.setLnkState.laneTrained.laneTrained

protected theorem Keeps.retrainTimer {n : Nat} (h : Keeps s₀ s) : Keeps s₀ (retrainTimer n s) := .ite h.startTraining h

protected theorem Keeps.retrain {n : Nat} (h : Keeps s₀ s) : Keeps s₀ (retrain s n) := .ite h (.startTraining (.ite h h.goDown))

protected theorem Keeps.relink {st n : Nat} (h : Keeps s₀ s) : Keeps s₀ (relink st s n) :=
  .ite (.startTraining (.ite h.goDown h)) (.setLnkState (.ite h.goDown h))

protected theorem Keeps.linkCommit {n : Nat} {w : Word} (h : Keeps s₀ s) : Keeps s₀ (linkCommit n w s) :=
  .ite h (.ite (.ite h.setReg h.setReg.loseLink.setLnkState) (.ite h.setReg.relink h.setReg))

protected theorem Keeps.lnkClear {n : Nat} (h : Keeps s₀ s) : Keeps s₀ (lnkClear s n) := h.foldl fun ht => ht.clearCount

protected theorem Keeps.neighbourIn {n dev lnk port : Nat} (h : Keeps s₀ s) : Keeps s₀ (neighbourIn s n dev lnk port) :=
  .pumpLink (.ite h.setReg.setFld.setLnkState.logFree.flag.logFree h.setReg.setFld.setLnkState.logFree)

protected theorem Keeps.neighbourTaken {n i : Nat} (h : Keeps s₀ s) : Keeps s₀ (neighbourTaken n i s) := by
  unfold neighbourTaken
  dsimp only
  split
  · exact h
  · refine .ite h ?_
    split
    · rename_i e1
      exact (h.meetPlace.of_eq e1 rfl).bufferReport.freeSlot
    · rename_i s1 e1
      have h1 : Keeps s₀ s1 := h.meetPlace.of_eq e1 rfl
      exact .ite h1.freeSlot.neighbourIn h1.freeSlot

/-! ### Near-stack reducers -/

protected theorem Keeps.popular {slot : Nat} (h : Keeps s₀ s) : Keeps s₀ (s.popular slot) := .ite (.ite h.setNsr.flag h.setNsr) h

protected theorem Keeps.popSnapshot {step p : Nat} (h : Keeps s₀ s) : Keeps s₀ (s.popSnapshot step p) := h.setNsr.setReg.setFld.setReg

protected theorem Keeps.readPieces {l : List (Nat × Nat)} (h : Keeps s₀ s) : Keeps s₀ (readPieces s l).2.2 := by
  induction l generalizing s with
  | nil => exact h
  | cons p t ih => exact ih h.readMem

protected theorem Keeps.nsrRefuse {p dev slot : Nat} (h : Keeps s₀ s) : Keeps s₀ (s.nsrRefuse p dev slot) := h.flag.setReg.log

protected theorem Keeps.nsrForward {p : Nat} (h : Keeps s₀ s) : Keeps s₀ (s.nsrForward p) := h.count

protected theorem Keeps.nsrCount {p atoms out : Nat} (h : Keeps s₀ s) : Keeps s₀ (s.nsrCount p atoms out) := h.wide.wide.setNsr

protected theorem Keeps.nsrRow {dev slot cls e col0 n : Nat} (h : Keeps s₀ s) : Keeps s₀ (nsrRow s dev slot cls e col0 n).state := by
  unfold nsrRow
  dsimp only
  split
  · exact h.nsrForward
  · split
    · exact h.nsrRefuse
    · exact h.popular.readPieces.nsrCount

protected theorem Keeps.popularAll {xs : List Src} (h : Keeps s₀ s) : Keeps s₀ (popularAll s xs) := h.foldl fun ht => ht.popular

protected theorem Keeps.srcPieces {e col0 n : Nat} {l : List Src} (h : Keeps s₀ s) : Keeps s₀ (srcPieces s e col0 n l).2.2.2 := by
  induction l generalizing s with
  | nil => exact h
  | cons x t ih => exact ih h.readPieces

protected theorem Keeps.nsrReduce {p dev agg e col0 n : Nat} {complete : Bool} {nd : Nat} {xs : List Src} (h : Keeps s₀ s) :
    Keeps s₀ (nsrReduce s p dev agg e col0 n complete nd xs).state := by
  unfold nsrReduce
  dsimp only
  split
  · exact h.foldl fun ht => ht.nsrRefuse
  · split
    · exact h.foldl fun ht => ht.nsrForward
    · exact .ite h.popularAll.srcPieces.nsrCount.wide.wide
        (.ite h.popularAll.srcPieces.nsrCount.wide.wide h.popularAll.srcPieces.nsrCount.wide)

/-! ### Shared operations of the compute core -/

protected theorem Keeps.tallyChanged {c t' : Nat} (h : Keeps s₀ s) : Keeps s₀ (s.tallyChanged c t') := by
  unfold State.tallyChanged
  refine .ite h ?_
  dsimp only
  exact h.setFld.setCore

protected theorem Keeps.violateTally {m : Mst} {dev c t' : Nat} (h : Keeps s₀ s) : Keeps s₀ (s.violateTally m dev c t') := h.violate

protected theorem Keeps.setStops {c : Nat} (h : Keeps s₀ s) : Keeps s₀ (s.setStops c) := h.setReg.setReg

protected theorem Keeps.endCmd {c status detail aux : Nat} (h : Keeps s₀ s) : Keeps s₀ (s.endCmd c status detail aux) := by
  unfold State.endCmd
  split
  · exact h
  · exact h.onCore.complete

protected theorem Keeps.settleStop {c : Nat} (h : Keeps s₀ s) : Keeps s₀ (s.settleStop c) := .ite h.endCmd h

protected theorem Keeps.coreStop {c status detail : Nat} (h : Keeps s₀ s) : Keeps s₀ (s.coreStop c status detail) :=
  .ite h h.setCore.setStops.settleStop

protected theorem Keeps.abandon {c : Nat} {r : Run} (h : Keeps s₀ s) : Keeps s₀ (s.abandon c r) := .ite h.setCore.setStops h

protected theorem Keeps.coreTrap {c status code addr : Nat} (h : Keeps s₀ s) : Keeps s₀ (s.coreTrap c status code addr) :=
  .ite h h.log.msixBoth.coreStop

protected theorem Keeps.coreViolation {c code kind gaddr : Nat} (h : Keeps s₀ s) : Keeps s₀ (s.coreViolation c code kind gaddr) :=
  h.violateAddr.coreStop

protected theorem Keeps.meetWords {c : Nat} {l : List (Nat × Nat × Nat)} (h : Keeps s₀ s) : Keeps s₀ (meetWords c l s).2 := by
  induction l generalizing s with
  | nil => exact h
  | cons p t ih => exact ih h.meetUpsets

protected theorem Keeps.meetCore {c : Nat} {l : List (Nat × Nat × Nat)} (h : Keeps s₀ s) : Keeps s₀ (s.meetCore c l) := by
  unfold State.meetCore
  dsimp only
  exact .ite h.meetWords.onCore h.meetWords

protected theorem Keeps.cleanWords {c kind off n : Nat} (h : Keeps s₀ s) : Keeps s₀ (cleanWords c kind off n s) := h.update (by rfl)

protected theorem Keeps.meetTally {c t' : Nat} (h : Keeps s₀ s) : Keeps s₀ (s.meetTally c t') := by
  unfold State.meetTally
  dsimp only
  exact .ite h.meetWords.cleanWords.drawWord.setFld.coreStop h.meetWords

protected theorem Keeps.tallyAdd {c t' n : Nat} (h : Keeps s₀ s) : Keeps s₀ (s.tallyAdd c t' n).2 := by
  unfold State.tallyAdd
  dsimp only
  split
  · exact .ite h.meetTally.flag.onCore h.meetTally
  · split
    · exact h.meetTally.onCore
    · exact h.meetTally.setFld.tallyChanged

protected theorem Keeps.settleHalt {c : Nat} (h : Keeps s₀ s) : Keeps s₀ (s.settleHalt c) := .ite h.setCore.setStops h

protected theorem Keeps.coreHalt {c : Nat} (h : Keeps s₀ s) : Keeps s₀ (s.coreHalt c) := .ite h.setCore.settleHalt h

protected theorem Keeps.coreResume {c : Nat} (h : Keeps s₀ s) : Keeps s₀ (s.coreResume c) :=
  .ite (h.setCore.foldl fun ht => ht.tallyChanged) h

protected theorem Keeps.noProgram {c : Nat} (h : Keeps s₀ s) : Keeps s₀ (s.noProgram c) := h.setFld

protected theorem Keeps.coreAbort {c : Nat} (h : Keeps s₀ s) : Keeps s₀ (s.coreAbort c) := h.endCmd.setCore.noProgram

protected theorem Keeps.endProgram {c : Nat} (h : Keeps s₀ s) : Keeps s₀ (s.endProgram c) := h.endCmd.setCore.noProgram

protected theorem Keeps.settle {c : Nat} (h : Keeps s₀ s) : Keeps s₀ (s.settle c) := by
  unfold State.settle
  extract_lets k0 k s1 _ s2 k2
  have h1 : Keeps s₀ s1 := h.setCore
  have h2 : Keeps s₀ s2 := by
    unfold s2
    split
    · refine .ite ?_ h1
      extract_lets s3
      have h3 : Keeps s₀ s3 := h1.setCore
      exact .pair (fun _ _ _ => rfl) h3.tallyAdd fun h4 => .ite h4 h3.violateTally.flag.coreStop
    · exact h1
  exact .ite h.settleHalt (.ite h2 (.ite (.ite h2.endProgram h2.setCore.settleHalt) h2.settleHalt))

protected theorem Keeps.coreRetire {c g : Nat} (h : Keeps s₀ s) : Keeps s₀ (s.coreRetire c g) := .ite h h.setCore.setReg

protected theorem Keeps.retireDone {c : Nat} (h : Keeps s₀ s) : Keeps s₀ (s.retireDone c) := by
  unfold State.retireDone
  dsimp only
  split
  · exact h
  · exact .ite h h.setCore.setReg

protected theorem Keeps.stall {c : Nat} {x d : Bool} {code : Nat} (h : Keeps s₀ s) : Keeps s₀ (s.stall c x d code) := h.onCore

protected theorem Keeps.advance {c : Nat} {x d : Bool} (h : Keeps s₀ s) : Keeps s₀ (s.advance c x d) := h.onCore

protected theorem Keeps.failedBlock {c : Nat} {x d : Bool} (h : Keeps s₀ s) : Keeps s₀ (failedBlock c x d s) := by
  unfold failedBlock
  split
  · exact h
  · exact h.flag.setReg.setReg.setReg.coreTrap

protected theorem Keeps.afterCore {c : Nat} (h : Keeps s₀ s) : Keeps s₀ (s.afterCore c) :=
  h.failedBlock.failedBlock.failedBlock.failedBlock.settle.onCore

protected theorem Keeps.addLimit {c dev core t' : Nat} (h : Keeps s₀ s) : Keeps s₀ (addLimit s c dev core t') := h.violateTally.coreStop

/-! ### Accumulator rows -/

protected theorem Keeps.putAcc {c bank row col : Nat} {vs : List Nat} (h : Keeps s₀ s) : Keeps s₀ (putAcc s c bank row col vs) :=
  h.cleanWords.setBytes

protected theorem Keeps.l2Put {base w cls k : Nat} {vs : List FVal} (h : Keeps s₀ s) : Keeps s₀ (l2Put s base w cls k vs) := h.setBytes

protected theorem Keeps.l2Carry {base w cls fuel k valid : Nat} {v : List FVal} (h : Keeps s₀ s) :
    Keeps s₀ (l2Carry s base w cls fuel k valid v).1 := by
  induction fuel generalizing k valid v with
  | zero => exact h.l2Put
  | succ fuel ih =>
    rw [l2Carry]
    split
    · exact ih
    · exact h.l2Put

protected theorem Keeps.spillSeg {c bank row sub : Nat} (h : Keeps s₀ s) : Keeps s₀ (spillSeg s c bank row sub).2 := by
  unfold spillSeg
  have h1 := h.meetCore (c := c) (l := segWords s c bank row sub true)
  generalize s.meetCore c _ = s1 at h1 ⊢
  extract_lets _ g w fresh
  split
  · exact h1
  · next r _ =>
    extract_lets base valid
    have h2 := h1.l2Carry (base := base) (w := w) (cls := g.cls) (fuel := 15) (k := 0) (valid := valid)
      (v := segLive s1 c bank row sub g.cls)
    generalize l2Carry s1 base w g.cls 15 0 valid _ = q at h2 ⊢
    obtain ⟨s2, valid'⟩ := q
    dsimp only at h2 ⊢
    exact .onCore (.ite h2.setBytes.putAcc.putAcc h2.setBytes.putAcc)

protected theorem Keeps.finalSeg {c bank row sub : Nat} (h : Keeps s₀ s) : Keeps s₀ (finalSeg s c bank row sub) :=
  .ite h (.onCore (.ite h.meetCore h.meetCore.putAcc))

protected theorem Keeps.finalRow {c bank row n : Nat} (h : Keeps s₀ s) : Keeps s₀ (finalRow s c bank row n) := by
  unfold finalRow
  exact .meetCore (h.foldl fun ht => ht.finalSeg)

protected theorem Keeps.finalRows {c bank row g n : Nat} (h : Keeps s₀ s) : Keeps s₀ (finalRows s c bank row g n) :=
  h.foldl fun ht => ht.finalRow

protected theorem Keeps.vecWrite {c bank row : Nat} {vs : List Nat} (h : Keeps s₀ s) : Keeps s₀ (vecWrite s c bank row vs) := by
  unfold vecWrite
  exact h.putAcc.onCore

protected theorem Keeps.segOverwrite {c bank row sub cls : Nat} {vs : List FVal} (h : Keeps s₀ s) :
    Keeps s₀ (segOverwrite s c bank row sub cls vs) := by
  unfold segOverwrite
  exact .onCore (.ite h.putAcc.putAcc h.putAcc)

protected theorem Keeps.segAdd {c bank row sub cls : Nat} {vs : List FVal} (h : Keeps s₀ s) : Keeps s₀ (segAdd s c bank row sub cls vs) :=
  .ite h.meetCore.putAcc.putAcc.onCore (.ite h.meetCore.putAcc.onCore h.meetCore.putAcc.onCore)

protected theorem Keeps.segSpill {c bank row sub cls : Nat} (h : Keeps s₀ s) : Keeps s₀ (segSpill s c bank row sub cls).2 := by
  unfold segSpill
  split
  · exact h.spillSeg
  · exact h

protected theorem Keeps.segCombine {c bank row sub semi : Nat} {add : Bool} {vs : List FVal} (h : Keeps s₀ s) :
    Keeps s₀ (segCombine s c bank row sub semi add vs) :=
  .ite h.meetCore.putAcc h.putAcc.onCore

protected theorem Keeps.exchangeSeg {sub c row : Nat} (h : Keeps s₀ s) : Keeps s₀ (exchangeSeg sub c s row) := by
  unfold exchangeSeg
  exact h.meetCore.putAcc.putAcc.onCore

/-! ### Row appliers -/

protected theorem Keeps.tableFault {kind inst : Nat} (h : Keeps s₀ s) : Keeps s₀ (tableFault s kind inst) := h.flag.logFree

protected theorem Keeps.setUsed {p : Nat} {odd : Bool} {n : Nat} (h : Keeps s₀ s) : Keeps s₀ (setUsed s p odd n) := h.setFld.setFld

protected theorem Keeps.refuseRecord {p dev slot : Nat} (h : Keeps s₀ s) : Keeps s₀ (refuseRecord s p dev slot) := h.flag.count.log

protected theorem Keeps.storeRecord {p dev : Nat} {r : GradHead} {b : List Byte} (h : Keeps s₀ s) :
    Keeps s₀ (storeRecord s p dev r b).2.2 := by
  unfold storeRecord
  extract_lets odd x n used
  split
  · exact h.count
  · split
    · exact h.setApplier.flag.count.log
    · have h1 := h.writeMem (a := halfBase s p odd + used) (bs := padTo n 0 b)
      generalize s.writeMem _ _ = q at h1 ⊢
      obtain ⟨ue, s1⟩ := q
      dsimp only
      split
      · exact h1
      · exact h1.setUsed.wide

protected theorem Keeps.recordIn {slot dev : Nat} {b : List Byte} (h : Keeps s₀ s) : Keeps s₀ (recordIn s slot dev b).2.2 := by
  unfold recordIn
  extract_lets r p
  have h1 := h.touch (l := tableReads s r.table)
  generalize s.touch _ = q at h1 ⊢
  obtain ⟨ue, s1⟩ := q
  dsimp only at h1 ⊢
  split
  · exact h
  · split
    · exact h.nsrForward
    · split
      · exact h1
      · split
        · dsimp only
          exact .ite h1.tableFault h1.refuseRecord
        · split
          · exact h1.refuseRecord
          · split
            · exact h1.refuseRecord
            · next ea e _ =>
              have h2 := h1.touch (l := [(ea, 8)])
              generalize s1.touch _ = q at h2 ⊢
              obtain ⟨ue2, s2⟩ := q
              dsimp only at h2 ⊢
              split
              · exact h2
              · split
                · exact h2.nsrForward
                · split
                  · exact h2.refuseRecord
                  · exact h2.storeRecord

protected theorem Keeps.soilRow {table row size : Nat} (h : Keeps s₀ s) : Keeps s₀ (soilRow s table row size) := h.foldl fun ht => ht.setTrh

protected theorem Keeps.applyRow {l : List (GradHead × List Nat)} {p : Nat} {tr : Nat × Nat} (h : Keeps s₀ s) :
    Keeps s₀ (applyRow l p s tr) := by
  unfold applyRow
  refine .pair (fun _ _ _ => rfl) h.touch fun h0 => .ite h0 ?_
  split
  · exact .ite h0.tableFault h0
  · split
    · exact h0
    · refine .ite h0 ?_
      extract_lets mine
      exact .pair (fun _ _ _ => rfl) h0.touch fun h1 => .triple (fun _ _ _ _ => rfl) h1.readMem fun h2 =>
        .ite h2 h2.writeMem.writeMem.soilRow.wide

protected theorem Keeps.applyStep {p : Nat} (h : Keeps s₀ s) : Keeps s₀ (applyStep p s) := by
  unfold applyStep
  split
  · exact h
  · refine .ite h ?_
    extract_lets odd used
    have h0 := h.readMem (a := halfBase s p odd) (n := used)
    generalize s.readMem _ _ = q at h0 ⊢
    obtain ⟨b, ue, s0⟩ := q
    have h1 (f : Bool) (l : List (GradHead × List Nat)) (rows : List (Nat × Nat)) :
        Keeps s₀ (if f then s else if ue then s0 else rows.foldl (applyRow l p) s0) :=
      .ite h (.ite h0 (h0.foldl fun ht => ht.applyRow))
    exact .ite (h1 _ _ _).setUsed.setApplier.setApplier.wide (h1 _ _ _).setUsed.setApplier.setApplier

/-! ### Drovers -/

protected theorem Keeps.readBlocksOf {d : Nat} {a : Adj} {run : Nat} {want : Nat → Bool} {l : List (Nat × Nat)} (h : Keeps s₀ s) :
    KeepsIn s₀ (readBlocksOf d a run want l s).left := by
  induction l generalizing s with
  | nil => exact .some h
  | cons p t ih =>
    have go (es : List RawEdge) {s : State} (h : Keeps s₀ s) : KeepsIn s₀ (NodeRes.left (match readBlocksOf d a run want t s with
        | .ok more f s2 => .ok (es ++ more) f s2
        | r => r)) := by
      split
      · next e => exact .some (ih h |>.of_eq e rfl)
      · exact ih h
    rw [readBlocksOf]
    dsimp only
    split
    · exact go _ h
    · split
      · exact .none
      · next e => exact .some (h.localRead.of_eq e rfl)
      · next s1 e =>
        have h1 : Keeps s₀ s1 := h.localRead.of_eq e rfl
        split
        · exact .some h1
        · split
          · exact .some h1
          · split
            · exact .some h1
            · exact go _ h1

protected theorem Keeps.readWanted {d : Nat} {a : Adj} {run deg : Nat} {want : Option (List Nat)} {l : List (Nat × Nat)} (h : Keeps s₀ s) :
    KeepsIn s₀ (readWanted d a run deg want l s).left := by
  unfold readWanted
  split
  · exact h.readBlocksOf
  · split
    · rename_i e
      exact .some (h.readBlocksOf.of_eq e rfl)
    · exact h.readBlocksOf

protected theorem Keeps.nodeEdges {d : Nat} {a : Adj} {idx : Nat} {want : Nat → Option (List Nat)} (h : Keeps s₀ s) :
    KeepsIn s₀ (nodeEdges d a idx want s).left := by
  unfold nodeEdges
  dsimp only
  split
  · exact .none
  · rename_i e
    exact .some (h.localRead.of_eq e rfl)
  · rename_i t1 e
    have h1 : Keeps s₀ t1 := h.localRead.of_eq e rfl
    split
    · exact .some h1
    · split
      · split <;> exact .some h1
      · split
        · exact .some h1
        · split
          · split
            · rename_i e2
              exact .some (h1.readWanted.of_eq e2 rfl)
            · exact h1.readWanted
          · split
            · exact .none
            · rename_i e1
              exact .some (h1.localRead.of_eq e1 rfl)
            · rename_i t2 e1
              have h2 : Keeps s₀ t2 := h1.localRead.of_eq e1 rfl
              split
              · exact .some h2
              · split
                · rename_i e2
                  exact .some (h2.readWanted.of_eq e2 rfl)
                · exact h2.readWanted

protected theorem Keeps.setTopo {d : Nat} (h : Keeps s₀ s) : Keeps s₀ (setTopo s d) := h.setDrover.setFld.setFld

protected theorem Keeps.putSample {d : Nat} {x : Smp} (h : Keeps s₀ s) : Keeps s₀ (s.putSample d x) := h.setDrover

protected theorem Keeps.endSample {d : Nat} {x : Smp} {status detail : Nat} (h : Keeps s₀ s) : Keeps s₀ (endSample s d x status detail) :=
  h.setDrover.complete

protected theorem Keeps.badNode {d : Nat} {x : Smp} {v run : Nat} (h : Keeps s₀ s) : Keeps s₀ (badNode s d x v run) := h.flag.log.endSample

protected theorem Keeps.askNodes {d : Nat} {a : Adj} {x : Smp} {nodes : List Nat} (h : Keeps s₀ s) : Keeps s₀ (askNodes d a x nodes s) :=
  h.foldl fun ht => ht.foldl fun hu => hu.request

protected theorem Keeps.serveNodes {d : Nat} {a : Adj} {todo done : List (Nat × Bool × Option (List Edge))} {x : Smp} (h : Keeps s₀ s) :
    Keeps s₀ (serveNodes d a todo done s x).1 := by
  induction todo generalizing done s with
  | nil => exact h
  | cons p t ih =>
    obtain ⟨v, asked, found⟩ := p
    match asked, found with
    | _, some es => simp only [serveNodes]; exact ih h
    | true, none => exact ih h
    | false, none =>
      simp only [serveNodes]
      split
      · split
        · exact ih h
        · split
          · exact h.violateAddr.endSample
          · exact ih h
      · split
        · exact h
        · next e => exact (h.nodeEdges.of_eq e rfl).endSample
        · next e => exact (h.nodeEdges.of_eq e rfl).endSample
        · next e => exact (h.nodeEdges.of_eq e rfl).badNode
        · next e => exact ih (h.nodeEdges.of_eq e rfl).count

protected theorem Keeps.advanceSample {d fuel : Nat} {x : Smp} (h : Keeps s₀ s) : Keeps s₀ (advanceSample d fuel s x) := by
  induction fuel generalizing s x with
  | zero => exact h.putSample
  | succ fuel ih =>
    rw [advanceSample]
    refine .ite h.putSample ?_
    dsimp only
    split
    · next e => exact h.serveNodes.of_eq (g := Prod.fst) e rfl
    · next s1 y e =>
      have h1 : Keeps s₀ s1 := h.serveNodes.of_eq (g := Prod.fst) e rfl
      have h2 (l : List Nat) : Keeps s₀ (askNodes d (adjOf x.adj) y l s1) := h1.askNodes
      exact .ite (h2 _).putSample (.ite (h2 _).flag.logFree.endSample (.ite (h2 _).putSample (ih (h2 _))))

protected theorem Keeps.sampleFrozen {d : Nat} {x : Smp} {code g : Nat} (h : Keeps s₀ s) : Keeps s₀ (sampleFrozen s d x code g) :=
  h.violateAddr.endSample

protected theorem Keeps.readFeature {d : Nat} {x : Smp} (h : Keeps s₀ s) : KeepsIn s₀ (readFeature s d x).left := by
  unfold readFeature
  dsimp only
  split
  · exact .some h
  · split
    · exact h.localRead
    · split
      · exact .some h.violateAddr
      · exact .some h.request

protected theorem Keeps.beginSample {d : Nat} {x : Smp} {topo : Nat} {adj feat : List Byte} (h : Keeps s₀ s) :
    Keeps s₀ (beginSample d x topo adj feat s) := by
  unfold beginSample
  dsimp only
  exact h.putSample.count.advanceSample

protected theorem Keeps.startSample {d : Nat} {x : Smp} (h : Keeps s₀ s) : Keeps s₀ (startSample d x s) := by
  unfold startSample
  dsimp only
  split
  · exact h
  · rename_i e
    exact (h.localRead.of_eq e rfl).endSample
  · rename_i t1 e
    have h1 : Keeps s₀ t1 := h.localRead.of_eq e rfl
    refine .ite h1.endSample (.ite h1.endSample ?_)
    split
    · exact h1.sampleFrozen
    · refine .ite h ?_
      split
      · exact h
      · rename_i e2
        exact (h1.readFeature.of_eq e2 rfl).endSample
      · rename_i t2 e2
        have h2 : Keeps s₀ t2 := h1.readFeature.of_eq e2 rfl
        exact .ite h2.touch.endSample h2.touch.beginSample

protected theorem Keeps.sampleStart {d : Nat} (h : Keeps s₀ s) : Keeps s₀ (sampleStart d s) := by
  unfold sampleStart
  refine .ite h ?_
  split
  · exact .ite h.endSample h.startSample
  · exact h

protected theorem Keeps.dropDr {d : Nat} (h : Keeps s₀ s) : Keeps s₀ (s.dropDr d) := h.setDrover

protected theorem Keeps.sampleCmd {d : Nat} (h : Keeps s₀ s) : Keeps s₀ (sampleCmd d s) := by
  unfold sampleCmd
  dsimp only
  split
  · exact h
  · refine .ite h.dropDr.frozenCommand.complete ?_
    split
    · exact h
    · rename_i e1
      exact (h.dropDr.localRead.of_eq e1 rfl).complete
    · rename_i t1 e1
      have h1 : Keeps s₀ t1 := h.dropDr.localRead.of_eq e1 rfl
      refine .ite h1.complete ?_
      split
      · exact h
      · rename_i e2
        exact (h1.localRead.of_eq e2 rfl).complete
      · rename_i t2 e2
        have h2 : Keeps s₀ t2 := h1.localRead.of_eq e2 rfl
        refine .ite h2.complete (.ite h2.complete ?_)
        split
        · exact h
        · rename_i e3
          exact (h2.localRead.of_eq e3 rfl).complete
        · rename_i t3 e3
          have h3 : Keeps s₀ t3 := h2.localRead.of_eq e3 rfl
          exact .ite h3.complete (.ite h3.complete (.ite h3.setDrover.startSample h3.setDrover))

protected theorem Keeps.sampleComplete {d : Nat} (h : Keeps s₀ s) : Keeps s₀ (sampleComplete d s) := by
  unfold sampleComplete
  extract_lets s1
  have h1 : Keeps s₀ s1 := by
    unfold s1
    split
    · exact .ite h h.advanceSample
    · exact h
  split
  · exact h1
  · next x _ =>
    extract_lets a b k s2 _ s3
    have h2 : Keeps s₀ s2 := h1.writeMem.setReg.wide
    have h3 : Keeps s₀ s3 := by
      unfold s3
      split
      · exact h2.setDrover
      · exact h2
    exact .ite h1.flag.logFree.endSample h3.endSample

protected theorem Keeps.topoSwitch {d : Nat} (h : Keeps s₀ s) : Keeps s₀ (topoSwitch d s) := by
  unfold topoSwitch
  dsimp only
  split
  · exact h
  · exact .ite h.dropDr.frozenCommand.complete (.ite h.dropDr.flag.logFree.complete h.dropDr.setDrover.setTopo.complete)

protected theorem Keeps.sampleTimeout {d serial : Nat} (h : Keeps s₀ s) : Keeps s₀ (sampleTimeout d serial s) := by
  unfold sampleTimeout
  dsimp only
  split
  · exact .ite h (h.update (by rfl)).flag.log.endSample
  · exact h

protected theorem Keeps.drHalt {d : Nat} (h : Keeps s₀ s) : Keeps s₀ (drHalt d s) := h.setDrover

protected theorem Keeps.drResume {d : Nat} (h : Keeps s₀ s) : Keeps s₀ (drResume d s) := by
  unfold drResume
  refine h.setDrover.foldl fun ht => ?_
  split
  · exact ht.advanceSample
  · exact ht

protected theorem Keeps.clearRoads {d : Nat} (h : Keeps s₀ s) : Keeps s₀ (clearRoads d s) := h.foldl fun ht => ht.setReg

protected theorem Keeps.drAbort {d : Nat} (h : Keeps s₀ s) : Keeps s₀ (drAbort d s) :=
  .clearRoads (.setDrover (h.foldl fun ht => ht.endSample))

protected theorem Keeps.drClear {d : Nat} (h : Keeps s₀ s) : Keeps s₀ (drClear d s) := h.foldl fun ht => ht.clearCount

protected theorem Keeps.drFence {step d : Nat} (h : Keeps s₀ s) : Keeps s₀ (drFence step d s) :=
  .setTopo (.setFld (.setDrover (h.foldl fun ht => .ite ht.setReg ht)))

protected theorem Keeps.checkDone {fold : Nat} (h : Keeps s₀ s) : Keeps s₀ (checkDone fold s) := h.foldl fun ht => .ite ht.onCore ht

protected theorem Keeps.discardRow {d id : Nat} (h : Keeps s₀ s) : Keeps s₀ (discardRow s d id) := by
  unfold discardRow
  dsimp only
  split
  · exact h.setDrover.count.checkDone
  · exact h.setDrover.count

protected theorem Keeps.markRow {d id v : Nat} (h : Keeps s₀ s) : Keeps s₀ (markRow s d id v) := h.setDrover

protected theorem Keeps.rowChecked {d : Nat} {r : PfRow} {ver : Nat} (h : Keeps s₀ s) : Keeps s₀ (rowChecked s d r ver) :=
  .ite h.markRow.checkDone h.discardRow

protected theorem Keeps.askVersion {d : Nat} {r : PfRow} {t' : Table} {home : Nat} {e : DirEnt} (h : Keeps s₀ s) :
    Keeps s₀ (askVersion s d r t' home e) :=
  .ite h.markRow (.ite h.violateAddr.discardRow h.markRow.request)

protected theorem Keeps.readRanges {m : Mst} {t' : Table} (h : Keeps s₀ s) : KeepsIn s₀ (readRanges m t' s).left := by
  unfold readRanges
  split
  · exact h.localRead
  · exact .some h

protected theorem Keeps.rowCheck {d id : Nat} (h : Keeps s₀ s) : Keeps s₀ (rowCheck d id s) := by
  unfold rowCheck
  dsimp only
  split
  · exact h
  · refine .ite h ?_
    split
    · exact (h.update (by rfl)).sramReport.discardRow
    · split
      · exact h
      · rename_i e2
        exact (h.readRanges.of_eq e2 rfl).discardRow
      · rename_i t1 e2
        have h1 : Keeps s₀ t1 := h.readRanges.of_eq e2 rfl
        split
        · exact h1.discardRow
        · refine .ite (.ite h1.violateAddr.discardRow h1.askVersion) ?_
          split
          · exact h1
          · rename_i e4
            exact (h1.localRead.of_eq e4 rfl).discardRow
          · rename_i t2 e4
            have h2 : Keeps s₀ t2 := h1.localRead.of_eq e4 rfl
            exact .ite h2.discardRow (.ite h2.rowChecked h2.askVersion)

/-! ### Prefetches of a Drover -/

protected theorem Keeps.putFeed {d : Nat} {f : Feed} (h : Keeps s₀ s) : Keeps s₀ (putFeed s d f) := h.setDrover

protected theorem Keeps.endFeed {d : Nat} (h : Keeps s₀ s) : Keeps s₀ (endFeed s d) := h.setDrover

protected theorem Keeps.keepRow {d : Nat} {f : Feed} {t' : Table} {e : DirEnt} {b : List Byte} (h : Keeps s₀ s) :
    Keeps s₀ (keepRow s d f t' e b) :=
  .ite h.endFeed.count h.setDrover.putFeed.wide

protected theorem Keeps.learnEntry {t' : Table} {row entry : Nat} (h : Keeps s₀ s) : Keeps s₀ (learnEntry s t' row entry).2 := by
  unfold learnEntry
  split
  · exact h
  · exact h.writeMem

protected theorem Keeps.feedRow {d : Nat} {t' : Table} {e : DirEnt} {f : Feed} (h : Keeps s₀ s) : Keeps s₀ (feedRow d t' e s f) := by
  unfold feedRow
  dsimp only
  refine .ite h.putFeed (.ite h.violateAddr.endFeed (.ite h.violateAddr.endFeed (.ite (.ite h ?_) h.request.putFeed)))
  split
  · rename_i a2 e1
    have h1 : Keeps s₀ a2 := h.nsrRow.of_eq e1 rfl
    exact .ite h1.putFeed h1.keepRow
  · rename_i e1
    exact (h.nsrRow.of_eq e1 rfl).learnEntry.putFeed
  · rename_i e1
    exact (h.nsrRow.of_eq e1 rfl).putFeed

protected theorem Keeps.feedStep {d : Nat} (h : Keeps s₀ s) : Keeps s₀ (feedStep d s) := by
  unfold feedStep
  dsimp only
  split
  · exact h
  · refine .ite h ?_
    split
    · exact h.tableFault.endFeed
    · refine .ite h.flag.endFeed ?_
      split
      · exact h.endFeed
      · split
        · refine .ite h.learnEntry.putFeed (.ite h.putFeed ?_)
          split
          · exact h.putFeed
          · exact .ite h.keepRow h.putFeed
        · refine .ite h.putFeed ?_
          split
          · exact .ite h.feedRow (.ite h.violateAddr.endFeed h.request.putFeed)
          · split
            · exact h
            · rename_i e5
              exact (h.readRanges.of_eq e5 rfl).endFeed
            · rename_i t2 e5
              have h1 : Keeps s₀ t2 := h.readRanges.of_eq e5 rfl
              split
              · exact h1.putFeed
              · refine .ite h1.violateAddr.endFeed (.ite h1.request.putFeed ?_)
                split
                · exact h1
                · rename_i e7
                  exact (h1.localRead.of_eq e7 rfl).endFeed
                · rename_i t3 e7
                  have h2 : Keeps s₀ t3 := h1.localRead.of_eq e7 rfl
                  exact .ite h2.putFeed h2.putFeed

protected theorem Keeps.prefetch {d n : Nat} (h : Keeps s₀ s) : Keeps s₀ (prefetch d n s) := by
  induction n generalizing s with
  | zero => exact h
  | succ n ih => exact ih h.feedStep

protected theorem Keeps.serveSample {v step hop ver : Nat} {entry : List Byte} (h : Keeps s₀ s) :
    KeepsIn s₀ ((serveSample s v step hop ver entry).map (·.2.2.2)) := by
  unfold serveSample
  extract_lets d
  split
  · exact .none
  · split
    · exact .some h.flag
    · next tp _ =>
      extract_lets a r
      have h0 := h.touch (l := [(tp, 64), (a.ranges, 16 * a.rangeCount)])
      generalize s.touch _ = q at h0 ⊢
      obtain ⟨ue, s0⟩ := q
      dsimp only at h0 ⊢
      split
      · exact .none
      · split
        · exact .some h0
        · split
          · exact .none
          · next e1 => exact .some (h0.nodeEdges.of_eq e1 rfl)
          · next e1 => exact .some (h0.nodeEdges.of_eq e1 rfl)
          · next e1 => exact .some (h0.nodeEdges.of_eq e1 rfl).flag.log
          · next e1 => exact .some (h0.nodeEdges.of_eq e1 rfl).count.wide

protected theorem Keeps.serveAll {step hop ver : Nat} {entry : List Byte} {l : List Nat} (h : Keeps s₀ s) :
    KeepsIn s₀ ((serveAll step hop ver entry l s).map (·.2.2.2)) := by
  induction l generalizing s with
  | nil => exact .some h
  | cons v t ih =>
    rw [serveAll]
    split
    · exact .none
    · next s1 e =>
      have h1 : Keeps s₀ s1 := h.serveSample.of_eq e rfl
      split
      · exact .some h1
      · rw [Option.map_map]; exact ih h1

protected theorem Keeps.sampleAnswered {d serial status : Nat} {args : List Nat} (h : Keeps s₀ s) :
    Keeps s₀ (sampleAnswered s d serial status args) := by
  unfold sampleAnswered
  split
  · exact h
  · exact .ite h.endSample (.ite h.endSample (.ite h.endSample (.ite h.flag.logFree.endSample h.advanceSample)))

protected theorem Keeps.checkAnswered {d id status : Nat} {args : List Nat} (h : Keeps s₀ s) :
    Keeps s₀ (checkAnswered s d id status args) := by
  unfold checkAnswered
  dsimp only
  split
  · exact h
  · exact .ite h.rowChecked (.ite h.learnEntry.askVersion h.discardRow)

protected theorem Keeps.feedAnswered {d serial status : Nat} {args : List Nat} {b : List Byte} (h : Keeps s₀ s) :
    Keeps s₀ (feedAnswered s d serial status args b) := by
  unfold feedAnswered
  split
  · exact h
  · exact .ite h.putFeed h

protected theorem Keeps.featureAnswered {d serial status : Nat} {b : List Byte} (h : Keeps s₀ s) :
    Keeps s₀ (featureAnswered s d serial status b) := by
  unfold featureAnswered
  dsimp only
  split
  · exact .ite h.endSample h.putSample
  · exact h.setDrover

/-! ### Transhumance engines -/

protected theorem Keeps.setOwner {a w : Nat} (h : Keeps s₀ s) : Keeps s₀ (setOwner s a w) := by
  unfold setOwner
  split
  · exact h.writeMem
  · exact h

protected theorem Keeps.putMig {n : Nat} {m : Mig} (h : Keeps s₀ s) : Keeps s₀ (s.putMig n m) := h.setTrh

protected theorem Keeps.dropMig {n : Nat} {m : Mig} (h : Keeps s₀ s) : Keeps s₀ (s.dropMig n m) := h.setTrh

protected theorem Keeps.abandonNote {n table row dev : Nat} (h : Keeps s₀ s) : Keeps s₀ (abandonNote s n table row dev) := h.flag.log

protected theorem Keeps.abandon' {n : Nat} {m : Mig} (h : Keeps s₀ s) : Keeps s₀ (abandon n s m) :=
  .abandonNote (.dropMig (.ite h.setOwner h))

protected theorem Keeps.readSlot {n : Nat} {m : Mig} (h : Keeps s₀ s) : KeepsIn s₀ (readSlot n m s).left := h.localRead

protected theorem Keeps.sendCopies {n id dev a : Nat} {ps : List (List Byte)} (h : Keeps s₀ s) :
    Keeps s₀ (sendCopies n id dev a s ps) :=
  Keeps.foldl_of Prod.snd h fun ht => ht.request

protected theorem Keeps.copyAway {n again : Nat} {m : Mig} (h : Keeps s₀ s) : Keeps s₀ (copyAway n again s m) := by
  unfold copyAway
  dsimp only
  split
  · exact h
  · rename_i e
    exact h.readSlot.of_eq e rfl
  · rename_i t1 e
    have h1 : Keeps s₀ t1 := h.readSlot.of_eq e rfl
    exact .ite h1.abandon' (.ite h1.violateAddr h1.putMig.sendCopies.wide)

protected theorem Keeps.startMig {n : Nat} {tb : Table} {row : Nat} {e : DirEnt} {dev pas cls : Nat} {re : Bool} (h : Keeps s₀ s) :
    Keeps s₀ (startMig n tb row e dev pas cls re s) := by
  unfold startMig
  extract_lets k need mk put
  have hput {t : State} {m : Mig} (ht : Keeps s₀ t) : Keeps s₀ (put t m) := ht.setTrh
  split
  · refine .pair (fun _ _ _ => rfl) h.touch fun h1 => .option (fun _ _ => rfl) (fun _ _ _ => rfl) h1.abandonNote fun _ => ?_
    generalize moveBad _ _ _ _ _ _ _ = bad
    rcases bad with _ | ⟨code, kind, g⟩
    · exact hput h1.setOwner
    · exact h1.violateAddr
  · refine .pair (fun _ _ _ => rfl) h.drawBool fun h1 => .pair (fun _ _ _ => rfl) h1.drawWord fun h2 => .ite h2.abandonNote ?_
    generalize moveBad _ _ _ _ _ _ _ = bad
    rcases bad with _ | ⟨code, kind, g⟩
    · exact (hput h2).copyAway
    · exact h2.violateAddr

protected theorem Keeps.homedRow {n table row : Nat} (h : Keeps s₀ s) : KeepsIn s₀ (homedRow s n table row).left := by
  unfold homedRow
  dsimp only
  split
  · exact .some h
  · split
    · exact .none
    · split
      · exact .some h.touch
      · split
        · exact .some h.touch
        · split
          · exact .some h.touch
          · split
            · exact .some h.touch
            · split
              · exact .none
              · rename_i e2
                exact .some (h.touch.localRead.of_eq e2 rfl)
              · rename_i t2 e2
                have h1 : Keeps s₀ t2 := h.touch.localRead.of_eq e2 rfl
                split
                · exact .some h1
                · split <;> exact .some h1

protected theorem Keeps.badEntry (h : Keeps s₀ s) : Keeps s₀ (badEntry s).2 := h

protected theorem Keeps.migrateOne {n : Nat} {p : Nat × State} {a : List Nat} (h : Keeps s₀ p.2) : Keeps s₀ (migrateOne n p a).2 := by
  unfold migrateOne
  extract_lets s dev pas
  split
  · exact h
  · split
    · exact h
    · next e => exact KeepsIn.of_eq (Keeps.homedRow h) e rfl
    · next e => exact (KeepsIn.of_eq (Keeps.homedRow h) e rfl).badEntry
    · next s1 e =>
      have h1 : Keeps s₀ s1 := KeepsIn.of_eq (Keeps.homedRow h) e rfl
      split
      · exact h1.badEntry
      · split
        · exact h1
        · split
          · exact h1.touch
          · exact h1.startMig

protected theorem Keeps.beginReclass {n : Nat} (h : Keeps s₀ s) : Keeps s₀ (beginReclass n s) := by
  unfold beginReclass
  refine .ite h (h.foldl fun ht => ?_)
  dsimp only
  split
  · exact ht
  · rename_i e
    exact ht.homedRow.of_eq e rfl
  · rename_i e
    exact (ht.homedRow.of_eq e rfl).setTrh
  · rename_i s1 e1
    have h1 : Keeps s₀ s1 := ht.homedRow.of_eq e1 rfl
    exact .ite h1 h1.setTrh.startMig

protected theorem Keeps.reclassOne {n : Nat} {p : Nat × State} {a : List Nat} (h : Keeps s₀ p.2) : Keeps s₀ (reclassOne n p a).2 := by
  unfold reclassOne
  extract_lets s
  split
  · exact h
  · split
    · exact h
    · next e => exact KeepsIn.of_eq (Keeps.homedRow h) e rfl
    · next e => exact (KeepsIn.of_eq (Keeps.homedRow h) e rfl).badEntry
    · next s1 e =>
      have h1 : Keeps s₀ s1 := KeepsIn.of_eq (Keeps.homedRow h) e rfl
      extract_lets c
      split
      · exact h1.badEntry
      · exact h1.setTrh

protected theorem Keeps.listCmd {code n : Nat} {one : Nat → Nat × State → List Nat → Nat × State} (h : Keeps s₀ s)
    (hone : ∀ {p a}, Keeps s₀ p.2 → Keeps s₀ (one n p a).2) : Keeps s₀ (listCmd code n one s) := by
  unfold listCmd
  split
  · exact h
  · extract_lets k s0 a len
    have h0 : Keeps s₀ s0 := h.setTrh
    refine .ite h0.frozenCommand.complete ?_
    split
    · exact h
    · next e => exact (h0.localRead.of_eq e rfl).complete
    · next s1 e =>
      have h1 : Keeps s₀ s1 := h0.localRead.of_eq e rfl
      exact .ite h1.complete (.pair (fun _ _ _ => rfl) (Keeps.foldl_of Prod.snd h1 hone) fun h2 =>
        .ite h h2.beginReclass.setTrh.complete)

protected theorem Keeps.migrateCmd {n : Nat} (h : Keeps s₀ s) : Keeps s₀ (migrateCmd n s) := h.listCmd fun hp => Keeps.migrateOne hp

protected theorem Keeps.reclassCmd {n : Nat} (h : Keeps s₀ s) : Keeps s₀ (reclassCmd n s) := h.listCmd fun hp => Keeps.reclassOne hp

protected theorem Keeps.copyDone {n id : Nat} (h : Keeps s₀ s) : Keeps s₀ (copyDone n id s) := by
  unfold copyDone
  dsimp only
  split
  · exact h
  · refine .ite h (.ite ?_ (.ite h.copyAway (.ite h.copyAway h.putMig)))
    split
    · exact h
    · rename_i e1
      exact h.readSlot.of_eq e1 rfl
    · rename_i t1 e1
      have h1 : Keeps s₀ t1 := h.readSlot.of_eq e1 rfl
      refine .ite h1.abandon' ?_
      split
      · exact h
      · rename_i e2
        exact h1.localStore.of_eq e2 rfl
      · rename_i t2 e2
        have h2 : Keeps s₀ t2 := h1.localStore.of_eq e2 rfl
        exact .ite h2.abandon' h2.putMig.wide

protected theorem Keeps.copyAnswered {n id status : Nat} (h : Keeps s₀ s) : Keeps s₀ (copyAnswered s n id status) := by
  unfold copyAnswered
  split
  · exact h
  · exact .ite h.putMig h.abandon'

protected theorem Keeps.copyTimeout {n id : Nat} (h : Keeps s₀ s) : Keeps s₀ (copyTimeout n id s) := by
  unfold copyTimeout
  split
  · exact h
  · exact .ite h.abandon' h

protected theorem Keeps.notify {home table row entry : Nat} (h : Keeps s₀ s) : Keeps s₀ (notify s home table row entry) :=
  h.foldl fun ht => ht.send

protected theorem Keeps.noteRecent {n table row : Nat} (h : Keeps s₀ s) : Keeps s₀ (noteRecent n table row s) := h.setTrh

protected theorem Keeps.commitOne {n : Nat} {m : Mig} (h : Keeps s₀ s) : Keeps s₀ (commitOne n s m) := by
  unfold commitOne
  extract_lets p tb
  split
  · exact h
  · split
    · exact h.putMig
    · next e => exact (h.touch.localRead.of_eq e rfl).putMig
    · next s1 e =>
      have h1 : Keeps s₀ s1 := h.touch.localRead.of_eq e rfl
      refine .ite h1.putMig (.ite h1.flag.putMig ?_)
      extract_lets w
      split
      · exact h.putMig
      · next e => exact (h1.localStore.of_eq e rfl).putMig
      · next s2 e =>
        have h2 : Keeps s₀ s2 := h1.localStore.of_eq e rfl
        extract_lets _ s3 s4 s5 s6
        have h4 : Keeps s₀ s4 := h2.setNsr.dropMig.noteRecent
        have h6 : Keeps s₀ s6 := .wide (.ite h4.noteRecent h4)
        exact .ite h2.putMig (.ite h6 h6.notify)

protected theorem Keeps.commitAll {n : Nat} (h : Keeps s₀ s) : Keeps s₀ (commitAll n s) := .ite h (h.foldl fun ht => ht.commitOne)

protected theorem Keeps.selectRows {n dev pas excess moved : Nat} {l : List (Pop × Nat × Nat)} (h : Keeps s₀ s) :
    Keeps s₀ (selectRows n dev pas excess l moved s) := by
  induction l generalizing moved s with
  | nil => exact h
  | cons c t ih =>
    rw [selectRows]
    refine .ite h (.ite (ih h) ?_)
    split
    · exact ih h
    · next e => exact ih (h.homedRow.of_eq e rfl)
    · next e => exact ih (h.homedRow.of_eq e rfl)
    · next s1 e =>
      have h1 : Keeps s₀ s1 := h.homedRow.of_eq e rfl
      exact .ite (ih h1) (ih h1.startMig)

protected theorem Keeps.promote {n : Nat} (h : Keeps s₀ s) : Keeps s₀ (promote n s) := by
  unfold promote
  refine .ite (h.foldl fun ht => ?_) h
  dsimp only
  split
  · exact ht
  · rename_i e
    exact ht.homedRow.of_eq e rfl
  · rename_i e
    exact ht.homedRow.of_eq e rfl
  · rename_i s1 e1
    have h1 : Keeps s₀ s1 := ht.homedRow.of_eq e1 rfl
    exact .ite h1.setTrh h1

protected theorem Keeps.stubFence {p : Nat} (h : Keeps s₀ s) : Keeps s₀ (stubFence s p) := h.setNsr.foldl fun ht => ht.setOwner

protected theorem Keeps.trhFence {step n : Nat} (h : Keeps s₀ s) : Keeps s₀ (trhFence step n s) := by
  unfold trhFence
  refine .ite h ?_
  extract_lets k waiting k1 s1 s2 reads s3 s4 s5
  have h2 : Keeps s₀ s2 := h.setTrh.count.foldl fun ht => ht.send
  have h3 : Keeps s₀ s3 := .ite h2.touch h2
  have h4 : Keeps s₀ s4 := .ite h3.promote.setReg h3
  have h5 : Keeps s₀ s5 := h4.beginReclass
  refine .ite ?_ h5
  split
  · exact h5
  · exact h5.selectRows

protected theorem Keeps.loadReport {dev load : Nat} (h : Keeps s₀ s) : Keeps s₀ (loadReport s dev load) :=
  h.foldl fun ht => .ite ht.setTrh ht

protected theorem Keeps.noticeIn {table row entry : Nat} (h : Keeps s₀ s) : Keeps s₀ (noticeIn s table row entry) := by
  unfold noticeIn
  dsimp only
  split
  · exact .ite (.ite h.touch.learnEntry.setOwner.noteRecent h.touch.learnEntry) h.touch
  · exact h.touch

protected theorem Keeps.trHalt {n : Nat} (h : Keeps s₀ s) : Keeps s₀ (trHalt n s) := h.setTrh

protected theorem Keeps.trResume {n : Nat} (h : Keeps s₀ s) : Keeps s₀ (trResume n s) := h.setTrh

protected theorem Keeps.trAbort {n : Nat} (h : Keeps s₀ s) : Keeps s₀ (trAbort n s) := .setTrh (h.foldl fun ht => ht.abandon')

protected theorem Keeps.trClear {n : Nat} (h : Keeps s₀ s) : Keeps s₀ (trClear n s) := h.clearCount

protected theorem Keeps.embClear (h : Keeps s₀ s) : Keeps s₀ (embClear s) := h.foldl fun ht => ht.clearCount.clearCount

protected theorem Keeps.clearPop {p : Nat} (h : Keeps s₀ s) : Keeps s₀ (clearPop p s) := h.setNsr

/-! ### Collective engines, Roll call and the step fence -/

protected theorem Keeps.dropHead {n : Nat} (h : Keeps s₀ s) : Keeps s₀ (dropHead n s) := h.setEngine

protected theorem Keeps.engRead {n a m : Nat} (h : Keeps s₀ s) : KeepsIn s₀ (engRead n a m s).left := by
  unfold engRead
  split
  · exact .some h
  · split
    · exact .some h.violateAddr
    · exact h.localRead

protected theorem Keeps.engWrite {n a : Nat} {bs : List Byte} (h : Keeps s₀ s) : KeepsIn s₀ (engWrite n a bs s).left := by
  unfold engWrite
  split
  · exact .some h
  · split
    · exact .some h.violateAddr
    · exact h.localStore

protected theorem Keeps.engReads {n : Nat} {l : List (Nat × Nat)} (h : Keeps s₀ s) : KeepsIn s₀ (engReads n l s).left := by
  induction l generalizing s with
  | nil => exact .some h
  | cons p t ih =>
    rw [engReads]
    split
    · next s1 e =>
      have h1 : Keeps s₀ s1 := h.engRead.of_eq e rfl
      split
      · next e2 => exact .some ((ih h1).of_eq e2 rfl)
      · exact .none
      · next e2 => exact .some ((ih h1).of_eq e2 rfl)
    · exact .none
    · next e => exact .some (h.engRead.of_eq e rfl)

protected theorem Keeps.engWrites {n : Nat} {l : List (Nat × List Byte)} (h : Keeps s₀ s) : KeepsIn s₀ (engWrites n l s).left := by
  induction l generalizing s with
  | nil => exact .some h
  | cons p t ih =>
    rw [engWrites]
    split
    · next s1 e =>
      have h1 : Keeps s₀ s1 := h.engWrite.of_eq e rfl
      split
      · next e2 => exact .some ((ih h1).of_eq e2 rfl)
      · exact .none
      · next e2 => exact .some ((ih h1).of_eq e2 rfl)
    · exact .none
    · next e => exact .some (h.engWrite.of_eq e rfl)

protected theorem Keeps.readGroup {n g : Nat} (h : Keeps s₀ s) : KeepsIn s₀ (readGroup n g s).left := by
  unfold readGroup
  split
  · exact .some h
  · split
    · rename_i a2 e
      have h1 : Keeps s₀ a2 := h.engRead.of_eq e rfl
      split
      · exact .some h1
      · split
        · rename_i e1
          exact .some (h1.engRead.of_eq e1 rfl)
        · exact .none
        · rename_i e1
          exact .some (h1.engRead.of_eq e1 rfl)
    · exact .none
    · rename_i e
      exact .some (h.engRead.of_eq e rfl)

protected theorem Keeps.stageBytes {n : Nat} {b : List Byte} (h : Keeps s₀ s) : Keeps s₀ (stageBytes n b s) := by
  unfold stageBytes
  dsimp only
  exact h.drawWord.setBytes

protected theorem Keeps.keepMsg {m : CollMsg} (h : Keeps s₀ s) : Keeps s₀ (keepMsg s m) := h.update (by rfl)

protected theorem Keeps.sendMsg {n : Nat} {x : Coll} {pars : List Nat} {flag : Bool} {rb : Nat × List Byte} (h : Keeps s₀ s) :
    Keeps s₀ (sendMsg n x pars flag s rb) :=
  h.foldl fun ht => .ite ht.stageBytes.keepMsg ht.stageBytes.send.wide

protected theorem Keeps.putColl {n : Nat} {x : Coll} (h : Keeps s₀ s) : Keeps s₀ (putColl s n x) := h.setEngine

protected theorem Keeps.callMember {x : Coll} {r : Nat} (h : Keeps s₀ s) : Keeps s₀ (callMember x s r) := .ite (h.update (by rfl)) h.send

protected theorem Keeps.sendRound {n : Nat} {x : Coll} (h : Keeps s₀ s) : KeepsIn s₀ (sendRound n s x).left := by
  unfold sendRound
  dsimp only
  split
  · exact .none
  · rename_i e
    exact .some (h.engReads.of_eq e rfl)
  · rename_i e
    exact .some (.foldl ((h.engReads.of_eq e rfl).foldl fun ht => ht.sendMsg) fun ht => ht.callMember)

protected theorem Keeps.acceptColl {n : Nat} {m : Cmd} {g : Nat} {ranks : List Nat} {me : Nat} {moves : List (List Move)} (h : Keeps s₀ s) :
    Keeps s₀ (acceptColl s n m g ranks me moves).2 :=
  h.setEngine

protected theorem Keeps.forgetColl {g seq : Nat} (h : Keeps s₀ s) : Keeps s₀ (forgetColl g seq s) := h.update (by rfl)

protected theorem Keeps.endColl {n : Nat} {x : Coll} {status detail : Nat} (h : Keeps s₀ s) : Keeps s₀ (endColl n x status detail s) :=
  h.setEngine.forgetColl.complete

protected theorem Keeps.readMoves {n : Nat} {p : CollPar} (h : Keeps s₀ s) : KeepsIn s₀ (readMoves n p s).left := h.engRead

protected theorem Keeps.refuseColl {n : Nat} {m : Cmd} {status detail : Nat} (h : Keeps s₀ s) : Keeps s₀ (refuseColl n m status detail s) :=
  .complete (.ite h.dropHead.setEngine h.dropHead.setEngine.forgetColl)

protected theorem Keeps.collGo {code n : Nat} {m : Cmd} {p : CollPar} {ranks : List Nat} {me : Nat} (h : Keeps s₀ s) :
    KeepsIn s₀ (collGo code n m p ranks me s) := by
  unfold collGo
  dsimp only
  split
  · exact .some (.endColl (h.acceptColl.foldl fun ht => ht.sendMsg))
  · split
    · split
      · exact .none
      · rename_i e1
        exact .some ((h.readMoves.of_eq e1 rfl).refuseColl)
      · rename_i t1 e1
        have h1 : Keeps s₀ t1 := h.readMoves.of_eq e1 rfl
        split
        · exact .some h1.refuseColl
        · split
          · exact .none
          · rename_i e2
            exact .some ((h1.acceptColl.sendRound.of_eq e2 rfl).endColl)
          · rename_i t2 e2
            have h2 : Keeps s₀ t2 := h1.acceptColl.sendRound.of_eq e2 rfl
            exact .some (.ite h2.endColl h2)
    · split
      · exact .none
      · rename_i e
        exact .some ((h.engReads.of_eq e rfl).refuseColl)
      · rename_i t1 e
        have h1 : Keeps s₀ t1 := h.engReads.of_eq e rfl
        split
        · exact .some h1.refuseColl
        · exact .some (h1.acceptColl.foldl fun ht => ht.sendMsg)

protected theorem Keeps.collStart {code n : Nat} (h : Keeps s₀ s) : Keeps s₀ (collStart code n s) := by
  unfold collStart
  split
  · exact h
  · extract_lets p
    refine .ite h.frozenCommand.refuseColl ?_
    split
    · exact h
    · next e => exact (h.readGroup.of_eq e rfl).refuseColl
    · next s1 e =>
      have h1 : Keeps s₀ s1 := h.readGroup.of_eq e rfl
      exact .ite h1.refuseColl (.ite h1.refuseColl (h1.collGo.getD h))

protected theorem Keeps.collData {p : Packet} (h : Keeps s₀ s) : Keeps s₀ (collData s p) := .ite h.wide h.wide.stageBytes.keepMsg

protected theorem Keeps.memberCall {a : List Nat} (h : Keeps s₀ s) : Keeps s₀ (memberCall s a) := .ite h (h.update (by rfl))

protected theorem Keeps.deliver {flag : Bool} {ranks : List Nat} (h : Keeps s₀ s) : Keeps s₀ (deliver flag ranks s) := by
  unfold deliver
  exact .update (.setFld (.foldl (h.foldl fun ht => .ite ht.onCore ht) fun ht => .ite ht.setApplier ht)) (by rfl)

protected theorem Keeps.notifyTally {n v : Nat} (h : Keeps s₀ s) : Keeps s₀ (notifyTally n v s).2.2 := by
  unfold notifyTally
  dsimp only
  split
  · exact h
  · split
    · exact h.tallyAdd
    · exact h.tallyAdd.violateTally

protected theorem Keeps.collDone {n : Nat} {x : Coll} {p : CollPar} (h : Keeps s₀ s) : Keeps s₀ (collDone n x p s) := by
  unfold collDone
  dsimp only
  exact .endColl (.notifyTally (.ite h.deliver h))

protected theorem Keeps.permuteOn {n fuel : Nat} {p : CollPar} {x : Coll} (h : Keeps s₀ s) : Keeps s₀ (permuteOn n p fuel s x) := by
  induction fuel generalizing s x with
  | zero => exact h
  | succ fuel ih =>
    rw [permuteOn]
    split
    · exact h
    · dsimp only
      split
      · exact h
      · next e => exact (h.engWrites.of_eq e rfl).endColl
      · next s1 e =>
        have h1 : Keeps s₀ s1 := h.engWrites.of_eq e rfl
        refine .ite h1.endColl (.ite h1.collDone ?_)
        split
        · exact h
        · next e2 => exact (h1.putColl.sendRound.of_eq e2 rfl).endColl
        · next s3 e2 =>
          have h3 : Keeps s₀ s3 := h1.putColl.sendRound.of_eq e2 rfl
          exact .ite h3.endColl (ih h3)

protected theorem Keeps.collComplete {n i : Nat} (h : Keeps s₀ s) : Keeps s₀ (collComplete n i s) := by
  unfold collComplete
  extract_lets k
  refine .ite h ?_
  split
  · exact h
  · next x _ =>
    extract_lets p
    refine .ite h.flag.logFree.endColl (.ite h.permuteOn ?_)
    split
    · exact h
    · split
      next out bad _ =>
      extract_lets s0
      have h0 : Keeps s₀ s0 := .ite h.setFld h
      split
      · exact h
      · next e => exact (h0.engWrites.of_eq e rfl).endColl
      · next e =>
        have h1 := h0.engWrites.of_eq e rfl
        exact .ite h1.endColl h1.collDone

protected theorem Keeps.collTimeout {n i : Nat} (h : Keeps s₀ s) : Keeps s₀ (collTimeout n i s) := by
  unfold collTimeout
  refine .ite h ?_
  split
  · exact h
  · exact .ite h h.flag.endColl

protected theorem Keeps.stepFence (h : Keeps s₀ s) : Keeps s₀ (stepFence s) := by
  unfold stepFence
  extract_lets step s1 s2 s3 s4 s5 s6 s7
  have h2 : Keeps s₀ s2 := h.wide.wide.setReg.foldl fun ht => .ite ht.onCore ht
  have h3 : Keeps s₀ s3 := h2.foldl fun ht => ht.popSnapshot.stubFence
  have h4 : Keeps s₀ s4 := h3.foldl fun ht => ht.drFence
  have h5 : Keeps s₀ s5 := h4.foldl fun ht => ht.trhFence
  have h7 : Keeps s₀ s7 := h5.eventAll.foldl fun ht => .ite ht.onCore ht
  exact h7.recFence

protected theorem Keeps.countArrival {k : Nat} {any all : Bool} {child : Option Nat} (h : Keeps s₀ s) :
    Keeps s₀ (countArrival s k any all child) :=
  (h.setFld.update (by rfl))

protected theorem Keeps.rollPacket {dst kind k : Nat} {any all : Bool} (h : Keeps s₀ s) : Keeps s₀ (rollPacket s dst kind k any all) :=
  h.send

protected theorem Keeps.rollRelease {k : Nat} {any all : Bool} (h : Keeps s₀ s) : Keeps s₀ (rollRelease k any all s) := by
  unfold rollRelease
  extract_lets kids s0 s1 s2 s3 mine _ s4
  have h1 : Keeps s₀ s1 := Keeps.update (s := s0) h.setFld.setFld (by rfl)
  have h2 : Keeps s₀ s2 := h1.foldl fun ht => ht.rollPacket
  have h3 : Keeps s₀ s3 := .ite h2.flag.logFree (.ite h2.stepFence h2)
  have h4 : Keeps s₀ s4 := h3.update (by rfl)
  exact h4.foldl fun ht => ht.complete

protected theorem Keeps.rollCheck {k : Nat} (h : Keeps s₀ s) : Keeps s₀ (rollCheck k s) := .ite h (.ite h.rollRelease h.rollPacket)

protected theorem Keeps.ownArrival {k : Nat} {f : Bool} (h : Keeps s₀ s) : Keeps s₀ (ownArrival s k f) := h.countArrival.rollCheck

protected theorem Keeps.rollRetry (h : Keeps s₀ s) : Keeps s₀ (rollRetry s) := by
  unfold rollRetry
  refine .ite ?_ h
  dsimp only
  split
  · exact h
  · exact (h.update (by rfl)).ownArrival

protected theorem Keeps.rollCmd {n : Nat} (h : Keeps s₀ s) : Keeps s₀ (rollCmd n s) := by
  unfold rollCmd
  split
  · exact h
  · extract_lets s1 s2 k fence s3 _ r s4
    have h2 : Keeps s₀ s2 := h.dropHead.setEngine
    have h3 : Keeps s₀ s3 := h2.setFld
    have h4 : Keeps s₀ s4 := h3.update (by rfl)
    exact .ite h2.frozenCommand.complete (.ite h2.violate.complete (.ite (h4.update (by rfl)) h4.ownArrival))

protected theorem Keeps.childArrival {child k : Nat} {any all : Bool} (h : Keeps s₀ s) : Keeps s₀ (childArrival child k any all s) :=
  .ite h.count.flag.log (.ite h h.countArrival.rollCheck)

protected theorem Keeps.parentRelease {k : Nat} {any all : Bool} (h : Keeps s₀ s) : Keeps s₀ (parentRelease k any all s) :=
  .ite h.rollRelease h

protected theorem Keeps.rollTimeout (h : Keeps s₀ s) : Keeps s₀ (rollTimeout s) := by
  unfold rollTimeout
  dsimp only
  split
  · exact h
  · exact .ite h (h.update (by rfl)).flag.log.msixBoth.complete

protected theorem Keeps.engHalt {n : Nat} (h : Keeps s₀ s) : Keeps s₀ (engHalt n s) := h.setEngine

protected theorem Keeps.engResume {n : Nat} (h : Keeps s₀ s) : Keeps s₀ (engResume n s) := h.setEngine

protected theorem Keeps.rollReset (h : Keeps s₀ s) : Keeps s₀ (rollReset s) := by
  unfold rollReset
  extract_lets s1
  have h1 : Keeps s₀ s1 := h.foldl fun ht => ht.complete
  have h2 := h1.setReg (off := COL_ROLL_STATUS) (w := fset COL_ROLL_STATUS_released 0xFFFF 0)
  exact h2.update (by rfl)

protected theorem Keeps.endWaiting {n : Nat} {m : Cmd} (h : Keeps s₀ s) : Keeps s₀ (endWaiting n s m) := h.refuseColl

protected theorem Keeps.engAbort {n : Nat} (h : Keeps s₀ s) : Keeps s₀ (engAbort n s) := by
  unfold engAbort
  extract_lets s1 s2 _ s3
  have h1 : Keeps s₀ s1 := h.foldl fun ht => ht.endColl
  have h2 : Keeps s₀ s2 := h1.foldl fun ht => ht.endWaiting
  have h3 : Keeps s₀ s3 := h2.setEngine
  exact .ite h3.rollReset h3

protected theorem Keeps.colClear (h : Keeps s₀ s) : Keeps s₀ (colClear s) := h.clearCount

/-! ### The hardware scheduler -/

protected theorem Keeps.openHeld {f : Nat} {l keep : List (Nat × Nat)} (h : Keeps s₀ s) : Keeps s₀ (openHeld f l keep s) := by
  induction l generalizing keep s with
  | nil => exact h.setSched
  | cons p t ih =>
    rw [openHeld]
    exact .ite (ih h.setSched) (ih h)

protected theorem Keeps.ttExpire {f : Nat} (h : Keeps s₀ s) : Keeps s₀ (ttExpire f s) := .ite h h.setSched

protected theorem Keeps.schSettle {f : Nat} (h : Keeps s₀ s) : Keeps s₀ (schSettle f s) := h.ttExpire.openHeld

protected theorem Keeps.postStall {f c : Nat} (h : Keeps s₀ s) : Keeps s₀ (postStall f c s) := .ite h h.setSched.count.flag

protected theorem Keeps.schPost {c : Nat} {w : Word} (h : Keeps s₀ s) : Keeps s₀ (schPost c w s) := by
  unfold schPost
  refine .ite (.ite h.setSched.setReg h.postStall) ?_
  dsimp only
  split
  · exact h.postStall
  · exact h.setSched.setReg

protected theorem Keeps.dispatch {f : Nat} (h : Keeps s₀ s) : Keeps s₀ (dispatch f s) := by
  unfold dispatch
  refine .ite h ?_
  dsimp only
  split
  · exact h
  · exact .ite h.setSched (.ite h.setSched h)

protected theorem Keeps.preempt {f : Nat} (h : Keeps s₀ s) : Keeps s₀ (preempt f s) := by
  unfold preempt
  dsimp only
  split
  · exact .ite h.setSched.wide h
  · exact h

protected theorem Keeps.ackBad {c : Nat} (h : Keeps s₀ s) : Keeps s₀ (ackBad c s) := h.flag

protected theorem Keeps.schTake {c : Nat} (h : Keeps s₀ s) : Keeps s₀ (schTake c s) := by
  unfold schTake
  dsimp only
  split
  · exact .ite h.ackBad h.setSched.wide
  · exact h.ackBad

protected theorem Keeps.schDone {c : Nat} (h : Keeps s₀ s) : Keeps s₀ (schDone c s) := by
  unfold schDone
  dsimp only
  split
  · exact .ite h.setSched.schSettle h.ackBad
  · exact h.ackBad

protected theorem Keeps.schYield {c : Nat} (h : Keeps s₀ s) : Keeps s₀ (schYield c s) := by
  unfold schYield
  dsimp only
  split
  · exact .ite h.setSched h.ackBad
  · exact h.ackBad

protected theorem Keeps.schCancel {c : Nat} {w : Word} (h : Keeps s₀ s) : Keeps s₀ (schCancel c w s) := by
  unfold schCancel
  dsimp only
  split
  · exact h.ttExpire.setSched.setFld
  · exact h.ttExpire.setFld

protected theorem Keeps.schClear {f : Nat} (h : Keeps s₀ s) : Keeps s₀ (schClear f s) := h.clearCount

/-! ### Stacks and SRAM beyond reads and writes -/

protected theorem Keeps.refreshRate {p : Nat} (h : Keeps s₀ s) : Keeps s₀ (refreshRate p s) := .ite h.setFld (.ite h.setFld h)

protected theorem Keeps.refresh {p : Nat} (h : Keeps s₀ s) : Keeps s₀ (refresh p s) := by
  unfold refresh
  refine .ite h ?_
  dsimp only
  exact h.drawWord.setFld.setFld.refreshRate.setBadSyms.setParityErrs

protected theorem Keeps.scrubUe {p atom : Nat} (h : Keeps s₀ s) : Keeps s₀ (scrubUe p atom s) := h.flag.count.setReg.log

protected theorem Keeps.scrub {p : Nat} (h : Keeps s₀ s) : Keeps s₀ (scrub p s) := by
  unfold scrub
  refine .ite h ?_
  dsimp only
  refine .setFld (.ite h.stackCommand.scrubUe ?_)
  split
  · exact h.stackCommand.wide.burst
  · exact h.stackCommand.wide.burst.corrected.storeAtom
  · exact h.stackCommand.wide.burst.scrubUe

protected theorem Keeps.scrubNow {p : Nat} (h : Keeps s₀ s) : Keeps s₀ (scrubNow p s) := h.setFld

protected theorem Keeps.memClear {p : Nat} (h : Keeps s₀ s) : Keeps s₀ (memClear p s) := h.clearCount.clearCount

protected theorem Keeps.sramClear (h : Keeps s₀ s) : Keeps s₀ (sramClear s) := h.clearCount.clearCount

protected theorem Keeps.markWrite {p c : Nat} {w : Word} (h : Keeps s₀ s) : Keeps s₀ (markWrite p c w s) := .ite h h.setReg

protected theorem Keeps.trainingDone {p : Nat} {ok : Bool} (h : Keeps s₀ s) : Keeps s₀ (trainingDone p ok s) :=
  .ite h (.ite (.releaseRecs (.ite h.setFld.setFld h.setFld)) h.setFld.flag.log.msixBoth.releaseRecs)

protected theorem Keeps.dropStaged {c off : Nat} (h : Keeps s₀ s) : Keeps s₀ (dropStaged c off s) := h.onCore

protected theorem Keeps.setStaged {c off : Nat} {err : Option Bool} (h : Keeps s₀ s) : Keeps s₀ (setStaged c off err s) := h.onCore

protected theorem Keeps.meetStaging {c : Nat} {x : Bool} {pos : Nat} (h : Keeps s₀ s) : Keeps s₀ (meetStaging c x pos s).2 := by
  unfold meetStaging
  dsimp only
  split
  · exact h
  · split
    · exact h.sramReport.dropStaged
    · exact h.foldl fun ht => ht.setStaged.sramCorrected

protected theorem Keeps.sramDouble {kind inst off : Nat} (h : Keeps s₀ s) : Keeps s₀ (sramDouble kind inst off s) := by
  unfold sramDouble
  refine .ite h.sramReport.dropStaged
    (.ite ?_ (.ite (.ite h.sramReport.flag.coreStop
    (.ite (h.sramReport.flag.update (by rfl)) (h.sramReport.flag.foldl fun ht => ht.endColl))) h.sramReport.flag.msixBoth))
  split
  · exact h.sramReport.discardRow
  · exact h.sramReport

protected theorem Keeps.sramPatrol {kindOp inst off : Nat} {double : Bool} (h : Keeps s₀ s) :
    Keeps s₀ (sramPatrol kindOp inst off double s) := by
  unfold sramPatrol
  extract_lets kind s1
  have h1 : Keeps s₀ s1 := .ite h.setStaged (h.update (by rfl))
  exact .ite h (.ite (.ite h.setStaged (h.update (by rfl))) (.ite (.ite h1.bufferDouble h1.sramDouble) h1.sramCorrected))

protected theorem Keeps.putRegions {p : Nat} {l : List Region} (h : Keeps s₀ s) : Keeps s₀ (putRegions s p l).2 := by
  unfold putRegions
  dsimp only
  exact h.writeMem.setFld.setFld

protected theorem Keeps.placeRegion {p base size kind slot limit : Nat} (h : Keeps s₀ s) :
    Keeps s₀ (placeRegion s p base size kind slot limit).2 := by
  unfold placeRegion
  split
  · refine .pair_of Prod.snd (fun _ _ _ => rfl) h.drawWord fun h1 => ?_
    extract_lets owners
    exact .pair_of Prod.snd (fun _ _ _ => rfl) h1.putRegions fun h2 => .pair_of Prod.snd (fun _ _ _ => rfl) h2.writeMem fun h3 => h3
  · exact h.putRegions

protected theorem Keeps.allocate {size align kind pref arg slot : Nat} {strict : Bool} (h : Keeps s₀ s) :
    Keeps s₀ (allocate size align kind pref arg slot strict s).2.2.2 := by
  unfold allocate
  dsimp only
  split
  · exact h.touch
  · split
    · exact h.touch
    · exact h.touch.placeRegion

protected theorem Keeps.freeRegion {base : Nat} (h : Keeps s₀ s) : Keeps s₀ (freeRegion base s).2 := by
  unfold freeRegion
  extract_lets p
  refine .pair_of Prod.snd (fun _ _ _ => rfl) h.touch fun h1 => ?_
  split
  · exact h1
  · split
    · exact .pair_of Prod.snd (fun _ _ _ => rfl) h1.putRegions fun h2 => h2
    · exact h1

/-! ### Staging, commit and epochs of the structure image -/

protected theorem Keeps.strStage {w : Word} (h : Keeps s₀ s) : Keeps s₀ (strStage w s) := by
  unfold strStage
  refine .ite h.flag ?_
  extract_lets s1
  have h1 : Keeps s₀ s1 := h.setFld.setFld
  exact h1.update (by rfl)

protected theorem Keeps.stageStatus {st sec kind num : Nat} (h : Keeps s₀ s) : Keeps s₀ (stageStatus s st sec kind num) :=
  h.setFld.setFld.setFld.setFld.setFld

protected theorem Keeps.stageFails {st sec kind num : Nat} (h : Keeps s₀ s) : Keeps s₀ (stageFails s st sec kind num) :=
  h.stageStatus.flag.log

protected theorem Keeps.copyTables {d : List Byte} {l : List Nat} {busy : List (Nat × Nat)} (h : Keeps s₀ s) :
    Keeps s₀ (copyTables d l busy s).2 := by
  induction l generalizing busy s with
  | nil => exact h
  | cons m t ih =>
    rw [copyTables]
    dsimp only
    split
    · exact ih h
    · exact ih h.drawWord.writeMem

protected theorem Keeps.copyImage {b : List Byte} (h : Keeps s₀ s) : Keeps s₀ (copyImage b s) := by
  unfold copyImage
  dsimp only
  exact h.drawWord.writeMem

protected theorem Keeps.stageHeld {b : List Byte} (h : Keeps s₀ s) : Keeps s₀ (stageHeld b s) := by
  unfold stageHeld
  have h1 : Keeps s₀ (match sectionOf? b 7 with
      | some d => copyTables d (rangeFrom 0 8) (tablesHeld s) s
      | none => ([], s)).2 := by
    split
    · exact h.copyTables
    · exact h
  refine .pair (fun _ _ _ => rfl) h1 fun h1 => ?_
  extract_lets s2
  have h2 : Keeps s₀ s2 := h1.stageStatus.setFld
  exact h2.update (by rfl)

protected theorem Keeps.readImage {a : Nat} (h : Keeps s₀ s) : Keeps s₀ (readImage a s).2.2 := by
  unfold readImage
  refine .triple_of (fun q : List Byte × Bool × State => q.2.2) (fun _ _ _ _ => rfl) h.readMem fun h1 => ?_
  extract_lets len
  split
  · exact h1
  · exact .triple_of (fun q : List Byte × Bool × State => q.2.2) (fun _ _ _ _ => rfl) h1.readMem fun h2 => h2

protected theorem Keeps.stagingDone (h : Keeps s₀ s) : Keeps s₀ (stagingDone s) := by
  unfold stagingDone
  dsimp only
  split
  · exact h
  · refine .ite h (.ite (h.update (by rfl)).stageFails
      (.ite (h.update (by rfl)).readImage.stageFails (.ite (h.update (by rfl)).readImage.stageFails ?_)))
    split
    · exact (h.update (by rfl)).readImage.copyImage.stageFails
    · exact (h.update (by rfl)).readImage.copyImage.stageHeld

protected theorem Keeps.strCommit {w : Word} (h : Keeps s₀ s) : Keeps s₀ (strCommit w s) := by
  unfold strCommit
  extract_lets ep bad s1
  have hbad {st : Nat} : Keeps s₀ (bad st) := h.setFld.flag
  split
  · exact hbad
  · refine .ite hbad ?_
    have h1 : Keeps s₀ s1 := h.setFld.setFld
    exact h1.update (by rfl)

protected theorem Keeps.setCoreEntries {b : List Byte} {c : Nat} (h : Keeps s₀ s) : Keeps s₀ (setCoreEntries b c s) := by
  unfold setCoreEntries
  dsimp only
  exact h.setFld.onCore

protected theorem Keeps.setHostq {d : List Byte} (h : Keeps s₀ s) : Keeps s₀ (setHostq d s) := h.foldl fun ht => ht.setFld.setFld.setFld

protected theorem Keeps.setLinks {d : List Byte} (h : Keeps s₀ s) : Keeps s₀ (setLinks d s) :=
  .foldl (h.setReg.foldl fun ht => ht.setReg.setReg) fun ht => ht.linkCommit

protected theorem Keeps.setCollective {d : List Byte} (h : Keeps s₀ s) : Keeps s₀ (setCollective d s) := h.setReg.setReg

protected theorem Keeps.setPhase {d : List Byte} {places : List Nat} (h : Keeps s₀ s) : Keeps s₀ (setPhase d places s) :=
  h.foldl fun ht => .ite ht ht.setReg.setReg

protected theorem Keeps.setHall {d : List Byte} (h : Keeps s₀ s) : Keeps s₀ (setHall d s) := h.foldl fun ht => ht.foldl fun hu => hu.setWin

protected theorem Keeps.withSection {b : List Byte} {ty : Nat} {f : List Byte → State → State}
    (h : Keeps s₀ s) (hf : ∀ {a t}, Keeps s₀ t → Keeps s₀ (f a t)) : Keeps s₀ (withSection b ty f s) := by
  unfold withSection
  split
  · exact hf h
  · exact h

protected theorem Keeps.setAtTick {b : List Byte} {places : List Nat} (h : Keeps s₀ s) : Keeps s₀ (setAtTick b places s) :=
  .withSection (.withSection (.withSection
    (.withSection (.withSection (.withSection (h.withSection fun ht => ht.setHostq) fun ht => ht.update (by rfl)) fun ht => ht.setLinks)
    fun ht => ht.setCollective) fun ht => ht.setPhase) fun ht => ht.setFld) fun ht => ht.setHall

protected theorem Keeps.extend {i : Nat} {d : List Byte} (h : Keeps s₀ s) : Keeps s₀ (s.extend i d) := h.update (by rfl)

protected theorem Keeps.commitDone (h : Keeps s₀ s) : Keeps s₀ (commitDone s) := (h.setFld.wide.log.update (by rfl)).eventAll

protected theorem Keeps.switchTick (h : Keeps s₀ s) : Keeps s₀ (switchTick s) := by
  unfold switchTick
  split
  · exact h
  · refine .ite h ?_
    extract_lets wait old mask s1 _ s2 s3 s4 s5 s6
    have h2 : Keeps s₀ s2 := Keeps.update (s := s1) h.setReg.setFld.setReg (by rfl)
    have h4 : Keeps s₀ s4 := h2.extend.setFld.foldl fun ht => ht.onCore
    have h5 : Keeps s₀ s5 := h4.foldl fun ht => ht.setCoreEntries
    have h6 : Keeps s₀ s6 := h5.setAtTick
    exact .ite h6.commitDone h6

protected theorem Keeps.unitSwitch {c : Nat} (h : Keeps s₀ s) : Keeps s₀ (unitSwitch c s) := by
  unfold unitSwitch
  dsimp only
  split
  · exact h
  · exact .ite h (.ite h (.ite h.setCoreEntries.setReg.onCore.commitDone h.setCoreEntries.setReg.onCore))

protected theorem Keeps.strTimeout (h : Keeps s₀ s) : Keeps s₀ (strTimeout s) := .ite h (h.update (by rfl)).flag.log.msixBoth.eventAll

protected theorem Keeps.applyHeld {h' : HeldAdd} (h : Keeps s₀ s) : Keeps s₀ (applyHeld s h') := by
  unfold applyHeld
  dsimp only
  exact .ite h.onCore.tallyAdd.afterCore.settleStop (.ite h.onCore.tallyAdd.addLimit.settleStop h.onCore.tallyAdd.violateTally)

protected theorem Keeps.releaseAdds {c : Nat} (h : Keeps s₀ s) :
    Keeps s₀ (releaseAdds c s) := (h.update (by rfl)).foldl fun ht => ht.applyHeld

protected theorem Keeps.switchCore {c : Nat} (h : Keeps s₀ s) : Keeps s₀ (switchCore c s) := .ite h.unitSwitch.releaseAdds h.unitSwitch

protected theorem Keeps.abortCore {c : Nat} (h : Keeps s₀ s) : Keeps s₀ (abortCore c s) := h.coreAbort.switchCore

/-! ### Host ports and queue pairs -/

protected theorem Keeps.doorbellBad {port n v : Nat} (h : Keeps s₀ s) : Keeps s₀ (doorbellBad s port n v) := h.flag.log

protected theorem Keeps.doorbell {port n off : Nat} {bs : List Byte} {f : Nat → State → State}
    (h : Keeps s₀ s) (hf : ∀ {a t}, Keeps s₀ t → Keeps s₀ (f a t)) : Keeps s₀ (doorbell port n off bs f s) :=
  .ite h (.ite h.frozenCommand (.ite h.violateAddr (.ite h (hf h))))

protected theorem Keeps.sqTail {port n : Nat} {bs : List Byte} (h : Keeps s₀ s) : Keeps s₀ (sqTail port n bs s) :=
  h.doorbell fun ht => .ite ht.setFld (.ite ht ht.doorbellBad)

protected theorem Keeps.cqHead {port n : Nat} {bs : List Byte} (h : Keeps s₀ s) : Keeps s₀ (cqHead port n bs s) :=
  h.doorbell fun ht => .ite ht.setFld ht.doorbellBad

protected theorem Keeps.bar2Write {port x : Nat} {bs : List Byte} (h : Keeps s₀ s) : Keeps s₀ (bar2Write port x bs s) :=
  .ite h (.ite h.sqTail (.ite h.cqHead (.ite h.frozenCommand (.ite (.ite h.violateAddr h) h.violateAddr))))

protected theorem Keeps.queueEnable {n : Nat} (h : Keeps s₀ s) : Keeps s₀ (queueEnable n s) := h.setFld.setReg.setFld

protected theorem Keeps.queueDisable {n : Nat} (h : Keeps s₀ s) : Keeps s₀ (queueDisable n s) := h.setFld

protected theorem Keeps.queCfg {n : Nat} {v : Word} (h : Keeps s₀ s) : Keeps s₀ (queCfg n v s) :=
  .ite h.flag (.ite (.ite h.flag (.ite h h.queueDisable)) (.ite h.setReg (.ite h.setReg.flag h.setReg.queueEnable)))

protected theorem Keeps.queBase {n off : Nat} {v : Word} (h : Keeps s₀ s) : Keeps s₀ (queBase n off v s) := .ite h.flag h.setReg

protected theorem Keeps.queueThaw {n cls : Nat} (h : Keeps s₀ s) : Keeps s₀ (queueThaw n cls s) := h.thaw.thaw

protected theorem Keeps.absentCommand {n code t' : Nat} (h : Keeps s₀ s) : Keeps s₀ (absentCommand s n code t') := by
  unfold absentCommand
  dsimp only
  exact h.drawWord.drawWord.violate

protected theorem Keeps.passCmd {cls inst : Nat} {m : Cmd} {ring : Nat} (h : Keeps s₀ s) : Keeps s₀ (passCmd s cls inst m ring) :=
  .ite h.onCore (.ite h.setDrover (.ite h.setEngine (.ite h.setTrh (h.update (by rfl)).event)))

protected theorem Keeps.countColl {cls code : Nat} {d : List Byte} (h : Keeps s₀ s) : Keeps s₀ (countColl s cls code d) := by
  unfold countColl
  split
  · exact h.update (by rfl)
  · exact h

protected theorem Keeps.acceptOf {n ring : Nat} {d : List Byte} {seq : Nat} (h : Keeps s₀ s) : Keeps s₀ (acceptOf s n ring d seq) := by
  unfold acceptOf
  dsimp only
  exact .ite h.absentCommand.complete
    (.ite h.frozenCommand.complete (.ite h.frozenCommand.complete (.ite h.complete (.ite h.complete h.passCmd))))

protected theorem Keeps.accept {n ring : Nat} {d : List Byte} (h : Keeps s₀ s) : Keeps s₀ (accept s n ring d) := h.countColl.acceptOf

protected theorem Keeps.acceptWydak {n ring : Nat} {d : List Byte} (h : Keeps s₀ s) : Keeps s₀ (acceptWydak s n ring d) :=
  .ite h.frozenCommand.complete (.ite h.frozenCommand.complete (.ite h.complete h.passCmd))

protected theorem Keeps.advanceRing {n : Nat} (h : Keeps s₀ s) : Keeps s₀ (advanceRing s n) := h.setFld.wide.setQp

protected theorem Keeps.fetched {n : Nat} {d : List Byte} (h : Keeps s₀ s) : Keeps s₀ (fetched s n d) :=
  .ite h.advanceRing.acceptWydak h.advanceRing.accept

protected theorem Keeps.fetchLost {n : Nat} {d : List Byte} (h : Keeps s₀ s) : Keeps s₀ (fetchLost s n d) := h.advanceRing.complete

protected theorem Keeps.descriptorFetch {n : Nat} {host : List Byte} (h : Keeps s₀ s) : Keeps s₀ (descriptorFetch n host s) := by
  unfold descriptorFetch
  refine .ite h (.ite h.fetched ?_)
  split
  · exact h
  · rename_i e
    exact h.localRead.of_eq e rfl
  · rename_i t1 e
    have h1 : Keeps s₀ t1 := h.localRead.of_eq e rfl
    exact .ite h1.fetchLost h1.fetched

protected theorem Keeps.aer {port code : Nat} (h : Keeps s₀ s) :
    Keeps s₀ (s.aer port code) := .ite h.setPortCfg (h.update (by rfl)).setPortCfg

protected theorem Keeps.poisonedFetch {n : Nat} (h : Keeps s₀ s) : Keeps s₀ (poisonedFetch n s) := .ite (h.update (by rfl)).fetchLost h

protected theorem Keeps.pcieFailed {n code : Nat} (h : Keeps s₀ s) : Keeps s₀ (pcieFailed n code s) :=
  .ite h (.ite (.poisonedFetch (.log (.aer (.ite h (h.update (by rfl)))))) (.log (.aer (.ite h (h.update (by rfl))))))

protected theorem Keeps.flrQp {n : Nat} (h : Keeps s₀ s) : Keeps s₀ (flrQp s n) :=
  .ite (h.update (by rfl)).queueDisable.setQp (h.update (by rfl)).queueDisable.setQp.flag

protected theorem Keeps.functionReset {port : Nat} (h : Keeps s₀ s) : Keeps s₀ (functionReset port s) :=
  .setPortCfg (h.foldl fun ht => ht.flrQp)

protected theorem Keeps.setPort {port width rate : Nat} (h : Keeps s₀ s) : Keeps s₀ (setPort s port width rate) :=
  .setFld (.ite h.setFld.setFld h.setFld.setFld)

protected theorem Keeps.configurePort {port : Nat} (h : Keeps s₀ s) : Keeps s₀ (configurePort port s) := by
  unfold configurePort
  dsimp only
  exact h.drawWord.setPortCfg

protected theorem Keeps.perst {port : Nat} {low : Bool} {width rate : Nat} (h : Keeps s₀ s) : Keeps s₀ (perst port low width rate s) :=
  .ite h (.ite h.setPortCfg (.ite h.setPortCfg.functionReset.setPort h.setPortCfg.configurePort.setPort))

protected theorem Keeps.changeOwner {new method : Nat} (h : Keeps s₀ s) : Keeps s₀ (changeOwner s new method) := h.setFld.setFld.log

protected theorem Keeps.privOffer {m : Mst} {v : Word} (h : Keeps s₀ s) : Keeps s₀ (privOffer m v s) :=
  .ite (.setFld (.ite h.setFld h)) (.ite h.setFld h)

protected theorem Keeps.privAccept {m : Mst} {v : Word} (h : Keeps s₀ s) : Keeps s₀ (privAccept m v s) := .ite h (.ite h.changeOwner h.flag)

protected theorem Keeps.reply {b : List Byte} (h : Keeps s₀ s) : Keeps s₀ (s.reply b) := h.update (by rfl)

protected theorem Keeps.bar2Read {port x n : Nat} (h : Keeps s₀ s) : Keeps s₀ (bar2Read port x n s) :=
  .ite h (.ite h.frozenCommand.reply (.ite h.reply h.violateAddr.reply))

protected theorem Keeps.bar0Read {port x n : Nat} (h : Keeps s₀ s) : Keeps s₀ (bar0Read port x n s) := by
  unfold bar0Read
  refine .ite h (.ite h.frozenCommand.reply ?_)
  split
  · exact h
  · rename_i e
    exact (h.localRead.of_eq e rfl).reply
  · rename_i e
    exact (h.localRead.of_eq e rfl).reply

protected theorem Keeps.bar4Read {port a n : Nat} (h : Keeps s₀ s) : Keeps s₀ (bar4Read port a n s) := by
  unfold bar4Read
  refine .ite h (.ite h.bar0Read (.ite h.bar2Read (.ite h (.ite h.frozenCommand.reply ?_))))
  split
  · exact h
  · rename_i e
    exact (h.localRead.of_eq e rfl).reply
  · rename_i e
    exact (h.localRead.of_eq e rfl).reply

protected theorem Keeps.bar4Write {port a : Nat} {bs : List Byte} (h : Keeps s₀ s) : Keeps s₀ (bar4Write port a bs s) := by
  unfold bar4Write
  refine .ite h (.ite h.aer (.ite h.frozenCommand ?_))
  split
  · exact h
  · rename_i e
    exact h.localStore.of_eq e rfl
  · rename_i e
    exact h.localStore.of_eq e rfl

protected theorem Keeps.tallyAddCmd {c : Nat} (h : Keeps s₀ s) : Keeps s₀ (tallyAddCmd c s) := by
  unfold tallyAddCmd
  dsimp only
  split
  · exact h
  · exact .ite h (.ite h.setCore.tallyAdd.complete h.setCore.tallyAdd.violateTally.complete)

/-! ### The Logbook's flush, power, clocks and thermal -/

protected theorem Keeps.beginFlush {cause : Nat} (h : Keeps s₀ s) : Keeps s₀ (beginFlush cause s) := (h.update (by rfl)).setFld

protected theorem Keeps.requestFlush {cause : Nat} (h : Keeps s₀ s) :
    Keeps s₀ (requestFlush cause s) := .ite (h.update (by rfl)) h.beginFlush

protected theorem Keeps.copySlots {skip l : List Nat} (h : Keeps s₀ s) : Keeps s₀ (copySlots skip l s) := by
  induction l generalizing s with
  | nil => exact h
  | cons i t ih =>
    rw [copySlots]
    exact .ite (ih h.count) (ih (Keeps.wide (h.update (by rfl))))

protected theorem Keeps.flushDone {failed : Bool} {skip : List Nat} (h : Keeps s₀ s) : Keeps s₀ (flushDone failed skip s) := by
  unfold flushDone
  split
  · exact h
  · extract_lets from_ s1 s2 s3 s4
    have h1 : Keeps s₀ s1 := h.copySlots
    have h2 : Keeps s₀ s2 := .ite h1.flag h1
    have h3 : Keeps s₀ s3 := h2.setReg.setFld.setFld
    have h4 : Keeps s₀ s4 := h3.update (by rfl)
    refine .pair (fun _ _ _ => rfl) h4.drawWord fun h5 => ?_
    extract_lets s6
    have h6 : Keeps s₀ s6 := .ite h4 h5.eventAll
    split
    · exact h6
    · exact (h6.update (by rfl)).beginFlush

protected theorem Keeps.logClear (h : Keeps s₀ s) : Keeps s₀ (logClear s) := h.clearCount.clearCount

protected theorem Keeps.tick (h : Keeps s₀ s) : Keeps s₀ (tick s) := .ite h.wide (.ite h.wide.setFld h.wide.setFld.wide)

protected theorem Keeps.pwrNote {code : Nat} (h : Keeps s₀ s) : Keeps s₀ (pwrNote code s) := .ite h.msixBoth.eventAll h

protected theorem Keeps.pwrLog {code p0 p1 p2 p3 : Nat} (h : Keeps s₀ s) : Keeps s₀ (pwrLog s code p0 p1 p2 p3) := h.log.pwrNote

protected theorem Keeps.pwrLogFree {code : Nat} (h : Keeps s₀ s) : Keeps s₀ (pwrLogFree s code) := h.logFree.pwrNote

protected theorem Keeps.fatal (h : Keeps s₀ s) : Keeps s₀ (fatal s) := h.requestFlush

protected theorem Keeps.railsGood (h : Keeps s₀ s) : Keeps s₀ (railsGood s) := .ite h.setFld (h.setFld.update (by rfl)).setReg

protected theorem Keeps.railFault (h : Keeps s₀ s) : Keeps s₀ (railFault s) := by
  unfold railFault
  dsimp only
  exact .ite (h.drawBool.update (by rfl)).setFld.pwrLogFree.fatal (h.drawBool.update (by rfl)).setFld

protected theorem Keeps.cutUnit {kind inst : Nat} (h : Keeps s₀ s) : Keeps s₀ (cutUnit kind inst s) :=
  .ite (.ite h.onCore h) (.ite (.ite h.setDrover h) (.ite (.ite h.setEngine h) (.ite h.setTrh h)))

protected theorem Keeps.cutFold {f : Nat} (h : Keeps s₀ s) : Keeps s₀ (cutFold f s) := .cutUnit (h.setSched.foldl fun ht => ht.cutUnit)

protected theorem Keeps.cutFabric {die : Nat} (h : Keeps s₀ s) : Keeps s₀ (cutFabric die s) :=
  .ite (h.update (by rfl)).cutFold.cutFold (h.update (by rfl)).cutUnit.cutUnit

protected theorem Keeps.cutDomain {kind inst : Nat} (h : Keeps s₀ s) : Keeps s₀ (cutDomain kind inst s) :=
  .ite (.ite h.cutFold h) (.ite (.ite h.cutFabric h) (.ite h.cutUnit h))

protected theorem Keeps.regulatorFault {kind inst fault : Nat} (h : Keeps s₀ s) : Keeps s₀ (regulatorFault kind inst fault s) := by
  unfold regulatorFault
  dsimp only
  exact h.cutDomain.drawWord.pwrLog.fatal

protected theorem Keeps.pllLost {kind inst : Nat} (h : Keeps s₀ s) : Keeps s₀ (pllLost kind inst s) :=
  .fatal (.pwrLog (.ite h.setFld (.ite h.setFld (.ite h.setFld h))))

protected theorem Keeps.holidayEntry {kind n : Nat} (h : Keeps s₀ s) : Keeps s₀ (holidayEntry kind n s) :=
  .ite (.ite h.onCore h) (.ite h (.ite (.ite h.setDrover h) (.ite (.ite h.setEngine h) (.ite h.setTrh h))))

protected theorem Keeps.holidayWake {kind n : Nat} (h : Keeps s₀ s) : Keeps s₀ (holidayWake kind n s) :=
  .ite h (.ite (.ite h.onCore h) (.ite (.ite h.setDrover h) (.ite (.ite h.setEngine h) (.ite h.setTrh h))))

protected theorem Keeps.sleepCore {c : Nat} (h : Keeps s₀ s) : Keeps s₀ (sleepCore s c) := .ite h.onCore h

protected theorem Keeps.mapRest {f : Nat → Nat} (h : Keeps s₀ s) : Keeps s₀ (mapRest f s) :=
  .foldl (.foldl (h.foldl fun ht => .ite ht.setDrover ht) fun ht => .ite ht.setEngine ht) fun ht => .ite ht.setTrh ht

protected theorem Keeps.restStacks (h : Keeps s₀ s) :
    Keeps s₀ (restStacks s) := h.foldl fun ht => .ite ht (.ite (ht.setFld.update (by rfl)) ht.setFld)

protected theorem Keeps.wakeStacks (h : Keeps s₀ s) : Keeps s₀ (wakeStacks s) := by
  unfold wakeStacks
  exact .update (h.foldl fun ht => .ite ht.setFld ht) (by rfl)

protected theorem Keeps.standbyWrite {v : Word} (h : Keeps s₀ s) : Keeps s₀ (standbyWrite v s) :=
  .ite h.setFld (.ite h.flag (.restStacks (.mapRest (h.setFld.setFld.foldl fun ht => ht.sleepCore))))

protected theorem Keeps.standbyExit (h : Keeps s₀ s) : Keeps s₀ (standbyExit s) :=
  .ite h (.releaseRecs (.wakeStacks (.mapRest (.setFld (h.foldl fun ht => .ite ht.onCore ht)))))

protected theorem Keeps.frequencyStep {n : Nat} (h : Keeps s₀ s) : Keeps s₀ (frequencyStep n s) := .ite h (.ite h.setFld (.ite h.setFld h))

protected theorem Keeps.setCapLimit {l : Nat} (h : Keeps s₀ s) : Keeps s₀ (setCapLimit s l) := h.setFld.setFld

protected theorem Keeps.powerSample {mw : Nat} (h : Keeps s₀ s) : Keeps s₀ (powerSample mw s) := by
  unfold powerSample
  extract_lets cap l xs below s1 s2 s3 s4
  have h1 : Keeps s₀ s1 := Keeps.setFld (h.update (by rfl))
  have h2 : Keeps s₀ s2 := h1.setCapLimit
  have h3 : Keeps s₀ s3 := h1.setFld
  have h4 : Keeps s₀ s4 := h3.setCapLimit
  exact .ite (.ite (.ite h2.pwrLog h2) (.ite h1 h1.setFld.pwrLogFree)) (.ite (.ite h4.pwrLog h4) h3)

protected theorem Keeps.platformEvent {kind sensor : Nat} (h : Keeps s₀ s) :
    Keeps s₀ (platformEvent s kind sensor) := .ite (h.update (by rfl)) h

protected theorem Keeps.readSensor {p : Nat × Nat} (h : Keeps s₀ s) : Keeps s₀ (readSensor s p) :=
  .ite h.setReg.flag.pwrLogFree.platformEvent h.setReg

protected theorem Keeps.thermalSample {temps : List Nat} (h : Keeps s₀ s) : Keeps s₀ (thermalSample temps s) :=
  .setFld (.setFld (h.foldl fun ht => ht.readSensor))

protected theorem Keeps.setThermal {die l : Nat} (h : Keeps s₀ s) : Keeps s₀ (setThermal s die l) := h.foldl fun ht => .ite ht.setFld ht

protected theorem Keeps.throttleStep {die : Nat} (h : Keeps s₀ s) : Keeps s₀ (throttleStep die s) := by
  unfold throttleStep
  extract_lets hot temp l thr f s1 s2
  have h1 : Keeps s₀ s1 := .ite h.setThermal h
  have h2 : Keeps s₀ s2 := .ite h.setThermal h
  exact .ite h (.ite (.ite h1 h1.setFld.pwrLog) (.ite (.ite h2.setFld.pwrLog h2) h))

protected theorem Keeps.thermalTrip {die sensor temp : Nat} (h : Keeps s₀ s) : Keeps s₀ (thermalTrip die sensor temp s) :=
  .ite h (h.update (by rfl)).setFld.log.fatal.platformEvent

protected theorem Keeps.powerFail {rails : Nat} (h : Keeps s₀ s) : Keeps s₀ (powerFail rails s) :=
  .ite h (h.log.update (by rfl)).restStacks.requestFlush.platformEvent

/-! ### The security controller -/

protected theorem Keeps.fwLoad {v : Word} (h : Keeps s₀ s) : Keeps s₀ (fwLoad v s) :=
  .ite (h.foldl fun ht => ht.flag) h.setReg.setFld.setFld

protected theorem Keeps.fwResult {st reason state : Nat} (h : Keeps s₀ s) : Keeps s₀ (fwResult s st reason state) := h.setFld.setFld.setFld

protected theorem Keeps.fwVerifyDone (h : Keeps s₀ s) : Keeps s₀ (fwVerifyDone s) := by
  unfold fwVerifyDone
  refine .ite h ?_
  extract_lets len
  refine .triple (fun _ _ _ _ => rfl) h.readMem fun h1 => ?_
  extract_lets svn bl s2
  split
  · have h2 : Keeps s₀ s2 := h1.fwResult.extend
    exact Keeps.log (h2.update (by rfl))
  · exact h1.fwResult.log

protected theorem Keeps.attest {code arg : Nat} {nonce : List Byte} (h : Keeps s₀ s) : Keeps s₀ (attest code arg nonce s).2.2 := by
  unfold attest
  dsimp only
  split
  · exact h.update (by rfl)
  · split
    · exact h
    · split
      · exact h.update (by rfl)
      · exact h

protected theorem Keeps.jtagChallenge (h : Keeps s₀ s) : Keeps s₀ (jtagChallenge s).2.2 := (h.update (by rfl)).setFld

protected theorem Keeps.dropChallenge (h : Keeps s₀ s) : Keeps s₀ (dropChallenge s) := (h.update (by rfl)).setFld

protected theorem Keeps.jtagRefused {reason : Nat} (h : Keeps s₀ s) : Keeps s₀ (jtagRefused reason s).2.2 := by
  unfold jtagRefused
  dsimp only
  exact h.drawWord.flag.log

protected theorem Keeps.jtagResponse {key sig : List Byte} (h : Keeps s₀ s) : Keeps s₀ (jtagResponse key sig s).2.2 := by
  unfold jtagResponse
  dsimp only
  split
  · exact h.jtagRefused
  · split
    · exact h.dropChallenge.jtagRefused
    · split
      · exact h.dropChallenge.jtagRefused
      · exact h.dropChallenge.setFld.logFree

protected theorem Keeps.putWindow {b : List Byte} (h : Keeps s₀ s) : Keeps s₀ (putWindow s b) := h.foldl fun ht => ht.setSecWord

protected theorem Keeps.mailboxDone {code : Nat} {r : Nat × List Byte × State} (h : Keeps s₀ r.2.2) : Keeps s₀ (mailboxDone code r) :=
  (Keeps.putWindow h).setFld.setFld

protected theorem Keeps.svnCommit (h : Keeps s₀ s) : Keeps s₀ (svnCommit s) :=
  .ite (.pair (fun _ _ _ => rfl) h.drawWord fun h1 => Keeps.mailboxDone h1) (.ite (Keeps.mailboxDone h) (Keeps.setFld (h.update (by rfl))))

protected theorem Keeps.secCommand {v : Word} (h : Keeps s₀ s) : Keeps s₀ (secCommand v s) :=
  .ite h.flag (.ite h.svnCommit (.ite (Keeps.mailboxDone h.jtagChallenge) (.ite (Keeps.mailboxDone h.jtagResponse)
    (Keeps.mailboxDone h.attest))))

protected theorem Keeps.secWindowWrite {i : Nat} {w : Word} (h : Keeps s₀ s) : Keeps s₀ (secWindowWrite i w s) := .ite h.flag h.setSecWord

protected theorem Keeps.securityFault {check : Nat} (h : Keeps s₀ s) : Keeps s₀ (securityFault check s) := h.log.msixBoth.fatal

/-! ### The resets of the device -/

/-- Entries left out of the register store leave it canonical. -/
theorem registers_wf_filter {g : Nat} {l : Sparse Word} (p : Nat × Word → Bool) (h : Registers.wf g l = true) :
    Registers.wf g (l.filter p) = true := filter_wf _ _ _ _ h fun _ _ _ => rfl

/-- What a reset keeps of local memory is canonical under any stamp: it lies where an unlisted byte reads as zero. -/
theorem memory_wf_filter_kept {a b : Nat} {l : Sparse Byte} (h : Memory.wf a l = true) :
    Memory.wf b (l.filter (fun c => keptAddr c.1)) = true := by
  refine filter_wf _ _ _ _ h fun q _ hq => ?_
  simp only [keptAddr, Bool.and_eq_true, decide_eq_true_eq] at hq
  obtain ⟨habove, -⟩ := hq
  have hdefault (stamp : Nat) : memDefault stamp q.1 = 0 := if_neg fun hbelow => absurd hbelow.2 (by omega)
  rw [hdefault, hdefault]

protected theorem Keeps.afterReset (h : Keeps s₀ s) : Keeps s₀ (afterReset s) := by
  unfold afterReset
  extract_lets f t
  have h1 : Keeps s₀ t := ⟨h.pending, h.grade, fun c =>
    ⟨memory_wf_filter_kept (h.canonical c).1, registers_wf_filter _ (h.canonical c).2⟩⟩
  exact h1.setFld.setReg

protected theorem Keeps.deviceReset {cls : Nat} (h : Keeps s₀ s) : Keeps s₀ (deviceReset cls s) :=
  .ite (h.update (by rfl)) h.log.afterReset.requestFlush

protected theorem Keeps.sysReset {low : Bool} (h : Keeps s₀ s) :
    Keeps s₀ (sysReset low s) := .ite (.ite h (h.update (by rfl)).deviceReset) (h.update (by rfl))

protected theorem Keeps.powerOn (h : Keeps s₀ s) : Keeps s₀ (powerOn s) := by
  unfold powerOn
  extract_lets f t
  have h1 : Keeps s₀ t := ⟨h.pending, h.grade, fun c => ⟨rfl, registers_wf_filter _ (h.canonical c).2⟩⟩
  exact h1.setReg.wide

protected theorem Keeps.fuseStep (h : Keeps s₀ s) : Keeps s₀ (fuseStep s) := by
  unfold fuseStep
  split
  · exact h
  · extract_lets old s1
    have h1 : Keeps s₀ s1 := h.setFld.log
    split
    · exact (h1.update (by rfl)).deviceReset
    · exact .ite h1 (Keeps.mailboxDone (Keeps.setFld (h1.update (by rfl))))

/-! ### The management sideband and the test access port -/

protected theorem Keeps.mctpReply {b : List Byte} (h : Keeps s₀ s) : Keeps s₀ (mctpReply b s) := by
  unfold mctpReply
  extract_lets t
  have h1 : Keeps s₀ t := h.wide.reply
  exact h1.update (by rfl)

protected theorem Keeps.mctpSay {cmd : Nat} {vals : List Nat} (h : Keeps s₀ s) : Keeps s₀ (mctpSay cmd vals s) := h.mctpReply

protected theorem Keeps.mctpBad {cmd : Nat} (h : Keeps s₀ s) : Keeps s₀ (mctpBad cmd s) := h.flag.mctpSay

protected theorem Keeps.sideband {b : Bus} {f : State → State} (h : Keeps s₀ s) (hf : ∀ {t}, Keeps s₀ t → Keeps s₀ (f t)) :
    Keeps s₀ (sideband b f s) :=
  .ite h (.ite h.setFld.flag (.ite h.setFld.mctpBad (hf h.setFld)))

protected theorem Keeps.setDasa {a : Nat} (h : Keeps s₀ s) : Keeps s₀ (setDasa a s) := h.setFld

protected theorem Keeps.entDaa {a : Nat} (h : Keeps s₀ s) : Keeps s₀ (entDaa a s) := h.setFld

protected theorem Keeps.alertResponse (h : Keeps s₀ s) : Keeps s₀ (alertResponse s) := .ite h.reply h

protected theorem Keeps.setEid {eid : Nat} (h : Keeps s₀ s) : Keeps s₀ (setEid eid s) := .ite h.mctpBad h.setFld.mctpSay

protected theorem Keeps.getEid (h : Keeps s₀ s) : Keeps s₀ (getEid s) := h.mctpSay

protected theorem Keeps.getMctpVersion {ty : Nat} (h : Keeps s₀ s) : Keeps s₀ (getMctpVersion ty s) := .ite h.mctpSay h.mctpBad

protected theorem Keeps.getMessageTypes (h : Keeps s₀ s) : Keeps s₀ (getMessageTypes s) := h.mctpSay

protected theorem Keeps.getVendorSupport {sel : Nat} (h : Keeps s₀ s) : Keeps s₀ (getVendorSupport sel s) := .ite h.mctpSay h.mctpBad

protected theorem Keeps.getTid (h : Keeps s₀ s) : Keeps s₀ (getTid s) := h.mctpSay

protected theorem Keeps.getPldmVersion {ty : Nat} (h : Keeps s₀ s) : Keeps s₀ (getPldmVersion ty s) := .ite h.mctpSay h.mctpBad

protected theorem Keeps.getPldmTypes (h : Keeps s₀ s) : Keeps s₀ (getPldmTypes s) := h.mctpSay

protected theorem Keeps.getPldmCommands {ty : Nat} (h : Keeps s₀ s) : Keeps s₀ (getPldmCommands ty s) :=
  .ite h.mctpSay (.ite h.mctpSay h.mctpBad)

protected theorem Keeps.getPdrInfo (h : Keeps s₀ s) : Keeps s₀ (getPdrInfo s) := h.mctpSay

protected theorem Keeps.getPdr {n : Nat} (h : Keeps s₀ s) : Keeps s₀ (getPdr n s) := .ite h.mctpSay h.mctpBad

protected theorem Keeps.getSensor {n : Nat} (h : Keeps s₀ s) : Keeps s₀ (getSensor n s) := by
  unfold getSensor
  split
  · exact h.mctpSay
  · exact h.mctpBad

protected theorem Keeps.getStateSensor {n : Nat} (h : Keeps s₀ s) : Keeps s₀ (getStateSensor n s) := by
  unfold getStateSensor
  split
  · exact h.mctpSay
  · exact h.mctpBad

protected theorem Keeps.setReceiver {r : Option Nat} (h : Keeps s₀ s) : Keeps s₀ (setReceiver r s) := (h.update (by rfl)).mctpSay

protected theorem Keeps.vendorReply {code status : Nat} {body : List Byte} (h : Keeps s₀ s) : Keeps s₀ (vendorReply code status body s) :=
  .mctpReply (.ite h.flag h)

protected theorem Keeps.vendorRefused {code : Nat} (h : Keeps s₀ s) : Keeps s₀ (vendorRefused code s) := h.flag.vendorReply

protected theorem Keeps.forceOwner {port : Nat} (h : Keeps s₀ s) : Keeps s₀ (forceOwner port s) :=
  .ite h.vendorRefused (.ite h.vendorReply (.vendorReply (.ite h h.changeOwner)))

protected theorem Keeps.sidebandThaw {cls sub : Nat} {all : Bool} (h : Keeps s₀ s) : Keeps s₀ (sidebandThaw cls sub all s) :=
  .ite h.vendorRefused h.thaw.vendorReply

protected theorem Keeps.sidebandRead {off : Nat} (h : Keeps s₀ s) : Keeps s₀ (sidebandRead off s) :=
  .ite h.vendorReply h.rouseRead.vendorReply

protected theorem Keeps.attestBy {via : Via} {code arg : Nat} {nonce : List Byte} (h : Keeps s₀ s) :
    Keeps s₀ (attestBy via code arg nonce s) := by
  unfold attestBy
  dsimp only
  split
  · exact .ite h.attest.reply h
  · exact h.sideband fun ht => ht.attest.vendorReply
  · exact h

protected theorem Keeps.unlockBy {via : Via} {code : Nat} {r : State → Nat × List Byte × State}
    (h : Keeps s₀ s) (hr : ∀ {t}, Keeps s₀ t → Keeps s₀ (r t).2.2) : Keeps s₀ (unlockBy via code r s) := by
  unfold unlockBy
  dsimp only
  split
  · exact .ite ((hr h).reply) h
  · exact .ite h.reply h
  · exact h.sideband fun ht => ht.vendorReply
  · exact h

protected theorem Keeps.doeDiscovery {port index : Nat} (h : Keeps s₀ s) : Keeps s₀ (doeDiscovery port index s) :=
  .ite h (.ite h.reply h.reply)

protected theorem Keeps.tapLoad {op : Nat} (h : Keeps s₀ s) : Keeps s₀ (tapLoad op s) := by
  unfold tapLoad
  refine .ite ?_ (h.update (by rfl))
  dsimp only
  exact h.drawWord.update (by rfl)

protected theorem Keeps.tapIdcode (h : Keeps s₀ s) : Keeps s₀ (tapIdcode s) := h.tapLoad.reply

protected theorem Keeps.tapReset (h : Keeps s₀ s) : Keeps s₀ (tapReset s) := h.update (by rfl)

/-! ### Writes of registers by a master -/

protected theorem Keeps.corCtrl {c : Nat} {v : Word} (h : Keeps s₀ s) : Keeps s₀ (corCtrl c v s) := by
  unfold corCtrl
  extract_lets s1
  have h1 : Keeps s₀ s1 := .ite (h.foldl fun ht => ht.clearCount) h
  exact .ite h1.abortCore (.ite h1.coreHalt (.ite h1.coreResume h1))

protected theorem Keeps.corQuietWrite {c : Nat} {f : State → State} (h : Keeps s₀ s) (hf : ∀ {t}, Keeps s₀ t → Keeps s₀ (f t)) :
    Keeps s₀ (corQuietWrite c f s) :=
  .ite (hf h) h.flag

protected theorem Keeps.nanClear {c : Nat} {v : Word} (h : Keeps s₀ s) : Keeps s₀ (nanClear c v s) := .ite h.setReg.setReg h

protected theorem Keeps.arrCtrl {c : Nat} {v : Word} (h : Keeps s₀ s) : Keeps s₀ (arrCtrl c v s) := .ite (h.foldl fun ht => ht.clearCount) h

protected theorem Keeps.unitCtrl {v : Word} {clear abort halt resume : State → State} (h : Keeps s₀ s)
    (hclear : ∀ {t}, Keeps s₀ t → Keeps s₀ (clear t)) (habort : ∀ {t}, Keeps s₀ t → Keeps s₀ (abort t))
    (hhalt : ∀ {t}, Keeps s₀ t → Keeps s₀ (halt t)) (hresume : ∀ {t}, Keeps s₀ t → Keeps s₀ (resume t)) :
    Keeps s₀ (unitCtrl v clear abort halt resume s) := by
  unfold unitCtrl
  extract_lets s1
  have h1 : Keeps s₀ s1 := .ite (hclear h) h
  exact .ite (habort h1) (.ite (hhalt h1) (.ite (hresume h1) h1))

protected theorem Keeps.drvConfig {d : Nat} {f : State → State} (h : Keeps s₀ s) (hf : ∀ {t}, Keeps s₀ t → Keeps s₀ (f t)) :
    Keeps s₀ (drvConfig d f s) :=
  .ite (hf h) h.flag

protected theorem Keeps.drvShare {d : Nat} {v : Word} (h : Keeps s₀ s) : Keeps s₀ (drvShare d v s) := .ite h.setFld h

protected theorem Keeps.drvStaging {d : Nat} {v : Word} (h : Keeps s₀ s) : Keeps s₀ (drvStaging d v s) := .ite h.flag h.setReg

protected theorem Keeps.writeOr {off : Nat} {f : Fld} {ok : Nat → Bool} {d : RDesc} {v : Word} (h : Keeps s₀ s) :
    Keeps s₀ (writeOr off f ok d v s) :=
  h.setReg

protected theorem Keeps.droversSee (h : Keeps s₀ s) : Keeps s₀ (droversSee s) := h.foldl fun ht => .ite ht.setFld.setTopo ht

protected theorem Keeps.colWrite {off : Nat} {v : Word} (h : Keeps s₀ s) : Keeps s₀ (colWrite off v s) :=
  .ite (.ite h.setReg.droversSee h.setReg) h.flag

protected theorem Keeps.recWriteReg {off : Nat} {d : RDesc} {v : Word} (h : Keeps s₀ s) : Keeps s₀ (recWriteReg off d v s) :=
  .ite h.flag (.ite h.writeOr.recStart (.ite h.writeOr h.setReg.recStart))

protected theorem Keeps.embConfig {off : Nat} {d : RDesc} {v : Word} (h : Keeps s₀ s) : Keeps s₀ (embConfig off d v s) :=
  .ite h.setReg h.flag

protected theorem Keeps.hmnWinWrite {v : Word} (h : Keeps s₀ s) : Keeps s₀ (hmnWinWrite v s) := .ite h (h.foldl fun ht => ht.setWin)

protected theorem Keeps.hmnThaw {m : Mst} {v : Word} (h : Keeps s₀ s) : Keeps s₀ (hmnThaw m v s) := h.thaw

protected theorem Keeps.logCtrl {v : Word} (h : Keeps s₀ s) : Keeps s₀ (logCtrl v s) :=
  .ite (.requestFlush (.ite h.logClear h)) (.ite h.logClear h)

protected theorem Keeps.schAck {c : Nat} {v : Word} (h : Keeps s₀ s) : Keeps s₀ (schAck c v s) := by
  unfold schAck
  split
  · exact h
  · exact h.schTake
  · exact h.schDone
  · exact h.schYield

protected theorem Keeps.adopt {l : List Region} (h : Keeps s₀ s) : Keeps s₀ (adopt s l) := h.foldl fun ht => ht.putRegions

protected theorem Keeps.kernelStart (h : Keeps s₀ s) : Keeps s₀ (kernelStart s) := by
  unfold kernelStart
  dsimp only
  refine .ite h.touch ?_
  split
  · exact h.touch.touch.adopt.writeMem
  · exact h.touch.touch.logFree

protected theorem Keeps.kernelReady {m : Mst} {v : Word} (h : Keeps s₀ s) : Keeps s₀ (kernelReady m v s) :=
  .ite h (.setFld (.ite h.kernelStart h))

/-- The action of a register's write, where it has one, keeps what every command keeps. -/
inductive KeepsBy (s₀ : State) : Option (State → State) → Prop
  | none : KeepsBy s₀ none
  | some {f : State → State} (h : ∀ {s}, Keeps s₀ s → Keeps s₀ (f s)) : KeepsBy s₀ (some f)

theorem KeepsBy.guard {c : Prop} {d : Decidable c} {f : State → State} (h : ∀ {s}, Keeps s₀ s → Keeps s₀ (f s)) :
    KeepsBy s₀ (@ite _ c d (Option.some f) Option.none) := by
  split
  · exact .some h
  · exact .none

theorem KeepsBy.guardNot {c : Prop} {d : Decidable c} {f : State → State} (h : ∀ {s}, Keeps s₀ s → Keeps s₀ (f s)) :
    KeepsBy s₀ (@ite _ c d Option.none (Option.some f)) := by
  split
  · exact .none
  · exact .some h

theorem keepsBy_regAction (m : Mst) (r : RegAt) (off : Nat) (v : Word) : KeepsBy s₀ (regAction m r off v) := by
  unfold regAction
  extract_lets n
  split
  · exact .some fun h => h.privOffer
  · exact .some fun h => h.privAccept
  · exact .some fun h => .ite h.clearCount h
  · exact .some fun h => h.hmnThaw
  · exact .some fun h => h.hmnWinWrite
  · exact .guard fun h => h
  · exact .some fun h => h.logCtrl
  · exact .guard fun h => h
  · exact .some fun h => h.strStage
  · exact .some fun h => h.strCommit
  · exact .some fun h => h.queBase
  · exact .some fun h => h.queBase
  · exact .some fun h => h.queCfg
  · exact .some fun h => .ite h.queueThaw h
  · exact .some fun h => h.corCtrl
  · exact .some fun h => h.corQuietWrite fun ht => ht.setReg
  · exact .some fun h => h.coreRetire
  · exact .some fun h => h.nanClear
  · exact .some fun h => h.corQuietWrite fun ht => ht.setReg
  · exact .some fun h => h.arrCtrl
  · exact .some fun h => h.unitCtrl (fun ht => ht.drClear) (fun ht => ht.drAbort) (fun ht => ht.drHalt) fun ht => ht.drResume
  · exact .some fun h => h.writeOr
  · exact .some fun h => h.drvConfig fun ht => ht.drvShare
  · exact .some fun h => h.drvConfig fun ht => ht.drvStaging
  · exact .some fun h => h.drvConfig fun ht => ht.setReg.setTopo
  · exact .some fun h => .ite h.clearPop h
  · exact .some fun h => h.writeOr
  · exact .some fun h => .ite (.scrubNow (.ite h.memClear h)) (.ite h.memClear h)
  · exact .some fun h => h.markWrite
  · exact .some fun h => .ite h.sramClear h
  · exact .some fun h => .ite (.retrain (.ite h.lnkClear h)) (.ite h.lnkClear h)
  · exact .some fun h => h.linkCommit
  · exact .some fun h => h.writeOr
  · exact .some fun h => h.colWrite
  · exact .some fun h => h.colWrite
  · exact .some fun h => .ite h.colClear h
  · exact .some fun h => h.unitCtrl (fun ht => ht) (fun ht => ht.engAbort) (fun ht => ht.engHalt) fun ht => ht.engResume
  · exact .some fun h => .ite (.recAbort (.ite h.recClear h)) (.ite h.recClear h)
  · exact .some fun h => h.recWriteReg
  · exact .some fun h => h.recWriteReg
  · exact .some fun h => h.recWriteReg
  · exact .some fun h => h.unitCtrl (fun ht => ht.trClear) (fun ht => ht.trAbort.rollRetry) (fun ht => ht.trHalt) fun ht => ht.trResume
  · exact .guard fun h => h.flag
  · exact .some fun h => h.setReg.beginReclass
  · exact .some fun h => .ite h.embClear h
  · exact .some fun h => h.embConfig
  · exact .some fun h => h.embConfig
  · exact .some fun h => .ite h.schClear h
  · exact .some fun h => h.setReg.schSettle
  · exact .some fun h => h.fwLoad
  · exact .some fun h => h.kernelReady
  · exact .some fun h => .ite h.deviceReset h
  · exact .some fun h => h.schPost
  · exact .some fun h => h.schAck
  · exact .some fun h => h.schCancel
  · exact .some fun h => h.standbyWrite
  · exact .some fun h => h.writeOr
  · exact .guardNot fun h => h
  · exact .some fun h => h.secCommand
  · exact .none

protected theorem Keeps.rwlLocked {m : Mst} {off : Nat} (h : Keeps s₀ s) : Keeps s₀ (rwlLocked m off s) := h.flag.log

protected theorem Keeps.regStore {m : Mst} {r : RegAt} {off : Nat} {v : Word} (h : Keeps s₀ s) : Keeps s₀ (regStore m r off v s) := by
  unfold regStore
  refine .ite h.rwlLocked ?_
  have hact := keepsBy_regAction (s₀ := s₀) m r off v
  generalize regAction m r off v = action at hact ⊢
  cases hact with
  | none => exact h.setReg
  | some hf => exact hf h

protected theorem Keeps.regWrite {m : Mst} {r : RegAt} {off : Nat} {v : Word} (h : Keeps s₀ s) : Keeps s₀ (regWrite m r off v s) :=
  .ite h h.rouseReg.regStore

protected theorem Keeps.mmioWrite {m : Mst} {off : Nat} {bs : List Byte} (h : Keeps s₀ s) : Keeps s₀ (mmioWrite m off bs s) := by
  unfold mmioWrite
  refine .ite h.violateAddr (.ite h.secWindowWrite ?_)
  split
  · exact h
  · exact .ite h.regWrite h

protected theorem Keeps.busWrite {m : Mst} {off : Nat} {bs : List Byte} (h : Keeps s₀ s) : Keeps s₀ (busWrite m off bs s) :=
  .ite h (.ite h.frozenCommand (.ite h (.ite h.violateAddr h.mmioWrite)))

protected theorem Keeps.writeOwn {m : Mst} {off v : Nat} (h : Keeps s₀ s) : Keeps s₀ (writeOwn m off v s) := h.busWrite

protected theorem Keeps.localWriteAs {passed : Bool} {m : Mst} {a : Nat} {bs : List Byte} (h : Keeps s₀ s) :
    KeepsIn s₀ (localWriteAs passed m a bs s).left := by
  unfold localWriteAs
  dsimp only
  split
  · split
    · exact .none
    · split
      · exact .some h.violateAddr
      · split
        · exact .some h.violateAddr
        · exact .some h.mmioWrite
  · exact h.localStoreAs

protected theorem Keeps.localWrite {m : Mst} {a : Nat} {bs : List Byte} (h : Keeps s₀ s) : KeepsIn s₀ (localWrite m a bs s).left :=
  h.localWriteAs

/-! ### How a context issues an instruction, how a running instruction goes on, and the memory accesses of the A-stream -/

protected theorem Keeps.issueOp {op : Nat} {f : Code → State → State} {c : Nat} {x d : Bool}
    (h : Keeps s₀ s) (hf : ∀ {a t}, Keeps s₀ t → Keeps s₀ (f a t)) : Keeps s₀ (issueOp op f c x d s) := by
  unfold issueOp
  refine .ite h ?_
  split
  · exact h.stall.afterCore
  · refine .ite h (.ite h ?_)
    split
    · rename_i e1
      exact (h.meetStaging.of_eq e1 rfl).stall.afterCore
    · rename_i s1 e1
      have h1 : Keeps s₀ s1 := h.meetStaging.of_eq e1 rfl
      split
      · exact .ite h h1.coreTrap
      · exact (hf h1.onCore).afterCore

protected theorem Keeps.startRun {w : Code} {unit : Nat} {bases nums : List Nat} {c : Nat} {x d : Bool} (h : Keeps s₀ s) :
    Keeps s₀ (startRun w unit bases nums c x d s) :=
  h.onCore.advance

protected theorem Keeps.putRun {c : Nat} {r : Run} (h : Keeps s₀ s) : Keeps s₀ (putRun s c r) := h.onCore

protected theorem Keeps.dropRun {c : Nat} {r : Run} (h : Keeps s₀ s) : Keeps s₀ (dropRun s c r) := h.onCore

protected theorem Keeps.finishRun {target c : Nat} {r : Run} (h : Keeps s₀ s) : Keeps s₀ (finishRun target s c r) := by
  unfold finishRun
  extract_lets s1 s2
  have h1 : Keeps s₀ s1 := h.dropRun.onCore
  have h2 : Keeps s₀ s2 := .ite h1.onCore h1
  exact .ite h1.coreStop (.ite h2.flag.coreTrap h2)

protected theorem Keeps.metWord {c : Nat} {r : Run} (h : Keeps s₀ s) : Keeps s₀ (metWord s c r).1 := by
  unfold metWord
  split
  · dsimp only
    exact h.onCore
  · exact h

protected theorem Keeps.driveRun {f : State → Nat → Run → RowRes} {target fuel c : Nat} {r : Run} (h : Keeps s₀ s)
    (hf : ∀ {t a b}, Keeps s₀ t → Keeps s₀ (f t a b).state) : Keeps s₀ (driveRun f target fuel s c r) := by
  induction fuel generalizing s r with
  | zero => exact h.putRun
  | succ fuel ih =>
    rw [driveRun]
    split
    · next e => exact ih (Keeps.of_eq (hf h) e rfl).metWord
    · next e => exact (Keeps.of_eq (hf h) e rfl).putRun
    · next e => exact (Keeps.of_eq (hf h) e rfl).metWord.finishRun
    · next e => exact (Keeps.of_eq (hf h) e rfl).abandon

protected theorem Keeps.dropStalled {c rid : Nat} (h : Keeps s₀ s) : Keeps s₀ (dropStalled s c rid) := by
  unfold dropStalled
  dsimp only
  split
  · exact .ite h.abandon h
  · exact h

protected theorem Keeps.goOn {op : Nat} {f : State → Nat → Run → RowRes} {tgt : State → Nat → Run → Nat} {c slot : Nat}
    (h : Keeps s₀ s) (hf : ∀ {t a b}, Keeps s₀ t → Keeps s₀ (f t a b).state) : Keeps s₀ (goOn op f tgt c slot s) := by
  unfold goOn
  dsimp only
  split
  · exact h
  · exact .ite h (.afterCore (.dropStalled (h.onCore.putRun.driveRun hf)))

protected theorem Keeps.startAndGo {f : State → Nat → Run → RowRes} {tgt : State → Nat → Run → Nat} {w : Code} {unit : Nat}
    {bases nums : List Nat} {c : Nat} {x d : Bool}
    (h : Keeps s₀ s) (hf : ∀ {t a b}, Keeps s₀ t → Keeps s₀ (f t a b).state) : Keeps s₀ (startAndGo f tgt w unit bases nums c x d s) := by
  unfold startAndGo
  dsimp only
  split
  · exact h.startRun.driveRun hf
  · exact h.startRun

protected theorem Keeps.pushRow {c q : Nat} {row : List Byte} (h : Keeps s₀ s) : Keeps s₀ (pushRow s c q row) := h.cleanWords.onCore

protected theorem Keeps.popRow {c q : Nat} (h : Keeps s₀ s) : Keeps s₀ (popRow s c q) := by
  unfold popRow
  exact (h.meetCore.update (by rfl)).onCore

protected theorem Keeps.wrongRow {c addr : Nat} (h : Keeps s₀ s) : Keeps s₀ (wrongRow s c addr) := h.flag.coreTrap

protected theorem Keeps.nanRecord {c : Nat} {r : Run} {idx : Nat} (h : Keeps s₀ s) : Keeps s₀ (nanRecord s c r idx) :=
  .ite h h.setReg.setReg

protected theorem Keeps.noteNan {c : Nat} {r : Run} {cls base : Nat} {nans : List Bool} (h : Keeps s₀ s) :
    Keeps s₀ (noteNan s c r cls base nans).1 := by
  unfold noteNan
  split
  · exact h
  · exact h.nanRecord

protected theorem Keeps.astreamBad {c code kind g : Nat} (h : Keeps s₀ s) : Keeps s₀ (astreamBad s c code kind g) := h.coreViolation

protected theorem Keeps.answerStop {c status kind g : Nat} (h : Keeps s₀ s) : Keeps s₀ (answerStop s c status kind g) :=
  .ite h.astreamBad h.coreStop

protected theorem Keeps.fetchAt {c : Nat} {r : Run} {place : Reach} {g n : Nat} (h : Keeps s₀ s) :
    Keeps s₀ (fetchAt s c r place g n).state := by
  unfold fetchAt
  dsimp only
  split
  · exact h
  · split
    · split <;> exact h
    · exact h.putRun.answerStop
  · split
    · exact h.astreamBad
    · split
      · rename_i e1
        exact h.localReadAs.of_eq e1 rfl
      · exact h
      · rename_i e1
        exact (h.localReadAs.of_eq e1 rfl).coreStop
    · split
      · exact h
      · split
        · exact h.astreamBad
        · exact h.request

protected theorem Keeps.withRank {c : Nat} {r : Run} {isLoc begun : Bool} {g : Nat} {k : State → Run → Fetch}
    (h : Keeps s₀ s) (hk : ∀ {t a}, Keeps s₀ t → Keeps s₀ (k t a).state) : Keeps s₀ (withRank s c r isLoc begun g k).state := by
  unfold withRank
  dsimp only
  split
  · exact hk h
  · split
    · exact h
    · exact hk h.touch

protected theorem Keeps.fetchBytes {c : Nat} {r : Run} {isLoc : Bool} {g n : Nat} (h : Keeps s₀ s) :
    Keeps s₀ (fetchBytes s c r isLoc g n).state :=
  h.withRank fun ht => ht.fetchAt

protected theorem Keeps.storeAt {c : Nat} {r : Run} {place : Reach} {g : Nat} (h : Keeps s₀ s) :
    Keeps s₀ (storeAt s c r place g).state := by
  unfold storeAt
  dsimp only
  split
  · exact h
  · split
    · split <;> exact h
    · exact h.putRun.answerStop
  · split
    · exact h.astreamBad
    · split
      · rename_i e1
        exact h.localWriteAs.of_eq e1 rfl
      · exact h
      · rename_i e1
        exact (h.localWriteAs.of_eq e1 rfl).coreStop
    · split
      · exact h
      · split
        · exact h.astreamBad
        · exact h.request

protected theorem Keeps.storeBytes {c : Nat} {r : Run} {isLoc : Bool} {g : Nat} (h : Keeps s₀ s) :
    Keeps s₀ (storeBytes s c r isLoc g).state :=
  h.withRank fun ht => ht.storeAt

protected theorem Keeps.answerRun {c rid status : Nat} {args : List Nat} {bs : List Byte} (h : Keeps s₀ s) :
    Keeps s₀ (answerRun s c rid status args bs) :=
  h.onCore

/-! ### The A-stream's instructions but for gathers -/

protected theorem Keeps.issueAccess {f : State → Nat → Run → RowRes} {tgt : State → Nat → Run → Nat} {bases : Ctx → Code → List Nat}
    {post : Ctx → Code → Ctx} {c : Nat} {d : Bool} {w : Code}
    (h : Keeps s₀ s) (hf : ∀ {t a b}, Keeps s₀ t → Keeps s₀ (f t a b).state) : Keeps s₀ (issueAccess f tgt bases post c d w s) :=
  .ite h.stall (.ite h.stall (h.onCore.startAndGo hf))

protected theorem Keeps.rowLoad {c : Nat} {r : Run} (h : Keeps s₀ s) : Keeps s₀ (rowLoad s c r).state := by
  unfold rowLoad
  dsimp only
  split
  · exact h
  · split
    · exact h
    · split
      · rename_i e
        exact (h.fetchBytes.of_eq e rfl).pushRow
      · rename_i e
        exact h.fetchBytes.of_eq e rfl
      · rename_i e
        exact h.fetchBytes.of_eq e rfl
      · rename_i e
        exact h.fetchBytes.of_eq e rfl

protected theorem Keeps.rowStore {c : Nat} {r : Run} (h : Keeps s₀ s) : Keeps s₀ (rowStore s c r).state := by
  unfold rowStore
  extract_lets k q fresh s0
  split
  · exact h
  · split
    · exact h
    · extract_lets r0
      have h0 : Keeps s₀ s0 := .ite h.popRow h
      split <;> next e => exact h0.storeBytes.of_eq e rfl

protected theorem Keeps.actOn {op : Nat} {issue : Code → State → State} {f : State → Nat → Run → RowRes} {tgt : State → Nat → Run → Nat}
    {c : Nat} {x d : Bool} {a : Act}
    (h : Keeps s₀ s) (hissue : ∀ {a t}, Keeps s₀ t → Keeps s₀ (issue a t))
      (hf : ∀ {t a b}, Keeps s₀ t → Keeps s₀ (f t a b).state) : Keeps s₀ (actOn op issue f tgt c x d a s) := by
  unfold actOn
  split
  · exact h.issueOp hissue
  · exact h.goOn hf

protected theorem Keeps.rowCopy {c : Nat} {r : Run} (h : Keeps s₀ s) : Keeps s₀ (rowCopy s c r).state := by
  unfold rowCopy
  dsimp only
  split
  · exact h
  · split
    · split <;> rename_i e1 <;> exact h.fetchBytes.of_eq e1 rfl
    · split <;> rename_i e <;> exact h.storeBytes.of_eq e rfl

protected theorem Keeps.reachLoader {c : Nat} {r : Run} (h : Keeps s₀ s) : Keeps s₀ (reachLoader s c r) := .ite h (h.update (by rfl))

protected theorem Keeps.leaveLoader {c : Nat} {r : Run} (h : Keeps s₀ s) : Keeps s₀ (leaveLoader s c r) := h.update (by rfl)

protected theorem Keeps.tileStep {c : Nat} {r : Run} (h : Keeps s₀ s) : Keeps s₀ (tileStep s c r).state := by
  unfold tileStep
  dsimp only
  split
  · split <;> rename_i e <;> exact h.fetchBytes.of_eq e rfl
  · split
    · exact h
    · split <;> rename_i e <;> exact h.storeBytes.of_eq e rfl

protected theorem Keeps.rowTload {c : Nat} {r : Run} (h : Keeps s₀ s) : Keeps s₀ (rowTload s c r).state := by
  unfold rowTload
  dsimp only
  split
  · exact h.leaveLoader
  · split
    · exact h.reachLoader.tileStep
    · exact h.reachLoader

protected theorem Keeps.waitGe {c : Nat} {d : Bool} {w : Code} (h : Keeps s₀ s) : Keeps s₀ (waitGe c d w s) :=
  .ite h.meetTally.advance h.meetTally.onCore.stall

protected theorem Keeps.subOp {c : Nat} {d : Bool} {w : Code} (h : Keeps s₀ s) : Keeps s₀ (subOp c d w s) :=
  .ite h.meetTally.advance (.ite h.meetTally.setFld.advance.tallyChanged h.meetTally.onCore.stall)

protected theorem Keeps.addLocal {c : Nat} {d : Bool} {t' n : Nat} (h : Keeps s₀ s) : Keeps s₀ (addLocal c d t' n s) := by
  unfold addLocal
  dsimp only
  exact .ite h.tallyAdd.advance h.tallyAdd.addLimit

protected theorem Keeps.holdAdd {c : Nat} {d : Bool} {core t' n : Nat} (h : Keeps s₀ s) : Keeps s₀ (holdAdd c d core t' n s) :=
  (h.update (by rfl)).onCore.advance

protected theorem Keeps.addRemote {c : Nat} {d : Bool} {dev core t' n : Nat} (h : Keeps s₀ s) :
    Keeps s₀ (addRemote c d dev core t' n s) := by
  unfold addRemote
  refine .ite h.coreViolation (.ite (.ite h.holdAdd ?_) ?_)
  · dsimp only
    exact .ite h.tallyAdd.advance h.tallyAdd.addLimit
  · dsimp only
    exact h.request.onCore.advance

protected theorem Keeps.addOp {c : Nat} {d : Bool} {w : Code} (h : Keeps s₀ s) : Keeps s₀ (addOp c d w s) :=
  .ite h.stall (.ite h.addRemote h.addLocal)

protected theorem Keeps.setxOp {add : Bool} {c : Nat} {d : Bool} {w : Code} (h : Keeps s₀ s) : Keeps s₀ (setxOp add c d w s) :=
  h.onCore.advance

protected theorem Keeps.fenceOp {c : Nat} {d : Bool} {x : Code} (h : Keeps s₀ s) : Keeps s₀ (fenceOp c d x s) := .ite h.advance h.stall

protected theorem Keeps.phaseOp {c : Nat} {d : Bool} {w : Code} (h : Keeps s₀ s) : Keeps s₀ (phaseOp c d w s) :=
  .ite h.stall h.onCore.advance

protected theorem Keeps.retireOp {c : Nat} {d : Bool} {w : Code} (h : Keeps s₀ s) : Keeps s₀ (retireOp c d w s) := h.onCore.advance

protected theorem Keeps.deferOp {c : Nat} {d : Bool} {w : Code} (h : Keeps s₀ s) : Keeps s₀ (deferOp c d w s) :=
  .ite h.stall h.onCore.advance

protected theorem Keeps.jumpOp {c : Nat} {x d : Bool} {w : Code} (h : Keeps s₀ s) : Keeps s₀ (jumpOp c x d w s) := h.onCore

protected theorem Keeps.loopOp {c : Nat} {x d : Bool} {w : Code} (h : Keeps s₀ s) : Keeps s₀ (loopOp c x d w s) := by
  unfold loopOp
  refine .ite ?_ h.onCore
  dsimp only
  split
  · rename_i a2 e
    have h1 : Keeps s₀ a2 := h.localRead.of_eq e rfl
    exact .ite h1.onCore.coreStop h1.onCore
  · exact h.stall
  · rename_i e
    exact (h.localRead.of_eq e rfl).coreStop

protected theorem Keeps.endOp {c : Nat} {x d : Bool} {x1 : Code} (h : Keeps s₀ s) : Keeps s₀ (endOp c x d x1 s) := h.onCore

protected theorem Keeps.nopOp {c : Nat} {x d : Bool} {x1 : Code} (h : Keeps s₀ s) : Keeps s₀ (nopOp c x d x1 s) := h.advance

/-! ### GATHER and SCATTER_ADD -/

protected theorem Keeps.gatherEnd {c : Nat} {r : Run} (h : Keeps s₀ s) : Keeps s₀ (gatherEnd s c r).state := by
  unfold gatherEnd
  split
  · exact h
  · exact h.dropRun.coreStop

protected theorem Keeps.roadTrap {c : Nat} {r : Run} (h : Keeps s₀ s) : Keeps s₀ (roadTrap s c r).state := h.putRun.coreTrap

protected theorem Keeps.aRead {c : Nat} {r : Run} {a n : Nat} {k : List Byte → State → Run → RowRes}
    (h : Keeps s₀ s) (hk : ∀ {a t b}, Keeps s₀ t → Keeps s₀ (k a t b).state) : Keeps s₀ (aRead s c r a n k).state := by
  unfold aRead
  split
  · rename_i e
    exact hk (h.localReadAs.of_eq e rfl)
  · exact h
  · rename_i e
    exact (h.localReadAs.of_eq e rfl).coreStop

protected theorem Keeps.onFetch {k : List Byte → State → Run → RowRes} {x : Fetch} (h : Keeps s₀ x.state)
    (hk : ∀ {b t r}, Keeps s₀ t → Keeps s₀ (k b t r).state) : Keeps s₀ (onFetch k x).state := by
  cases x with
  | got => exact hk h
  | again => exact h
  | hold => exact h
  | stop => exact h

protected theorem Keeps.aFetch {c : Nat} {r : Run} {place : Reach} {g n : Nat} {k : List Byte → State → Run → RowRes} (h : Keeps s₀ s)
    (hk : ∀ {b t r}, Keeps s₀ t → Keeps s₀ (k b t r).state) : Keeps s₀ (aFetch s c r place g n k).state :=
  Keeps.onFetch h.fetchAt hk

protected theorem Keeps.popComp {c : Nat} {r : Run} (h : Keeps s₀ s) : Keeps s₀ (popComp s c r).state := by
  unfold popComp
  dsimp only
  split
  · exact h
  · exact h.popRow

protected theorem Keeps.gatherHeader {c : Nat} {r : Run} (h : Keeps s₀ s) : Keeps s₀ (gatherHeader s c r).state := by
  unfold gatherHeader
  dsimp only
  split
  · split
    · exact h
    · exact h.roadTrap
  · split
    · exact h
    · refine h.aRead fun ht => ?_
      split
      · exact ht.roadTrap
      · exact ht

protected theorem Keeps.gatherTable {c : Nat} {r : Run} (h : Keeps s₀ s) : Keeps s₀ (gatherTable s c r).state := by
  unfold gatherTable
  refine Keeps.onFetch h.fetchBytes fun h1 => ?_
  extract_lets r1
  split
  · exact h1.flag.logFree
  · split
    · exact h1.flag.logFree
    · exact h1

protected theorem Keeps.withEdge {c : Nat} {r : Run} {n : Nat} {k : Nat → Nat → Nat → State → Run → RowRes}
    (h : Keeps s₀ s) (hk : ∀ {a b d t e}, Keeps s₀ t → Keeps s₀ (k a b d t e).state) : Keeps s₀ (withEdge s c r n k).state := by
  unfold withEdge
  refine h.aRead fun ht => ?_
  dsimp only
  split
  · exact ht.roadTrap
  · exact hk ht

protected theorem Keeps.withDest {c : Nat} {r : Run} {slot : Nat} {k : Nat → Nat → Nat → State → Run → RowRes}
    (h : Keeps s₀ s) (hk : ∀ {a b d t e}, Keeps s₀ t → Keeps s₀ (k a b d t e).state) : Keeps s₀ (withDest s c r slot k).state := by
  unfold withDest
  refine h.aRead fun ht => ?_
  dsimp only
  split
  · exact ht.roadTrap
  · exact hk ht

protected theorem Keeps.withSource {c : Nat} {r : Run} {src : Nat} {k : Nat → State → Run → RowRes}
    (h : Keeps s₀ s) (hk : ∀ {a t b}, Keeps s₀ t → Keeps s₀ (k a t b).state) : Keeps s₀ (withSource s c r src k).state := by
  unfold withSource
  split
  · exact hk h
  · split
    · exact hk h
    · exact h.aRead fun ht => hk ht

protected theorem Keeps.withIndex {c : Nat} {r : Run} {n : Nat} {k : Nat → State → Run → RowRes}
    (h : Keeps s₀ s) (hk : ∀ {a t b}, Keeps s₀ t → Keeps s₀ (k a t b).state) : Keeps s₀ (withIndex s c r n k).state := by
  unfold withIndex
  dsimp only
  split
  · exact hk h
  · exact h.aRead fun ht => hk ht

protected theorem Keeps.withRanges {c : Nat} {r : Run} {k : State → Run → RowRes}
    (h : Keeps s₀ s) (hk : ∀ {t a}, Keeps s₀ t → Keeps s₀ (k t a).state) : Keeps s₀ (withRanges s c r k).state := by
  unfold withRanges
  split
  · exact h.aRead fun ht => hk ht
  · exact hk h

protected theorem Keeps.withEntry {c : Nat} {r : Run} {key : Nat} {drop : State → Run → RowRes} {k : DirEnt → State → Run → RowRes}
    (h : Keeps s₀ s) (hdrop : ∀ {t a}, Keeps s₀ t → Keeps s₀ (drop t a).state)
      (hk : ∀ {a t b}, Keeps s₀ t → Keeps s₀ (k a t b).state) : Keeps s₀ (withEntry s c r key drop k).state := by
  unfold withEntry
  split
  · exact hk h
  · refine h.withRanges fun ht => ?_
    split
    · exact hdrop ht
    · refine ht.aFetch fun hu => ?_
      split
      · exact hdrop hu
      · exact hk hu

protected theorem Keeps.dropIndex {c : Nat} (h : Keeps s₀ s) : Keeps s₀ (dropIndex s c) := h.count

protected theorem Keeps.noteForward {c : Nat} (h : Keeps s₀ s) : Keeps s₀ (noteForward s c) := h.onCore

protected theorem Keeps.noteLimit {c : Nat} (h : Keeps s₀ s) : Keeps s₀ (noteLimit s c) := h.onCore

protected theorem Keeps.rowMoved {c : Nat} {r : Run} {key entry : Nat} (h : Keeps s₀ s) : Keeps s₀ (rowMoved s c r key entry).state := by
  unfold rowMoved
  dsimp only
  exact h.learnEntry.noteForward

protected theorem Keeps.askRow {c : Nat} {r : Run} {key : Nat} {e : DirEnt} {refused : State → Run → RowRes}
    {k : List FVal → State → Run → RowRes}
    (h : Keeps s₀ s) (hrefused : ∀ {t a}, Keeps s₀ t → Keeps s₀ (refused t a).state)
      (hk : ∀ {a t b}, Keeps s₀ t → Keeps s₀ (k a t b).state) : Keeps s₀ (askRow s c r key e refused k).state := by
  unfold askRow
  dsimp only
  split
  · exact h
  · split
    · exact hk h
    · split
      · exact h.rowMoved
      · split
        · exact hrefused h
        · exact h.putRun.answerStop
  · split
    · exact h
    · split
      · exact h.astreamBad
      · split
        · split
          · exact h
          · split
            · rename_i e4
              exact hk (h.nsrRow.of_eq e4 rfl)
            · rename_i e4
              exact (h.nsrRow.of_eq e4 rfl).rowMoved
            · rename_i e4
              exact hrefused (h.nsrRow.of_eq e4 rfl)
        · exact h.request

protected theorem Keeps.deliverRow {c : Nat} {r : Run} {vals : List FVal} (h : Keeps s₀ s) : Keeps s₀ (deliverRow s c r vals).state :=
  h.pushRow

protected theorem Keeps.gatherKey {key c : Nat} {r : Run} (h : Keeps s₀ s) : Keeps s₀ (gatherKey key s c r).state := by
  unfold gatherKey
  dsimp only
  split
  · exact h.deliverRow
  · split
    · exact h.dropIndex.deliverRow
    · split
      · exact h.deliverRow
      · split
        · split
          · exact h.deliverRow
          · exact h
        · exact h.withEntry (fun ht => ht.dropIndex.deliverRow) fun ht => ht.askRow (fun hu => hu.deliverRow) fun hu => hu.deliverRow

protected theorem Keeps.gatherPlain {c : Nat} {r : Run} (h : Keeps s₀ s) : Keeps s₀ (gatherPlain s c r).state := by
  unfold gatherPlain
  split
  · exact h.gatherEnd
  · split
    · exact h
    · split
      · exact h.withEdge fun ht => ht.withSource fun hu => hu.gatherKey
      · exact h.withIndex fun ht => ht.gatherKey

protected theorem Keeps.drainOuts {c : Nat} {r : Run} {k : State → Run → RowRes}
    (h : Keeps s₀ s) (hk : ∀ {t a}, Keeps s₀ t → Keeps s₀ (k t a).state) : Keeps s₀ (drainOuts s c r k).state := by
  unfold drainOuts
  split
  · exact hk h
  · split
    · exact h
    · exact h.pushRow

protected theorem Keeps.leaveRecord {c : Nat} {r : Run} {n weight : Nat} (h : Keeps s₀ s) :
    Keeps s₀ (leaveRecord s c r n weight).state := by
  unfold leaveRecord
  dsimp only
  split
  · exact h.noteNan
  · exact h

protected theorem Keeps.collectRecord {c : Nat} {r : Run} {n src weight : Nat} (h : Keeps s₀ s) :
    Keeps s₀ (collectRecord s c r n src weight).state := by
  unfold collectRecord
  dsimp only
  split
  · exact h.popComp
  · split
    · exact h.leaveRecord
    · refine h.withSource fun ht => ?_
      split
      · exact ht.dropIndex.leaveRecord
      · split
        · exact ht.leaveRecord
        · split
          · split
            · exact ht.leaveRecord
            · exact ht
          · exact ht.withEntry (fun hu => hu.dropIndex.leaveRecord) fun hu => hu.leaveRecord

protected theorem Keeps.groupMoved {c : Nat} {r : Run} {l : List Nat} (h : Keeps s₀ s) : Keeps s₀ (groupMoved s c r l).state := by
  unfold groupMoved
  refine .pair_of RowRes.state (fun _ _ _ => rfl) (Keeps.foldl_of Prod.snd h ?_) fun h1 => h1.noteForward
  intro p x hp
  split
  · exact hp.learnEntry
  · exact hp

protected theorem Keeps.groupRefused {r : Run} {l : List Nat} (h : Keeps s₀ s) : Keeps s₀ (groupRefused s r l).state := h

protected theorem Keeps.askGroup {c : Nat} {r : Run} {x : Asked} (h : Keeps s₀ s) : Keeps s₀ (askGroup s c r x).state := by
  unfold askGroup
  dsimp only
  split
  · exact h
  · split
    · exact h
    · split
      · exact h.groupMoved
      · split
        · exact h.groupRefused
        · exact h.putRun.answerStop
  · split
    · exact h
    · split
      · exact h.astreamBad
      · split
        · split
          · exact h
          · split
            · rename_i e3
              exact h.nsrReduce.of_eq e3 rfl
            · rename_i e3
              exact (h.nsrReduce.of_eq e3 rfl).groupMoved
            · rename_i e3
              exact (h.nsrReduce.of_eq e3 rfl).groupRefused
        · exact h.request

protected theorem Keeps.finishDest {c : Nat} {r : Run} (h : Keeps s₀ s) : Keeps s₀ (finishDest s c r).state := by
  unfold finishDest
  dsimp only
  exact h.noteNan

protected theorem Keeps.gatherAgg {c : Nat} {r : Run} (h : Keeps s₀ s) : Keeps s₀ (gatherAgg s c r).state := by
  unfold gatherAgg
  refine h.drainOuts fun ht => ?_
  dsimp only
  split
  · split
    · split
      · exact ht.gatherEnd
      · split
        · exact ht
        · exact ht.gatherEnd
    · exact ht.withDest fun hu => hu
  · split
    · split
      · exact ht
      · refine ht.withEdge fun hu => ?_
        split
        · exact hu
        · exact hu.collectRecord
    · split
      · exact ht.askGroup
      · split
        · exact ht
        · exact ht.finishDest

protected theorem Keeps.rowGather {c : Nat} {r : Run} (h : Keeps s₀ s) : Keeps s₀ (rowGather s c r).state := by
  unfold rowGather
  split
  · exact h.gatherHeader
  · split
    · exact h.gatherTable
    · split
      · exact h.gatherPlain
      · exact h.gatherAgg

protected theorem Keeps.recordAnswer {c : Nat} {r : Run} {key st word g : Nat} {bs : List Byte} {left : Bool} (h : Keeps s₀ s) :
    Keeps s₀ (recordAnswer s c r key st word g bs left).state := by
  unfold recordAnswer
  dsimp only
  split
  · split <;> exact h
  · split
    · exact h.noteLimit
    · split
      · exact h.rowMoved
      · split
        · exact h
        · exact h.putRun.answerStop

protected theorem Keeps.sendRecord {c : Nat} {r : Run} {key : Nat} {e : DirEnt} {vals : List FVal} (h : Keeps s₀ s) :
    Keeps s₀ (sendRecord s c r key e vals).state := by
  unfold sendRecord
  extract_lets g n codes bs left s0
  have h0 : Keeps s₀ s0 := .ite h.setFld h
  split
  · exact h
  · exact h.recordAnswer
  · split
    · exact h
    · split
      · exact h.astreamBad
      · split
        · split
          · exact h
          · exact .triple_of RowRes.state (fun _ _ _ _ => rfl) h0.recordIn fun h1 => h1.recordAnswer
        · exact h0.request

protected theorem Keeps.scatterKey {key c : Nat} {r : Run} {vals : List FVal} (h : Keeps s₀ s) :
    Keeps s₀ (scatterKey key s c r vals).state := by
  unfold scatterKey
  dsimp only
  split
  · exact h
  · split
    · exact h.dropIndex
    · split
      · exact h
      · exact h.withEntry (fun ht => ht.dropIndex) fun ht => ht.sendRecord

protected theorem Keeps.popGrad {c : Nat} {r : Run} (h : Keeps s₀ s) : Keeps s₀ (popGrad s c r).state := by
  unfold popGrad
  dsimp only
  split
  · exact .ite h.popRow.popRow h.popRow
  · exact h
  · exact h

protected theorem Keeps.scatterEdge {c : Nat} {r : Run} {n : Nat} (h : Keeps s₀ s) : Keeps s₀ (scatterEdge s c r n).state := by
  unfold scatterEdge
  refine h.withEdge fun ht => ht.withDest fun hu => ?_
  dsimp only
  split
  · exact hu.popGrad
  · split
    · exact hu.popComp
    · split
      · exact hu
      · exact hu.withSource fun hv => hv.scatterKey

protected theorem Keeps.scatterMain {c : Nat} {r : Run} (h : Keeps s₀ s) : Keeps s₀ (scatterMain s c r).state := by
  unfold scatterMain
  dsimp only
  split
  · split
    · split
      · exact h.popGrad
      · exact h.gatherEnd
    · exact h.scatterEdge
  · split
    · exact h.gatherEnd
    · split
      · exact h.popGrad
      · exact h.withIndex fun ht => ht.scatterKey

protected theorem Keeps.rowScatter {c : Nat} {r : Run} (h : Keeps s₀ s) : Keeps s₀ (rowScatter s c r).state := by
  unfold rowScatter
  split
  · exact h.gatherHeader
  · split
    · exact h.gatherTable
    · exact h.scatterMain

/-! ### The X-stream's units -/

protected theorem Keeps.xStep {total : Nat} {qs : List Nat} {ready : Bool} {body : State → Run → RowRes} {c : Nat} {r : Run}
    (h : Keeps s₀ s) (hbody : ∀ {t a}, Keeps s₀ t → Keeps s₀ (body t a).state) : Keeps s₀ (xStep total qs ready body s c r).state := by
  unfold xStep
  dsimp only
  split
  · split
    · exact h.wrongRow
    · split
      · exact h
      · exact h.pushRow
  · split
    · exact h
    · split
      · exact h
      · split
        · split
          · exact h.popRow
          · exact h
        · exact hbody h

protected theorem Keeps.fillRow {shadow : Bool} {vals metas c sub : Nat} {r : Run} {w : Code} (h : Keeps s₀ s) :
    Keeps s₀ (fillRow shadow vals metas s c sub r w).state := by
  unfold fillRow
  dsimp only
  split
  · exact h
  · split
    · exact h
    · exact .ite h.popRow.onCore.count h.popRow.onCore

protected theorem Keeps.takeDescriptor {c sub : Nat} {r : Run} (h : Keeps s₀ s) : Keeps s₀ (takeDescriptor s c sub r).state := by
  unfold takeDescriptor
  dsimp only
  split
  · exact h
  · split
    · exact h.popRow.coreTrap
    · exact h.popRow.onCore.count

protected theorem Keeps.rowMload {c : Nat} {r : Run} (h : Keeps s₀ s) : Keeps s₀ (rowMload s c r).state := by
  unfold rowMload
  extract_lets w sub p half
  split
  · exact h.takeDescriptor
  · split
    · next s1 r1 e =>
      have h1 : Keeps s₀ s1 := h.fillRow.of_eq e rfl
      exact h1.onCore (c := c)
    · exact h.fillRow

protected theorem Keeps.onLane {c sub : Nat} {d : Bool} {f : State → State} (h : Keeps s₀ s) (hf : ∀ {t}, Keeps s₀ t → Keeps s₀ (f t)) :
    Keeps s₀ (onLane c sub d f s) := by
  unfold onLane
  refine .ite h.stall ?_
  split
  · exact hf h
  · exact .ite h.stall (hf h.onCore)

protected theorem Keeps.mloadOp {c : Nat} {d : Bool} {w : Code} (h : Keeps s₀ s) : Keeps s₀ (mloadOp c d w s) := by
  unfold mloadOp
  exact h.onLane fun ht => .ite ht.stall (ht.onCore.startAndGo fun hu => hu.rowMload)

protected theorem Keeps.rowMswap {c : Nat} {r : Run} (h : Keeps s₀ s) : Keeps s₀ (rowMswap s c r).state := by
  unfold rowMswap
  extract_lets sub x
  split
  · split
    · exact h.onCore (c := c)
    · exact h
  · split
    · split
      · exact h.fillRow
      · exact h
    · exact h

protected theorem Keeps.mswapOp {c : Nat} {d : Bool} {w : Code} (h : Keeps s₀ s) : Keeps s₀ (mswapOp c d w s) :=
  h.onLane fun ht => .ite ht.stall (ht.startAndGo fun hu => hu.rowMswap)

protected theorem Keeps.dropCounts {c w3 : Nat} (h : Keeps s₀ s) : Keeps s₀ (dropCounts s c w3) := .ite h.popRow.onCore h

protected theorem Keeps.epiOp {c : Nat} {d : Bool} {w : Code} (h : Keeps s₀ s) : Keeps s₀ (epiOp c d w s) := by
  unfold epiOp
  exact h.onLane fun ht => .ite ht.stall (.advance (.setReg (.ite ht.dropCounts ht)))

protected theorem Keeps.takeCount {c q : Nat} (h : Keeps s₀ s) : KeepsIn s₀ ((takeCount s c q).map (·.2)) := by
  unfold takeCount
  dsimp only
  split
  · exact .none
  · exact .some (.ite h.onCore h.popRow.onCore)

protected theorem Keeps.useTile {c : Nat} {w : Code} (h : Keeps s₀ s) : Keeps s₀ (useTile s c w) := h.onCore

protected theorem Keeps.mstreamHead {c : Nat} {r : Run} (h : Keeps s₀ s) : KeepsIn s₀ ((mstreamHead s c r).map RowRes.state) := by
  unfold mstreamHead
  extract_lets w k shadow bank row n s1
  have h1 : Keeps s₀ s1 := .ite (h.foldl fun ht => ht.exchangeSeg) h
  split
  · split
    · exact .some h
    · next e =>
      have h2 := h.takeCount.of_eq e rfl
      split
      · exact .some h2.coreTrap
      · exact .some h2
  · split
    · exact .some h.useTile
    · split
      · exact .some h
      · split
        · exact .some h
        · split
          · split
            · exact .some h.coreTrap
            · exact .some h1
          · exact .none

protected theorem Keeps.toAcc {c : Nat} {r : Run} {i : Nat} {vs : List FVal} (h : Keeps s₀ s) : Keeps s₀ (toAcc s c r i vs).1 := by
  unfold toAcc
  dsimp only
  split
  · exact .segSpill (.noteNan (.ite (.ite h.meetCore.putAcc h.putAcc.onCore) (.ite (.ite h.segAdd h.segOverwrite) h.segCombine)))
  · exact .noteNan (.ite (.ite h.meetCore.putAcc h.putAcc.onCore) (.ite (.ite h.segAdd h.segOverwrite) h.segCombine))

protected theorem Keeps.putStats {c : Nat} {r : Run} {i m v : Nat} (h : Keeps s₀ s) : Keeps s₀ (putStats s c r i m v).1 :=
  h.putAcc.onCore.noteNan

protected theorem Keeps.toQout {c : Nat} {r : Run} {i : Nat} {vs : List FVal} (h : Keeps s₀ s) : Keeps s₀ (toQout s c r i vs).1 := by
  unfold toQout
  dsimp only
  split
  · exact h.noteNan
  · split
    · exact .noteNan (.ite (.finalRow (.ite h.finalRow h)) (.ite h.finalRow h))
    · exact .putStats (.ite h.noteNan h.noteNan.finalRow)

protected theorem Keeps.showRow {c : Nat} {r : Run} {masked : Bool} (h : Keeps s₀ s) : Keeps s₀ (showRow s c r masked).1 := by
  unfold showRow
  dsimp only
  split
  · exact h.count
  · exact h.wide

protected theorem Keeps.deliverOut {c : Nat} {r : Run} {i : Nat} {o : Option (List FVal)} (h : Keeps s₀ s) :
    Keeps s₀ (deliverOut s c r i o).1 := by
  unfold deliverOut
  dsimp only
  split
  · exact h.toQout
  · split
    · exact h
    · exact h.toAcc

protected theorem Keeps.outRow {c : Nat} {r : Run} {o : Option (List FVal)} (h : Keeps s₀ s) : Keeps s₀ (outRow s c r o).state := by
  unfold outRow
  dsimp only
  exact .ite h.deliverOut.useTile h.deliverOut

protected theorem Keeps.mstreamRow {c : Nat} {r : Run} (h : Keeps s₀ s) : Keeps s₀ (mstreamRow s c r).state := by
  unfold mstreamRow
  dsimp only
  exact h.showRow.outRow

protected theorem Keeps.stolenRow {c : Nat} {r : Run} {z : Steal} (h : Keeps s₀ s) : Keeps s₀ (stolenRow s c r z).state := by
  unfold stolenRow
  split
  · split
    · exact h
    · exact .ite h.useTile h
  · split
    · exact h.outRow
    · exact h

protected theorem Keeps.mstreamEnd {c : Nat} {r : Run} (h : Keeps s₀ s) : Keeps s₀ (mstreamEnd s c r).state := by
  unfold mstreamEnd
  split
  · exact h
  · split
    · exact h
    · exact h.dropRun.log.msixBoth.coreStop

protected theorem Keeps.ownRow {c : Nat} {r : Run} (h : Keeps s₀ s) : Keeps s₀ (ownRow s c r).state := by
  unfold ownRow
  dsimp only
  split
  · split
    · exact h
    · exact h.popRow
  · exact h.xStep fun ht => ht.mstreamRow

protected theorem Keeps.rowMstream {c : Nat} {r : Run} (h : Keeps s₀ s) : Keeps s₀ (rowMstream s c r).state := by
  unfold rowMstream
  split
  · exact h.ownRow
  · split
    · next e => exact (Keeps.mstreamHead h).of_eq e rfl
    · split
      · exact h.mstreamEnd
      · split
        · exact h.stolenRow
        · exact h.ownRow

protected theorem Keeps.mstreamOp {c : Nat} {d : Bool} {w : Code} (h : Keeps s₀ s) : Keeps s₀ (mstreamOp c d w s) := by
  unfold mstreamOp
  exact h.onLane fun ht => .ite ht.stall (ht.startAndGo fun hu => hu.rowMstream)

protected theorem Keeps.chunkRow {c : Nat} {r : Run} {z : Steal} (h : Keeps s₀ s) : KeepsIn s₀ ((chunkRow s c r z).map (·.1)) := by
  unfold chunkRow
  dsimp only
  split
  · exact .some (.showRow (.ite (.popRow (.popRow (.ite h.popRow h))) (.popRow (.ite h.popRow h))))
  · exact .none

protected theorem Keeps.fillChunk {fuel c : Nat} {r : Run} {z : Steal} (h : Keeps s₀ s) : Keeps s₀ (fillChunk fuel s c r z).1 := by
  induction fuel generalizing s r z with
  | zero => exact h
  | succ fuel ih =>
    rw [fillChunk]
    split
    · exact h
    · split
      · next e => exact ih (h.chunkRow.of_eq e rfl)
      · exact h

protected theorem Keeps.rowsTo {limit c : Nat} {r : Run} (h : Keeps s₀ s) : Keeps s₀ (rowsTo limit s c r).state := by
  unfold rowsTo
  split
  · exact h
  · exact h.rowMstream

protected theorem Keeps.deliverChunk {c rid limit : Nat} (h : Keeps s₀ s) : Keeps s₀ (deliverChunk s c rid limit) := by
  unfold deliverChunk
  split
  · exact .afterCore (.onCore (h.driveRun fun ht => ht.rowsTo))
  · exact h

protected theorem Keeps.workChunk {c : Nat} {r : Run} {z : Steal} (h : Keeps s₀ s) : Keeps s₀ (workChunk s c r z) := by
  unfold workChunk
  dsimp only
  exact h.fillChunk.onCore.putRun.deliverChunk

protected theorem Keeps.takeChunk {c : Nat} {r : Run} {z : Steal} (h : Keeps s₀ s) : Keeps s₀ (takeChunk s c r z) := by
  unfold takeChunk
  dsimp only
  exact .ite h h.fillChunk.count.onCore.putRun.deliverChunk

protected theorem Keeps.steal {c sub : Nat} (h : Keeps s₀ s) : Keeps s₀ (steal c sub s) := by
  unfold steal
  refine .ite h ?_
  split
  · split
    · exact h.onCore
    · exact .ite h.workChunk (.ite h.takeChunk h)
  · split
    · exact h.takeChunk
    · exact h

protected theorem Keeps.chunkArrives {c : Nat} {r : Run} {z : Steal} (h : Keeps s₀ s) : Keeps s₀ (chunkArrives s c r z) := by
  unfold chunkArrives
  refine .first_of (fun t => t) (fun _ _ _ => rfl) (Keeps.foldl_of Prod.fst h ?_) fun h1 => h1.onCore.putRun.deliverChunk.onCore
  intro a p ha
  split
  · exact ha.toAcc
  · exact ha

protected theorem Keeps.crossSteal {thief c : Nat} (h : Keeps s₀ s) : Keeps s₀ (crossSteal thief c s) := by
  unfold crossSteal
  refine .ite h ?_
  split
  · split
    · exact h.onCore.onCore
    · exact .ite h.workChunk h.chunkArrives
  · split
    · exact h.takeChunk
    · exact h

/-! ### The vector engine -/

protected theorem Keeps.vecIssue {f : State → Nat → Run → RowRes} {nums : List Nat} {c : Nat} {d : Bool} {w : Code}
    (h : Keeps s₀ s) (hf : ∀ {t a b}, Keeps s₀ t → Keeps s₀ (f t a b).state) : Keeps s₀ (vecIssue f nums c d w s) :=
  .ite h.stall (h.startAndGo hf)

protected theorem Keeps.finalOp {c i g n : Nat} {a : Opnd} (h : Keeps s₀ s) : Keeps s₀ (finalOp s c i g n a) := by
  unfold finalOp
  split
  · exact h.finalRows
  · exact h

protected theorem Keeps.deliverVec {c i : Nat} {r : Run} {o : Opnd} {bits : Nat} {es : List Nat} (h : Keeps s₀ s) :
    Keeps s₀ (deliverVec s c i r o bits es).1 := by
  unfold deliverVec
  split
  · exact h
  · exact h.vecWrite
  · exact h

protected theorem Keeps.vecRow {c : Nat} {r : Run} (h : Keeps s₀ s) : Keeps s₀ (vecRow s c r).state := by
  unfold vecRow
  dsimp only
  split
  · exact .deliverVec (.ite h.finalOp.finalOp.finalOp h.finalOp.finalOp)
  · exact .noteNan (.deliverVec (.ite h.finalOp.finalOp.finalOp h.finalOp.finalOp))

protected theorem Keeps.rowVec {c : Nat} {r : Run} (h : Keeps s₀ s) : Keeps s₀ (rowVec s c r).state := by
  unfold rowVec
  exact h.xStep fun ht => ht.vecRow

protected theorem Keeps.cvtRow {c : Nat} {r : Run} (h : Keeps s₀ s) : Keeps s₀ (cvtRow s c r).state := by
  unfold cvtRow
  dsimp only
  refine Keeps.foldl_of Prod.fst h.finalOp fun {_ _} hacc => ?_
  split
  · exact hacc.deliverVec.noteNan
  · exact hacc.deliverVec

protected theorem Keeps.rowCvt {c : Nat} {r : Run} (h : Keeps s₀ s) : Keeps s₀ (rowCvt s c r).state := by
  unfold rowCvt
  exact h.xStep fun ht => ht.cvtRow

protected theorem Keeps.compressTile {c : Nat} {r : Run} (h : Keeps s₀ s) : Keeps s₀ (compressTile s c r).state := by
  unfold compressTile
  dsimp only
  exact h.count.count.noteNan

protected theorem Keeps.rowCompress {c : Nat} {r : Run} (h : Keeps s₀ s) : Keeps s₀ (rowCompress s c r).state :=
  h.xStep fun ht => ht.compressTile

protected theorem Keeps.expertRow {c : Nat} {r : Run} (h : Keeps s₀ s) : Keeps s₀ (expertRow s c r).state := by
  unfold expertRow
  dsimp only
  split
  · exact h
  · exact h.count

protected theorem Keeps.rowExpert {c : Nat} {r : Run} (h : Keeps s₀ s) : Keeps s₀ (rowExpert s c r).state := h.xStep fun ht => ht.expertRow

protected theorem Keeps.reduceRow0 {c : Nat} {r : Run} (h : Keeps s₀ s) : Keeps s₀ (reduceRow0 s c r).state := by
  unfold reduceRow0
  dsimp only
  split
  · exact h.finalOp
  · split
    · exact h.finalOp.deliverVec.noteNan
    · exact h.finalOp.deliverVec

protected theorem Keeps.reduceRow1 {c : Nat} {r : Run} (h : Keeps s₀ s) : Keeps s₀ (reduceRow1 s c r).state := by
  unfold reduceRow1
  dsimp only
  split
  · split
    · refine .deliverVec ?_
      split
      · exact h.finalOp.noteNan
      · exact h.finalOp
    · split
      · exact h.finalOp.noteNan
      · exact h.finalOp
  · dsimp only
    split
    · exact h.finalOp.noteNan.deliverVec
    · exact h.finalOp.noteNan

protected theorem Keeps.rowReduce {c : Nat} {r : Run} (h : Keeps s₀ s) : Keeps s₀ (rowReduce s c r).state := by
  unfold rowReduce
  refine h.xStep fun ht => ?_
  split
  · exact ht.reduceRow1
  · exact ht.reduceRow0

protected theorem Keeps.updRow {c : Nat} {r : Run} (h : Keeps s₀ s) : Keeps s₀ (updRow s c r).state := by
  unfold updRow
  extract_lets w k q opt rem par wf gf wRow gRow rRow o mRow vRow r0 outsOf
  split
  · exact h
  · refine .first_of RowRes.state (fun _ _ _ => rfl) h.noteNan fun h1 => ?_
    split
    · exact h1
    · exact .first_of RowRes.state (fun _ _ _ => rfl) h1.noteNan fun h2 =>
        .first_of RowRes.state (fun _ _ _ => rfl) h2.noteNan fun h3 => h3

protected theorem Keeps.rowUpdate {c : Nat} {r : Run} (h : Keeps s₀ s) : Keeps s₀ (rowUpdate s c r).state := by
  unfold rowUpdate
  extract_lets w k q opt qs
  split
  · split
    · exact h
    · exact h.onCore (c := c)
    · exact h
  · split
    · split
      · exact h
      · exact h.popRow
    · exact h.xStep fun h1 => h1.updRow

/-! ### Program starts, block fetches, transfer checks, the stall limit and deferred work -/

protected theorem Keeps.dropInbox {c : Nat} (h : Keeps s₀ s) : Keeps s₀ (s.dropInbox c) := h.onCore

protected theorem Keeps.startCmd {c : Nat} (h : Keeps s₀ s) : Keeps s₀ (startCmd c s) := by
  unfold startCmd
  dsimp only
  split
  · exact h
  · exact .ite h (.ite h.dropInbox.complete (.ite h.dropInbox.frozenCommand.complete h.dropInbox.onCore))

protected theorem Keeps.startTallies {c : Nat} {h' : List Byte} (h : Keeps s₀ s) : Keeps s₀ (startTallies c h' s) :=
  h.foldl fun ht => .ite ht ht.setReg

protected theorem Keeps.clearEpi {c : Nat} (h : Keeps s₀ s) : Keeps s₀ (clearEpi c s) := h.foldl fun ht => ht.setReg

protected theorem Keeps.refuseStart {c status : Nat} (h : Keeps s₀ s) : Keeps s₀ (refuseStart s c status) := h.onCore.endCmd

protected theorem Keeps.measureStart {c addr : Nat} {h' : List Byte} (h : Keeps s₀ s) : Keeps s₀ (measureStart c addr h' s) :=
  .ite h h.extend.setFld.onCore

protected theorem Keeps.programStart {c : Nat} (h : Keeps s₀ s) : Keeps s₀ (programStart c s) := by
  unfold programStart
  dsimp only
  split
  · exact h
  · refine .ite h (.ite h.refuseStart (.ite h.refuseStart ?_))
    split
    · exact h
    · rename_i e1
      exact (h.localRead.of_eq e1 rfl).onCore.coreStop
    · rename_i t1 e1
      have h1 : Keeps s₀ t1 := h.localRead.of_eq e1 rfl
      exact .ite h1.refuseStart (.ite h1.refuseStart h1.startTallies.clearEpi.setFld.onCore.measureStart)

protected theorem Keeps.blockFetch {c : Nat} {x : Bool} {b : Nat} (h : Keeps s₀ s) : Keeps s₀ (blockFetch c x b s) := by
  unfold blockFetch
  refine .ite h ?_
  dsimp only
  split
  · exact h
  · rename_i e
    exact (h.localRead.of_eq e rfl).coreStop
  · rename_i t1 e
    have h1 : Keeps s₀ t1 := h.localRead.of_eq e rfl
    split
    · exact h
    · rename_i e1
      exact (h1.localRead.of_eq e1 rfl).coreStop
    · rename_i e1
      exact (h1.localRead.of_eq e1 rfl).wide.onCore.afterCore

protected theorem Keeps.transferChecked {c : Nat} (h : Keeps s₀ s) : Keeps s₀ (transferChecked c s) := by
  unfold transferChecked
  extract_lets k
  split
  · exact h
  · refine .ite h (.triple (fun _ _ _ _ => rfl) h.readMem fun h1 => ?_)
    exact .ite h1.onCore.coreStop (.ite h1.onCore.afterCore h1.onCore.flag.setReg.setReg.setReg.coreTrap)

protected theorem Keeps.stallTimeout {c : Nat} (h : Keeps s₀ s) : Keeps s₀ (stallTimeout c s) := .ite h.flag.coreTrap h

protected theorem Keeps.deferSwitch {c : Nat} {x : Bool} (h : Keeps s₀ s) : Keeps s₀ (deferSwitch c x s) :=
  .ite h (.ite (.ite h.onCore h) (.ite h.setCore h))

/-! ### The Wydak gather of a queue pair -/

protected theorem Keeps.wydakRows {m : Mst} {base rb bias : Nat} {l : List (Nat × Nat)} (h : Keeps s₀ s) :
    KeepsIn s₀ (wydakRows m base rb bias l s).left := by
  induction l generalizing s with
  | nil => exact .some h
  | cons p t ih =>
    obtain ⟨w, dst⟩ := p
    rw [wydakRows]
    generalize hrow : (if w % 2 ^ 24 = 0xFFFFFF then Access.done _ _ _ else _) = row
    have h0 : KeepsIn s₀ row.left := by
      subst hrow
      split
      · exact .some h
      · split
        · exact .some h.violateAddr
        · exact h.localRead
    split
    · exact .none
    · cases h0 with
      | some h1 => exact .some h1
    · cases h0 with
      | some h1 =>
        split
        · exact .some h1
        · split
          · exact .none
          · next e => exact .some (h1.localWrite.of_eq e rfl)
          · next e =>
            have h2 := h1.localWrite.of_eq e rfl
            split
            · exact .some h2
            · exact ih h2

protected theorem Keeps.wydakGather {d : Nat} (h : Keeps s₀ s) : Keeps s₀ (wydakGather d s) := by
  unfold wydakGather
  dsimp only
  split
  · exact h
  · refine .ite h.dropDr.frozenCommand.setDrover.complete ?_
    split
    · exact h
    · rename_i e1
      exact (h.dropDr.localRead.of_eq e1 rfl).setDrover.complete
    · rename_i t1 e1
      have h1 : Keeps s₀ t1 := h.dropDr.localRead.of_eq e1 rfl
      refine .ite h1.setDrover.complete ?_
      split
      · exact h
      · rename_i e2
        exact (h1.wydakRows.of_eq e2 rfl).setDrover.complete
      · rename_i e2
        exact (h1.wydakRows.of_eq e2 rfl).setDrover.complete

/-! ### The services of the control kernel -/

protected theorem Keeps.finishSvc {v : Svc} {status result : Nat} (h : Keeps s₀ s) : Keeps s₀ (finishSvc v status result s) :=
  (h.update (by rfl)).complete

protected theorem Keeps.frozenSvc {v : Svc} {code : Nat} (h : Keeps s₀ s) : Keeps s₀ (frozenSvc v code s) := (h.update (by rfl)).complete

protected theorem Keeps.parkSvc {v : Svc} {phase tick : Nat} (h : Keeps s₀ s) : Keeps s₀ (parkSvc v phase tick s) := h.update (by rfl)

protected theorem Keeps.serveNow {c code : Nat} {wait : List Byte → State → Bool} {f : List Byte → State → Nat × Nat × State}
    (h : Keeps s₀ s) (hf : ∀ {a t}, Keeps s₀ t → Keeps s₀ (f a t).2.2) : Keeps s₀ (serveNow c code wait f s) := by
  unfold serveNow
  dsimp only
  split
  · exact h
  · exact .ite h ((hf h).finishSvc)

protected theorem Keeps.allocSvc {d : List Byte} (h : Keeps s₀ s) : Keeps s₀ (allocSvc d s).2.2 := by
  unfold allocSvc
  dsimp only
  exact h.allocate

protected theorem Keeps.freeSvc {d : List Byte} (h : Keeps s₀ s) : Keeps s₀ (freeSvc d s).2.2 := by
  unfold freeSvc
  dsimp only
  exact h.freeRegion

protected theorem Keeps.echoSvc {d : List Byte} (h : Keeps s₀ s) : Keeps s₀ (echoSvc d s).2.2 := h

protected theorem Keeps.pastureFreeSvc {d : List Byte} (h : Keeps s₀ s) : Keeps s₀ (pastureFreeSvc d s).2.2 := by
  unfold pastureFreeSvc
  dsimp only
  split <;> exact h.touch

protected theorem Keeps.delayStart {c : Nat} (h : Keeps s₀ s) : Keeps s₀ (delayStart c s) := by
  unfold delayStart
  split
  · exact h
  · exact h.parkSvc

protected theorem Keeps.delayExpiry {i : Nat} (h : Keeps s₀ s) : Keeps s₀ (delayExpiry i s) := by
  unfold delayExpiry
  split
  · exact h
  · exact .ite h.finishSvc h

protected theorem Keeps.mgmtRequest {link ty dst addr : Nat} {data : List Byte} {o : ReqOwner} (h : Keeps s₀ s) :
    Keeps s₀ (mgmtRequest s link ty dst addr data o) :=
  .ite h.request (h.update (by rfl)).sendOn

protected theorem Keeps.discover {c link : Nat} {wr : Bool} (h : Keeps s₀ s) : Keeps s₀ (discover c link wr s) := by
  unfold discover
  refine .ite h ?_
  dsimp only
  exact .ite h.drawWord.drawWord.violateAddr h.drawWord.drawWord.mgmtRequest

protected theorem Keeps.remoteAccess {c link : Nat} {wr : Bool} (h : Keeps s₀ s) : Keeps s₀ (remoteAccess c link wr s) := by
  unfold remoteAccess
  dsimp only
  split
  · exact h.discover
  · exact .ite h.frozenCommand.frozenSvc
      (.ite h.violateAddr.frozenSvc (.ite (.ite (.ite h.mmioWrite.frozenSvc h.mmioWrite.finishSvc) h.rouseRead.finishSvc)
      h.parkSvc.mgmtRequest))

protected theorem Keeps.serviceAnswered {f arg status : Nat} {data : List Byte} (h : Keeps s₀ s) :
    Keeps s₀ (serviceAnswered s f arg status data) := by
  unfold serviceAnswered
  split
  · exact h
  · exact h.finishSvc

protected theorem Keeps.remoteTimeout {i : Nat} (h : Keeps s₀ s) : Keeps s₀ (remoteTimeout i s) := by
  unfold remoteTimeout
  split
  · exact h
  · exact .ite (h.update (by rfl)).finishSvc h

/-! ### Packets that wait in the ingress buffers of the links -/

protected theorem Keeps.takeSlot {n i ty : Nat} {f : Packet → State → Option State} (h : Keeps s₀ s)
    (hf : ∀ {a t}, Keeps s₀ t → KeepsIn s₀ (f a t)) : Keeps s₀ (takeSlot n i ty f s) := by
  unfold takeSlot
  split
  · exact h
  · refine .ite h ?_
    split
    · next e => exact (h.meetPlace.of_eq (g := Prod.snd) e rfl).bufferReport.freeSlot
    · next e =>
      have h1 := (h.meetPlace.of_eq (g := Prod.snd) e rfl).freeSlot (n := n) (i := i)
      split
      · next e2 => exact KeepsIn.of_eq (g := id) (hf h1) e2 rfl
      · exact h

protected theorem Keeps.answerFrozen {n : Nat} {p : Packet} (h : Keeps s₀ s) : Keeps s₀ (answerFrozen n p s) := h.frozenCommand.respond

protected theorem Keeps.requestIn {n i ty : Nat} {f : Packet → State → Option State}
    (h : Keeps s₀ s) (hf : ∀ {a t}, Keeps s₀ t → KeepsIn s₀ (f a t)) : Keeps s₀ (requestIn n i ty f s) := by
  unfold requestIn
  refine h.takeSlot fun ht => ?_
  split
  · exact .none
  · split
    · exact .some ht.answerFrozen
    · exact hf ht

protected theorem Keeps.ingressBad {n : Nat} {p : Packet} {code kind : Nat} (h : Keeps s₀ s) : Keeps s₀ (ingressBad n p code kind s) :=
  h.violateAddr.respond

protected theorem Keeps.readIn {n : Nat} {p : Packet} (h : Keeps s₀ s) : KeepsIn s₀ (readIn n p s) := by
  unfold readIn
  dsimp only
  split
  · exact .some h.ingressBad
  · split
    · exact .none
    · split
      · exact .none
      · rename_i e
        exact .some ((h.localRead.of_eq e rfl).respond)
      · rename_i e
        exact .some ((h.localRead.of_eq e rfl).respond)

protected theorem Keeps.writeIn {n : Nat} {p : Packet} (h : Keeps s₀ s) : KeepsIn s₀ (writeIn n p s) := by
  unfold writeIn
  dsimp only
  split
  · exact .some h.ingressBad
  · split
    · exact .none
    · split
      · exact .none
      · rename_i e
        exact .some ((h.localStore.of_eq e rfl).respond)
      · rename_i e
        exact .some ((h.localStore.of_eq e rfl).respond)

protected theorem Keeps.readPacket {n i : Nat} (h : Keeps s₀ s) : Keeps s₀ (readPacket n i s) := h.requestIn fun ht => ht.readIn

protected theorem Keeps.writePacket {n i : Nat} (h : Keeps s₀ s) : Keeps s₀ (writePacket n i s) := h.requestIn fun ht => ht.writeIn

protected theorem Keeps.logTally {m : Mst} {c t' : Nat} (h : Keeps s₀ s) : Keeps s₀ (logTally s m c t') := h.log

protected theorem Keeps.tallyIn {n : Nat} {p : Packet} (h : Keeps s₀ s) : KeepsIn s₀ (tallyIn n p s) := by
  unfold tallyIn
  dsimp only
  split
  · exact .none
  · split
    · exact .some h.ingressBad
    · split
      · exact .some h.tallyAdd.respond
      · exact .some h.tallyAdd.logTally.respond

protected theorem Keeps.tallyPacket {n i : Nat} (h : Keeps s₀ s) : Keeps s₀ (tallyPacket n i s) := h.requestIn fun ht => ht.tallyIn

protected theorem Keeps.respondPieces {p : Packet} {status : Nat} {args : List Nat} {d : List Byte} (h : Keeps s₀ s) :
    Keeps s₀ (respondPieces s p status args d) :=
  h.foldl fun ht => ht.respond

protected theorem Keeps.rowIn {n : Nat} {p : Packet} (h : Keeps s₀ s) : KeepsIn s₀ (rowIn n p s) := by
  unfold rowIn
  dsimp only
  split
  · exact .some h.ingressBad
  · split
    · exact .some h.respond
    · split
      · exact .none
      · split
        · exact .some h.ingressBad
        · split
          · rename_i e1
            exact .some ((h.nsrRow.of_eq e1 rfl).respondPieces)
          · rename_i e1
            exact .some ((h.nsrRow.of_eq e1 rfl).respond)
          · rename_i e1
            exact .some ((h.nsrRow.of_eq e1 rfl).respond)

protected theorem Keeps.rowPacket {n i : Nat} (h : Keeps s₀ s) : Keeps s₀ (rowPacket n i s) := h.requestIn fun ht => ht.rowIn

protected theorem Keeps.reduceIn {n : Nat} {p : Packet} (h : Keeps s₀ s) : KeepsIn s₀ (reduceIn n p s) := by
  unfold reduceIn
  dsimp only
  split
  · exact .some h.ingressBad
  · split
    · exact .some h.respond
    · split
      · exact .none
      · split
        · exact .some h.ingressBad
        · split
          · rename_i e1
            exact .some ((h.nsrReduce.of_eq e1 rfl).respondPieces)
          · rename_i e1
            exact .some ((h.nsrReduce.of_eq e1 rfl).respond)
          · rename_i e1
            exact .some ((h.nsrReduce.of_eq e1 rfl).respond)

protected theorem Keeps.reducePacket {n i : Nat} (h : Keeps s₀ s) : Keeps s₀ (reducePacket n i s) := h.requestIn fun ht => ht.reduceIn

protected theorem Keeps.sampleIn {n : Nat} {p : Packet} (h : Keeps s₀ s) : KeepsIn s₀ (sampleIn n p s) := by
  unfold sampleIn
  extract_lets arg
  split
  · exact .some h.ingressBad
  · have h1 := h.serveAll (step := arg 0) (hop := arg 1) (ver := arg 2) (entry := p.data) (l := p.args.drop 3)
    generalize serveAll _ _ _ _ _ s = o at h1 ⊢
    rcases o with _ | ⟨st, run, l, s1⟩
    · exact .none
    · have h2 : Keeps s₀ s1 := h1.of_eq (g := id) rfl rfl
      exact .some (.ite h2.respond (h2.foldl fun ht => ht.respond))

protected theorem Keeps.samplePacket {n i : Nat} (h : Keeps s₀ s) : Keeps s₀ (samplePacket n i s) := h.requestIn fun ht => ht.sampleIn

protected theorem Keeps.gradIn {n : Nat} {p : Packet} (h : Keeps s₀ s) : KeepsIn s₀ (gradIn n p s) := by
  unfold gradIn
  split
  · exact .some h.ingressBad
  · split
    · exact .none
    · split
      · exact .some h.ingressBad
      · have h1 := h.recordIn (slot := p.addr % 2 ^ 48) (dev := p.src) (b := p.data)
        generalize recordIn s _ _ _ = q at h1 ⊢
        obtain ⟨st, w, s1⟩ := q
        exact .some h1.respond

protected theorem Keeps.gradPacket {n i : Nat} (h : Keeps s₀ s) : Keeps s₀ (gradPacket n i s) := h.requestIn fun ht => ht.gradIn

protected theorem Keeps.versionIn {n : Nat} {p : Packet} (h : Keeps s₀ s) : KeepsIn s₀ (versionIn n p s) := by
  unfold versionIn
  dsimp only
  split
  · exact .some h.respond
  · split
    · exact .some (.respond (.ite h.nsrForward h))
    · split
      · exact .none
      · split
        · exact .some h.touch.respond
        · split
          · exact .some h.touch.respond
          · split
            · exact .some h.touch.respond
            · split
              · exact .none
              · split
                · exact .some (.respond (.ite h.touch.touch.nsrForward h.touch.touch))
                · split
                  · exact .none
                  · rename_i e4
                    exact .some ((h.touch.localRead.of_eq e4 rfl).respond)
                  · rename_i e4
                    exact .some ((h.touch.localRead.of_eq e4 rfl).respond)

protected theorem Keeps.versionPacket {n i : Nat} (h : Keeps s₀ s) : Keeps s₀ (versionPacket n i s) := h.requestIn fun ht => ht.versionIn

protected theorem Keeps.collectiveIn {n i ty : Nat} {f : Packet → State → State}
    (h : Keeps s₀ s) (hf : ∀ {a t}, Keeps s₀ t → Keeps s₀ (f a t)) : Keeps s₀ (collectiveIn n i ty f s) := by
  unfold collectiveIn
  refine h.takeSlot fun ht => ?_
  split
  · exact .none
  · exact .some (hf ht)

protected theorem Keeps.collPacket {n i : Nat} (h : Keeps s₀ s) : Keeps s₀ (collPacket n i s) := h.collectiveIn fun ht => ht.collData

protected theorem Keeps.rollCallPacket {n i : Nat} (h : Keeps s₀ s) : Keeps s₀ (rollCallPacket n i s) :=
  .ite (h.collectiveIn fun ht => ht.memberCall) (.ite (h.collectiveIn fun ht => ht.childArrival) h)

protected theorem Keeps.rollReleasePacket {n i : Nat} (h : Keeps s₀ s) : Keeps s₀ (rollReleasePacket n i s) :=
  .ite (h.collectiveIn fun ht => ht.parentRelease) h

protected theorem Keeps.noticePacket {n i : Nat} (h : Keeps s₀ s) : Keeps s₀ (noticePacket n i s) :=
  h.collectiveIn fun ht => ht.noticeIn.rollRetry

protected theorem Keeps.loadPacket {n i : Nat} (h : Keeps s₀ s) : Keeps s₀ (loadPacket n i s) := h.takeSlot fun ht => .some ht.loadReport

protected theorem Keeps.mgmtRespond {n : Nat} {p : Packet} {status : Nat} {data : List Byte} (h : Keeps s₀ s) :
    Keeps s₀ (mgmtRespond n p status data s) :=
  .ite h.respond h.sendOn

protected theorem Keeps.mgmtIn {c n i ty : Nat} {f : Nat → Packet → State → List Byte × State}
    (h : Keeps s₀ s) (hf : ∀ {a b t}, Keeps s₀ t → Keeps s₀ (f a b t).2) : Keeps s₀ (mgmtIn c n i ty f s) := by
  unfold mgmtIn
  refine .ite h (h.takeSlot fun ht => ?_)
  dsimp only
  split
  · exact .some ht.frozenCommand.mgmtRespond
  · split
    · exact .some ht.violateAddr.mgmtRespond
    · split
      · exact .some ht.violateAddr.mgmtRespond
      · split
        · exact .some ht.violateAddr.mgmtRespond
        · exact .some ((hf ht).mgmtRespond)

protected theorem Keeps.mgmtReadPacket {c n i : Nat} (h : Keeps s₀ s) : Keeps s₀ (mgmtReadPacket c n i s) := h.mgmtIn fun ht => ht.rouseRead

protected theorem Keeps.mgmtWritePacket {c n i : Nat} (h : Keeps s₀ s) : Keeps s₀ (mgmtWritePacket c n i s) :=
  h.mgmtIn fun ht => ht.mmioWrite

protected theorem Keeps.addAnswered {c : Nat} {r : Req} {status : Nat} (h : Keeps s₀ s) : Keeps s₀ (addAnswered s c r status) := by
  unfold addAnswered
  dsimp only
  exact .ite h.onCore.afterCore.settleStop
    (.ite (.ite h.onCore.violateTally h.onCore) (.ite h.onCore.addLimit.settleStop h.onCore.answerStop.settleStop))

protected theorem Keeps.answered {r : Req} {status : Nat} {args : List Nat} {data : List Byte} (h : Keeps s₀ s) :
    Keeps s₀ (answered s r status args data) := by
  unfold answered
  split
  · exact h.answerRun
  · exact h.addAnswered
  · exact h.checkAnswered
  · exact h.feedAnswered
  · exact h.featureAnswered
  · exact h.sampleAnswered
  · exact h.copyAnswered.rollRetry
  · exact h.serviceAnswered
  · exact h

protected theorem Keeps.takePart {r : Req} {status : Nat} {args : List Nat} {data : List Byte} (h : Keeps s₀ s) :
    Keeps s₀ (takePart s r status args data) :=
  .ite (h.update (by rfl)) (h.update (by rfl)).answered

protected theorem Keeps.takeAnswer {r : Req} {status : Nat} {args : List Nat} (h : Keeps s₀ s) : Keeps s₀ (takeAnswer s r status args) := by
  unfold takeAnswer
  split
  · exact .ite (h.update (by rfl)) (h.update (by rfl))
  · exact h.update (by rfl)

protected theorem Keeps.responseIn {n i ty : Nat} (h : Keeps s₀ s) : Keeps s₀ (responseIn n i ty s) := by
  unfold responseIn
  refine h.takeSlot fun ht => .some ?_
  split
  · exact ht
  · exact .ite ht.takePart ht.takeAnswer.answered

protected theorem Keeps.replayInject (h : Keeps s₀ s) : Keeps s₀ (replayInject s) := by
  unfold replayInject
  refine .ite h ?_
  dsimp only
  split
  · exact h
  · split
    · exact h
    · split <;> exact .update (.ite h.recScan.touch.setLnk.cleanPlace.noteUsed h.recScan.touch.setLnk.cleanPlace) (by rfl)

/-! ### The commands of the security controller -/

protected theorem Keeps.mailIn {cls sub v : Nat} (h : Keeps s₀ s) : Keeps s₀ (mailIn cls sub v s) := .ite h.writeOwn h

/-! ### Every command -/

/-- What a command answers: a next state that keeps what every command keeps, and the same state where the units do not run, unless the
command reaches the device all the same. -/
def Answers (reaches : Bool) (s : State) (o : Out) : Prop :=
  ∃ t, o = .next t ∧ Keeps s t ∧ (reaches = false → s.live = false → t = s)

theorem Answers.whileLive {reaches : Bool} {f : State → State} (hf : ∀ {s₀ t}, Keeps s₀ t → Keeps s₀ (f t)) :
    Answers reaches s (whileLive f s) := by
  cases hl : s.live with
  | false => exact ⟨s, by simp [Machine.whileLive, hl], Keeps.refl s, fun _ _ => rfl⟩
  | true => exact ⟨f s, by simp [Machine.whileLive, hl], hf (Keeps.refl s), fun _ hd => absurd (hl.symm.trans hd) (by simp)⟩

theorem Answers.next (h : Keeps s t) : Answers true s (.next t) := ⟨t, rfl, h, fun hr => absurd hr (by simp)⟩

/-- The instructions of the Cloth and of the other vector units go through one function. -/
theorem answers_vecAct {reaches : Bool} {op : Nat} {f : State → Nat → Run → RowRes} {nums : List Nat} {c : Nat} {d : Bool} {a : Act}
    (hf : ∀ {s₀ t c r}, Keeps s₀ t → Keeps s₀ (f t c r).state) : Answers reaches s (vecAct op f nums c d a s) :=
  .whileLive fun h => h.actOn (fun h => h.vecIssue hf) hf

theorem answers_exec (c : Instr) (s : State) : Answers (always c) s (exec c s) := by
  have r := Keeps.refl s
  cases c with
  | registerWrite => exact .whileLive fun h => .ite h.bar2Write h.busWrite
  | start => exact .whileLive fun h => h.startCmd
  | programStart => exact .whileLive fun h => h.programStart
  | blockFetch => exact .whileLive fun h => h.blockFetch
  | transferCheck => exact .whileLive fun h => h.transferChecked
  | stallTimeout => exact .whileLive fun h => h.stallTimeout
  | deferSwitch => exact .whileLive fun h => h.deferSwitch
  | retireComplete => exact .whileLive fun h => h.retireDone
  | corRetire | corHalt | corResume | corAbort | corClearCounts | arrClearCounts | queueEnable | queueDisable | queueThaw
  | privilegeOffer | privilegeAccept | drvHalt | drvResume | drvAbort | drvClearCounts | colHalt | colResume | colAbort
  | colClearCounts | trhHalt | trhResume | trhAbort | trhClearCounts | lnkRetrain | lnkClearCounts | strStage | strCommit
  | scrubNow | memClearCounts | memMark | sramClearCounts | nsrClearPop | embClearCounts | schPost | schTake | schDone
  | schYield | schCancel | schClearCounts | schFwLoad | kernelReady | schReset | svnCommit | standbyEnter | logFlush
  | logClearCounts | logFreeze | logCursor | hmnWinWrite | hmnThaw | hmnClearCounts | recAbort | recClearCounts =>
    exact .whileLive fun h => h.writeOwn
  | load => exact .whileLive fun h => h.actOn (fun h => h.issueAccess fun h => h.rowLoad) fun h => h.rowLoad
  | store => exact .whileLive fun h => h.actOn (fun h => h.issueAccess fun h => h.rowStore) fun h => h.rowStore
  | copy => exact .whileLive fun h => h.actOn (fun h => h.issueAccess fun h => h.rowCopy) fun h => h.rowCopy
  | tload => exact .whileLive fun h => h.actOn (fun h => h.issueAccess fun h => h.rowTload) fun h => h.rowTload
  | gather => exact .whileLive fun h => h.actOn (fun h => h.issueAccess fun h => h.rowGather) fun h => h.rowGather
  | scatterAdd => exact .whileLive fun h => h.actOn (fun h => h.issueAccess fun h => h.rowScatter) fun h => h.rowScatter
  | waitGe => exact .whileLive fun h => h.issueOp fun h => h.waitGe
  | add => exact .whileLive fun h => h.issueOp fun h => h.addOp
  | sub => exact .whileLive fun h => h.issueOp fun h => h.subOp
  | setx | addx => exact .whileLive fun h => h.issueOp fun h => h.setxOp
  | fence => exact .whileLive fun h => h.issueOp fun h => h.fenceOp
  | phase => exact .whileLive fun h => h.issueOp fun h => h.phaseOp
  | retire => exact .whileLive fun h => h.issueOp fun h => h.retireOp
  | defer => exact .whileLive fun h => h.issueOp fun h => h.deferOp
  | nop => exact .whileLive fun h => h.issueOp fun h => h.nopOp
  | endContext => exact .whileLive fun h => h.issueOp fun h => h.endOp
  | jump => exact .whileLive fun h => h.issueOp fun h => h.jumpOp
  | loop => exact .whileLive fun h => h.issueOp fun h => h.loopOp
  | mload => exact .whileLive fun h => h.actOn (fun h => h.mloadOp) fun h => h.rowMload
  | mswap => exact .whileLive fun h => h.actOn (fun h => h.mswapOp) fun h => h.rowMswap
  | mstream => exact .whileLive fun h => h.actOn (fun h => h.mstreamOp) fun h => h.rowMstream
  | epi => exact .whileLive fun h => h.issueOp fun h => h.epiOp
  | expert => exact answers_vecAct fun h => h.rowExpert
  | steal => exact .whileLive fun h => h.steal
  | crossCoreSteal => exact .whileLive fun h => h.crossSteal
  | vadd | vsub | vmul | vfma | vaxpy | vmax | vmin | vabs | vneg | vmov | vexp | vrcp | vrsqrt | vcmp | vand | vor | vxor
  | viadd => exact answers_vecAct fun h => h.rowVec
  | cvt => exact answers_vecAct fun h => h.rowCvt
  | compress24 => exact answers_vecAct fun h => h.rowCompress
  | update => exact answers_vecAct fun h => h.rowUpdate
  | reduce => exact answers_vecAct fun h => h.rowReduce
  | sqTailDoorbell => exact .whileLive fun h => h.sqTail
  | cqHeadDoorbell => exact .whileLive fun h => h.cqHead
  | descriptorFetch => exact .whileLive fun h => h.descriptorFetch
  | functionLevelReset => exact .whileLive fun h => .ite h h.functionReset
  | perst => exact .next r.perst
  | hostBar4Read => exact .whileLive fun h => h.bar4Read
  | hostBar4Write => exact .whileLive fun h => h.bar4Write
  | wydakGather => exact .whileLive fun h => h.wydakGather
  | tallyAdd => exact .whileLive fun h => h.tallyAddCmd
  | sample => exact .whileLive fun h => h.sampleCmd
  | sampleStart => exact .whileLive fun h => h.sampleStart
  | sampleComplete => exact .whileLive fun h => h.sampleComplete
  | topoSwitch => exact .whileLive fun h => h.topoSwitch
  | prefetch => exact .whileLive fun h => h.prefetch
  | rowCheck => exact .whileLive fun h => h.rowCheck
  | remoteSampleTimeout => exact .whileLive fun h => h.sampleTimeout
  | allReduce | reduceScatter | allGather | allToAll | broadcast | permute => exact .whileLive fun h => h.collStart
  | roll => exact .whileLive fun h => h.rollCmd
  | collectiveComplete => exact .whileLive fun h => h.collComplete
  | collectiveTimeout => exact .whileLive fun h => h.collTimeout
  | rollTimeout => exact .whileLive fun h => h.rollTimeout
  | migrate => exact .whileLive fun h => h.migrateCmd
  | reclass => exact .whileLive fun h => h.reclassCmd
  | migrationCopyDone => exact .whileLive fun h => h.copyDone
  | migrationCommit => exact .whileLive fun h => h.commitAll.rollRetry
  | copyTimeout => exact .whileLive fun h => h.copyTimeout.rollRetry
  | alloc => exact .whileLive fun h => h.serveNow fun h => h.allocSvc
  | free => exact .whileLive fun h => h.serveNow fun h => h.freeSvc
  | echo => exact .whileLive fun h => h.serveNow fun h => h.echoSvc
  | remoteRead | remoteWrite => exact .whileLive fun h => h.remoteAccess
  | remoteAccessTimeout => exact .whileLive fun h => h.remoteTimeout
  | delay => exact .whileLive fun h => h.delayStart
  | delayExpiry => exact .whileLive fun h => h.delayExpiry
  | pastureFree => exact .whileLive fun h => h.serveNow fun h => h.pastureFreeSvc
  | readReq => exact .whileLive fun h => h.readPacket
  | writeReq => exact .whileLive fun h => h.writePacket
  | tallyAddPacket => exact .whileLive fun h => h.tallyPacket
  | rowReq => exact .whileLive fun h => h.rowPacket
  | reduceReq => exact .whileLive fun h => h.reducePacket
  | sampleReq => exact .whileLive fun h => h.samplePacket
  | gradRecord => exact .whileLive fun h => h.gradPacket
  | versionRead => exact .whileLive fun h => h.versionPacket
  | collData => exact .whileLive fun h => h.collPacket
  | rollCall => exact .whileLive fun h => h.rollCallPacket
  | rollRelease => exact .whileLive fun h => h.rollReleasePacket
  | notice => exact .whileLive fun h => h.noticePacket
  | mgmtRead => exact .whileLive fun h => h.mgmtReadPacket
  | mgmtWrite => exact .whileLive fun h => h.mgmtWritePacket
  | loadReport => exact .whileLive fun h => h.loadPacket
  | neighbour => exact .whileLive fun h => h.neighbourTaken
  | readResponse | writeResponse | tallyAddResponse | rowResponse | reduceResponse | sampleResponse | gradRecordResponse
  | versionReadResponse | mgmtReadResponse | mgmtWriteResponse => exact .whileLive fun h => h.responseIn
  | replayInject => exact .whileLive fun h => h.replayInject
  | dataBlock => exact .whileLive fun h => h.dataBlock
  | nakBlock => exact .whileLive fun h => h.nakBlock
  | idleBlock => exact .whileLive fun h => h.idleBlock
  | initBlock => exact .whileLive fun h => h.initBlock
  | retryDeadline => exact .whileLive fun h => h.retryDeadline
  | linkTrainingDone => exact .whileLive fun h => h.linkTrainingDone
  | trainingTimeout => exact .whileLive fun h => h.trainingTimeout
  | alignmentDone => exact .whileLive fun h => h.alignmentDone
  | lossOfLock => exact .whileLive fun h => h.lossOfLock
  | retrainTimer => exact .whileLive fun h => h.retrainTimer
  | stagingDone => exact .whileLive fun h => h.stagingDone
  | switchTick => exact .whileLive fun h => h.switchTick
  | unitSwitch => exact .whileLive fun h => h.switchCore
  | strTimeoutExpiry => exact .whileLive fun h => h.strTimeout
  | stackTrainingDone => exact .whileLive fun h => h.trainingDone
  | refresh => exact .whileLive fun h => h.refresh
  | scrub => exact .whileLive fun h => h.scrub
  | sramPatrol => exact .whileLive fun h => h.sramPatrol
  | application => exact .whileLive fun h => h.applyStep.rollRetry
  | timetableExpiry => exact .whileLive fun h => h.ttExpire
  | dispatch => exact .whileLive fun h => h.dispatch
  | preempt => exact .whileLive fun h => h.preempt
  | fwVerifyDone => exact .whileLive fun h => h.fwVerifyDone
  | sysRstN => exact .next r.sysReset
  | getReport via =>
    cases via with
    | mailbox => exact .next r.mailIn
    | doe | sideband | tap => exact .next (r.attestBy)
  | getCert via =>
    cases via with
    | mailbox => exact .next r.mailIn
    | doe | sideband | tap => exact .next (r.attestBy)
  | getMeas via =>
    cases via with
    | mailbox => exact .next r.mailIn
    | doe | sideband | tap => exact .next (r.attestBy)
  | jtagChallenge via =>
    cases via with
    | mailbox => exact .next r.mailIn
    | doe | sideband | tap => exact .next (r.unlockBy fun h => h.jtagChallenge)
  | jtagResponse via =>
    cases via with
    | mailbox => exact .next r.mailIn
    | doe | sideband | tap => exact .next (r.unlockBy fun h => h.jtagResponse)
  | challengeExpiry => exact .next r.dropChallenge
  | securityFault => exact .next r.securityFault
  | powerOn => exact .next r.powerOn
  | railsGood => exact .next r.railsGood
  | railFault => exact .next r.railFault
  | regulatorFault => exact .whileLive fun h => h.regulatorFault
  | pllLossOfLock => exact .whileLive fun h => h.pllLost
  | standbyExit => exact .whileLive fun h => h.standbyExit
  | holidayEntry => exact .whileLive fun h => h.holidayEntry
  | frequencyStep => exact .whileLive fun h => h.frequencyStep
  | powerSample => exact .whileLive fun h => h.powerSample
  | thermalSample => exact .next r.thermalSample
  | throttleStep => exact .whileLive fun h => h.throttleStep
  | thermalTrip => exact .next r.thermalTrip
  | powerFail => exact .next r.powerFail
  | flushDone => exact .next r.flushDone
  | forceOwner => exact .next (r.sideband fun h => h.forceOwner)
  | thaw => exact .next (r.sideband fun h => h.sidebandThaw)
  | readReg => exact .next (r.sideband fun h => h.sidebandRead)
  | setEndpointId => exact .next (r.sideband fun h => h.setEid)
  | getEndpointId => exact .next (r.sideband fun h => h.getEid)
  | getMctpVersionSupport => exact .next (r.sideband fun h => h.getMctpVersion)
  | getMessageTypeSupport => exact .next (r.sideband fun h => h.getMessageTypes)
  | getVendorDefinedMsgSupport => exact .next (r.sideband fun h => h.getVendorSupport)
  | getTid => exact .next (r.sideband fun h => h.getTid)
  | getPldmVersion => exact .next (r.sideband fun h => h.getPldmVersion)
  | getPldmTypes => exact .next (r.sideband fun h => h.getPldmTypes)
  | getPldmCommands => exact .next (r.sideband fun h => h.getPldmCommands)
  | getPdrRepositoryInfo => exact .next (r.sideband fun h => h.getPdrInfo)
  | getPdr => exact .next (r.sideband fun h => h.getPdr)
  | getSensorReading => exact .next (r.sideband fun h => h.getSensor)
  | getStateSensorReadings => exact .next (r.sideband fun h => h.getStateSensor)
  | setEventReceiver => exact .next (r.sideband fun h => h.setReceiver)
  | setDasa => exact .next (r.sideband fun h => h.setDasa)
  | entDaa => exact .next (r.sideband fun h => h.entDaa)
  | smbusAlertResponse => exact .next (r.sideband fun h => h.alertResponse)
  | extest | samplePreload | clamp | highz | extestPulse | extestTrain | secAccess | bypass => exact .next r.tapLoad
  | idcode => exact .next r.tapIdcode
  | holidayWake => exact .whileLive fun h => h.holidayWake
  | pcieCompletionTimeout => exact .whileLive fun h => h.pcieFailed
  | doeDiscovery => exact .next r.doeDiscovery
  | tapReset => exact .next r.tapReset
  | fuseStepBlown => exact .next r.fuseStep

end Sys2Proof.Machine
end

section
/-! PROOF. The statements of 00_scope. -/

namespace Sys2Proof

open Machine

/-- Settles O3: each value is that of the reset state as the model evaluates it, but for the windows, which `winPermits_reset` reads for
every class. -/
theorem resetHoldsTheTabledValues : Obligations.ResetHoldsTheTabledValues := by
  have tabled : readReg State.reset GLB_INVENTORY_CORE = 0xFFFFFFFF ∧ readReg State.reset GLB_INVENTORY_STACK = 0xFF ∧
      readReg State.reset GLB_INVENTORY_ENGINE = 0xE4FF ∧ fwState State.reset = 0 ∧
      State.reset.fld PWR_STATUS PWR_STATUS_cap_w = 1400 ∧ State.reset.fld PWR_STATUS PWR_STATUS_rails_good = 0 ∧
      State.reset.fld THM_CFG THM_CFG_throttle = 95 ∧ State.reset.fld (SCH_CFG 3) SCH_CFG_preempt_min = 16 ∧
      State.reset.fld (SCH_CFG 3) SCH_CFG_preempt_en = 1 ∧ State.reset.bit MGT_CFG MGT_CFG_sb_control = true ∧ owner State.reset = 0 := by
    decide +kernel
  obtain ⟨hcore, hstack, hengine, hfw, hcap, hrails, hthm, hmin, hen, hsb, howner⟩ := tabled
  exact ⟨hcore, hstack, hengine, hfw, hcap, hrails, hthm, hmin, hen, hsb, howner, rfl, rfl, rfl, rfl, rfl, rfl, rfl, rfl,
    fun cls idx _ hi => winPermits_reset cls idx hi⟩

/-- Settles O4: memory lists nothing, the register store one entry beside its reset value, and no core a running instruction. -/
theorem canonicalAfterReset : Obligations.CanonicalAfterReset := by
  have regs : Registers.wf State.reset.grade State.reset.regs = true := by decide +kernel
  have numbered (c : Nat) : Numbered (State.reset.core c) :=
    ⟨List.nodup_nil, fun _ h => (List.not_mem_nil h).elim, fun _ h => (List.not_mem_nil h).elim⟩
  exact ⟨⟨rfl, regs⟩, numbered⟩

/-- Settles O9: the register found at the offset, if any, has another width, and `mmioWrite` leaves the state alone. -/
theorem discardedRegisterWrites : Obligations.DiscardedRegisterWrites := by
  intro cls sub off bs s hadm hsec hwidth
  obtain ⟨-, -, -, -, -, hbar⟩ := id hadm
  rw [exec_registerWrite_of_admits hadm]
  cases hr : regAt off with
  | none => rw [mmioWrite_of_none hbar hsec hr]
  | some r => rw [mmioWrite_of_some hbar hsec hr, if_neg (hwidth r hr)]

/-- Settles O10: a read looks at the unit's presence before the store, and so does a write that has the register's own width. -/
theorem absentUnitsReadZeroAndIgnoreWrites : Obligations.AbsentUnitsReadZeroAndIgnoreWrites := by
  intro off s r hr habsent hsec
  refine ⟨by simp [readReg, hr, habsent], fun cls sub bs hadm => ?_⟩
  by_cases hw : bs.length * 8 = r.desc.width
  · rw [exec_registerWrite_own hadm hsec hr hw]
    simp [regWrite, habsent]
  · exact discardedRegisterWrites cls sub off bs s hadm hsec
      (fun r' hr' => by rw [hr] at hr'; cases hr'; exact hw)

/-- Settles O8: a unit at rest is woken first (`regWrite_rouseReg`), a locked register answers `rwlLocked`, and one without an action
stores its fields (`fget_writeFields`). -/
theorem plainRegisterWrite : Obligations.PlainRegisterWrite := by
  intro cls sub off bs s r hadm hsec hr hw hpresent
  have own (s : State) (hadm : Admits ⟨cls, sub⟩ off bs.length s) := exec_registerWrite_own hadm hsec hr hw
  have awake (hrest : atRest r s = false) : regWrite ⟨cls, sub⟩ r off (BitVec.ofNat 64 (leNat bs)) s =
      regStore ⟨cls, sub⟩ r off (BitVec.ofNat 64 (leNat bs)) s := by
    simp [regWrite, hpresent, hrest, rouseReg_of_awake hrest]
  refine ⟨fun hrest hstandby => ?_, fun hrest hstandby => ⟨atRest_rouseReg hstandby, ?_, fun v hv => ?_⟩, fun hrest hrwl hshut => ?_,
    fun hrest hopen hplain => ?_⟩
  · rw [own s hadm]; simp [regWrite, hrest, hstandby]
  · rw [own s hadm, own _ (admits_rouseReg r hadm), regWrite_rouseReg hpresent hstandby]
  · have bus (s : State) (hadm : Admits ⟨cls, sub⟩ off bs.length s) :
        writeOwn ⟨cls, sub⟩ off v s = regWrite ⟨cls, sub⟩ r off (BitVec.ofNat 64 (leNat bs)) s := by
      obtain ⟨-, hmute, hpath, hin, hperm, hbar⟩ := hadm
      rw [writeOwn, ← hv]
      simp [busWrite, hmute, hpath, hin, hperm, mmioWrite_of_some hbar hsec hr, hw]
    rw [bus s hadm, bus _ (admits_rouseReg r hadm), regWrite_rouseReg hpresent hstandby]
  · have hlock : rwlShut s = true := by simpa [rwlShut] using hshut
    refine ⟨rwlLocked ⟨cls, sub⟩ off s, ?_, rwlLocked_spec ⟨cls, sub⟩ off s⟩
    rw [own s hadm, awake hrest]
    simp [regStore, hrwl, hlock]
  · have hunlocked : (r.desc.hasRwl && rwlShut s) = false := by
      cases hrwl : r.desc.hasRwl with
      | false => rfl
      | true => obtain ⟨hcommitted, hnext⟩ := hopen hrwl; simp [rwlShut, hcommitted, hnext]
    refine ⟨s.setReg off (writeFields true (BitVec.ofNat 64 (leNat bs)) r.desc (s.reg off)), ?_, rfl,
      regsBut_setReg s _ (List.mem_singleton_self _), fun f hf => ?_⟩
    · rw [own s hadm, awake hrest]
      simp [regStore, hunlocked, hplain]
    · rw [State.reg_setReg_self]
      exact fget_writeFields (fieldsApart_of_regAt hr) hf

/-- Settles O7: every command's own function keeps the queue and the grade, and runs only while the units do. -/
theorem everyCommandKeepsTheQueue : Obligations.EveryCommandKeepsTheQueue := by
  intro c s
  obtain ⟨t, ht, hk, hrest⟩ := answers_exec c s
  exact ⟨t, ht, hk.pending, hk.grade, hrest⟩

/-- Settles O5: the tick of an idle step keeps the canonical form, and so does every command, from the state without the command. -/
theorem everyStepKeepsCanonical : Obligations.EveryStepKeepsCanonical := by
  intro s t hs hstep
  unfold step at hstep
  cases hp : s.pending with
  | nil =>
    rw [hp] at hstep
    cases hstep
    exact (Keeps.refl s).tick.canonical hs
  | cons c rest =>
    rw [hp] at hstep
    obtain ⟨u, hu, hk, -⟩ := answers_exec c { s with pending := rest }
    cases hu.symm.trans hstep
    exact hk.canonical hs

end Sys2Proof
end

section
/-! PROOF. The statement of 07_drover_sampling. -/

namespace Sys2Proof

open Machine

/-! ### A SAMPLE whose plan lies in its own Drover's staging (O57)

Taking its last command sends a Drover into recess (R457), and the read of the plan from its staging is a request that wakes it again
(R19). R196 puts a plan in a pasture, but neither R198 nor the model refuses one elsewhere, nor does the statement assume it. -/

/-- A completion record of a queue pair whose ring is in host memory reaches no Drover. -/
theorem complete_drovers_of_hostRing {s : State} {r : CmdRef} (st res det aux : Nat) (h : s.bit (QUE_CFG r.qp) QUE_CFG_cq_loc = false) :
    (s.complete r st res det aux).drovers = s.drovers := by
  have irq (o : Option (Nat × Nat)) (t : State) : (t.irq o).drovers = t.drovers := by cases o <;> rfl
  have hring : fbit QUE_CFG_cq_loc (s.reg (QUE_CFG r.qp)) = false := h
  simp [State.complete, apply_ite State.drovers, hring, irq]

/-- Counting what reading memory counts reaches no Drover. -/
theorem drovers_of_readsBut {l : List Nat} {s u : State} (h : ReadsBut l s u) : u.drovers = s.drovers := by
  obtain ⟨-, hu⟩ := h
  rw [hu]

/-- A SAMPLE of queue pair 0 with its plan at the base of Drover 0's staging, where no byte has been written. -/
def stagedPlanCmd : Cmd := { ref := ⟨0, 0, 0⟩, code := 1, desc := leBytes 8 0 ++ leBytes 8 stagingBase ++ leBytes 48 0 }

/-- A running device that is as after reset, but that its Drover 0 has one command. -/
def stagedPlanDev : State := { State.reset with released := true, drovers := [(0, { inbox := [(0, stagedPlanCmd)] })] }

/-- The Drover ends the command out of recess: the read of its plan woke it. -/
theorem sample_stagedPlan_wakes : ∃ t, exec (.sample 0) stagedPlanDev = .next t ∧ (t.drover 0).rest = 0 :=
  ⟨_, rfl, by decide +kernel⟩

/-- Both reads of the plan are served at once. -/
theorem reads_stagedPlan : Reads (drMst 0) stagingBase 64 stagedPlanDev ∧ Reads (drMst 0) (stagingBase + 64) 64 stagedPlanDev := by
  simp only [Reads, Serves, Sound]
  decide +kernel

/-- Refutes O57: the statement has a MALFORMED SAMPLE leave its Drover as the command's taking does, in recess when that was its last
work. One whose plan lies in the Drover's own staging leaves it awake (`sample_stagedPlan_wakes`). -/
theorem not_droversBuildAndServeRoads : ¬ Obligations.DroversBuildAndServeRoads := by
  intro h
  obtain ⟨-, head, -⟩ := h 0 stagedPlanDev (by decide +kernel)
  obtain ⟨-, -, sample, -⟩ := head 0 stagedPlanCmd [] (by decide +kernel) rfl
  obtain ⟨-, thawed⟩ := sample rfl
  obtain ⟨malformed, -⟩ := thawed (by decide +kernel) reads_stagedPlan.1 reads_stagedPlan.2
  obtain ⟨u, hexec, hu⟩ := malformed (.inl (by decide +kernel))
  obtain ⟨t, ht, hawake⟩ := sample_stagedPlan_wakes
  have hring : u.bit (QUE_CFG 0) QUE_CFG_cq_loc = false := by
    obtain ⟨hregs, -⟩ := hu
    rw [State.bit, hregs (QUE_CFG 0) (by decide +kernel)]
    decide +kernel
  have hrecess : u.drovers = [(0, { rest := 1 })] := (drovers_of_readsBut hu).trans (by decide +kernel)
  have hsame : t.drovers = u.drovers :=
    (congrArg State.drovers (Host.Outcome.next.inj (ht.symm.trans hexec))).trans (complete_drovers_of_hostRing _ _ _ _ hring)
  rw [State.drover, hsame, hrecess] at hawake
  exact absurd hawake (by decide)

end Sys2Proof
end

section
/-! PROOF. The statement of 09_embedding_tables. -/

namespace Sys2Proof

open Machine

/-! ### A region table with a region of another pasture (O59)

The service takes a free range's end from the next region in its pasture's table (R294, R295), wherever that region lies. R294 keeps
each region in one pasture, but the statement assumes so of no table that has entries: it bounds a region's place by the pasture only where
the table is empty, and an owner array's place always. -/

/-- The one region in the table of pasture 1: at the base of pasture 3. -/
def strayRegion : Region := ⟨0x3000000000, 0x200000, 1, 0, 0⟩

/-- An ALLOC of 96 GiB as a slot region with slots of 64 bytes, strictly in pasture 1. -/
def slotAlloc : Svc :=
  { fold := 0, ring := 0, tick := 0,
    cmd := { ref := ⟨0, 0, 0⟩, code := 1, desc := leBytes 8 0 ++ leBytes 8 0x1800000000 ++ leBytes 4 1 ++ [0, 3, 2, 1, 1] } }

/-- A running device that is as after reset, but that its kernel is up, stacks 0 and 1 serve, and control core 0 runs the ALLOC. -/
def strayDev : State :=
  let running : Slot := { item := { handle := 0, level := 0, thread := 0 }, taken := true }
  let s : State := { State.reset with released := true, svcs := [slotAlloc], scheds := [(0, { slot0 := some running })] }
  let kernel := (s.setFld SCH_FW_STATUS SCH_FW_STATUS_state 3).setFld SCH_FW_STATUS SCH_FW_STATUS_kernel_ready 1
  let serving := (kernel.setFld (MEM_STATUS 0) MEM_STATUS_state 1).setFld (MEM_STATUS 1) MEM_STATUS_state 1
  let named := (serving.setFld (MEM_REGION_BASE 1) MEM_REGION_BASE_address 0x1000800000).setFld (MEM_REGION_BASE 1) MEM_REGION_BASE_entries 1
  named.setBytes 0x1000800000 strayRegion.bytes

/-- Control core 0 serves the ALLOC, and nothing that it uses has to wait. -/
theorem slotAlloc_served : served strayDev 0 1 = some slotAlloc ∧ allocWaits slotAlloc.cmd.desc strayDev = false := by decide +kernel

/-- The ALLOC tries pasture 1 alone. -/
theorem slotAlloc_tries : tryOrder strayDev 2 1 true = [1] := by decide +kernel

/-- The free range of pasture 1 up to the stray region takes the 96 GiB at the pasture's base. -/
theorem slotAlloc_placed : placeIn strayDev 1 (roomOf 0x1800000000 3 1) 1 = some 0x1000000000 := by decide +kernel

/-- Refutes O59: the statement has the owner array of a slot region that is placed lie behind the region and within its pasture. A region
of 96 GiB placed at the base of pasture 1, before the stray region, already ends beyond the pasture. -/
theorem not_migrationsAndKernelServices : ¬ Obligations.MigrationsAndKernelServices := by
  intro h
  obtain ⟨-, services⟩ := h
  obtain ⟨-, -, -, -, alloc, -⟩ := services 0 0 strayDev (by decide +kernel)
  obtain ⟨hserved, hwait⟩ := slotAlloc_served
  obtain ⟨-, -, placed⟩ := alloc slotAlloc hserved
  have hfind : (tryOrder strayDev 2 1 true).find? (fun p => (placeIn strayDev p (roomOf 0x1800000000 3 1) 1).isSome) = some 1 := by
    simp [slotAlloc_tries, slotAlloc_placed]
  obtain ⟨-, -, u, -, -, -, -, -, -, slots⟩ := placed 1 0x1000000000 hwait (by decide +kernel) hfind slotAlloc_placed
  obtain ⟨owners, hbehind, hwithin, -⟩ := slots rfl (by decide)
  have hsize : fieldAt slotAlloc.cmd.desc 8 8 = 0x1800000000 := by decide +kernel
  rw [hsize] at hbehind
  omega

end Sys2Proof
end

section
/-! PROOF. The statement of 10_memory_system. -/

namespace Sys2Proof

open Machine

/-! ### A completion record that meets a second word in error (O44)

An uncorrectable word stops its core (R298), whose command then completes (R45). A completion ring may lie in on-die SRAM, and a record that
covers an uncorrectable word there in part meets it, which counts as well (R298, log 12). The bases that a write of QUE_CQ_BASE stores are
multiples of 4 KiB (`queBase`), from which records cover whole words, but the statement assumes so of no ring. -/

/-- A running device that is as after reset, but that its core 0 runs a command of queue pair 0, whose completion ring begins in the
middle of a word of that core's scratch with two bits in error. -/
def straddlingRingDev : State :=
  let runs : Core := { state := .running, cmd := some { ref := ⟨0, 0, 0⟩ } }
  let s : State := { State.reset with released := true, cores := [(0, runs)], upsets := [⟨0, 0, 0x1000, true⟩] }
  (s.setFld (QUE_CFG 0) QUE_CFG_cq_loc 1).setReg (QUE_CQ_BASE 0) (BitVec.ofNat 64 (scratchBase + 0x1004))

/-- The patrol finds an uncorrectable word at the base of core 0's scratch, and two such words are counted. -/
theorem sramPatrol_straddlingRing_countsTwo :
    ∃ t, exec (.sramPatrol 0 0 0 true) straddlingRingDev = .next t ∧ t.reg MEM_SRAM_UE_COUNT = 2 :=
  ⟨_, rfl, by decide +kernel⟩

/-- The device has counted no word before, so that one more makes one. -/
theorem count_straddlingRing : (straddlingRingDev.count MEM_SRAM_UE_COUNT 1).reg MEM_SRAM_UE_COUNT = 1 := by decide +kernel

/-- Refutes O44: the statement has an uncorrectable word of a core's SRAM raise MEM_SRAM_UE_COUNT by one. Where the completion record of
the stopped core's command meets another such word, it rises by two (`sramPatrol_straddlingRing_countsTwo`). -/
theorem not_stackAndSramMaintenance : ¬ Obligations.StackAndSramMaintenance := by
  intro h
  obtain ⟨-, -, patrol⟩ := h 0 straddlingRingDev (by decide +kernel)
  obtain ⟨-, here⟩ := patrol 0 0 0 (by decide)
  obtain ⟨-, -, u, hexec, -, -, -, -, -, -, counted, -⟩ := here (by decide +kernel)
  obtain ⟨hone, -⟩ := counted (.inl (Nat.zero_le 4))
  obtain ⟨t, ht, htwo⟩ := sramPatrol_straddlingRing_countsTwo
  have hsame : t = u := Host.Outcome.next.inj (ht.symm.trans hexec)
  rw [← hsame, htwo, count_straddlingRing] at hone
  exact absurd hone (by decide)

end Sys2Proof
end
